-- ==== Sys2Proof/Word.lean ====
section
/-! DEFINITION. Word types of the BA-480: bytes, 32-bit words, 64-bit scalars, 512-bit vectors (rules R2, R68, R192, R215). -/

namespace Sys2Proof

/-- A byte of any store (R2). -/
abbrev Byte := BitVec 8

/-- A 32-bit word: the unit of DRAM riders and of a vector lane (R68, R215). -/
abbrev Word := BitVec 32

/-- A 64-bit scalar register value (R192). -/
abbrev DWord := BitVec 64

/-- A 512-bit vector register value, lane n at bits [32n + 31:32n] (R215). -/
abbrev VWord := BitVec 512

end Sys2Proof
end

