-- ==== Sys2Proof/Machine/Tab.lean ====
section
/-! DEFINITION. Sparse tables in one canonical form, bit fields, sign extension, and byte memories built from them. -/

namespace Sys2Proof.Machine

/-- A sparse table: pairs of key and value, keys strictly rising, no value equal to the default. -/
abbrev Tab (α : Type) := List (Nat × α)

/-- The value at `k`, the default `d` where `k` is not listed. -/
def Tab.get {α : Type} (d : α) : Tab α → Nat → α
  | [], _ => d
  | (a, v) :: t, k => if a = k then v else Tab.get d t k

/-- Insert `(k, v)` before the first key above `k`. -/
def Tab.ins {α : Type} (k : Nat) (v : α) : Tab α → Tab α
  | [] => [(k, v)]
  | (a, w) :: t => if k < a then (k, v) :: (a, w) :: t else (a, w) :: Tab.ins k v t

/-- Drop every entry of key `k`. -/
def Tab.del {α : Type} (k : Nat) : Tab α → Tab α
  | [] => []
  | (a, w) :: t => if a = k then Tab.del k t else (a, w) :: Tab.del k t

/-- Set the value at `k`; setting the default removes the entry. -/
def Tab.set {α : Type} [DecidableEq α] (d : α) (t : Tab α) (k : Nat) (v : α) : Tab α :=
  if v = d then Tab.del k t else Tab.ins k v (Tab.del k t)

/-- Change the value at `k` by `f`. -/
def Tab.mod {α : Type} [DecidableEq α] (d : α) (t : Tab α) (k : Nat) (f : α → α) : Tab α :=
  Tab.set d t k (f (Tab.get d t k))

/-- Every key listed is above `k`. -/
def Tab.above {α : Type} (k : Nat) : Tab α → Bool
  | [] => true
  | (a, _) :: t => decide (k < a) && Tab.above k t

/-- The canonical form: keys strictly rising, no entry equal to the default. -/
def Tab.wf {α : Type} [DecidableEq α] (d : α) : Tab α → Bool
  | [] => true
  | (a, v) :: t => decide (v ≠ d) && Tab.above a t && Tab.wf d t

/-- Bits [hi:lo] of `w` (R2). -/
def bits (w hi lo : Nat) : Nat := w / 2 ^ lo % 2 ^ (hi + 1 - lo)

/-- Bit `n` of `w`. -/
def bit (w n : Nat) : Bool := w / 2 ^ n % 2 = 1

/-- The value of `w` bits of `x` taken as two's complement. -/
def sint (w x : Nat) : Int := if x % 2 ^ w < 2 ^ (w - 1) then (x % 2 ^ w : Nat) else (x % 2 ^ w : Nat) - (2 ^ w : Nat)

/-- Sign extension of the low `w` bits of `x` to 64 bits. -/
def sext (w x : Nat) : BitVec 64 := BitVec.ofInt 64 (sint w x)

/-- A boolean as 0 or 1. -/
def b2n (b : Bool) : Nat := if b then 1 else 0

/-- A byte memory (Host.Cell list in canonical form). An unlisted byte reads 0 (log entry 5). -/
abbrev Memory := List Host.Cell

/-- What an unlisted address reads as: 0 (log entry 5, DESIGN CHOICE; accumulators by R214). -/
def Memory.blank : Byte := 0

/-- The byte at `a`. -/
def Memory.read (m : Memory) (a : Nat) : Byte := Tab.get Memory.blank m a

/-- Write one byte, keeping the canonical form. -/
def Memory.write (m : Memory) (a : Nat) (b : Byte) : Memory := Tab.set Memory.blank m a b

/-- The canonical form of a memory. -/
def Memory.wf (m : Memory) : Bool := Tab.wf Memory.blank m

/-- `n` bytes at `a`, little-endian (R2). -/
def Memory.readN (m : Memory) (a : Nat) : Nat → Nat
  | 0 => 0
  | n + 1 => (m.read a).toNat + 256 * Memory.readN m (a + 1) n

/-- Write the low `n` bytes of `v` at `a`, little-endian (R2). -/
def Memory.writeN (m : Memory) (a : Nat) : Nat → Nat → Memory
  | 0, _ => m
  | n + 1, v => Memory.writeN (m.write a (BitVec.ofNat 8 v)) (a + 1) n (v / 256)

/-- Copy `n` bytes from `src` to `dst`, ascending. -/
def Memory.copy (m : Memory) (src dst : Nat) : Nat → Memory
  | 0 => m
  | n + 1 => Memory.copy (m.write dst (m.read src)) (src + 1) (dst + 1) n

/-- Zero `n` bytes from `a`. -/
def Memory.clear (m : Memory) (a : Nat) : Nat → Memory
  | 0 => m
  | n + 1 => Memory.clear (m.write a 0) (a + 1) n

/-- The bytes `a` to `a + n - 1` as a list. -/
def Memory.bytes (m : Memory) (a : Nat) : Nat → List Byte
  | 0 => []
  | n + 1 => m.read a :: Memory.bytes m (a + 1) n

/-- Write a list of bytes from `a` upward. -/
def Memory.putBytes (m : Memory) (a : Nat) : List Byte → Memory
  | [] => m
  | b :: t => Memory.putBytes (m.write a b) (a + 1) t

end Sys2Proof.Machine
end

