-- ==== Sys2Proof/Syntax.lean ====
section
/-! DEFINITION. The instructions: one constructor for every row of spec/opcode_table.json.
The operand fields are the fields of the row, as the numbers the word holds (an immediate is its raw field).
An event row has no encoding; what it concerns (a unit, or the data the host writes) stands in the field ev of the state. Constructors with operands stand first. -/

namespace Sys2Proof

/-- The operations and events of the BA-480 (spec/opcode_table.json, row by row). -/
inductive Instr where
  /-- ADD (R193). xd := xa + xb at +1. -/
  | add (d a b : Nat)
  /-- SUB (R193). xd := xa - xb at +1. -/
  | sub (d a b : Nat)
  /-- AND (R193). xd := xa and xb at +1. -/
  | and (d a b : Nat)
  /-- OR (R193). xd := xa or xb at +1. -/
  | or (d a b : Nat)
  /-- XOR (R193). xd := xa xor xb at +1. -/
  | xor (d a b : Nat)
  /-- SLL (R193). xd := xa shifted left by xb[5:0] at +1. -/
  | sll (d a b : Nat)
  /-- SRL (R193). xd := xa shifted right logically by xb[5:0] at +1. -/
  | srl (d a b : Nat)
  /-- SRA (R193). xd := xa shifted right arithmetically by xb[5:0] at +1. -/
  | sra (d a b : Nat)
  /-- MIN (R193). xd := signed minimum of xa and xb at +1. -/
  | min (d a b : Nat)
  /-- MAX (R193). xd := signed maximum of xa and xb at +1. -/
  | max (d a b : Nat)
  /-- MINU (R193). xd := unsigned minimum of xa and xb at +1. -/
  | minu (d a b : Nat)
  /-- MAXU (R193). xd := unsigned maximum of xa and xb at +1. -/
  | maxu (d a b : Nat)
  /-- MUL (R194). xd := low 64 bits of xa × xb at +3. -/
  | mul (d a b : Nat)
  /-- MULH (R194). xd := high 64 bits of the signed product at +3. -/
  | mulh (d a b : Nat)
  /-- MULHU (R194). xd := high 64 bits of the unsigned product at +3. -/
  | mulhu (d a b : Nat)
  /-- DIV (R194). xd := signed quotient at +12, with the divide-by-zero result and DIVZERO. -/
  | div (d a b : Nat)
  /-- DIVU (R194). xd := unsigned quotient at +12. -/
  | divu (d a b : Nat)
  /-- REM (R194). xd := signed remainder at +12. -/
  | rem (d a b : Nat)
  /-- REMU (R194). xd := unsigned remainder at +12. -/
  | remu (d a b : Nat)
  /-- CMP_EQ (R195). pd := all ones if xa = xb, else zero, at +1. -/
  | cmpEq (d a b : Nat)
  /-- CMP_NE (R195). pd := xa ≠ xb at +1. -/
  | cmpNe (d a b : Nat)
  /-- CMP_LT (R195). pd := xa < xb signed at +1. -/
  | cmpLt (d a b : Nat)
  /-- CMP_GE (R195). pd := xa ≥ xb signed at +1. -/
  | cmpGe (d a b : Nat)
  /-- CMP_LTU (R195). pd := xa < xb unsigned at +1. -/
  | cmpLtu (d a b : Nat)
  /-- CMP_GEU (R195). pd := xa ≥ xb unsigned at +1. -/
  | cmpGeu (d a b : Nat)
  /-- PAND (R195). pd := pa and pb at +1. -/
  | pand (d a b : Nat)
  /-- POR (R195). pd := pa or pb at +1. -/
  | por (d a b : Nat)
  /-- PXOR (R195). pd := pa xor pb at +1. -/
  | pxor (d a b : Nat)
  /-- PANDN (R195). pd := pa and not pb at +1. -/
  | pandn (d a b : Nat)
  /-- PMOV (R195). xd := predicate pa zero-extended at +1. -/
  | pmov (d a : Nat)
  /-- PSET (R195). pd := xa[15:0] at +1. -/
  | pset (d a : Nat)
  /-- EXTU (R196). xd := the bit field of xa named by xb, zero-extended, at +1. -/
  | extu (d a b : Nat)
  /-- EXTS (R196). xd := the bit field of xa named by xb, sign-extended, at +1. -/
  | exts (d a b : Nat)
  /-- INS (R196). xd with a field replaced by the low bits of xa, at +1. -/
  | ins (d a b : Nat)
  /-- CLZ (R196). xd := leading zero bits of xa at +1. -/
  | clz (d a : Nat)
  /-- CTZ (R196). xd := trailing zero bits of xa at +1. -/
  | ctz (d a : Nat)
  /-- POPC (R196). xd := number of one bits of xa at +1. -/
  | popc (d a : Nat)
  /-- ADDI (R197). xd := xa + sext(imm12) at +1. -/
  | addi (d a i : Nat)
  /-- ANDI (R197). xd := xa and sext(imm12) at +1. -/
  | andi (d a i : Nat)
  /-- ORI (R197). xd := xa or sext(imm12) at +1. -/
  | ori (d a i : Nat)
  /-- XORI (R197). xd := xa xor sext(imm12) at +1. -/
  | xori (d a i : Nat)
  /-- SLLI (R197). xd := xa shifted left by an immediate at +1. -/
  | slli (d a n : Nat)
  /-- SRLI (R197). xd := xa shifted right logically by an immediate at +1. -/
  | srli (d a n : Nat)
  /-- SRAI (R197). xd := xa shifted right arithmetically by an immediate at +1. -/
  | srai (d a n : Nat)
  /-- CMPI_EQ (R197). pd := xa = sign-extended immediate at +1. -/
  | cmpiEq (d a i : Nat)
  /-- CMPI_NE (R197). pd := xa ≠ sign-extended immediate at +1. -/
  | cmpiNe (d a i : Nat)
  /-- CMPI_LT (R197). pd := xa < immediate, signed, at +1. -/
  | cmpiLt (d a i : Nat)
  /-- CMPI_GE (R197). pd := xa ≥ immediate, signed, at +1. -/
  | cmpiGe (d a i : Nat)
  /-- CMPI_LTU (R197). pd := xa < immediate, unsigned, at +1. -/
  | cmpiLtu (d a i : Nat)
  /-- CMPI_GEU (R197). pd := xa ≥ immediate, unsigned, at +1. -/
  | cmpiGeu (d a i : Nat)
  /-- LUI (R197). xd := sext(imm19) × 4,096 at +1. -/
  | lui (d i : Nat)
  /-- LD_B (R198). Loads one cox-store byte, sign-extended, landing at +4. -/
  | ldB (d a i : Nat)
  /-- LD_H (R198). Loads two cox-store bytes, sign-extended, landing at +4. -/
  | ldH (d a i : Nat)
  /-- LD_W (R198). Loads four cox-store bytes, sign-extended, landing at +4. -/
  | ldW (d a i : Nat)
  /-- LD_D (R198). Loads eight cox-store bytes, landing at +4. -/
  | ldD (d a i : Nat)
  /-- ST_B (R198). Stores the low byte of xd in the cox store in the issue step. -/
  | stB (s a i : Nat)
  /-- ST_H (R198). Stores the low two bytes of xd in the cox store. -/
  | stH (s a i : Nat)
  /-- ST_W (R198). Stores the low four bytes of xd in the cox store. -/
  | stW (s a i : Nat)
  /-- ST_D (R198). Stores the eight bytes of xd in the cox store. -/
  | stD (s a i : Nat)
  /-- LDN_B (R199). Loads one node byte, sign-extended, landing at +12. -/
  | ldnB (d a b : Nat)
  /-- LDN_H (R199). Loads two node bytes, sign-extended, landing at +12. -/
  | ldnH (d a b : Nat)
  /-- LDN_W (R199). Loads four node bytes, sign-extended, landing at +12. -/
  | ldnW (d a b : Nat)
  /-- LDN_D (R199). Loads eight node bytes, landing at +12. -/
  | ldnD (d a b : Nat)
  /-- LDN_BU (R199). Loads one node byte, zero-extended, landing at +12. -/
  | ldnBu (d a b : Nat)
  /-- LDN_HU (R199). Loads two node bytes, zero-extended, landing at +12. -/
  | ldnHu (d a b : Nat)
  /-- LDN_WU (R199). Loads four node bytes, zero-extended, landing at +12. -/
  | ldnWu (d a b : Nat)
  /-- STN_B (R199). Stores the low byte of xd in a node. -/
  | stnB (s a b : Nat)
  /-- STN_H (R199). Stores the low two bytes of xd in a node. -/
  | stnH (s a b : Nat)
  /-- STN_W (R199). Stores the low four bytes of xd in a node. -/
  | stnW (s a b : Nat)
  /-- STN_D (R199). Stores the eight bytes of xd in a node. -/
  | stnD (s a b : Nat)
  /-- ATN (R200). Requests node atomic AOP on the word at xa with xb; the old value lands at +14. -/
  | atn (d a b o : Nat)
  /-- BR (R201). Branches with two delay bundles when predicate p bit 0 is set. -/
  | br (p o : Nat)
  /-- BR_NOT (R201). Branches with two delay bundles when predicate p bit 0 is clear. -/
  | brNot (p o : Nat)
  /-- JAL (R201). Jumps with two delay bundles and writes the link at +1. -/
  | jal (d i : Nat)
  /-- JALR (R201). Jumps to xa with two delay bundles and writes the link at +1. -/
  | jalr (d a : Nat)
  /-- LOOP (R202). Sets LC, LSTART and LEND for a hardware loop over the next n bundles. -/
  | loop (a n : Nat)
  /-- RVSET (R203). Sends a request to set EXP of a rendezvous point at the hub. -/
  | rvset (a r : Nat)
  /-- RVARR (R203). Sends an arrival to a rendezvous point; with xd ≠ x0 holds issue for the hub's reply. -/
  | rvarr (d r : Nat)
  /-- RVWAIT (R203). Holds issue until the point's phase differs from xa[0]. -/
  | rvwait (a r : Nat)
  /-- WAITSTAMP_NE (R204). Holds issue until the stamp word differs from xb, then loads it. -/
  | waitstampNe (d a b : Nat)
  /-- WAITSTAMP_TAG (R204). Holds issue until the stamp word's bits [63:48] equal xb[15:0], then loads it. -/
  | waitstampTag (d a b : Nat)
  /-- WAITSTAMP_ANY (R204). Holds issue until the stamp word's STATUS byte is nonzero, then loads it. -/
  | waitstampAny (d a : Nat)
  /-- FCFG (R206). Issues the configuration command for fabric load xa on the region at origin xb. -/
  | fcfg (d a b : Nat)
  /-- FREL (R206). Requests release of the region at origin xb. -/
  | frel (b : Nat)
  /-- TKSEND (R207). Sends a start token to an island of the load resident at origin xb. -/
  | tksend (a b : Nat)
  /-- TKTAKE (R207). Reads a token port's count at +2 and decrements it if nonzero. -/
  | tktake (d n : Nat)
  /-- CSRR (R208). xd := CSR value at +2. -/
  | csrr (d c : Nat)
  /-- CSRW (R208). CSR := xa at +1. -/
  | csrw (a c : Nat)
  /-- CSRS (R208). CSR := CSR or xa at +1. -/
  | csrs (a c : Nat)
  /-- CSRC (R208). CSR := CSR and not xa at +1. -/
  | csrc (a c : Nat)
  /-- DUAL (R301). Enters tangent mode with k tangents once no write is in flight and zeroes the tangent planes. -/
  | dual (k : Nat)
  /-- TGET (R305). Copies plane t of a scalar register into plane 0 of the destination. -/
  | tget (d a t : Nat)
  /-- TGET_V (R305). Copies plane t of a vector register into plane 0 of the destination. -/
  | tgetV (d a t : Nat)
  /-- TSET (R305). Copies plane 0 of a scalar source into plane t of the destination. -/
  | tset (d a t : Nat)
  /-- TSET_V (R305). Copies plane 0 of a vector source into plane t of the destination. -/
  | tsetV (d a t : Nat)
  /-- TPLANE (R306). Declares memory tangent plane p with format and displacements. -/
  | tplane (p a b : Nat)
  /-- TRAP (R209). Takes a trap with cause 0x80 + n. -/
  | trap (n : Nat)
  /-- RYSAVE (R211). Writes the replay registers to the cox store. -/
  | rysave (a : Nat)
  /-- RYLOAD (R211). Reads the replay registers back from the cox store at +4. -/
  | ryload (a : Nat)
  /-- REGSHRINK_X (R213). Shrinks the scalar allotment, releasing registers. -/
  | regshrinkX (m : Nat)
  /-- REGSHRINK_V (R213). Shrinks the vector allotment, releasing registers. -/
  | regshrinkV (m : Nat)
  /-- REGGROW_X (R213). Grows the scalar allotment, zeroing the added registers. -/
  | reggrowX (m : Nat)
  /-- REGGROW_V (R213). Grows the vector allotment, zeroing the added registers. -/
  | reggrowV (m : Nat)
  /-- VADD (R218). FP32 lane addition, landing at +3. -/
  | vadd (d a b g : Nat)
  /-- VSUB (R218). FP32 lane subtraction, landing at +3. -/
  | vsub (d a b g : Nat)
  /-- VMUL (R218). FP32 lane multiplication, landing at +5. -/
  | vmul (d a b g : Nat)
  /-- VMIN (R218). FP32 lane minimum, landing at +3. -/
  | vmin (d a b g : Nat)
  /-- VMAX (R218). FP32 lane maximum, landing at +3. -/
  | vmax (d a b g : Nat)
  /-- VABS (R218). FP32 lane absolute value, landing at +3. -/
  | vabs (d a g : Nat)
  /-- VNEG (R218). FP32 lane negation, landing at +3. -/
  | vneg (d a g : Nat)
  /-- VFMA (R219). Fused multiply-add with vd as addend, landing at +5. -/
  | vfma (d a b g : Nat)
  /-- VFNMA (R219). Fused d − a × b, landing at +5. -/
  | vfnma (d a b g : Nat)
  /-- VIADD (R220). INT32 lane addition, landing at +3. -/
  | viadd (d a b g : Nat)
  /-- VISUB (R220). INT32 lane subtraction, landing at +3. -/
  | visub (d a b g : Nat)
  /-- VIMUL (R220). INT32 lane multiplication, landing at +5. -/
  | vimul (d a b g : Nat)
  /-- VIMIN (R220). INT32 signed lane minimum. -/
  | vimin (d a b g : Nat)
  /-- VIMAX (R220). INT32 signed lane maximum. -/
  | vimax (d a b g : Nat)
  /-- VSLL (R220). Lane shift left. -/
  | vsll (d a b g : Nat)
  /-- VSRL (R220). Lane logical shift right. -/
  | vsrl (d a b g : Nat)
  /-- VSRA (R220). Lane arithmetic shift right. -/
  | vsra (d a b g : Nat)
  /-- VAND (R221). Bitwise lane and, landing at +3. -/
  | vand (d a b g : Nat)
  /-- VOR (R221). Bitwise lane or. -/
  | vor (d a b g : Nat)
  /-- VXOR (R221). Bitwise lane xor. -/
  | vxor (d a b g : Nat)
  /-- VANDN (R221). Bitwise lane and-not. -/
  | vandn (d a b g : Nat)
  /-- VCMP_EQ_F (R222). Writes pd from an FP32 lane equality compare at +3. -/
  | vcmpEqF (p a b g : Nat)
  /-- VCMP_LT_F (R222). Writes pd from an FP32 less-than compare. -/
  | vcmpLtF (p a b g : Nat)
  /-- VCMP_LE_F (R222). Writes pd from an FP32 less-or-equal compare. -/
  | vcmpLeF (p a b g : Nat)
  /-- VCMP_EQ_I (R222). Writes pd from a bitwise equality compare. -/
  | vcmpEqI (p a b g : Nat)
  /-- VCMP_LT_I (R222). Writes pd from a signed INT32 less-than compare. -/
  | vcmpLtI (p a b g : Nat)
  /-- VSEL (R223). Selects each lane from va or vb under predicate pS, landing at +3. -/
  | vsel (d a b s : Nat)
  /-- VPERM (R224). Permutes lanes of va by indices in vb. -/
  | vperm (d a b g : Nat)
  /-- VBCAST (R224). Broadcasts lane m of va. -/
  | vbcast (d a m g : Nat)
  /-- VREDADD (R225). Tree sum of the lanes into lane 0 at +8. -/
  | vredadd (d a g : Nat)
  /-- VREDMAX (R225). Tree maximum of the lanes into lane 0 at +8. -/
  | vredmax (d a g : Nat)
  /-- VREDIADD (R225). Wrapping integer sum of the lanes into lane 0 at +8. -/
  | vrediadd (d a g : Nat)
  /-- VEXP2 (R226). Correctly rounded 2^a per lane at +10. -/
  | vexp2 (d a g : Nat)
  /-- VLOG2 (R226). Correctly rounded log2 a per lane. -/
  | vlog2 (d a g : Nat)
  /-- VRCP (R226). Correctly rounded 1/a per lane. -/
  | vrcp (d a g : Nat)
  /-- VRSQRT (R226). Correctly rounded 1/√a per lane. -/
  | vrsqrt (d a g : Nat)
  /-- VTANH (R226). Correctly rounded tanh a per lane. -/
  | vtanh (d a g : Nat)
  /-- VSIGM (R226). Correctly rounded sigmoid per lane. -/
  | vsigm (d a g : Nat)
  /-- VDIV (R227). IEEE lane division at +16. -/
  | vdiv (d a b g : Nat)
  /-- VSQRT (R227). IEEE lane square root at +16. -/
  | vsqrt (d a g : Nat)
  /-- VCVT_TO (R228). Converts FP32 lanes to type T in rounding mode RM at +4. -/
  | vcvtTo (d a t g r : Nat)
  /-- VCVT_FROM (R228). Decodes lanes of type T to FP32 at +4. -/
  | vcvtFrom (d a t g r : Nat)
  /-- VSCALE (R230). Chooses the block scale code of a 32-element block for format F at +6. -/
  | vscale (d a n f : Nat)
  /-- VQUANT (R231). Encodes a block under the scale in vd lane 0 into its packet form at +6. -/
  | vquant (d a n f r : Nat)
  /-- VLD (R232). Loads 64 bytes from the cox store at +6. -/
  | vld (d a i g : Nat)
  /-- VLDB (R232). Broadcast-loads one cox-store word into the governed lanes at +6. -/
  | vldb (d a i g : Nat)
  /-- VST (R232). Stores the governed lanes to the cox store in the issue step. -/
  | vst (s a i g : Nat)
  /-- VLDN (R232). Loads 64 bytes from a memory node at +14. -/
  | vldn (d a i g : Nat)
  /-- VSTN (R232). Stores the governed lanes to a memory node. -/
  | vstn (s a i g : Nat)
  /-- VINS (R234). Inserts xa[31:0] into lane m of vd at +3. -/
  | vins (d a m : Nat)
  /-- VSPLAT (R234). Copies xa[31:0] into every governed lane at +3. -/
  | vsplat (d a g : Nat)
  /-- VEXT (R234). Extracts lane m into a scalar register, zero-extended, at +3. -/
  | vext (v d m : Nat)
  /-- VEXTS (R234). Extracts lane m into a scalar register, sign-extended, at +3. -/
  | vexts (v d m : Nat)
  /-- MXSTEP (R243). Queues a tile-step row described by the record at xb. -/
  | mxstep (a b : Nat)
  /-- MXDRAIN (R246). Queues a drain of an accumulator through a tensor shape record. -/
  | mxdrain (a b c : Nat)
  /-- MXZERO (R244). Queues a 4-cycle clear of an accumulator, its kind and KPROG. -/
  | mxzero (a c : Nat)
  /-- MXSAVE (R248). Saves the tile's state to the cox store, at once with STOP or as a queue entry. -/
  | mxsave (a b u t : Nat)
  /-- MXREST (R249). Queues a restore of the tile from a save area. -/
  | mxrest (a b u : Nat)
  /-- MXPAIR (R250). Queues one half of a paired row with a partner tile on the pair die. -/
  | mxpair (a b g : Nat)
  /-- MXSTAT (R245). Reads the tile's status into xd at +4. -/
  | mxstat (a d : Nat)
  /-- XFWD (R255). Commands a forward transform on a transform node. -/
  | xfwd (a b s : Nat)
  /-- XINV (R255). Commands an inverse transform on a transform node. -/
  | xinv (a b : Nat)
  /-- RDSTR (R260). Admits a rider that copies a span to a destination. -/
  | rdstr (d a b : Nat)
  /-- RDSIEVE (R261). Admits a filtering read rider that keeps matches in sieve order. -/
  | rdsieve (d a b : Nat)
  /-- RDFOLD (R262). Admits a rider that folds its span to one result. -/
  | rdfold (d a b : Nat)
  /-- RDMAT (R264). Admits the near-bank matrix pass on a PC. -/
  | rdmat (d a b : Nat)
  /-- RDFP (R265). Admits a rider that fingerprints each 4 KiB page. -/
  | rdfp (d a b : Nat)
  /-- RDCMP (R266). Admits a rider that compares two spans word by word. -/
  | rdcmp (d a b : Nat)
  /-- UPD (R267). Admits a writer that applies an operation to every word. -/
  | upd (d a b : Nat)
  /-- DEP (R268). Admits a writer that deposits words read at admission, with optional tail. -/
  | dep (d a b : Nat)
  /-- LAND (R269). Admits a rider that opens a landing window and combines contributions. -/
  | land (d a b : Nat)
  /-- BVLOAD (R263). Admits a rider that loads the bank vector registers of a PC. -/
  | bvload (d a b : Nat)
  /-- IMPORT (R270). Admits a writer that copies host bytes into a span. -/
  | importHost (d a b : Nat)
  /-- EXPORT (R270). Admits a reader that copies a span to host memory. -/
  | exportHost (d a b : Nat)
  /-- STREAM (R271). Binds an address pattern of emissions to a stream port. -/
  | stream (d a b : Nat)
  /-- CRSMODE (R272). Requests a mode change of a course at its next wrap. -/
  | crsmode (d a b : Nat)
  /-- CURSOR (R273). Admits a rider that records a course's cursor state. -/
  | cursor (d a b : Nat)
  /-- KVLOOK (R320). Resolves positions of a stream's view to pages and slots. -/
  | kvlook (d a b : Nat)
  /-- KVAPP (R322). Appends positions to a stream. -/
  | kvapp (d a b : Nat)
  /-- KVFORK (R323). Forks a child stream sharing the parent's frozen table. -/
  | kvfork (d a b : Nat)
  /-- KVTRUNC (R324). Truncates a stream to T positions. -/
  | kvtrunc (d a b : Nat)
  /-- KVFLAT (R325). Flattens a stream's ancestor chain into its own table. -/
  | kvflat (d a b : Nat)
  /-- KVDEP (R326). Deposits slots into a KV page and updates its directory entry. -/
  | kvdep (d a b : Nat)
  /-- PLAYSET (R327). Moves a stream's playback cursor forward. -/
  | playset (d a b : Nat)
  /-- FRAMEIN (R329). Brings an input frame into a stream, truncating unplayed positions. -/
  | framein (d a b : Nat)
  /-- STATECK (R328). Writes a checkpoint of recurrent state for a stream. -/
  | stateck (d a b : Nat)
  /-- CE_MOV (R286). Passes operand a with its mark and scale to the output. -/
  | ceMov (m : Nat)
  /-- CE_ADD (R281). Lane addition a + b. -/
  | ceAdd (t m r : Nat)
  /-- CE_SUB (R281). Lane subtraction a − b. -/
  | ceSub (t m r : Nat)
  /-- CE_MUL (R281). Lane multiplication a × b. -/
  | ceMul (t m r : Nat)
  /-- CE_FMA (R281). Fused a × b + c. -/
  | ceFma (t m r : Nat)
  /-- CE_FMS (R281). Fused c − a × b. -/
  | ceFms (t m r : Nat)
  /-- CE_MIN (R282). Lane minimum. -/
  | ceMin (t m : Nat)
  /-- CE_MAX (R282). Lane maximum. -/
  | ceMax (t m : Nat)
  /-- CE_ABS (R281). Lane absolute value. -/
  | ceAbs (t m : Nat)
  /-- CE_NEG (R281). Lane negation. -/
  | ceNeg (t m : Nat)
  /-- CE_RELU (R281). Lane ReLU. -/
  | ceRelu (t m : Nat)
  /-- CE_AND (R281). Bitwise and of i32 lanes. -/
  | ceAnd (m : Nat)
  /-- CE_OR (R281). Bitwise or of i32 lanes. -/
  | ceOr (m : Nat)
  /-- CE_XOR (R281). Bitwise xor of i32 lanes. -/
  | ceXor (m : Nat)
  /-- CE_SHL (R281). Integer shift left by lane b or an immediate. -/
  | ceShl (t m i : Nat)
  /-- CE_SHR (R281). Integer logical shift right. -/
  | ceShr (t m i : Nat)
  /-- CE_SRA (R281). Integer arithmetic shift right. -/
  | ceSra (t m i : Nat)
  /-- CE_CMPEQ (R281). Lane equality mask. -/
  | ceCmpeq (t m : Nat)
  /-- CE_CMPLT (R281). Lane less-than mask. -/
  | ceCmplt (t m : Nat)
  /-- CE_CMPLE (R281). Lane less-or-equal mask. -/
  | ceCmple (t m : Nat)
  /-- CE_SEL (R281). Selects a or b per lane by lane c. -/
  | ceSel (t m : Nat)
  /-- CE_CVT (R287). Converts lanes from TYPE to the target in IMM[1:0]. -/
  | ceCvt (t m r c : Nat)
  /-- CE_HSUM (R281). Horizontal sum of four lanes into lane 0. -/
  | ceHsum (t m r : Nat)
  /-- CE_HMAX (R281). Horizontal maximum of four lanes into lane 0. -/
  | ceHmax (t m : Nat)
  /-- CE_EXP2 (R281). Correctly rounded 2^a. -/
  | ceExp2 (m r : Nat)
  /-- CE_LOG2 (R281). Correctly rounded log2 a. -/
  | ceLog2 (m r : Nat)
  /-- CE_RCP (R281). Correctly rounded 1/a. -/
  | ceRcp (m r : Nat)
  /-- CE_RSQRT (R281). Correctly rounded 1/√a. -/
  | ceRsqrt (m r : Nat)
  /-- CE_TANH (R281). Correctly rounded tanh a. -/
  | ceTanh (m r : Nat)
  /-- CE_SIGM (R281). Correctly rounded sigmoid. -/
  | ceSigm (m r : Nat)
  /-- CE_CMUL (R283). Complex multiply of c16 pairs. -/
  | ceCmul (m r : Nat)
  /-- CE_CMAC (R283). Complex multiply-accumulate of c16 pairs. -/
  | ceCmac (m r : Nat)
  /-- CE_CCONJ (R281). Complex conjugate of c16 pairs. -/
  | ceCconj (m : Nat)
  /-- CE_LMUL (R284). Log-domain multiply by adding codes. -/
  | ceLmul (m : Nat)
  /-- CE_LMAC (R284). Adds a log-domain product to an FP32 lane with one rounding. -/
  | ceLmac (m r : Nat)
  /-- CE_LDOT4 (R284). Four-term log-domain dot product into lane 0. -/
  | ceLdot4 (m r : Nat)
  /-- CE_TMERGE (R285). Merges two attention triples. -/
  | ceTmerge (m r : Nat)
  /-- CE_TEMIT (R286). Sends a single-bit token to the element's token target. -/
  | ceTemit (c : Nat)
  /-- CE_IDX (R286). Writes the slot's counter-chain indices into the lanes. -/
  | ceIdx (m : Nat)
  /-- CE_HDR (R286). Presents a header beat built from a. -/
  | ceHdr (m : Nat)
  /-- CE_PAY (R286). Presents a as a payload beat. -/
  | cePay (m : Nat)
  /-- NAT (R292). Node executes a fabric-port atomic. -/
  | nat (o : Nat)
  /-- GEMIT (R294). Emits the current address to a port and advances the counter chain. -/
  | gemit (p : Nat)
  /-- NOP (R161). The all-zero syllable does nothing in whichever slot it fills. -/
  | nop
  /-- FENCE_T (R155). Holds issue until earlier accesses and admissions are performed at team scope. -/
  | fenceT
  /-- FENCE_D (R155). Holds issue as FENCE.t and until every earlier rider's stamp is written. -/
  | fenceD
  /-- FENCE_S (R155). Holds issue as FENCE.d and until the riders' link and host packets are written at their targets. -/
  | fenceS
  /-- DUALEND (R301). Leaves tangent mode once no write is in flight. -/
  | dualend
  /-- RETT (R211). Returns from a trap, restoring k and landing the replay registers. -/
  | rett
  /-- EXIT (R214). Stops issue for the member; in-flight writes still land. -/
  | exit
  /-- CE_NOP (R281). CE op entry that produces no result; the output holds. -/
  | ceNop
  /-- NNOP (R290). Node ring entry with no access. -/
  | nnop
  /-- NW (R291). Node write view writes its port value this step. -/
  | nw
  /-- NR (R291). Node read view reads and delivers to the read port. -/
  | nr
  /-- NWR (R291). Node write view and read view both access this step. -/
  | nwr
  /-- GNOP (R295). Address generator ring entry with no emission. -/
  | gnop
  /-- CNOP (R298). Converter ring entry doing nothing. -/
  | cnop
  /-- CIN (R298). Converter takes a new source value into its block. -/
  | cin
  /-- COUT (R298). Converter presents the next beat of the oldest ready packet. -/
  | cout
  /-- CIN_COUT (R298). Converter takes input and presents output in one step. -/
  | cinCout
  /-- CCLOSE (R297). Converter closes and encodes its block. -/
  | cclose
  /-- CIN_CCLOSE (R297). Converter takes input then closes the block. -/
  | cinCclose
  /-- CCLOSE with the OUT bit of its word set (R297, R298): the three bits of a converter entry are independent, and the opcode table has no row for
  the two words with OUT and CLOSE. -/
  | coutCclose
  /-- CIN_CCLOSE with the OUT bit of its word set (R297, R298). -/
  | cinCoutCclose
  /-- RESULT_LANDING (R169). An in-flight cox result, flag or replayed write lands at its step. Operands in ev: core. -/
  | resultLanding
  /-- TRAP_ENTRY (R209). A fault or refusal reaches a core, which holds issue until pending accesses are performed. Operands in ev: core. -/
  | trapEntry
  /-- HANDLER_START (R209). After the wait, writes are snapshotted into replay registers and the handler at TVEC issues. Operands in ev: core. -/
  | handlerStart
  /-- STAMP_TIMEOUT (R204). A held WAITSTAMP reaches STIMEO and the core traps. Operands in ev: core. -/
  | stampTimeout
  /-- HUB_REFUSAL (R203). A rendezvous refusal applied at the hub reaches the issuing core, which traps. Operands in ev: core. -/
  | hubRefusal
  /-- RV_ARRIVAL (R46). A rendezvous operation or fabric finish arrival is applied at the hub in timestamp order. -/
  | rvArrival
  /-- LAUNCH (R52). A 64-byte posted write to a launch window is timestamped and queued or discarded. Operands in ev: func, queue, off, size, data. -/
  | launch
  /-- DISPATCH_ROUND (R57). Every 250 ns the dispatcher reserves cores, pre-empts, resumes and dispatches records. -/
  | dispatchRound
  /-- SWITCH_OUT_COMPLETE (R120). A victim core's save riders write their stamps, completing switch-out and releasing cores. Operands in ev: core. -/
  | switchOutComplete
  /-- CONTEXT_RESTORED (R120). The fill riders of a resumed context finish, the cox store image is restored and issue resumes. Operands in ev: core. -/
  | contextRestored
  /-- COMPLETION_STAMP (R54). After all members exit and all work ends, regions are released and the launch's stamp is written. Operands in ev: team. -/
  | completionStamp
  /-- POWER_REASSIGNMENT (R23). Every microsecond the arbiter reassigns current budgets and operating points. -/
  | powerReassignment
  /-- CLOCK_RESUME (R24). After the 40 ns hold an island clock resumes at its new frequency. Operands in ev: isl. -/
  | clockResume
  /-- ISLAND_STEP (R30). One unstalled step of a timing island executes every element's ring entries. Operands in ev: load, isl. -/
  | islandStep
  /-- TOKEN_ARRIVAL (R37). A start or finish token arrives at an island endpoint, token port or rendezvous. Operands in ev: n. -/
  | tokenArrival
  /-- FINISH_TOKEN (R29). After its last step's results land, an island emits its finish token. Operands in ev: load, isl. -/
  | finishToken
  /-- FETCH_COMPLETE (R39). Every element reports its shadow plane loaded and checked; the region is Armed. Operands in ev: region. -/
  | fetchComplete
  /-- DRAIN (R41). Once the old load has finished, the region drains the engines bound to it. Operands in ev: region. -/
  | drain
  /-- RECONFIGURATION_TOKEN (R42). With every engine idle, clock gates close and every element swaps planes. Operands in ev: region. -/
  | reconfigurationToken
  /-- FILL (R42). Declared node ranges are written, clock gates open and the region enters Run. Operands in ev: region. -/
  | fill
  /-- FOLD_POINT_REACHED (R44). A draining island completes iteration f − 1 and reaches its fold point. Operands in ev: load, isl. -/
  | foldPointReached
  /-- SWEEP_TICK (R71). Each 400 MHz stack tick grants an entry to a course or leaves it idle. Operands in ev: stack. -/
  | sweepTick
  /-- RIDER_DELIVERY (R258). After its last part finishes, and any F bit or port allows, a rider delivers its results. Operands in ev: rider. -/
  | riderDelivery
  /-- FAULTED_RIDER_STAMP (R382). A rider that failed at admission writes its FAULTED stamp at its boarding time. Operands in ev: rider. -/
  | faultedRiderStamp
  /-- WALK_FILL (R92). A translation walk completes and fills a valid or fault entry. Operands in ev: n. -/
  | walkFill
  /-- STREAM_EMISSION_ADMIT (R271). The stream dispatcher admits the next emission at a step boundary. Operands in ev: core, port. -/
  | streamEmissionAdmit
  /-- LANDING_CONTRIBUTION (R88). A landing packet's contributions enter the stack's landing buffer. Operands in ev: n. -/
  | landingContribution
  /-- LAND_TIMEOUT (R393). A LAND still missing contributions after LWAIT closes its window FAULTED. Operands in ev: rider. -/
  | landTimeout
  /-- CONTRIBUTION_HOLD_EXPIRY (R393). A contribution for an unopened window is dropped after LHOLD. Operands in ev: stack. -/
  | contributionHoldExpiry
  /-- ORDERED_UPDATE_EXECUTE (R103). An ordered-update node executes its next held request in timestamp order. Operands in ev: node. -/
  | orderedUpdateExecute
  /-- READ_AHEAD (R102). A streaming read view reads ahead into its port queue. Operands in ev: node. -/
  | readAhead
  /-- XQ_ENTRY_ACCEPT (R236). An X tile accepts an M-slot entry into its queue 2 steps after issue. Operands in ev: tile. -/
  | xqEntryAccept
  /-- XQ_ENTRY_BEGIN (R236). The head queue entry begins once earlier entries end and their sums land. Operands in ev: tile. -/
  | xqEntryBegin
  /-- K_STEP (R241). A K step of a row begins when its operands are present and runs C cycles. Operands in ev: tile. -/
  | kStep
  /-- K_STEP_LANDING (R241). A K step's sums land 16 cycles after it ends and KPROG advances. Operands in ev: tile. -/
  | kStepLanding
  /-- PAIR_COMBINE (R250). With both halves present the lower tile combines them and leaves pair-pending. Operands in ev: tile. -/
  | pairCombine
  /-- PAIR_FAULT (R369). A faulting half's signal stops its partner, whose core traps. Operands in ev: tile. -/
  | pairFault
  /-- PAIR_LATE (R370). The pair timer reaches PTO and both halves stop and trap. Operands in ev: tile. -/
  | pairLate
  /-- DRAIN_COPY_END (R247). A drain ends its 64-cycle copy and frees its queue entry. Operands in ev: tile. -/
  | drainCopyEnd
  /-- DRAIN_WRITE (R247). A drain writes its elements by deposit, landing or node buffer, then its stamp. Operands in ev: tile. -/
  | drainWrite
  /-- TRANSFORM_BEGIN (R255). A free transform node begins a command, snapshotting its input. Operands in ev: unit. -/
  | transformBegin
  /-- TRANSFORM_END (R255). A transform command writes its output, ORs its flags and writes its stamp. Operands in ev: unit. -/
  | transformEnd
  /-- SEQUENCE_TURN_BEGIN (R318). A sequence instruction's turn on its stream begins and admits its riders. Operands in ev: stream. -/
  | sequenceTurnBegin
  /-- SEQUENCE_TURN_END (R318). A turn's riders finish, results are delivered and its stamp is written. Operands in ev: stream. -/
  | sequenceTurnEnd
  /-- HELD_TURN_RESUME (R406). A held turn resumes or ends after a bypass turn resolves it. Operands in ev: stream. -/
  | heldTurnResume
  /-- ISLAND_FREEZE (R358). Six cycles after a freeze fault the detecting island's clock is gated. Operands in ev: load, isl. -/
  | islandFreeze
  /-- FREEZE_SPREAD (R358). The load's other islands stop at their first cycle at or after TIME + 20 ns. Operands in ev: load. -/
  | freezeSpread
  /-- FAULT_EDGE (R362). A frozen load follows its fault edge to a handler load or the cox trap. Operands in ev: load. -/
  | faultEdge
  /-- TEAM_END (R364). The management core ends a team, withdrawing riders and discarding loads. Operands in ev: team. -/
  | teamEnd
  /-- FQPOP (R357). A write removes the oldest fault record of the function. Operands in ev: func. -/
  | fqpop
  /-- FRZCTL_REL (R361). Writing REL releases every held frozen load to its edge. -/
  | frzctlRel
  /-- TRINV_LOWER (R94). A write of TRINV's lower half sets VPN and NP. Operands in ev: data. -/
  | trinvLower
  /-- TRINV_START (R94). A write of TRINV's upper half starts an invalidation, or is held while one runs. Operands in ev: data. -/
  | trinvStart
  /-- TRINV_DONE (R94). Entries are dropped and old riders stamped, so DONE is set. -/
  | trinvDone
  /-- ACCESS_REPORT_READ (R95). A read of the access report queue returns and removes its oldest entry. Operands in ev: stack. -/
  | accessReportRead
  /-- COURSE_DESCRIPTOR_WRITE (R70). A descriptor piece is checked and applied or discarded; setting VALID resets the cursor. Operands in ev: func, off, data. -/
  | courseDescriptorWrite
  /-- GRANT_TABLE_WRITE (R71). A grant table write takes effect at the next tick with t mod 64 = 0. Operands in ev: func, off, data. -/
  | grantTableWrite
  /-- INTST_CLEAR (R335). Writing 1 to INTST bits clears them. Operands in ev: func, data. -/
  | intstClear
  /-- INTEN_WRITE (R335). Writing INTEN may send messages for vectors that become nonzero. Operands in ev: func, data. -/
  | intenWrite
  /-- WREJ_READ (R386). A read of WREJ returns and clears the discarded-piece count. -/
  | wrejRead
  /-- REGISTER_WRITE (R386). A write to any other BAR0 or BAR4 register is checked piece by piece and applied or discarded. Operands in ev: bar, func, off, size, data. -/
  | registerWrite
  /-- HOST_ABORT (R408). A TABORT write ends or discards the named launch. Operands in ev: func, data. -/
  | hostAbort
  /-- WATCHDOG (R408). A team's switched-in time exceeds LIMIT and it ends. Operands in ev: team. -/
  | watchdog
  /-- HOST_COMPLETION (R336). A host completion for an IMPORT read or EXPORT flush read arrives. Operands in ev: rider, off, size, data. -/
  | hostCompletion
  /-- COMPLETION_TIMEOUT (R407). A host request times out or ends in error and its rider fails. Operands in ev: rider, status. -/
  | completionTimeout
  /-- DL_DOWN (R407). A host link goes down, failing outstanding requests and recording LINK_DOWN. Operands in ev: link. -/
  | dlDown
  /-- DL_UP (R407). A host link comes up and pending interrupt messages are sent. Operands in ev: link. -/
  | dlUp
  /-- OAR_PACKET_SEND (R339). A deposit packet is sent on an oar link once below the unacknowledged limit. Operands in ev: link. -/
  | oarPacketSend
  /-- OAR_PACKET_RECEIVE (R340). The hub takes a received packet in SEQN order, translating it into deposits and contributions. Operands in ev: link. -/
  | oarPacketReceive
  /-- OAR_ACK_SEND (R340). After the packet's deposits are stamped the hub returns an acknowledgement. Operands in ev: link. -/
  | oarAckSend
  /-- OAR_ACK_RECEIVE (R339). An acknowledgement frees an unacknowledged packet slot. Operands in ev: link, seqn. -/
  | oarAckReceive
  /-- OAR_RETRAIN (R409). Repeated CRC failure or loss of lock starts retraining of an oar link. Operands in ev: link. -/
  | oarRetrain
  /-- OAR_RETRAIN_COMPLETE (R409). Retraining completes within 2 ms and resending resumes. Operands in ev: link. -/
  | oarRetrainComplete
  /-- LINK_DOWN (R409). An oar link not retrained in 2 ms is down and its unacknowledged packets are dropped. Operands in ev: link. -/
  | linkDown
  /-- OARCFG_WRITE (R338). Writing OARCFG enables or disables a link, restarting SEQN. Operands in ev: func, off, data. -/
  | oarcfgWrite
  /-- DIE_LINK_DOWN (R410). A die link not retrained in 2 ms ends teams touching either die. Operands in ev: link. -/
  | dieLinkDown
  /-- HUB_RESET_RELEASE (R341). The hub leaves reset, the time base starts and the ROM reads image A. -/
  | hubResetRelease
  /-- ROM_CHECK (R341). An image's signature check completes and boot proceeds, retries or halts. Operands in ev: ok, svn, digest. -/
  | romCheck
  /-- FIRMWARE_READY (R341). Firmware initialisation ends, MEAS1 is taken and BSTATE becomes Ready. Operands in ev: digest. -/
  | firmwareReady
  /-- ATTEST_GO (R343). Writing ACMD GO starts signing an attestation report. -/
  | attestGo
  /-- ATTEST_DONE (R343). The report is signed and DONE, or ERR for a spent key, is set. -/
  | attestDone
  /-- KEY_GENERATE (R344). KEYCMD OP 0 generates a new key in a slot. Operands in ev: slot. -/
  | keyGenerate
  /-- KEY_ERASE (R344). KEYCMD OP 1 erases a key slot. Operands in ev: slot. -/
  | keyErase
  /-- THERMAL_CAP (R411). A die above 105 °C has its fabric islands capped at 600 MHz. Operands in ev: die. -/
  | thermalCap
  /-- THERMAL_CAP_LIFT (R411). A die below 100 °C has its cap lifted. Operands in ev: die. -/
  | thermalCapLift
  /-- THERMAL_HALT (R412). A die above 125 °C causes a conventional reset into ThermHalt. -/
  | thermalHalt
  /-- THERMAL_RESTART (R412). All dies below 95 °C let the boot proceed from Reset. -/
  | thermalRestart
  /-- ALARM (R416). A tamper sensor fires, latching SENS and ALM and recording ALARM. Operands in ev: sensor. -/
  | alarm
  /-- VF_FLR (R396). A function-level reset of a VF ends its teams and clears its stamp cells and queues. Operands in ev: func. -/
  | vfFlr
  /-- DEVICE_RESET (R396). A PF reset, hot reset or conventional reset ends all work and resets all state. -/
  | deviceReset
  /-- POWER_LOSS (R396). Loss of power ends everything and loses DRAM. -/
  | powerLoss
  /-- ENGINE_ADMISSION_RETRY (R247). A rider that a drain, the hub's peer deposits, the sequence unit, the loader or the dispatcher admits on its own account and that came back with ADM 0 is tried again until admitted. Operands in ev: n. -/
  | engineAdmissionRetry
  /-- FLIT_RETRY (R337). A flit that fails its CRC on an oar or die link is retried from the sender's replay buffer, advancing the count of consecutive retries. Operands in ev: link. -/
  | flitRetry
  /-- DIE_LINK_RETRAIN (R410). A die link whose flit fails 16 consecutive retries or whose lane loses lock begins retraining. Operands in ev: link. -/
  | dieLinkRetrain
  /-- DIE_LINK_RETRAIN_COMPLETE (R410). A retraining die link comes back within 2 ms and resends from its first unacknowledged flit. Operands in ev: link. -/
  | dieLinkRetrainComplete
  /-- KEYCMD_DONE (R344). A key slot generation or erase started by KEYCMD completes and GO reads 0 again. -/
  | keycmdDone
deriving DecidableEq, Repr

end Sys2Proof
end

