-- ==== Sys2Proof/Decode.lean ====
section
/-! DEFINITION. The decoder, total on every word, and the encoder, both written from the formats of R161 to R176 and the field tables of the entries. -/

namespace Sys2Proof

open Sys2Proof.Machine

/-- A CSR number of R208. -/
def csrListed (c : Nat) : Bool := c ∈ [0, 1, 2, 3, 4, 8, 9, 10, 11, 12, 13, 14, 16, 17, 18, 20]

/-- A CSR number of R208 that may be written. -/
def csrWritable (c : Nat) : Bool := csrListed c && c ∉ [1, 2, 3, 4]

/-- A conversion type of R228. -/
def cvtType (t : Nat) : Bool := (1 ≤ t ∧ t ≤ 13) ∨ t = 20 ∨ t = 21

/-- What a syllable decodes to: an instruction, or a reserved encoding. `bad` holds the lowest bit of the lowest
offending field of the format of R163 (R372), and the instruction that the other fields name, where there is one. -/
inductive Decoded where
  | ok (i : Instr)
  | bad (bit : Nat) (cand : Option Instr)
deriving DecidableEq, Repr

/-- The instruction decoded, if the encoding is not reserved. -/
def Decoded.instr : Decoded → Option Instr
  | .ok i => some i
  | .bad _ _ => none

/-- Check fields in rising bit order; the first that fails is the offending field of R372. -/
def need : List (Bool × Nat) → Instr → Decoded
  | [], i => .ok i
  | (true, _) :: t, i => need t i
  | (false, n) :: _, i => .bad n (some i)

/-- The position of the lowest set bit below bit `n` of `w` (`n` if none). -/
def lowestSet (n w : Nat) : Nat := ((List.range n).find? (bit w)).getD n

/-- Major opcode 0x01 of the S slot (S.R, R193). -/
def decodeS01 (w : Nat) : Decoded :=
  match w % 32 with
  | 0 => .ok (.add (w / 524288 % 128) (w / 4096 % 128) (w / 32 % 128))
  | 1 => .ok (.sub (w / 524288 % 128) (w / 4096 % 128) (w / 32 % 128))
  | 2 => .ok (.and (w / 524288 % 128) (w / 4096 % 128) (w / 32 % 128))
  | 3 => .ok (.or (w / 524288 % 128) (w / 4096 % 128) (w / 32 % 128))
  | 4 => .ok (.xor (w / 524288 % 128) (w / 4096 % 128) (w / 32 % 128))
  | 5 => .ok (.sll (w / 524288 % 128) (w / 4096 % 128) (w / 32 % 128))
  | 6 => .ok (.srl (w / 524288 % 128) (w / 4096 % 128) (w / 32 % 128))
  | 7 => .ok (.sra (w / 524288 % 128) (w / 4096 % 128) (w / 32 % 128))
  | 8 => .ok (.min (w / 524288 % 128) (w / 4096 % 128) (w / 32 % 128))
  | 9 => .ok (.max (w / 524288 % 128) (w / 4096 % 128) (w / 32 % 128))
  | 10 => .ok (.minu (w / 524288 % 128) (w / 4096 % 128) (w / 32 % 128))
  | 11 => .ok (.maxu (w / 524288 % 128) (w / 4096 % 128) (w / 32 % 128))
  | _ => .bad 0 none

/-- Major opcode 0x02 of the S slot (S.R, R194). -/
def decodeS02 (w : Nat) : Decoded :=
  match w % 32 with
  | 0 => .ok (.mul (w / 524288 % 128) (w / 4096 % 128) (w / 32 % 128))
  | 1 => .ok (.mulh (w / 524288 % 128) (w / 4096 % 128) (w / 32 % 128))
  | 2 => .ok (.mulhu (w / 524288 % 128) (w / 4096 % 128) (w / 32 % 128))
  | 3 => .ok (.div (w / 524288 % 128) (w / 4096 % 128) (w / 32 % 128))
  | 4 => .ok (.divu (w / 524288 % 128) (w / 4096 % 128) (w / 32 % 128))
  | 5 => .ok (.rem (w / 524288 % 128) (w / 4096 % 128) (w / 32 % 128))
  | 6 => .ok (.remu (w / 524288 % 128) (w / 4096 % 128) (w / 32 % 128))
  | _ => .bad 0 none

/-- Major opcode 0x03 of the S slot (S.R, R195). -/
def decodeS03 (w : Nat) : Decoded :=
  match w % 32 with
  | 0 => need [(w / 8388608 % 8 = 0, 19)] (.cmpEq (w / 524288 % 16) (w / 4096 % 128) (w / 32 % 128))
  | 1 => need [(w / 8388608 % 8 = 0, 19)] (.cmpNe (w / 524288 % 16) (w / 4096 % 128) (w / 32 % 128))
  | 2 => need [(w / 8388608 % 8 = 0, 19)] (.cmpLt (w / 524288 % 16) (w / 4096 % 128) (w / 32 % 128))
  | 3 => need [(w / 8388608 % 8 = 0, 19)] (.cmpGe (w / 524288 % 16) (w / 4096 % 128) (w / 32 % 128))
  | 4 => need [(w / 8388608 % 8 = 0, 19)] (.cmpLtu (w / 524288 % 16) (w / 4096 % 128) (w / 32 % 128))
  | 5 => need [(w / 8388608 % 8 = 0, 19)] (.cmpGeu (w / 524288 % 16) (w / 4096 % 128) (w / 32 % 128))
  | 8 => need [(w / 512 % 8 = 0, 5), (w / 65536 % 8 = 0, 12), (w / 8388608 % 8 = 0, 19)] (.pand (w / 524288 % 16) (w / 4096 % 16) (w / 32 % 16))
  | 9 => need [(w / 512 % 8 = 0, 5), (w / 65536 % 8 = 0, 12), (w / 8388608 % 8 = 0, 19)] (.por (w / 524288 % 16) (w / 4096 % 16) (w / 32 % 16))
  | 10 => need [(w / 512 % 8 = 0, 5), (w / 65536 % 8 = 0, 12), (w / 8388608 % 8 = 0, 19)] (.pxor (w / 524288 % 16) (w / 4096 % 16) (w / 32 % 16))
  | 11 => need [(w / 512 % 8 = 0, 5), (w / 65536 % 8 = 0, 12), (w / 8388608 % 8 = 0, 19)] (.pandn (w / 524288 % 16) (w / 4096 % 16) (w / 32 % 16))
  | 12 => need [(w / 32 % 128 = 0, 5), (w / 65536 % 8 = 0, 12)] (.pmov (w / 524288 % 128) (w / 4096 % 16))
  | 13 => need [(w / 32 % 128 = 0, 5), (w / 8388608 % 8 = 0, 19)] (.pset (w / 524288 % 16) (w / 4096 % 128))
  | _ => .bad 0 none

/-- Major opcode 0x04 of the S slot (S.R, R196). -/
def decodeS04 (w : Nat) : Decoded :=
  match w % 32 with
  | 0 => .ok (.extu (w / 524288 % 128) (w / 4096 % 128) (w / 32 % 128))
  | 1 => .ok (.exts (w / 524288 % 128) (w / 4096 % 128) (w / 32 % 128))
  | 2 => .ok (.ins (w / 524288 % 128) (w / 4096 % 128) (w / 32 % 128))
  | 3 => need [(w / 32 % 128 = 0, 5)] (.clz (w / 524288 % 128) (w / 4096 % 128))
  | 4 => need [(w / 32 % 128 = 0, 5)] (.ctz (w / 524288 % 128) (w / 4096 % 128))
  | 5 => need [(w / 32 % 128 = 0, 5)] (.popc (w / 524288 % 128) (w / 4096 % 128))
  | _ => .bad 0 none

/-- Major opcode 0x08 of the S slot (S.I, R197). -/
def decodeS08 (w : Nat) : Decoded :=
  .ok (.addi (w / 524288 % 128) (w / 4096 % 128) (w % 4096))

/-- Major opcode 0x09 of the S slot (S.I, R197). -/
def decodeS09 (w : Nat) : Decoded :=
  .ok (.andi (w / 524288 % 128) (w / 4096 % 128) (w % 4096))

/-- Major opcode 0x0A of the S slot (S.I, R197). -/
def decodeS0a (w : Nat) : Decoded :=
  .ok (.ori (w / 524288 % 128) (w / 4096 % 128) (w % 4096))

/-- Major opcode 0x0B of the S slot (S.I, R197). -/
def decodeS0b (w : Nat) : Decoded :=
  .ok (.xori (w / 524288 % 128) (w / 4096 % 128) (w % 4096))

/-- Major opcode 0x0C of the S slot (S.I, R197). -/
def decodeS0c (w : Nat) : Decoded :=
  match w / 1024 % 4 with
  | 0 => need [(w / 64 % 16 = 0, 0)] (.slli (w / 524288 % 128) (w / 4096 % 128) (w % 64))
  | 1 => need [(w / 64 % 16 = 0, 0)] (.srli (w / 524288 % 128) (w / 4096 % 128) (w % 64))
  | 2 => need [(w / 64 % 16 = 0, 0)] (.srai (w / 524288 % 128) (w / 4096 % 128) (w % 64))
  | _ => .bad 0 none

/-- Major opcode 0x0D of the S slot (S.I, R197). -/
def decodeS0d (w : Nat) : Decoded :=
  match w / 512 % 8 with
  | 0 => need [(w / 8388608 % 8 = 0, 19)] (.cmpiEq (w / 524288 % 16) (w / 4096 % 128) (w % 512))
  | 1 => need [(w / 8388608 % 8 = 0, 19)] (.cmpiNe (w / 524288 % 16) (w / 4096 % 128) (w % 512))
  | 2 => need [(w / 8388608 % 8 = 0, 19)] (.cmpiLt (w / 524288 % 16) (w / 4096 % 128) (w % 512))
  | 3 => need [(w / 8388608 % 8 = 0, 19)] (.cmpiGe (w / 524288 % 16) (w / 4096 % 128) (w % 512))
  | 4 => need [(w / 8388608 % 8 = 0, 19)] (.cmpiLtu (w / 524288 % 16) (w / 4096 % 128) (w % 512))
  | 5 => need [(w / 8388608 % 8 = 0, 19)] (.cmpiGeu (w / 524288 % 16) (w / 4096 % 128) (w % 512))
  | _ => .bad 0 none

/-- Major opcode 0x0E of the S slot (S.L, R197). -/
def decodeS0e (w : Nat) : Decoded :=
  .ok (.lui (w / 524288 % 128) (w % 524288))

/-- Major opcode 0x10 of the S slot (S.I, R198). -/
def decodeS10 (w : Nat) : Decoded :=
  .ok (.ldB (w / 524288 % 128) (w / 4096 % 128) (w % 4096))

/-- Major opcode 0x11 of the S slot (S.I, R198). -/
def decodeS11 (w : Nat) : Decoded :=
  .ok (.ldH (w / 524288 % 128) (w / 4096 % 128) (w % 4096))

/-- Major opcode 0x12 of the S slot (S.I, R198). -/
def decodeS12 (w : Nat) : Decoded :=
  .ok (.ldW (w / 524288 % 128) (w / 4096 % 128) (w % 4096))

/-- Major opcode 0x13 of the S slot (S.I, R198). -/
def decodeS13 (w : Nat) : Decoded :=
  .ok (.ldD (w / 524288 % 128) (w / 4096 % 128) (w % 4096))

/-- Major opcode 0x14 of the S slot (S.I, R198). -/
def decodeS14 (w : Nat) : Decoded :=
  .ok (.stB (w / 524288 % 128) (w / 4096 % 128) (w % 4096))

/-- Major opcode 0x15 of the S slot (S.I, R198). -/
def decodeS15 (w : Nat) : Decoded :=
  .ok (.stH (w / 524288 % 128) (w / 4096 % 128) (w % 4096))

/-- Major opcode 0x16 of the S slot (S.I, R198). -/
def decodeS16 (w : Nat) : Decoded :=
  .ok (.stW (w / 524288 % 128) (w / 4096 % 128) (w % 4096))

/-- Major opcode 0x17 of the S slot (S.I, R198). -/
def decodeS17 (w : Nat) : Decoded :=
  .ok (.stD (w / 524288 % 128) (w / 4096 % 128) (w % 4096))

/-- Major opcode 0x18 of the S slot (S.R, R199). -/
def decodeS18 (w : Nat) : Decoded :=
  match w % 32 with
  | 0 => .ok (.ldnB (w / 524288 % 128) (w / 4096 % 128) (w / 32 % 128))
  | 1 => .ok (.ldnH (w / 524288 % 128) (w / 4096 % 128) (w / 32 % 128))
  | 2 => .ok (.ldnW (w / 524288 % 128) (w / 4096 % 128) (w / 32 % 128))
  | 3 => .ok (.ldnD (w / 524288 % 128) (w / 4096 % 128) (w / 32 % 128))
  | 4 => .ok (.ldnBu (w / 524288 % 128) (w / 4096 % 128) (w / 32 % 128))
  | 5 => .ok (.ldnHu (w / 524288 % 128) (w / 4096 % 128) (w / 32 % 128))
  | 6 => .ok (.ldnWu (w / 524288 % 128) (w / 4096 % 128) (w / 32 % 128))
  | _ => .bad 0 none

/-- Major opcode 0x19 of the S slot (S.R, R199). -/
def decodeS19 (w : Nat) : Decoded :=
  match w % 32 with
  | 0 => .ok (.stnB (w / 524288 % 128) (w / 4096 % 128) (w / 32 % 128))
  | 1 => .ok (.stnH (w / 524288 % 128) (w / 4096 % 128) (w / 32 % 128))
  | 2 => .ok (.stnW (w / 524288 % 128) (w / 4096 % 128) (w / 32 % 128))
  | 3 => .ok (.stnD (w / 524288 % 128) (w / 4096 % 128) (w / 32 % 128))
  | _ => .bad 0 none

/-- Major opcode 0x1A of the S slot (S.R, R200). -/
def decodeS1a (w : Nat) : Decoded :=
  need [((w % 32) ≤ 14, 0)] (.atn (w / 524288 % 128) (w / 4096 % 128) (w / 32 % 128) (w % 32))

/-- Major opcode 0x20 of the S slot (S.B, R201). -/
def decodeS20 (w : Nat) : Decoded :=
  if bit w 21 then .ok (.brNot (w / 4194304 % 16) (w % 2097152)) else .ok (.br (w / 4194304 % 16) (w % 2097152))

/-- Major opcode 0x21 of the S slot (S.L, R201). -/
def decodeS21 (w : Nat) : Decoded :=
  .ok (.jal (w / 524288 % 128) (w % 524288))

/-- Major opcode 0x22 of the S slot (S.R, R201). -/
def decodeS22 (w : Nat) : Decoded :=
  match w % 32 with
  | 0 => need [(w / 32 % 128 = 0, 5)] (.jalr (w / 524288 % 128) (w / 4096 % 128))
  | _ => .bad 0 none

/-- Major opcode 0x23 of the S slot (S.I, R202). -/
def decodeS23 (w : Nat) : Decoded :=
  need [(1 ≤ (w % 4096), 0), (w / 524288 % 128 = 0, 19)] (.loop (w / 4096 % 128) (w % 4096))

/-- Major opcode 0x28 of the S slot (S.R, R203). -/
def decodeS28 (w : Nat) : Decoded :=
  match w % 32 with
  | 0 => need [((w / 32 % 128) ≤ 23, 5), (w / 524288 % 128 = 0, 19)] (.rvset (w / 4096 % 128) (w / 32 % 128))
  | 1 => need [((w / 32 % 128) ≤ 23, 5), (w / 4096 % 128 = 0, 12)] (.rvarr (w / 524288 % 128) (w / 32 % 128))
  | 2 => need [((w / 32 % 128) ≤ 23, 5), (w / 524288 % 128 = 0, 19)] (.rvwait (w / 4096 % 128) (w / 32 % 128))
  | _ => .bad 0 none

/-- Major opcode 0x29 of the S slot (S.R, R204). -/
def decodeS29 (w : Nat) : Decoded :=
  match w % 32 with
  | 0 => .ok (.waitstampNe (w / 524288 % 128) (w / 4096 % 128) (w / 32 % 128))
  | 1 => .ok (.waitstampTag (w / 524288 % 128) (w / 4096 % 128) (w / 32 % 128))
  | 2 => need [(w / 32 % 128 = 0, 5)] (.waitstampAny (w / 524288 % 128) (w / 4096 % 128))
  | _ => .bad 0 none

/-- Major opcode 0x2A of the S slot (S.R, R155). -/
def decodeS2a (w : Nat) : Decoded :=
  match w % 32 with
  | 0 => need [(w / 32 % 128 = 0, 5), (w / 4096 % 128 = 0, 12), (w / 524288 % 128 = 0, 19)] (.fenceT)
  | 1 => need [(w / 32 % 128 = 0, 5), (w / 4096 % 128 = 0, 12), (w / 524288 % 128 = 0, 19)] (.fenceD)
  | 2 => need [(w / 32 % 128 = 0, 5), (w / 4096 % 128 = 0, 12), (w / 524288 % 128 = 0, 19)] (.fenceS)
  | _ => .bad 0 none

/-- Major opcode 0x30 of the S slot (S.R, R206). -/
def decodeS30 (w : Nat) : Decoded :=
  match w % 32 with
  | 0 => .ok (.fcfg (w / 524288 % 128) (w / 4096 % 128) (w / 32 % 128))
  | 1 => need [(w / 4096 % 128 = 0, 12), (w / 524288 % 128 = 0, 19)] (.frel (w / 32 % 128))
  | _ => .bad 0 none

/-- Major opcode 0x31 of the S slot (S.R, R207). -/
def decodeS31 (w : Nat) : Decoded :=
  match w % 32 with
  | 0 => need [(w / 524288 % 128 = 0, 19)] (.tksend (w / 4096 % 128) (w / 32 % 128))
  | 1 => need [((w / 32 % 128) ≤ 7, 5), (w / 4096 % 128 = 0, 12)] (.tktake (w / 524288 % 128) (w / 32 % 128))
  | _ => .bad 0 none

/-- Major opcode 0x38 of the S slot (S.R, R208). -/
def decodeS38 (w : Nat) : Decoded :=
  match w % 32 with
  | 0 => need [(csrListed (w / 32 % 128), 5), (w / 4096 % 128 = 0, 12)] (.csrr (w / 524288 % 128) (w / 32 % 128))
  | 1 => need [(csrWritable (w / 32 % 128), 5), (w / 524288 % 128 = 0, 19)] (.csrw (w / 4096 % 128) (w / 32 % 128))
  | 2 => need [(csrWritable (w / 32 % 128), 5), (w / 524288 % 128 = 0, 19)] (.csrs (w / 4096 % 128) (w / 32 % 128))
  | 3 => need [(csrWritable (w / 32 % 128), 5), (w / 524288 % 128 = 0, 19)] (.csrc (w / 4096 % 128) (w / 32 % 128))
  | _ => .bad 0 none

/-- Major opcode 0x39 of the S slot (S.R, R301, R305, R306). -/
def decodeS39 (w : Nat) : Decoded :=
  match w % 32 with
  | 0 => need [(1 ≤ (w / 32 % 128) ∧ (w / 32 % 128) ≤ 3, 5), (w / 4096 % 128 = 0, 12), (w / 524288 % 128 = 0, 19)] (.dual (w / 32 % 128))
  | 1 => need [(w / 32 % 128 = 0, 5), (w / 4096 % 128 = 0, 12), (w / 524288 % 128 = 0, 19)] (.dualend)
  | 2 => if bit w 7 then need [(w / 256 % 16 = 0, 5), (1 ≤ (w / 32 % 4), 5), (w / 262144 % 2 = 0, 12), (w / 33554432 % 2 = 0, 19)] (.tgetV (w / 524288 % 64) (w / 4096 % 64) (w / 32 % 4)) else need [(w / 256 % 16 = 0, 5), (1 ≤ (w / 32 % 4), 5)] (.tget (w / 524288 % 128) (w / 4096 % 128) (w / 32 % 4))
  | 3 => if bit w 7 then need [(w / 256 % 16 = 0, 5), (1 ≤ (w / 32 % 4), 5), (w / 262144 % 2 = 0, 12), (w / 33554432 % 2 = 0, 19)] (.tsetV (w / 524288 % 64) (w / 4096 % 64) (w / 32 % 4)) else need [(w / 256 % 16 = 0, 5), (1 ≤ (w / 32 % 4), 5)] (.tset (w / 524288 % 128) (w / 4096 % 128) (w / 32 % 4))
  | 4 => need [(1 ≤ (w / 524288 % 128) ∧ (w / 524288 % 128) ≤ 3, 19)] (.tplane (w / 524288 % 128) (w / 4096 % 128) (w / 32 % 128))
  | _ => .bad 0 none

/-- Major opcode 0x3C of the S slot (S.R, R209). -/
def decodeS3c (w : Nat) : Decoded :=
  match w % 32 with
  | 0 => need [(w / 4096 % 128 = 0, 12), (w / 524288 % 128 = 0, 19)] (.trap (w / 32 % 128))
  | _ => .bad 0 none

/-- Major opcode 0x3D of the S slot (S.R, R211). -/
def decodeS3d (w : Nat) : Decoded :=
  match w % 32 with
  | 0 => need [(w / 32 % 128 = 0, 5), (w / 4096 % 128 = 0, 12), (w / 524288 % 128 = 0, 19)] (.rett)
  | 1 => need [(w / 32 % 128 = 0, 5), (w / 524288 % 128 = 0, 19)] (.rysave (w / 4096 % 128))
  | 2 => need [(w / 32 % 128 = 0, 5), (w / 524288 % 128 = 0, 19)] (.ryload (w / 4096 % 128))
  | _ => .bad 0 none

/-- Major opcode 0x3E of the S slot (S.R, R213). -/
def decodeS3e (w : Nat) : Decoded :=
  match w % 32 with
  | 0 => need [(1 ≤ (w / 32 % 128) ∧ (w / 32 % 128) ≤ 16, 5), (w / 4096 % 128 = 0, 12), (w / 524288 % 128 = 0, 19)] (.regshrinkX (w / 32 % 128))
  | 1 => need [((w / 32 % 128) ≤ 8, 5), (w / 4096 % 128 = 0, 12), (w / 524288 % 128 = 0, 19)] (.regshrinkV (w / 32 % 128))
  | 2 => need [(1 ≤ (w / 32 % 128) ∧ (w / 32 % 128) ≤ 16, 5), (w / 4096 % 128 = 0, 12), (w / 524288 % 128 = 0, 19)] (.reggrowX (w / 32 % 128))
  | 3 => need [((w / 32 % 128) ≤ 8, 5), (w / 4096 % 128 = 0, 12), (w / 524288 % 128 = 0, 19)] (.reggrowV (w / 32 % 128))
  | _ => .bad 0 none

/-- Major opcode 0x3F of the S slot (S.R, R214). -/
def decodeS3f (w : Nat) : Decoded :=
  match w % 32 with
  | 0 => need [(w / 32 % 128 = 0, 5), (w / 4096 % 128 = 0, 12), (w / 524288 % 128 = 0, 19)] (.exit)
  | _ => .bad 0 none

/-- The S slot: the all-zero syllable is NOP (R161); a set bit under major opcode 0 offends at the lowest set bit, an unlisted opcode at bit 26 (R372). -/
def decodeS (w : Nat) : Decoded :=
  if w % 4294967296 = 0 then .ok .nop else
  match w / 67108864 % 64 with
  | 0 => .bad (lowestSet 26 w) none
  | 1 => decodeS01 w
  | 2 => decodeS02 w
  | 3 => decodeS03 w
  | 4 => decodeS04 w
  | 8 => decodeS08 w
  | 9 => decodeS09 w
  | 10 => decodeS0a w
  | 11 => decodeS0b w
  | 12 => decodeS0c w
  | 13 => decodeS0d w
  | 14 => decodeS0e w
  | 16 => decodeS10 w
  | 17 => decodeS11 w
  | 18 => decodeS12 w
  | 19 => decodeS13 w
  | 20 => decodeS14 w
  | 21 => decodeS15 w
  | 22 => decodeS16 w
  | 23 => decodeS17 w
  | 24 => decodeS18 w
  | 25 => decodeS19 w
  | 26 => decodeS1a w
  | 32 => decodeS20 w
  | 33 => decodeS21 w
  | 34 => decodeS22 w
  | 35 => decodeS23 w
  | 40 => decodeS28 w
  | 41 => decodeS29 w
  | 42 => decodeS2a w
  | 48 => decodeS30 w
  | 49 => decodeS31 w
  | 56 => decodeS38 w
  | 57 => decodeS39 w
  | 60 => decodeS3c w
  | 61 => decodeS3d w
  | 62 => decodeS3e w
  | 63 => decodeS3f w
  | _ => .bad 26 none

/-- Major opcode 0x01 of the V slot (V.R, R218). -/
def decodeV01 (w : Nat) : Decoded :=
  match w % 16 with
  | 0 => .ok (.vadd (w / 1048576 % 64) (w / 16384 % 64) (w / 256 % 64) (w / 16 % 16))
  | 1 => .ok (.vsub (w / 1048576 % 64) (w / 16384 % 64) (w / 256 % 64) (w / 16 % 16))
  | 2 => .ok (.vmul (w / 1048576 % 64) (w / 16384 % 64) (w / 256 % 64) (w / 16 % 16))
  | 3 => .ok (.vmin (w / 1048576 % 64) (w / 16384 % 64) (w / 256 % 64) (w / 16 % 16))
  | 4 => .ok (.vmax (w / 1048576 % 64) (w / 16384 % 64) (w / 256 % 64) (w / 16 % 16))
  | 5 => need [(w / 256 % 64 = 0, 8)] (.vabs (w / 1048576 % 64) (w / 16384 % 64) (w / 16 % 16))
  | 6 => need [(w / 256 % 64 = 0, 8)] (.vneg (w / 1048576 % 64) (w / 16384 % 64) (w / 16 % 16))
  | _ => .bad 0 none

/-- Major opcode 0x02 of the V slot (V.R, R219). -/
def decodeV02 (w : Nat) : Decoded :=
  match w % 16 with
  | 0 => .ok (.vfma (w / 1048576 % 64) (w / 16384 % 64) (w / 256 % 64) (w / 16 % 16))
  | 1 => .ok (.vfnma (w / 1048576 % 64) (w / 16384 % 64) (w / 256 % 64) (w / 16 % 16))
  | _ => .bad 0 none

/-- Major opcode 0x03 of the V slot (V.R, R220). -/
def decodeV03 (w : Nat) : Decoded :=
  match w % 16 with
  | 0 => .ok (.viadd (w / 1048576 % 64) (w / 16384 % 64) (w / 256 % 64) (w / 16 % 16))
  | 1 => .ok (.visub (w / 1048576 % 64) (w / 16384 % 64) (w / 256 % 64) (w / 16 % 16))
  | 2 => .ok (.vimul (w / 1048576 % 64) (w / 16384 % 64) (w / 256 % 64) (w / 16 % 16))
  | 3 => .ok (.vimin (w / 1048576 % 64) (w / 16384 % 64) (w / 256 % 64) (w / 16 % 16))
  | 4 => .ok (.vimax (w / 1048576 % 64) (w / 16384 % 64) (w / 256 % 64) (w / 16 % 16))
  | 5 => .ok (.vsll (w / 1048576 % 64) (w / 16384 % 64) (w / 256 % 64) (w / 16 % 16))
  | 6 => .ok (.vsrl (w / 1048576 % 64) (w / 16384 % 64) (w / 256 % 64) (w / 16 % 16))
  | 7 => .ok (.vsra (w / 1048576 % 64) (w / 16384 % 64) (w / 256 % 64) (w / 16 % 16))
  | _ => .bad 0 none

/-- Major opcode 0x04 of the V slot (V.R, R221). -/
def decodeV04 (w : Nat) : Decoded :=
  match w % 16 with
  | 0 => .ok (.vand (w / 1048576 % 64) (w / 16384 % 64) (w / 256 % 64) (w / 16 % 16))
  | 1 => .ok (.vor (w / 1048576 % 64) (w / 16384 % 64) (w / 256 % 64) (w / 16 % 16))
  | 2 => .ok (.vxor (w / 1048576 % 64) (w / 16384 % 64) (w / 256 % 64) (w / 16 % 16))
  | 3 => .ok (.vandn (w / 1048576 % 64) (w / 16384 % 64) (w / 256 % 64) (w / 16 % 16))
  | _ => .bad 0 none

/-- Major opcode 0x05 of the V slot (V.R, R222). -/
def decodeV05 (w : Nat) : Decoded :=
  match w % 16 with
  | 0 => need [(w / 16777216 % 4 = 0, 20)] (.vcmpEqF (w / 1048576 % 16) (w / 16384 % 64) (w / 256 % 64) (w / 16 % 16))
  | 1 => need [(w / 16777216 % 4 = 0, 20)] (.vcmpLtF (w / 1048576 % 16) (w / 16384 % 64) (w / 256 % 64) (w / 16 % 16))
  | 2 => need [(w / 16777216 % 4 = 0, 20)] (.vcmpLeF (w / 1048576 % 16) (w / 16384 % 64) (w / 256 % 64) (w / 16 % 16))
  | 3 => need [(w / 16777216 % 4 = 0, 20)] (.vcmpEqI (w / 1048576 % 16) (w / 16384 % 64) (w / 256 % 64) (w / 16 % 16))
  | 4 => need [(w / 16777216 % 4 = 0, 20)] (.vcmpLtI (w / 1048576 % 16) (w / 16384 % 64) (w / 256 % 64) (w / 16 % 16))
  | _ => .bad 0 none

/-- Major opcode 0x06 of the V slot (V.R, R223). -/
def decodeV06 (w : Nat) : Decoded :=
  match w % 16 with
  | 0 => .ok (.vsel (w / 1048576 % 64) (w / 16384 % 64) (w / 256 % 64) (w / 16 % 16))
  | _ => .bad 0 none

/-- Major opcode 0x07 of the V slot (V.R, R224). -/
def decodeV07 (w : Nat) : Decoded :=
  match w % 16 with
  | 0 => .ok (.vperm (w / 1048576 % 64) (w / 16384 % 64) (w / 256 % 64) (w / 16 % 16))
  | 1 => need [((w / 256 % 64) ≤ 15, 8)] (.vbcast (w / 1048576 % 64) (w / 16384 % 64) (w / 256 % 64) (w / 16 % 16))
  | _ => .bad 0 none

/-- Major opcode 0x08 of the V slot (V.R, R225). -/
def decodeV08 (w : Nat) : Decoded :=
  match w % 16 with
  | 0 => need [(w / 256 % 64 = 0, 8)] (.vredadd (w / 1048576 % 64) (w / 16384 % 64) (w / 16 % 16))
  | 1 => need [(w / 256 % 64 = 0, 8)] (.vredmax (w / 1048576 % 64) (w / 16384 % 64) (w / 16 % 16))
  | 2 => need [(w / 256 % 64 = 0, 8)] (.vrediadd (w / 1048576 % 64) (w / 16384 % 64) (w / 16 % 16))
  | _ => .bad 0 none

/-- Major opcode 0x09 of the V slot (V.R, R226). -/
def decodeV09 (w : Nat) : Decoded :=
  match w % 16 with
  | 0 => need [(w / 256 % 64 = 0, 8)] (.vexp2 (w / 1048576 % 64) (w / 16384 % 64) (w / 16 % 16))
  | 1 => need [(w / 256 % 64 = 0, 8)] (.vlog2 (w / 1048576 % 64) (w / 16384 % 64) (w / 16 % 16))
  | 2 => need [(w / 256 % 64 = 0, 8)] (.vrcp (w / 1048576 % 64) (w / 16384 % 64) (w / 16 % 16))
  | 3 => need [(w / 256 % 64 = 0, 8)] (.vrsqrt (w / 1048576 % 64) (w / 16384 % 64) (w / 16 % 16))
  | 4 => need [(w / 256 % 64 = 0, 8)] (.vtanh (w / 1048576 % 64) (w / 16384 % 64) (w / 16 % 16))
  | 5 => need [(w / 256 % 64 = 0, 8)] (.vsigm (w / 1048576 % 64) (w / 16384 % 64) (w / 16 % 16))
  | _ => .bad 0 none

/-- Major opcode 0x0A of the V slot (V.R, R227). -/
def decodeV0a (w : Nat) : Decoded :=
  match w % 16 with
  | 0 => .ok (.vdiv (w / 1048576 % 64) (w / 16384 % 64) (w / 256 % 64) (w / 16 % 16))
  | 1 => need [(w / 256 % 64 = 0, 8)] (.vsqrt (w / 1048576 % 64) (w / 16384 % 64) (w / 16 % 16))
  | _ => .bad 0 none

/-- Major opcode 0x0B of the V slot (V.R, R228). -/
def decodeV0b (w : Nat) : Decoded :=
  match w / 4 % 4 with
  | 0 => need [(w / 8192 % 2 = 0, 8), (cvtType (w / 256 % 32), 8)] (.vcvtTo (w / 1048576 % 64) (w / 16384 % 64) (w / 256 % 32) (w / 16 % 16) (w % 4))
  | 1 => need [((w % 4) = 0 ∨ (w / 256 % 32) = 20 ∨ (w / 256 % 32) = 21, 0), (w / 8192 % 2 = 0, 8), (cvtType (w / 256 % 32), 8)] (.vcvtFrom (w / 1048576 % 64) (w / 16384 % 64) (w / 256 % 32) (w / 16 % 16) (w % 4))
  | _ => .bad 0 none

/-- Major opcode 0x0C of the V slot (V.R, R230). -/
def decodeV0c (w : Nat) : Decoded :=
  need [(w % 4 = 0, 0), (w / 16 % 16 = 0, 4), (w / 8192 % 2 = 0, 8), ((w / 16384 % 64) % 2 = 0, 14)] (.vscale (w / 1048576 % 64) (w / 16384 % 64) (w / 256 % 32) (w / 4 % 4))

/-- Major opcode 0x0D of the V slot (V.R, R231). -/
def decodeV0d (w : Nat) : Decoded :=
  need [(w / 16 % 16 = 0, 4), (w / 8192 % 2 = 0, 8), ((w / 16384 % 64) % 2 = 0, 14)] (.vquant (w / 1048576 % 64) (w / 16384 % 64) (w / 256 % 32) (w / 4 % 4) (w % 4))

/-- Major opcode 0x10 of the V slot (V.X, R232). -/
def decodeV10 (w : Nat) : Decoded :=
  match w % 16 with
  | 0 => .ok (.vld (w / 1048576 % 64) (w / 8192 % 128) (w / 256 % 32) (w / 16 % 16))
  | 1 => .ok (.vldb (w / 1048576 % 64) (w / 8192 % 128) (w / 256 % 32) (w / 16 % 16))
  | _ => .bad 0 none

/-- Major opcode 0x11 of the V slot (V.X, R232). -/
def decodeV11 (w : Nat) : Decoded :=
  match w % 16 with
  | 0 => .ok (.vst (w / 1048576 % 64) (w / 8192 % 128) (w / 256 % 32) (w / 16 % 16))
  | _ => .bad 0 none

/-- Major opcode 0x12 of the V slot (V.X, R232). -/
def decodeV12 (w : Nat) : Decoded :=
  match w % 16 with
  | 0 => .ok (.vldn (w / 1048576 % 64) (w / 8192 % 128) (w / 256 % 32) (w / 16 % 16))
  | _ => .bad 0 none

/-- Major opcode 0x13 of the V slot (V.X, R232). -/
def decodeV13 (w : Nat) : Decoded :=
  match w % 16 with
  | 0 => .ok (.vstn (w / 1048576 % 64) (w / 8192 % 128) (w / 256 % 32) (w / 16 % 16))
  | _ => .bad 0 none

/-- Major opcode 0x14 of the V slot (V.X, R234). -/
def decodeV14 (w : Nat) : Decoded :=
  match w % 16 with
  | 0 => need [(w / 16 % 16 = 0, 4), (w / 4096 % 2 = 0, 8)] (.vins (w / 1048576 % 64) (w / 8192 % 128) (w / 256 % 16))
  | 1 => need [(w / 256 % 32 = 0, 8)] (.vsplat (w / 1048576 % 64) (w / 8192 % 128) (w / 16 % 16))
  | 2 => need [(w / 16 % 16 = 0, 4), (w / 4096 % 2 = 0, 8)] (.vext (w / 1048576 % 64) (w / 8192 % 128) (w / 256 % 16))
  | 3 => need [(w / 16 % 16 = 0, 4), (w / 4096 % 2 = 0, 8)] (.vexts (w / 1048576 % 64) (w / 8192 % 128) (w / 256 % 16))
  | _ => .bad 0 none

/-- The V slot: the all-zero syllable is NOP (R161); a set bit under major opcode 0 offends at the lowest set bit, an unlisted opcode at bit 26 (R372). -/
def decodeV (w : Nat) : Decoded :=
  if w % 4294967296 = 0 then .ok .nop else
  match w / 67108864 % 64 with
  | 0 => .bad (lowestSet 26 w) none
  | 1 => decodeV01 w
  | 2 => decodeV02 w
  | 3 => decodeV03 w
  | 4 => decodeV04 w
  | 5 => decodeV05 w
  | 6 => decodeV06 w
  | 7 => decodeV07 w
  | 8 => decodeV08 w
  | 9 => decodeV09 w
  | 10 => decodeV0a w
  | 11 => decodeV0b w
  | 12 => decodeV0c w
  | 13 => decodeV0d w
  | 16 => decodeV10 w
  | 17 => decodeV11 w
  | 18 => decodeV12 w
  | 19 => decodeV13 w
  | 20 => decodeV14 w
  | _ => .bad 26 none

/-- Major opcode 0x01 of the M slot (M.T, R243). -/
def decodeM01 (w : Nat) : Decoded :=
  need [(w % 256 = 0, 0), (w / 4194304 % 16 = 0, 22)] (.mxstep (w / 32768 % 128) (w / 256 % 128))

/-- Major opcode 0x02 of the M slot (M.T, R246). -/
def decodeM02 (w : Nat) : Decoded :=
  need [(w / 2 % 128 = 0, 0), (w / 4194304 % 16 = 0, 22)] (.mxdrain (w / 32768 % 128) (w / 256 % 128) (w % 2))

/-- Major opcode 0x03 of the M slot (M.T, R244). -/
def decodeM03 (w : Nat) : Decoded :=
  need [(w / 2 % 128 = 0, 0), (w / 256 % 128 = 0, 8), (w / 4194304 % 16 = 0, 22)] (.mxzero (w / 32768 % 128) (w % 2))

/-- Major opcode 0x04 of the M slot (M.T, R248). -/
def decodeM04 (w : Nat) : Decoded :=
  need [(w / 4 % 64 = 0, 0), (w / 4194304 % 16 = 0, 22)] (.mxsave (w / 32768 % 128) (w / 256 % 128) (w / 2 % 2) (w % 2))

/-- Major opcode 0x05 of the M slot (M.T, R249). -/
def decodeM05 (w : Nat) : Decoded :=
  need [(w % 2 = 0, 0), (w / 4 % 64 = 0, 0), (w / 4194304 % 16 = 0, 22)] (.mxrest (w / 32768 % 128) (w / 256 % 128) (w / 2 % 2))

/-- Major opcode 0x06 of the M slot (M.T, R250). -/
def decodeM06 (w : Nat) : Decoded :=
  need [(w / 4194304 % 16 = 0, 22)] (.mxpair (w / 32768 % 128) (w / 256 % 128) (w % 256))

/-- Major opcode 0x07 of the M slot (M.T, R245). -/
def decodeM07 (w : Nat) : Decoded :=
  need [(w % 256 = 0, 0), (w / 4194304 % 16 = 0, 22)] (.mxstat (w / 32768 % 128) (w / 256 % 128))

/-- Major opcode 0x08 of the M slot (M.T, R255). -/
def decodeM08 (w : Nat) : Decoded :=
  need [(w / 16 % 16 = 0, 0), (w / 4194304 % 16 = 0, 22)] (.xfwd (w / 32768 % 128) (w / 256 % 128) (w % 16))

/-- Major opcode 0x09 of the M slot (M.T, R255). -/
def decodeM09 (w : Nat) : Decoded :=
  need [(w % 256 = 0, 0), (w / 4194304 % 16 = 0, 22)] (.xinv (w / 32768 % 128) (w / 256 % 128))

/-- The M slot: the all-zero syllable is NOP (R161); a set bit under major opcode 0 offends at the lowest set bit, an unlisted opcode at bit 26 (R372). -/
def decodeM (w : Nat) : Decoded :=
  if w % 4294967296 = 0 then .ok .nop else
  match w / 67108864 % 64 with
  | 0 => .bad (lowestSet 26 w) none
  | 1 => decodeM01 w
  | 2 => decodeM02 w
  | 3 => decodeM03 w
  | 4 => decodeM04 w
  | 5 => decodeM05 w
  | 6 => decodeM06 w
  | 7 => decodeM07 w
  | 8 => decodeM08 w
  | 9 => decodeM09 w
  | _ => .bad 26 none

/-- Major opcode 0x01 of the C slot (C.R, R260, R261, R262, R263, R264, R265, R266, R267, R268, R269, R270, R271, R272, R273). -/
def decodeC01 (w : Nat) : Decoded :=
  match w / 2097152 % 32 with
  | 0 => .ok (.rdstr (w / 16384 % 128) (w / 128 % 128) (w % 128))
  | 1 => .ok (.rdsieve (w / 16384 % 128) (w / 128 % 128) (w % 128))
  | 2 => .ok (.rdfold (w / 16384 % 128) (w / 128 % 128) (w % 128))
  | 3 => .ok (.rdmat (w / 16384 % 128) (w / 128 % 128) (w % 128))
  | 4 => .ok (.rdfp (w / 16384 % 128) (w / 128 % 128) (w % 128))
  | 5 => .ok (.rdcmp (w / 16384 % 128) (w / 128 % 128) (w % 128))
  | 6 => .ok (.upd (w / 16384 % 128) (w / 128 % 128) (w % 128))
  | 7 => .ok (.dep (w / 16384 % 128) (w / 128 % 128) (w % 128))
  | 8 => .ok (.land (w / 16384 % 128) (w / 128 % 128) (w % 128))
  | 9 => .ok (.bvload (w / 16384 % 128) (w / 128 % 128) (w % 128))
  | 10 => .ok (.importHost (w / 16384 % 128) (w / 128 % 128) (w % 128))
  | 11 => .ok (.exportHost (w / 16384 % 128) (w / 128 % 128) (w % 128))
  | 12 => .ok (.stream (w / 16384 % 128) (w / 128 % 128) (w % 128))
  | 13 => .ok (.crsmode (w / 16384 % 128) (w / 128 % 128) (w % 128))
  | 14 => .ok (.cursor (w / 16384 % 128) (w / 128 % 128) (w % 128))
  | _ => .bad 21 none

/-- Major opcode 0x02 of the C slot (C.R, R320, R322, R323, R324, R325, R326, R327, R328, R329). -/
def decodeC02 (w : Nat) : Decoded :=
  match w / 2097152 % 32 with
  | 0 => .ok (.kvlook (w / 16384 % 128) (w / 128 % 128) (w % 128))
  | 1 => .ok (.kvapp (w / 16384 % 128) (w / 128 % 128) (w % 128))
  | 2 => .ok (.kvfork (w / 16384 % 128) (w / 128 % 128) (w % 128))
  | 3 => .ok (.kvtrunc (w / 16384 % 128) (w / 128 % 128) (w % 128))
  | 4 => .ok (.kvflat (w / 16384 % 128) (w / 128 % 128) (w % 128))
  | 5 => .ok (.kvdep (w / 16384 % 128) (w / 128 % 128) (w % 128))
  | 6 => .ok (.playset (w / 16384 % 128) (w / 128 % 128) (w % 128))
  | 7 => .ok (.framein (w / 16384 % 128) (w / 128 % 128) (w % 128))
  | 8 => .ok (.stateck (w / 16384 % 128) (w / 128 % 128) (w % 128))
  | _ => .bad 21 none

/-- The C slot: the all-zero syllable is NOP (R161); a set bit under major opcode 0 offends at the lowest set bit, an unlisted opcode at bit 26 (R372). -/
def decodeC (w : Nat) : Decoded :=
  if w % 4294967296 = 0 then .ok .nop else
  match w / 67108864 % 64 with
  | 0 => .bad (lowestSet 26 w) none
  | 1 => decodeC01 w
  | 2 => decodeC02 w
  | _ => .bad 26 none

/-- A CE op word of 24 bits (R172, R281). TYPE and DMODE of a NOP are free (R281: "any"; R384 refuses neither). -/
def decodeCe (w : Nat) : Option Instr :=
  match w / 262144 % 64 with
  | 0 => if w / 2048 % 4 = 0 ∧ w % 2048 = 0 then some (.ceNop) else none
  | 1 => if w / 32768 % 8 = 0 ∧ w / 2048 % 4 = 0 ∧ w % 2048 = 0 then some (.ceMov (w / 8192 % 4)) else none
  | 2 => if w % 2048 = 0 ∧ (w / 32768 % 8) ∈ [0, 1, 2, 3, 4, 5, 6] ∧ ((w / 2048 % 4) = 0 ∨ (w / 32768 % 8) ∉ [3, 4, 5]) then some (.ceAdd (w / 32768 % 8) (w / 8192 % 4) (w / 2048 % 4)) else none
  | 3 => if w % 2048 = 0 ∧ (w / 32768 % 8) ∈ [0, 1, 2, 3, 4, 5, 6] ∧ ((w / 2048 % 4) = 0 ∨ (w / 32768 % 8) ∉ [3, 4, 5]) then some (.ceSub (w / 32768 % 8) (w / 8192 % 4) (w / 2048 % 4)) else none
  | 4 => if w % 2048 = 0 ∧ (w / 32768 % 8) ∈ [0, 1, 2, 3, 4, 5] ∧ ((w / 2048 % 4) = 0 ∨ (w / 32768 % 8) ∉ [3, 4, 5]) then some (.ceMul (w / 32768 % 8) (w / 8192 % 4) (w / 2048 % 4)) else none
  | 5 => if w % 2048 = 0 ∧ (w / 32768 % 8) ∈ [0, 1, 2] then some (.ceFma (w / 32768 % 8) (w / 8192 % 4) (w / 2048 % 4)) else none
  | 6 => if w % 2048 = 0 ∧ (w / 32768 % 8) ∈ [0, 1, 2] then some (.ceFms (w / 32768 % 8) (w / 8192 % 4) (w / 2048 % 4)) else none
  | 7 => if w / 2048 % 4 = 0 ∧ w % 2048 = 0 ∧ (w / 32768 % 8) ∈ [0, 1, 2, 3, 4, 5] then some (.ceMin (w / 32768 % 8) (w / 8192 % 4)) else none
  | 8 => if w / 2048 % 4 = 0 ∧ w % 2048 = 0 ∧ (w / 32768 % 8) ∈ [0, 1, 2, 3, 4, 5] then some (.ceMax (w / 32768 % 8) (w / 8192 % 4)) else none
  | 9 => if w / 2048 % 4 = 0 ∧ w % 2048 = 0 ∧ (w / 32768 % 8) ∈ [0, 1, 2, 3, 4, 5] then some (.ceAbs (w / 32768 % 8) (w / 8192 % 4)) else none
  | 10 => if w / 2048 % 4 = 0 ∧ w % 2048 = 0 ∧ (w / 32768 % 8) ∈ [0, 1, 2, 3, 4, 5] then some (.ceNeg (w / 32768 % 8) (w / 8192 % 4)) else none
  | 11 => if w / 2048 % 4 = 0 ∧ w % 2048 = 0 ∧ (w / 32768 % 8) ∈ [0, 1, 2] then some (.ceRelu (w / 32768 % 8) (w / 8192 % 4)) else none
  | 12 => if w / 32768 % 8 = 3 ∧ w / 2048 % 4 = 0 ∧ w % 2048 = 0 then some (.ceAnd (w / 8192 % 4)) else none
  | 13 => if w / 32768 % 8 = 3 ∧ w / 2048 % 4 = 0 ∧ w % 2048 = 0 then some (.ceOr (w / 8192 % 4)) else none
  | 14 => if w / 32768 % 8 = 3 ∧ w / 2048 % 4 = 0 ∧ w % 2048 = 0 then some (.ceXor (w / 8192 % 4)) else none
  | 15 => if w / 2048 % 4 = 0 ∧ w / 64 % 32 = 0 ∧ (w / 32768 % 8) ∈ [3, 4, 5] ∧ ((w % 64) = 0 ∨ 32 ≤ (w % 64)) then some (.ceShl (w / 32768 % 8) (w / 8192 % 4) (w % 64)) else none
  | 16 => if w / 2048 % 4 = 0 ∧ w / 64 % 32 = 0 ∧ (w / 32768 % 8) ∈ [3, 4, 5] ∧ ((w % 64) = 0 ∨ 32 ≤ (w % 64)) then some (.ceShr (w / 32768 % 8) (w / 8192 % 4) (w % 64)) else none
  | 17 => if w / 2048 % 4 = 0 ∧ w / 64 % 32 = 0 ∧ (w / 32768 % 8) ∈ [3, 4, 5] ∧ ((w % 64) = 0 ∨ 32 ≤ (w % 64)) then some (.ceSra (w / 32768 % 8) (w / 8192 % 4) (w % 64)) else none
  | 18 => if w / 2048 % 4 = 0 ∧ w % 2048 = 0 ∧ (w / 32768 % 8) ∈ [0, 1, 2, 3, 4, 5] then some (.ceCmpeq (w / 32768 % 8) (w / 8192 % 4)) else none
  | 19 => if w / 2048 % 4 = 0 ∧ w % 2048 = 0 ∧ (w / 32768 % 8) ∈ [0, 1, 2, 3, 4, 5] then some (.ceCmplt (w / 32768 % 8) (w / 8192 % 4)) else none
  | 20 => if w / 2048 % 4 = 0 ∧ w % 2048 = 0 ∧ (w / 32768 % 8) ∈ [0, 1, 2, 3, 4, 5] then some (.ceCmple (w / 32768 % 8) (w / 8192 % 4)) else none
  | 21 => if w / 2048 % 4 = 0 ∧ w % 2048 = 0 ∧ (w / 32768 % 8) ∈ [0, 3] then some (.ceSel (w / 32768 % 8) (w / 8192 % 4)) else none
  | 22 => if w / 4 % 512 = 0 ∧ (w / 32768 % 8) ∈ [0, 1, 2, 3, 7] ∧ (w % 4) ≠ (w / 32768 % 8) ∧ ¬ ((w / 32768 % 8) = 7 ∧ (w % 4) = 3) then some (.ceCvt (w / 32768 % 8) (w / 8192 % 4) (w / 2048 % 4) (w % 4)) else none
  | 23 => if w % 2048 = 0 ∧ (w / 32768 % 8) ∈ [0, 3] ∧ ((w / 2048 % 4) = 0 ∨ (w / 32768 % 8) ∉ [3, 4, 5]) then some (.ceHsum (w / 32768 % 8) (w / 8192 % 4) (w / 2048 % 4)) else none
  | 24 => if w / 2048 % 4 = 0 ∧ w % 2048 = 0 ∧ (w / 32768 % 8) ∈ [0, 3] then some (.ceHmax (w / 32768 % 8) (w / 8192 % 4)) else none
  | 25 => if w / 32768 % 8 = 0 ∧ w % 2048 = 0 then some (.ceExp2 (w / 8192 % 4) (w / 2048 % 4)) else none
  | 26 => if w / 32768 % 8 = 0 ∧ w % 2048 = 0 then some (.ceLog2 (w / 8192 % 4) (w / 2048 % 4)) else none
  | 27 => if w / 32768 % 8 = 0 ∧ w % 2048 = 0 then some (.ceRcp (w / 8192 % 4) (w / 2048 % 4)) else none
  | 28 => if w / 32768 % 8 = 0 ∧ w % 2048 = 0 then some (.ceRsqrt (w / 8192 % 4) (w / 2048 % 4)) else none
  | 29 => if w / 32768 % 8 = 0 ∧ w % 2048 = 0 then some (.ceTanh (w / 8192 % 4) (w / 2048 % 4)) else none
  | 30 => if w / 32768 % 8 = 0 ∧ w % 2048 = 0 then some (.ceSigm (w / 8192 % 4) (w / 2048 % 4)) else none
  | 32 => if w / 32768 % 8 = 6 ∧ w % 2048 = 0 then some (.ceCmul (w / 8192 % 4) (w / 2048 % 4)) else none
  | 33 => if w / 32768 % 8 = 6 ∧ w % 2048 = 0 then some (.ceCmac (w / 8192 % 4) (w / 2048 % 4)) else none
  | 34 => if w / 32768 % 8 = 6 ∧ w / 2048 % 4 = 0 ∧ w % 2048 = 0 then some (.ceCconj (w / 8192 % 4)) else none
  | 36 => if w / 32768 % 8 = 7 ∧ w / 2048 % 4 = 0 ∧ w % 2048 = 0 then some (.ceLmul (w / 8192 % 4)) else none
  | 37 => if w / 32768 % 8 = 7 ∧ w % 2048 = 0 then some (.ceLmac (w / 8192 % 4) (w / 2048 % 4)) else none
  | 38 => if w / 32768 % 8 = 7 ∧ w % 2048 = 0 then some (.ceLdot4 (w / 8192 % 4) (w / 2048 % 4)) else none
  | 40 => if w / 32768 % 8 = 0 ∧ w % 2048 = 0 then some (.ceTmerge (w / 8192 % 4) (w / 2048 % 4)) else none
  | 44 => if w / 32768 % 8 = 0 ∧ w / 8192 % 4 = 3 ∧ w / 2048 % 4 = 0 ∧ w / 2 % 1024 = 0 then some (.ceTemit (w % 2)) else none
  | 45 => if w / 32768 % 8 = 3 ∧ w / 2048 % 4 = 0 ∧ w % 2048 = 0 then some (.ceIdx (w / 8192 % 4)) else none
  | 46 => if w / 32768 % 8 = 0 ∧ w / 2048 % 4 = 0 ∧ w % 2048 = 0 then some (.ceHdr (w / 8192 % 4)) else none
  | 47 => if w / 32768 % 8 = 0 ∧ w / 2048 % 4 = 0 ∧ w % 2048 = 0 then some (.cePay (w / 8192 % 4)) else none
  | _ => none

/-- A node ring word of 16 bits (R175, R290). -/
def decodeNode (w : Nat) : Option Instr :=
  if w % 512 = 0 then
    match w / 8192 % 8 with
    | 0 => if w / 512 % 16 = 0 then some .nnop else none
    | 4 => if w / 512 % 16 = 0 then some .nw else none
    | 2 => if w / 512 % 16 = 0 then some .nr else none
    | 6 => if w / 512 % 16 = 0 then some .nwr else none
    | 1 => if w / 512 % 16 ≤ 14 then some (.nat (w / 512 % 16)) else none
    | _ => none
  else none

/-- A generator ring word of 16 bits (R176, R295). PORT without EMIT is accepted only as zero. -/
def decodeGen (w : Nat) : Option Instr :=
  if w % 4096 = 0 then
    if bit w 15 then some (.gemit (w / 4096 % 8)) else some .gnop
  else none

/-- A converter ring word of 16 bits (R298). -/
def decodeConv (w : Nat) : Option Instr :=
  if w % 8192 = 0 then
    match w / 8192 % 8 with
    | 0 => some .cnop
    | 4 => some .cin
    | 2 => some .cout
    | 6 => some .cinCout
    | 1 => some .cclose
    | 5 => some .cinCclose
    | 3 => some .coutCclose
    | _ => some .cinCoutCclose
  else none

/-- The slot or ring in which an instruction stands; `event` for a step without an encoding. -/
inductive Place where
  | any | s | v | m | c | ce | node | gen | conv | event
deriving DecidableEq, Repr

/-- Decode a syllable in its slot, S = 0, V = 1, M = 2, C = 3 (R161). -/
def decodeSlot (slot w : Nat) : Decoded :=
  match slot with
  | 0 => decodeS w
  | 1 => decodeV w
  | 2 => decodeM w
  | _ => decodeC w

/-- The place of every instruction. -/
def Instr.place : Instr → Place
  | .nop => .any
  | .add _ _ _ => .s
  | .sub _ _ _ => .s
  | .and _ _ _ => .s
  | .or _ _ _ => .s
  | .xor _ _ _ => .s
  | .sll _ _ _ => .s
  | .srl _ _ _ => .s
  | .sra _ _ _ => .s
  | .min _ _ _ => .s
  | .max _ _ _ => .s
  | .minu _ _ _ => .s
  | .maxu _ _ _ => .s
  | .mul _ _ _ => .s
  | .mulh _ _ _ => .s
  | .mulhu _ _ _ => .s
  | .div _ _ _ => .s
  | .divu _ _ _ => .s
  | .rem _ _ _ => .s
  | .remu _ _ _ => .s
  | .cmpEq _ _ _ => .s
  | .cmpNe _ _ _ => .s
  | .cmpLt _ _ _ => .s
  | .cmpGe _ _ _ => .s
  | .cmpLtu _ _ _ => .s
  | .cmpGeu _ _ _ => .s
  | .pand _ _ _ => .s
  | .por _ _ _ => .s
  | .pxor _ _ _ => .s
  | .pandn _ _ _ => .s
  | .pmov _ _ => .s
  | .pset _ _ => .s
  | .extu _ _ _ => .s
  | .exts _ _ _ => .s
  | .ins _ _ _ => .s
  | .clz _ _ => .s
  | .ctz _ _ => .s
  | .popc _ _ => .s
  | .addi _ _ _ => .s
  | .andi _ _ _ => .s
  | .ori _ _ _ => .s
  | .xori _ _ _ => .s
  | .slli _ _ _ => .s
  | .srli _ _ _ => .s
  | .srai _ _ _ => .s
  | .cmpiEq _ _ _ => .s
  | .cmpiNe _ _ _ => .s
  | .cmpiLt _ _ _ => .s
  | .cmpiGe _ _ _ => .s
  | .cmpiLtu _ _ _ => .s
  | .cmpiGeu _ _ _ => .s
  | .lui _ _ => .s
  | .ldB _ _ _ => .s
  | .ldH _ _ _ => .s
  | .ldW _ _ _ => .s
  | .ldD _ _ _ => .s
  | .stB _ _ _ => .s
  | .stH _ _ _ => .s
  | .stW _ _ _ => .s
  | .stD _ _ _ => .s
  | .ldnB _ _ _ => .s
  | .ldnH _ _ _ => .s
  | .ldnW _ _ _ => .s
  | .ldnD _ _ _ => .s
  | .ldnBu _ _ _ => .s
  | .ldnHu _ _ _ => .s
  | .ldnWu _ _ _ => .s
  | .stnB _ _ _ => .s
  | .stnH _ _ _ => .s
  | .stnW _ _ _ => .s
  | .stnD _ _ _ => .s
  | .atn _ _ _ _ => .s
  | .br _ _ => .s
  | .brNot _ _ => .s
  | .jal _ _ => .s
  | .jalr _ _ => .s
  | .loop _ _ => .s
  | .rvset _ _ => .s
  | .rvarr _ _ => .s
  | .rvwait _ _ => .s
  | .waitstampNe _ _ _ => .s
  | .waitstampTag _ _ _ => .s
  | .waitstampAny _ _ => .s
  | .fenceT => .s
  | .fenceD => .s
  | .fenceS => .s
  | .fcfg _ _ _ => .s
  | .frel _ => .s
  | .tksend _ _ => .s
  | .tktake _ _ => .s
  | .csrr _ _ => .s
  | .csrw _ _ => .s
  | .csrs _ _ => .s
  | .csrc _ _ => .s
  | .dual _ => .s
  | .dualend => .s
  | .tget _ _ _ => .s
  | .tgetV _ _ _ => .s
  | .tset _ _ _ => .s
  | .tsetV _ _ _ => .s
  | .tplane _ _ _ => .s
  | .trap _ => .s
  | .rett => .s
  | .rysave _ => .s
  | .ryload _ => .s
  | .regshrinkX _ => .s
  | .regshrinkV _ => .s
  | .reggrowX _ => .s
  | .reggrowV _ => .s
  | .exit => .s
  | .vadd _ _ _ _ => .v
  | .vsub _ _ _ _ => .v
  | .vmul _ _ _ _ => .v
  | .vmin _ _ _ _ => .v
  | .vmax _ _ _ _ => .v
  | .vabs _ _ _ => .v
  | .vneg _ _ _ => .v
  | .vfma _ _ _ _ => .v
  | .vfnma _ _ _ _ => .v
  | .viadd _ _ _ _ => .v
  | .visub _ _ _ _ => .v
  | .vimul _ _ _ _ => .v
  | .vimin _ _ _ _ => .v
  | .vimax _ _ _ _ => .v
  | .vsll _ _ _ _ => .v
  | .vsrl _ _ _ _ => .v
  | .vsra _ _ _ _ => .v
  | .vand _ _ _ _ => .v
  | .vor _ _ _ _ => .v
  | .vxor _ _ _ _ => .v
  | .vandn _ _ _ _ => .v
  | .vcmpEqF _ _ _ _ => .v
  | .vcmpLtF _ _ _ _ => .v
  | .vcmpLeF _ _ _ _ => .v
  | .vcmpEqI _ _ _ _ => .v
  | .vcmpLtI _ _ _ _ => .v
  | .vsel _ _ _ _ => .v
  | .vperm _ _ _ _ => .v
  | .vbcast _ _ _ _ => .v
  | .vredadd _ _ _ => .v
  | .vredmax _ _ _ => .v
  | .vrediadd _ _ _ => .v
  | .vexp2 _ _ _ => .v
  | .vlog2 _ _ _ => .v
  | .vrcp _ _ _ => .v
  | .vrsqrt _ _ _ => .v
  | .vtanh _ _ _ => .v
  | .vsigm _ _ _ => .v
  | .vdiv _ _ _ _ => .v
  | .vsqrt _ _ _ => .v
  | .vcvtTo _ _ _ _ _ => .v
  | .vcvtFrom _ _ _ _ _ => .v
  | .vscale _ _ _ _ => .v
  | .vquant _ _ _ _ _ => .v
  | .vld _ _ _ _ => .v
  | .vldb _ _ _ _ => .v
  | .vst _ _ _ _ => .v
  | .vldn _ _ _ _ => .v
  | .vstn _ _ _ _ => .v
  | .vins _ _ _ => .v
  | .vsplat _ _ _ => .v
  | .vext _ _ _ => .v
  | .vexts _ _ _ => .v
  | .mxstep _ _ => .m
  | .mxdrain _ _ _ => .m
  | .mxzero _ _ => .m
  | .mxsave _ _ _ _ => .m
  | .mxrest _ _ _ => .m
  | .mxpair _ _ _ => .m
  | .mxstat _ _ => .m
  | .xfwd _ _ _ => .m
  | .xinv _ _ => .m
  | .rdstr _ _ _ => .c
  | .rdsieve _ _ _ => .c
  | .rdfold _ _ _ => .c
  | .rdmat _ _ _ => .c
  | .rdfp _ _ _ => .c
  | .rdcmp _ _ _ => .c
  | .upd _ _ _ => .c
  | .dep _ _ _ => .c
  | .land _ _ _ => .c
  | .bvload _ _ _ => .c
  | .importHost _ _ _ => .c
  | .exportHost _ _ _ => .c
  | .stream _ _ _ => .c
  | .crsmode _ _ _ => .c
  | .cursor _ _ _ => .c
  | .kvlook _ _ _ => .c
  | .kvapp _ _ _ => .c
  | .kvfork _ _ _ => .c
  | .kvtrunc _ _ _ => .c
  | .kvflat _ _ _ => .c
  | .kvdep _ _ _ => .c
  | .playset _ _ _ => .c
  | .framein _ _ _ => .c
  | .stateck _ _ _ => .c
  | .ceNop => .ce
  | .ceMov _ => .ce
  | .ceAdd _ _ _ => .ce
  | .ceSub _ _ _ => .ce
  | .ceMul _ _ _ => .ce
  | .ceFma _ _ _ => .ce
  | .ceFms _ _ _ => .ce
  | .ceMin _ _ => .ce
  | .ceMax _ _ => .ce
  | .ceAbs _ _ => .ce
  | .ceNeg _ _ => .ce
  | .ceRelu _ _ => .ce
  | .ceAnd _ => .ce
  | .ceOr _ => .ce
  | .ceXor _ => .ce
  | .ceShl _ _ _ => .ce
  | .ceShr _ _ _ => .ce
  | .ceSra _ _ _ => .ce
  | .ceCmpeq _ _ => .ce
  | .ceCmplt _ _ => .ce
  | .ceCmple _ _ => .ce
  | .ceSel _ _ => .ce
  | .ceCvt _ _ _ _ => .ce
  | .ceHsum _ _ _ => .ce
  | .ceHmax _ _ => .ce
  | .ceExp2 _ _ => .ce
  | .ceLog2 _ _ => .ce
  | .ceRcp _ _ => .ce
  | .ceRsqrt _ _ => .ce
  | .ceTanh _ _ => .ce
  | .ceSigm _ _ => .ce
  | .ceCmul _ _ => .ce
  | .ceCmac _ _ => .ce
  | .ceCconj _ => .ce
  | .ceLmul _ => .ce
  | .ceLmac _ _ => .ce
  | .ceLdot4 _ _ => .ce
  | .ceTmerge _ _ => .ce
  | .ceTemit _ => .ce
  | .ceIdx _ => .ce
  | .ceHdr _ => .ce
  | .cePay _ => .ce
  | .nnop => .node
  | .nw => .node
  | .nr => .node
  | .nwr => .node
  | .nat _ => .node
  | .gnop => .gen
  | .gemit _ => .gen
  | .cnop => .conv
  | .cin => .conv
  | .cout => .conv
  | .cinCout => .conv
  | .cclose => .conv
  | .cinCclose => .conv
  | .coutCclose => .conv
  | .cinCoutCclose => .conv
  | .resultLanding => .event
  | .trapEntry => .event
  | .handlerStart => .event
  | .stampTimeout => .event
  | .hubRefusal => .event
  | .rvArrival => .event
  | .launch => .event
  | .dispatchRound => .event
  | .switchOutComplete => .event
  | .contextRestored => .event
  | .completionStamp => .event
  | .powerReassignment => .event
  | .clockResume => .event
  | .islandStep => .event
  | .tokenArrival => .event
  | .finishToken => .event
  | .fetchComplete => .event
  | .drain => .event
  | .reconfigurationToken => .event
  | .fill => .event
  | .foldPointReached => .event
  | .sweepTick => .event
  | .riderDelivery => .event
  | .faultedRiderStamp => .event
  | .walkFill => .event
  | .streamEmissionAdmit => .event
  | .landingContribution => .event
  | .landTimeout => .event
  | .contributionHoldExpiry => .event
  | .orderedUpdateExecute => .event
  | .readAhead => .event
  | .xqEntryAccept => .event
  | .xqEntryBegin => .event
  | .kStep => .event
  | .kStepLanding => .event
  | .pairCombine => .event
  | .pairFault => .event
  | .pairLate => .event
  | .drainCopyEnd => .event
  | .drainWrite => .event
  | .transformBegin => .event
  | .transformEnd => .event
  | .sequenceTurnBegin => .event
  | .sequenceTurnEnd => .event
  | .heldTurnResume => .event
  | .islandFreeze => .event
  | .freezeSpread => .event
  | .faultEdge => .event
  | .teamEnd => .event
  | .fqpop => .event
  | .frzctlRel => .event
  | .trinvLower => .event
  | .trinvStart => .event
  | .trinvDone => .event
  | .accessReportRead => .event
  | .courseDescriptorWrite => .event
  | .grantTableWrite => .event
  | .intstClear => .event
  | .intenWrite => .event
  | .wrejRead => .event
  | .registerWrite => .event
  | .hostAbort => .event
  | .watchdog => .event
  | .hostCompletion => .event
  | .completionTimeout => .event
  | .dlDown => .event
  | .dlUp => .event
  | .oarPacketSend => .event
  | .oarPacketReceive => .event
  | .oarAckSend => .event
  | .oarAckReceive => .event
  | .oarRetrain => .event
  | .oarRetrainComplete => .event
  | .linkDown => .event
  | .oarcfgWrite => .event
  | .dieLinkDown => .event
  | .hubResetRelease => .event
  | .romCheck => .event
  | .firmwareReady => .event
  | .attestGo => .event
  | .attestDone => .event
  | .keyGenerate => .event
  | .keyErase => .event
  | .thermalCap => .event
  | .thermalCapLift => .event
  | .thermalHalt => .event
  | .thermalRestart => .event
  | .alarm => .event
  | .vfFlr => .event
  | .deviceReset => .event
  | .powerLoss => .event
  | .engineAdmissionRetry => .event
  | .flitRetry => .event
  | .dieLinkRetrain => .event
  | .dieLinkRetrainComplete => .event
  | .keycmdDone => .event

/-- The word of an instruction, from the encoding table of its entry; 0 for an event. -/
def encode : Instr → Nat
  | .nop => 0
  | .add d a b => 67108864 + d * 524288 + a * 4096 + b * 32
  | .sub d a b => 67108865 + d * 524288 + a * 4096 + b * 32
  | .and d a b => 67108866 + d * 524288 + a * 4096 + b * 32
  | .or d a b => 67108867 + d * 524288 + a * 4096 + b * 32
  | .xor d a b => 67108868 + d * 524288 + a * 4096 + b * 32
  | .sll d a b => 67108869 + d * 524288 + a * 4096 + b * 32
  | .srl d a b => 67108870 + d * 524288 + a * 4096 + b * 32
  | .sra d a b => 67108871 + d * 524288 + a * 4096 + b * 32
  | .min d a b => 67108872 + d * 524288 + a * 4096 + b * 32
  | .max d a b => 67108873 + d * 524288 + a * 4096 + b * 32
  | .minu d a b => 67108874 + d * 524288 + a * 4096 + b * 32
  | .maxu d a b => 67108875 + d * 524288 + a * 4096 + b * 32
  | .mul d a b => 134217728 + d * 524288 + a * 4096 + b * 32
  | .mulh d a b => 134217729 + d * 524288 + a * 4096 + b * 32
  | .mulhu d a b => 134217730 + d * 524288 + a * 4096 + b * 32
  | .div d a b => 134217731 + d * 524288 + a * 4096 + b * 32
  | .divu d a b => 134217732 + d * 524288 + a * 4096 + b * 32
  | .rem d a b => 134217733 + d * 524288 + a * 4096 + b * 32
  | .remu d a b => 134217734 + d * 524288 + a * 4096 + b * 32
  | .cmpEq d a b => 201326592 + d * 524288 + a * 4096 + b * 32
  | .cmpNe d a b => 201326593 + d * 524288 + a * 4096 + b * 32
  | .cmpLt d a b => 201326594 + d * 524288 + a * 4096 + b * 32
  | .cmpGe d a b => 201326595 + d * 524288 + a * 4096 + b * 32
  | .cmpLtu d a b => 201326596 + d * 524288 + a * 4096 + b * 32
  | .cmpGeu d a b => 201326597 + d * 524288 + a * 4096 + b * 32
  | .pand d a b => 201326600 + d * 524288 + a * 4096 + b * 32
  | .por d a b => 201326601 + d * 524288 + a * 4096 + b * 32
  | .pxor d a b => 201326602 + d * 524288 + a * 4096 + b * 32
  | .pandn d a b => 201326603 + d * 524288 + a * 4096 + b * 32
  | .pmov d a => 201326604 + d * 524288 + a * 4096
  | .pset d a => 201326605 + d * 524288 + a * 4096
  | .extu d a b => 268435456 + d * 524288 + a * 4096 + b * 32
  | .exts d a b => 268435457 + d * 524288 + a * 4096 + b * 32
  | .ins d a b => 268435458 + d * 524288 + a * 4096 + b * 32
  | .clz d a => 268435459 + d * 524288 + a * 4096
  | .ctz d a => 268435460 + d * 524288 + a * 4096
  | .popc d a => 268435461 + d * 524288 + a * 4096
  | .addi d a i => 536870912 + d * 524288 + a * 4096 + i
  | .andi d a i => 603979776 + d * 524288 + a * 4096 + i
  | .ori d a i => 671088640 + d * 524288 + a * 4096 + i
  | .xori d a i => 738197504 + d * 524288 + a * 4096 + i
  | .slli d a n => 805306368 + d * 524288 + a * 4096 + n
  | .srli d a n => 805307392 + d * 524288 + a * 4096 + n
  | .srai d a n => 805308416 + d * 524288 + a * 4096 + n
  | .cmpiEq d a i => 872415232 + d * 524288 + a * 4096 + i
  | .cmpiNe d a i => 872415744 + d * 524288 + a * 4096 + i
  | .cmpiLt d a i => 872416256 + d * 524288 + a * 4096 + i
  | .cmpiGe d a i => 872416768 + d * 524288 + a * 4096 + i
  | .cmpiLtu d a i => 872417280 + d * 524288 + a * 4096 + i
  | .cmpiGeu d a i => 872417792 + d * 524288 + a * 4096 + i
  | .lui d i => 939524096 + d * 524288 + i
  | .ldB d a i => 1073741824 + d * 524288 + a * 4096 + i
  | .ldH d a i => 1140850688 + d * 524288 + a * 4096 + i
  | .ldW d a i => 1207959552 + d * 524288 + a * 4096 + i
  | .ldD d a i => 1275068416 + d * 524288 + a * 4096 + i
  | .stB s a i => 1342177280 + s * 524288 + a * 4096 + i
  | .stH s a i => 1409286144 + s * 524288 + a * 4096 + i
  | .stW s a i => 1476395008 + s * 524288 + a * 4096 + i
  | .stD s a i => 1543503872 + s * 524288 + a * 4096 + i
  | .ldnB d a b => 1610612736 + d * 524288 + a * 4096 + b * 32
  | .ldnH d a b => 1610612737 + d * 524288 + a * 4096 + b * 32
  | .ldnW d a b => 1610612738 + d * 524288 + a * 4096 + b * 32
  | .ldnD d a b => 1610612739 + d * 524288 + a * 4096 + b * 32
  | .ldnBu d a b => 1610612740 + d * 524288 + a * 4096 + b * 32
  | .ldnHu d a b => 1610612741 + d * 524288 + a * 4096 + b * 32
  | .ldnWu d a b => 1610612742 + d * 524288 + a * 4096 + b * 32
  | .stnB s a b => 1677721600 + s * 524288 + a * 4096 + b * 32
  | .stnH s a b => 1677721601 + s * 524288 + a * 4096 + b * 32
  | .stnW s a b => 1677721602 + s * 524288 + a * 4096 + b * 32
  | .stnD s a b => 1677721603 + s * 524288 + a * 4096 + b * 32
  | .atn d a b o => 1744830464 + d * 524288 + a * 4096 + b * 32 + o
  | .br p o => 2147483648 + p * 4194304 + o
  | .brNot p o => 2149580800 + p * 4194304 + o
  | .jal d i => 2214592512 + d * 524288 + i
  | .jalr d a => 2281701376 + d * 524288 + a * 4096
  | .loop a n => 2348810240 + a * 4096 + n
  | .rvset a r => 2684354560 + a * 4096 + r * 32
  | .rvarr d r => 2684354561 + d * 524288 + r * 32
  | .rvwait a r => 2684354562 + a * 4096 + r * 32
  | .waitstampNe d a b => 2751463424 + d * 524288 + a * 4096 + b * 32
  | .waitstampTag d a b => 2751463425 + d * 524288 + a * 4096 + b * 32
  | .waitstampAny d a => 2751463426 + d * 524288 + a * 4096
  | .fenceT => 2818572288
  | .fenceD => 2818572289
  | .fenceS => 2818572290
  | .fcfg d a b => 3221225472 + d * 524288 + a * 4096 + b * 32
  | .frel b => 3221225473 + b * 32
  | .tksend a b => 3288334336 + a * 4096 + b * 32
  | .tktake d n => 3288334337 + d * 524288 + n * 32
  | .csrr d c => 3758096384 + d * 524288 + c * 32
  | .csrw a c => 3758096385 + a * 4096 + c * 32
  | .csrs a c => 3758096386 + a * 4096 + c * 32
  | .csrc a c => 3758096387 + a * 4096 + c * 32
  | .dual k => 3825205248 + k * 32
  | .dualend => 3825205249
  | .tget d a t => 3825205250 + d * 524288 + a * 4096 + t * 32
  | .tgetV d a t => 3825205378 + d * 524288 + a * 4096 + t * 32
  | .tset d a t => 3825205251 + d * 524288 + a * 4096 + t * 32
  | .tsetV d a t => 3825205379 + d * 524288 + a * 4096 + t * 32
  | .tplane p a b => 3825205252 + p * 524288 + a * 4096 + b * 32
  | .trap n => 4026531840 + n * 32
  | .rett => 4093640704
  | .rysave a => 4093640705 + a * 4096
  | .ryload a => 4093640706 + a * 4096
  | .regshrinkX m => 4160749568 + m * 32
  | .regshrinkV m => 4160749569 + m * 32
  | .reggrowX m => 4160749570 + m * 32
  | .reggrowV m => 4160749571 + m * 32
  | .exit => 4227858432
  | .vadd d a b g => 67108864 + d * 1048576 + a * 16384 + b * 256 + g * 16
  | .vsub d a b g => 67108865 + d * 1048576 + a * 16384 + b * 256 + g * 16
  | .vmul d a b g => 67108866 + d * 1048576 + a * 16384 + b * 256 + g * 16
  | .vmin d a b g => 67108867 + d * 1048576 + a * 16384 + b * 256 + g * 16
  | .vmax d a b g => 67108868 + d * 1048576 + a * 16384 + b * 256 + g * 16
  | .vabs d a g => 67108869 + d * 1048576 + a * 16384 + g * 16
  | .vneg d a g => 67108870 + d * 1048576 + a * 16384 + g * 16
  | .vfma d a b g => 134217728 + d * 1048576 + a * 16384 + b * 256 + g * 16
  | .vfnma d a b g => 134217729 + d * 1048576 + a * 16384 + b * 256 + g * 16
  | .viadd d a b g => 201326592 + d * 1048576 + a * 16384 + b * 256 + g * 16
  | .visub d a b g => 201326593 + d * 1048576 + a * 16384 + b * 256 + g * 16
  | .vimul d a b g => 201326594 + d * 1048576 + a * 16384 + b * 256 + g * 16
  | .vimin d a b g => 201326595 + d * 1048576 + a * 16384 + b * 256 + g * 16
  | .vimax d a b g => 201326596 + d * 1048576 + a * 16384 + b * 256 + g * 16
  | .vsll d a b g => 201326597 + d * 1048576 + a * 16384 + b * 256 + g * 16
  | .vsrl d a b g => 201326598 + d * 1048576 + a * 16384 + b * 256 + g * 16
  | .vsra d a b g => 201326599 + d * 1048576 + a * 16384 + b * 256 + g * 16
  | .vand d a b g => 268435456 + d * 1048576 + a * 16384 + b * 256 + g * 16
  | .vor d a b g => 268435457 + d * 1048576 + a * 16384 + b * 256 + g * 16
  | .vxor d a b g => 268435458 + d * 1048576 + a * 16384 + b * 256 + g * 16
  | .vandn d a b g => 268435459 + d * 1048576 + a * 16384 + b * 256 + g * 16
  | .vcmpEqF p a b g => 335544320 + p * 1048576 + a * 16384 + b * 256 + g * 16
  | .vcmpLtF p a b g => 335544321 + p * 1048576 + a * 16384 + b * 256 + g * 16
  | .vcmpLeF p a b g => 335544322 + p * 1048576 + a * 16384 + b * 256 + g * 16
  | .vcmpEqI p a b g => 335544323 + p * 1048576 + a * 16384 + b * 256 + g * 16
  | .vcmpLtI p a b g => 335544324 + p * 1048576 + a * 16384 + b * 256 + g * 16
  | .vsel d a b s => 402653184 + d * 1048576 + a * 16384 + b * 256 + s * 16
  | .vperm d a b g => 469762048 + d * 1048576 + a * 16384 + b * 256 + g * 16
  | .vbcast d a m g => 469762049 + d * 1048576 + a * 16384 + m * 256 + g * 16
  | .vredadd d a g => 536870912 + d * 1048576 + a * 16384 + g * 16
  | .vredmax d a g => 536870913 + d * 1048576 + a * 16384 + g * 16
  | .vrediadd d a g => 536870914 + d * 1048576 + a * 16384 + g * 16
  | .vexp2 d a g => 603979776 + d * 1048576 + a * 16384 + g * 16
  | .vlog2 d a g => 603979777 + d * 1048576 + a * 16384 + g * 16
  | .vrcp d a g => 603979778 + d * 1048576 + a * 16384 + g * 16
  | .vrsqrt d a g => 603979779 + d * 1048576 + a * 16384 + g * 16
  | .vtanh d a g => 603979780 + d * 1048576 + a * 16384 + g * 16
  | .vsigm d a g => 603979781 + d * 1048576 + a * 16384 + g * 16
  | .vdiv d a b g => 671088640 + d * 1048576 + a * 16384 + b * 256 + g * 16
  | .vsqrt d a g => 671088641 + d * 1048576 + a * 16384 + g * 16
  | .vcvtTo d a t g r => 738197504 + d * 1048576 + a * 16384 + t * 256 + g * 16 + r
  | .vcvtFrom d a t g r => 738197508 + d * 1048576 + a * 16384 + t * 256 + g * 16 + r
  | .vscale d a n f => 805306368 + d * 1048576 + a * 16384 + n * 256 + f * 4
  | .vquant d a n f r => 872415232 + d * 1048576 + a * 16384 + n * 256 + f * 4 + r
  | .vld d a i g => 1073741824 + d * 1048576 + a * 8192 + i * 256 + g * 16
  | .vldb d a i g => 1073741825 + d * 1048576 + a * 8192 + i * 256 + g * 16
  | .vst s a i g => 1140850688 + s * 1048576 + a * 8192 + i * 256 + g * 16
  | .vldn d a i g => 1207959552 + d * 1048576 + a * 8192 + i * 256 + g * 16
  | .vstn s a i g => 1275068416 + s * 1048576 + a * 8192 + i * 256 + g * 16
  | .vins d a m => 1342177280 + d * 1048576 + a * 8192 + m * 256
  | .vsplat d a g => 1342177281 + d * 1048576 + a * 8192 + g * 16
  | .vext v d m => 1342177282 + v * 1048576 + d * 8192 + m * 256
  | .vexts v d m => 1342177283 + v * 1048576 + d * 8192 + m * 256
  | .mxstep a b => 67108864 + a * 32768 + b * 256
  | .mxdrain a b c => 134217728 + a * 32768 + b * 256 + c
  | .mxzero a c => 201326592 + a * 32768 + c
  | .mxsave a b u t => 268435456 + a * 32768 + b * 256 + u * 2 + t
  | .mxrest a b u => 335544320 + a * 32768 + b * 256 + u * 2
  | .mxpair a b g => 402653184 + a * 32768 + b * 256 + g
  | .mxstat a d => 469762048 + a * 32768 + d * 256
  | .xfwd a b s => 536870912 + a * 32768 + b * 256 + s
  | .xinv a b => 603979776 + a * 32768 + b * 256
  | .rdstr d a b => 67108864 + d * 16384 + a * 128 + b
  | .rdsieve d a b => 69206016 + d * 16384 + a * 128 + b
  | .rdfold d a b => 71303168 + d * 16384 + a * 128 + b
  | .rdmat d a b => 73400320 + d * 16384 + a * 128 + b
  | .rdfp d a b => 75497472 + d * 16384 + a * 128 + b
  | .rdcmp d a b => 77594624 + d * 16384 + a * 128 + b
  | .upd d a b => 79691776 + d * 16384 + a * 128 + b
  | .dep d a b => 81788928 + d * 16384 + a * 128 + b
  | .land d a b => 83886080 + d * 16384 + a * 128 + b
  | .bvload d a b => 85983232 + d * 16384 + a * 128 + b
  | .importHost d a b => 88080384 + d * 16384 + a * 128 + b
  | .exportHost d a b => 90177536 + d * 16384 + a * 128 + b
  | .stream d a b => 92274688 + d * 16384 + a * 128 + b
  | .crsmode d a b => 94371840 + d * 16384 + a * 128 + b
  | .cursor d a b => 96468992 + d * 16384 + a * 128 + b
  | .kvlook d a b => 134217728 + d * 16384 + a * 128 + b
  | .kvapp d a b => 136314880 + d * 16384 + a * 128 + b
  | .kvfork d a b => 138412032 + d * 16384 + a * 128 + b
  | .kvtrunc d a b => 140509184 + d * 16384 + a * 128 + b
  | .kvflat d a b => 142606336 + d * 16384 + a * 128 + b
  | .kvdep d a b => 144703488 + d * 16384 + a * 128 + b
  | .playset d a b => 146800640 + d * 16384 + a * 128 + b
  | .framein d a b => 148897792 + d * 16384 + a * 128 + b
  | .stateck d a b => 150994944 + d * 16384 + a * 128 + b
  | .ceNop => 0
  | .ceMov m => 262144 + m * 8192
  | .ceAdd t m r => 524288 + t * 32768 + m * 8192 + r * 2048
  | .ceSub t m r => 786432 + t * 32768 + m * 8192 + r * 2048
  | .ceMul t m r => 1048576 + t * 32768 + m * 8192 + r * 2048
  | .ceFma t m r => 1310720 + t * 32768 + m * 8192 + r * 2048
  | .ceFms t m r => 1572864 + t * 32768 + m * 8192 + r * 2048
  | .ceMin t m => 1835008 + t * 32768 + m * 8192
  | .ceMax t m => 2097152 + t * 32768 + m * 8192
  | .ceAbs t m => 2359296 + t * 32768 + m * 8192
  | .ceNeg t m => 2621440 + t * 32768 + m * 8192
  | .ceRelu t m => 2883584 + t * 32768 + m * 8192
  | .ceAnd m => 3244032 + m * 8192
  | .ceOr m => 3506176 + m * 8192
  | .ceXor m => 3768320 + m * 8192
  | .ceShl t m i => 3932160 + t * 32768 + m * 8192 + i
  | .ceShr t m i => 4194304 + t * 32768 + m * 8192 + i
  | .ceSra t m i => 4456448 + t * 32768 + m * 8192 + i
  | .ceCmpeq t m => 4718592 + t * 32768 + m * 8192
  | .ceCmplt t m => 4980736 + t * 32768 + m * 8192
  | .ceCmple t m => 5242880 + t * 32768 + m * 8192
  | .ceSel t m => 5505024 + t * 32768 + m * 8192
  | .ceCvt t m r c => 5767168 + t * 32768 + m * 8192 + r * 2048 + c
  | .ceHsum t m r => 6029312 + t * 32768 + m * 8192 + r * 2048
  | .ceHmax t m => 6291456 + t * 32768 + m * 8192
  | .ceExp2 m r => 6553600 + m * 8192 + r * 2048
  | .ceLog2 m r => 6815744 + m * 8192 + r * 2048
  | .ceRcp m r => 7077888 + m * 8192 + r * 2048
  | .ceRsqrt m r => 7340032 + m * 8192 + r * 2048
  | .ceTanh m r => 7602176 + m * 8192 + r * 2048
  | .ceSigm m r => 7864320 + m * 8192 + r * 2048
  | .ceCmul m r => 8585216 + m * 8192 + r * 2048
  | .ceCmac m r => 8847360 + m * 8192 + r * 2048
  | .ceCconj m => 9109504 + m * 8192
  | .ceLmul m => 9666560 + m * 8192
  | .ceLmac m r => 9928704 + m * 8192 + r * 2048
  | .ceLdot4 m r => 10190848 + m * 8192 + r * 2048
  | .ceTmerge m r => 10485760 + m * 8192 + r * 2048
  | .ceTemit c => 11558912 + c
  | .ceIdx m => 11894784 + m * 8192
  | .ceHdr m => 12058624 + m * 8192
  | .cePay m => 12320768 + m * 8192
  | .nnop => 0
  | .nw => 32768
  | .nr => 16384
  | .nwr => 49152
  | .nat o => 8192 + o * 512
  | .gnop => 0
  | .gemit p => 32768 + p * 4096
  | .cnop => 0
  | .cin => 32768
  | .cout => 16384
  | .cinCout => 49152
  | .cclose => 8192
  | .cinCclose => 40960
  | .coutCclose => 24576
  | .cinCoutCclose => 57344
  | .resultLanding => 0
  | .trapEntry => 0
  | .handlerStart => 0
  | .stampTimeout => 0
  | .hubRefusal => 0
  | .rvArrival => 0
  | .launch => 0
  | .dispatchRound => 0
  | .switchOutComplete => 0
  | .contextRestored => 0
  | .completionStamp => 0
  | .powerReassignment => 0
  | .clockResume => 0
  | .islandStep => 0
  | .tokenArrival => 0
  | .finishToken => 0
  | .fetchComplete => 0
  | .drain => 0
  | .reconfigurationToken => 0
  | .fill => 0
  | .foldPointReached => 0
  | .sweepTick => 0
  | .riderDelivery => 0
  | .faultedRiderStamp => 0
  | .walkFill => 0
  | .streamEmissionAdmit => 0
  | .landingContribution => 0
  | .landTimeout => 0
  | .contributionHoldExpiry => 0
  | .orderedUpdateExecute => 0
  | .readAhead => 0
  | .xqEntryAccept => 0
  | .xqEntryBegin => 0
  | .kStep => 0
  | .kStepLanding => 0
  | .pairCombine => 0
  | .pairFault => 0
  | .pairLate => 0
  | .drainCopyEnd => 0
  | .drainWrite => 0
  | .transformBegin => 0
  | .transformEnd => 0
  | .sequenceTurnBegin => 0
  | .sequenceTurnEnd => 0
  | .heldTurnResume => 0
  | .islandFreeze => 0
  | .freezeSpread => 0
  | .faultEdge => 0
  | .teamEnd => 0
  | .fqpop => 0
  | .frzctlRel => 0
  | .trinvLower => 0
  | .trinvStart => 0
  | .trinvDone => 0
  | .accessReportRead => 0
  | .courseDescriptorWrite => 0
  | .grantTableWrite => 0
  | .intstClear => 0
  | .intenWrite => 0
  | .wrejRead => 0
  | .registerWrite => 0
  | .hostAbort => 0
  | .watchdog => 0
  | .hostCompletion => 0
  | .completionTimeout => 0
  | .dlDown => 0
  | .dlUp => 0
  | .oarPacketSend => 0
  | .oarPacketReceive => 0
  | .oarAckSend => 0
  | .oarAckReceive => 0
  | .oarRetrain => 0
  | .oarRetrainComplete => 0
  | .linkDown => 0
  | .oarcfgWrite => 0
  | .dieLinkDown => 0
  | .hubResetRelease => 0
  | .romCheck => 0
  | .firmwareReady => 0
  | .attestGo => 0
  | .attestDone => 0
  | .keyGenerate => 0
  | .keyErase => 0
  | .thermalCap => 0
  | .thermalCapLift => 0
  | .thermalHalt => 0
  | .thermalRestart => 0
  | .alarm => 0
  | .vfFlr => 0
  | .deviceReset => 0
  | .powerLoss => 0
  | .engineAdmissionRetry => 0
  | .flitRetry => 0
  | .dieLinkRetrain => 0
  | .dieLinkRetrainComplete => 0
  | .keycmdDone => 0

/-- Decode a word in the place of an instruction: the slot's decoder, or the ring's. -/
def decodeAt (p : Place) (w : Nat) : Option Instr :=
  match p with
  | .any => (decodeS w).instr
  | .s => (decodeS w).instr
  | .v => (decodeV w).instr
  | .m => (decodeM w).instr
  | .c => (decodeC w).instr
  | .ce => decodeCe w
  | .node => decodeNode w
  | .gen => decodeGen w
  | .conv => decodeConv w
  | .event => none

/-- The first place whose decoder accepts the word. -/
def firstPlace (w : Nat) : List Place → Option Place
  | [] => none
  | p :: t => if (decodeAt p w).isSome then some p else firstPlace w t

/-- The places that hold words of `nbits` bits: the four slots of a bundle, the op ring, the 16-bit rings. -/
def placesOf (nbits : Nat) : List Place :=
  if nbits = 32 then [.s, .v, .m, .c] else if nbits = 24 then [.ce] else if nbits = 16 then [.node, .gen, .conv] else []

/-- The place in which a word of the opcode table is read. The same 32 bits stand for different instructions in the
four slots (R161), and the same 16 bits in the three kinds of ring: the first place that accepts them is taken (log entry 11). -/
def tablePlace (nbits w : Nat) : Option Place := firstPlace w (placesOf nbits)

/-- The instruction the decoder reads from a word of the opcode table. -/
def decodeTableWord (nbits w : Nat) : Option Instr :=
  match tablePlace nbits w with
  | some p => decodeAt p w
  | none => none

end Sys2Proof
end

