-- ==== Sys2Proof/Machine/Number.lean ====
section
/-! DEFINITION. Exact values, the element formats of R121 to R131, the roundings and conversions of R132 to R134, and the
sticky flags of R135 as a set. -/

namespace Sys2Proof.Machine

/-- A set of the sticky flags of R135. -/
abbrev FlagSet := BitVec 7
/-- FLAGS bit 0 (R135). -/
def fInvalid : FlagSet := 1
/-- FLAGS bit 1 (R135). -/
def fDivzero : FlagSet := 2
/-- FLAGS bit 2 (R135). -/
def fOverflow : FlagSet := 4
/-- FLAGS bit 3 (R135). -/
def fUnderflow : FlagSet := 8
/-- FLAGS bit 4 (R135). -/
def fInexact : FlagSet := 16
/-- FLAGS bit 5 (R135). -/
def fSat : FlagSet := 32
/-- FLAGS bit 6 (R135). -/
def fLostwr : FlagSet := 64

/-- An exact value: NaN, an infinity, or `(-1)^neg × n / d × 2^e` with `d ≠ 0`. A zero keeps its sign (R122, R123). -/
inductive Val where
  | nan
  | inf (neg : Bool)
  | fin (neg : Bool) (n d : Nat) (e : Int)
deriving DecidableEq, Repr

/-- A value together with the flags that its evaluation raised. -/
abbrev FVal := Val × FlagSet

/-- The value of an integer. -/
def Val.ofInt (i : Int) : Val := .fin (decide (i < 0)) i.natAbs 1 0
/-- A signed zero. -/
def Val.zero (neg : Bool) : Val := .fin neg 0 1 0
/-- The value 1. -/
def Val.one : Val := .fin false 1 1 0
/-- A zero of either sign. -/
def Val.isZero : Val → Bool
  | .fin _ n _ _ => n = 0
  | _ => false
/-- A NaN. -/
def Val.isNan : Val → Bool
  | .nan => true
  | _ => false
/-- An infinity. -/
def Val.isInf : Val → Bool
  | .inf _ => true
  | _ => false
/-- The sign; a NaN counts as positive. -/
def Val.sign : Val → Bool
  | .nan => false
  | .inf s => s
  | .fin s _ _ _ => s
/-- The value with its sign inverted; a NaN stays a NaN. -/
def Val.neg : Val → Val
  | .nan => .nan
  | .inf s => .inf (!s)
  | .fin s n d e => .fin (!s) n d e
/-- The magnitude. -/
def Val.abs : Val → Val
  | .nan => .nan
  | .inf _ => .inf false
  | .fin _ n d e => .fin false n d e

/-- `n × 2^k` and `d` brought to integers: the ratio `n / d × 2^k`. -/
def ratio (n d : Nat) (k : Int) : Nat × Nat :=
  if 0 ≤ k then (n <<< k.toNat, d) else (n, d <<< (-k).toNat)

/-- The floor of the base-two logarithm of `n / d`, `n` not zero. -/
def ilog2 (n d : Nat) : Int :=
  let e : Int := (Nat.log2 n : Int) - (Nat.log2 d : Int)
  let r := ratio n d (-e)
  if r.1 < r.2 then e - 1 else e

/-- `n / d` rounded to an integer magnitude under rounding mode `rm` (R132), and whether that was inexact. -/
def rquot (rm : Nat) (neg : Bool) (n d : Nat) : Nat × Bool :=
  let q := n / d
  let r := n % d
  if r = 0 then (q, false)
  else
    let up := match rm with
      | 0 => decide (d < 2 * r) || (decide (2 * r = d) && decide (q % 2 = 1))
      | 1 => false
      | 2 => !neg
      | _ => neg
    (if up then q + 1 else q, true)

/-- A signed integer over a common exponent and denominator. -/
def signedOver (neg : Bool) (n m : Nat) (k : Int) : Int :=
  let x : Int := ((n * m) <<< k.toNat : Nat)
  if neg then -x else x

/-- The exact sum; ∞ − ∞ is NaN and raises INVALID (R123); the sign of an exact zero sum follows IEEE 754. -/
def Val.add (rm : Nat) : Val → Val → FVal
  | .nan, _ => (.nan, 0)
  | _, .nan => (.nan, 0)
  | .inf s, .inf t => if s = t then (.inf s, 0) else (.nan, fInvalid)
  | .inf s, _ => (.inf s, 0)
  | _, .inf t => (.inf t, 0)
  | .fin s n d e, .fin t m c f =>
    if n = 0 ∧ m = 0 then (.zero (if s = t then s else rm = 3), 0)
    else if m = 0 then (.fin s n d e, 0)
    else if n = 0 then (.fin t m c f, 0)
    else
      let g := min e f
      let i := signedOver s n c (e - g) + signedOver t m d (f - g)
      if i = 0 then (.zero (rm = 3), 0)
      else (.fin (decide (i < 0)) i.natAbs (d * c) g, 0)

/-- The exact product; 0 × ∞ is NaN and raises INVALID (R123). -/
def Val.mul : Val → Val → FVal
  | .nan, _ => (.nan, 0)
  | _, .nan => (.nan, 0)
  | .inf s, .inf t => (.inf (s != t), 0)
  | .inf s, .fin t m _ _ => if m = 0 then (.nan, fInvalid) else (.inf (s != t), 0)
  | .fin s n _ _, .inf t => if n = 0 then (.nan, fInvalid) else (.inf (s != t), 0)
  | .fin s n d e, .fin t m c f => (.fin (s != t) (n * m) (d * c) (e + f), 0)

/-- The exact quotient with the specials of IEEE 754 (R123, R135). -/
def Val.div : Val → Val → FVal
  | .nan, _ => (.nan, 0)
  | _, .nan => (.nan, 0)
  | .inf _, .inf _ => (.nan, fInvalid)
  | .inf s, .fin t _ _ _ => (.inf (s != t), 0)
  | .fin s _ _ _, .inf t => (.zero (s != t), 0)
  | .fin s n d e, .fin t m c f =>
    if m = 0 then (if n = 0 then (.nan, fInvalid) else (.inf (s != t), fDivzero))
    else (.fin (s != t) (n * c) (d * m) (e - f), 0)

/-- Less than, for values that are not NaN; the zeros are equal (R122). False when either is NaN. -/
def Val.lt : Val → Val → Bool
  | .nan, _ => false
  | _, .nan => false
  | .inf s, .inf t => s && !t
  | .inf s, _ => s
  | _, .inf t => !t
  | .fin s n d e, .fin t m c f =>
    let g := min e f
    decide (signedOver s n c (e - g) < signedOver t m d (f - g))

/-- Equality as numbers; the zeros are equal (R122). False when either is NaN. -/
def Val.eq (a b : Val) : Bool := !a.isNan && !b.isNan && !a.lt b && !b.lt a

/-- A chain of evaluations that ORs flags. -/
def FVal.bind (x : FVal) (f : Val → FVal) : FVal :=
  let y := f x.1
  (y.1, x.2 ||| y.2)

/-- Sum of two evaluated terms. -/
def FVal.add (rm : Nat) (x y : FVal) : FVal :=
  let z := Val.add rm x.1 y.1
  (z.1, x.2 ||| y.2 ||| z.2)
/-- Product of two evaluated factors. -/
def FVal.mul (x y : FVal) : FVal :=
  let z := Val.mul x.1 y.1
  (z.1, x.2 ||| y.2 ||| z.2)
/-- Quotient of two evaluated terms. -/
def FVal.div (x y : FVal) : FVal :=
  let z := Val.div x.1 y.1
  (z.1, x.2 ||| y.2 ||| z.2)
/-- Negation of an evaluated term. -/
def FVal.neg (x : FVal) : FVal := (x.1.neg, x.2)

/-- The exact sum of a list of terms by R140 and R262: NaN with INVALID when both infinities are present, else NaN when a
term is NaN, else the infinity, else the exact sum; −0.0 only when every term is −0.0. -/
def Val.total (rm : Nat) (l : List Val) : FVal :=
  if l.any (· = .inf true) && l.any (· = .inf false) then (.nan, fInvalid)
  else if l.any Val.isNan then (.nan, 0)
  else if l.any (· = .inf true) then (.inf true, 0)
  else if l.any (· = .inf false) then (.inf false, 0)
  else match l with
    | [] => (.zero false, 0)
    | x :: t => (t.foldl (fun a b => (Val.add rm a b).1) x, 0)

/-- The exact sum of evaluated terms, with the flags of every term (R140). -/
def FVal.total (rm : Nat) (l : List FVal) : FVal :=
  let s := Val.total rm (l.map Prod.fst)
  (s.1, l.foldl (fun a x => a ||| x.2) s.2)

/-! Quarter and eighth powers (R126) -/

/-- T4 of R126. -/
def t4 : Nat → Nat
  | 0 => 16384
  | 1 => 19484
  | 2 => 23170
  | _ => 27554
/-- T8 of R126. -/
def t8 : Nat → Nat
  | 0 => 16384
  | 1 => 17867
  | 2 => 19484
  | 3 => 21247
  | 4 => 23170
  | 5 => 25268
  | 6 => 27554
  | _ => 30048

/-- POW4 when `st = 4`, POW8 when `st = 8` (R126), with a sign. -/
def powLg (st : Nat) (neg : Bool) (q : Int) : Val :=
  if st = 4 then .fin neg (t4 (q % 4).toNat) 1 (q / 4 - 14) else .fin neg (t8 (q % 8).toNat) 1 (q / 8 - 14)

/-- POW4 (R126). -/
def pow4 (q : Int) : Val := powLg 4 false q

/-! Formats (R121 to R133) -/

/-- How a floating-point format treats NaN, infinity and overflow (R133): `ieee` (FP32, FP16, BF16), `e4m3`, `e5m2`,
or `plain` (no specials). -/
inductive FpStyle where
  | ieee | e4m3 | e5m2 | plain
deriving DecidableEq, Repr

/-- An element format of R121: a floating-point format by its width, mantissa bits, bias, largest finite magnitude code
and style; a logarithmic format by its step, offset and code bits; an integer format by its width and sign. -/
inductive Fmt where
  | fp (w m bias top : Nat) (style : FpStyle)
  | lg (w st off : Nat)
  | int (w : Nat) (signed : Bool)
deriving DecidableEq, Repr

/-- FP32 (R121). -/
def Fmt.fp32 : Fmt := .fp 32 23 127 0x7F7FFFFF .ieee
/-- FP16 (R121). -/
def Fmt.fp16 : Fmt := .fp 16 10 15 0x7BFF .ieee
/-- BF16 (R121). -/
def Fmt.bf16 : Fmt := .fp 16 7 127 0x7F7F .ieee

/-- The element format of a FMT code (R121), or of a conversion type of R228 (0x14 INT32, 0x15 UINT32). A block-scaled code
names its element format, a complex code the format of one part. -/
def Fmt.ofCode : Nat → Option Fmt
  | 0x00 => some .fp32
  | 0x01 => some .fp16
  | 0x02 => some .bf16
  | 0x03 => some (.fp 8 3 7 0x7E .e4m3)
  | 0x04 => some (.fp 8 2 15 0x7B .e5m2)
  | 0x05 => some (.fp 6 2 3 0x1F .plain)
  | 0x06 => some (.fp 6 3 1 0x1F .plain)
  | 0x07 => some (.fp 4 1 1 0x07 .plain)
  | 0x08 => some (.lg 6 4 16)
  | 0x09 => some (.lg 8 8 64)
  | 0x0A => some (.int 8 true)
  | 0x0B => some (.int 8 false)
  | 0x0C => some (.int 4 true)
  | 0x0D => some (.int 4 false)
  | 0x0E => some (.fp 8 3 7 0x7E .e4m3)
  | 0x0F => some (.fp 6 3 1 0x1F .plain)
  | 0x10 => some (.fp 4 1 1 0x07 .plain)
  | 0x11 => some (.lg 6 4 16)
  | 0x12 => some .fp16
  | 0x13 => some .bf16
  | 0x14 => some (.int 32 true)
  | 0x15 => some (.int 32 false)
  | _ => none

/-- The bits of one element. -/
def Fmt.width : Fmt → Nat
  | .fp w _ _ _ _ => w
  | .lg w _ _ => w
  | .int w _ => w

/-- The width of one element of a FMT code; a complex element is 32 bits (R121). -/
def fmtWidth (c : Nat) : Nat :=
  if c = 0x12 ∨ c = 0x13 then 32 else ((Fmt.ofCode c).map Fmt.width).getD 32

/-- A block-scaled format (R129). -/
def isBlockFmt (c : Nat) : Bool := 0x0E ≤ c ∧ c ≤ 0x11
/-- A complex format (R125). -/
def isComplexFmt (c : Nat) : Bool := c = 0x12 ∨ c = 0x13

/-- The value of a code (R122, R127). -/
def Fmt.decode (f : Fmt) (c : Nat) : Val :=
  match f with
  | .fp w m bias top style =>
    let s := bit c (w - 1)
    let mag := c % 2 ^ (w - 1)
    if mag ≤ top ∨ style = .plain then
      let ef := mag / 2 ^ m
      let fr := mag % 2 ^ m
      if ef = 0 then .fin s fr 1 (1 - (bias : Int) - m)
      else .fin s (fr + 2 ^ m) 1 ((ef : Int) - bias - m)
    else if style ≠ .e4m3 ∧ mag = top + 1 then .inf s
    else .nan
  | .lg w st off =>
    let s := bit c (w - 1)
    let m := c % 2 ^ (w - 1)
    if m = 0 then .zero s else powLg st s ((m : Int) - off)
  | .int w sg =>
    if sg then .ofInt (sint w c) else .ofInt ((c % 2 ^ w : Nat) : Int)

/-- The canonical NaN of R123; a format without NaN takes code 0 with INVALID (R133). -/
def Fmt.nanCode : Fmt → Nat × FlagSet
  | .fp _ m _ top .ieee => (top + 1 + 2 ^ (m - 1), 0)
  | .fp _ _ _ _ .e4m3 => (0x7F, 0)
  | .fp _ _ _ _ .e5m2 => (0x7E, 0)
  | _ => (0, fInvalid)

/-- The code of the largest finite magnitude with a sign; an integer format's range limit of that sign (R133). -/
def Fmt.maxCode (f : Fmt) (neg : Bool) : Nat :=
  match f with
  | .fp w _ _ top _ => top + b2n neg * 2 ^ (w - 1)
  | .lg w _ _ => 2 ^ (w - 1) - 1 + b2n neg * 2 ^ (w - 1)
  | .int w true => if neg then 2 ^ (w - 1) else 2 ^ (w - 1) - 1
  | .int w false => if neg then 0 else 2 ^ w - 1

/-- Rounding a nonzero `n / d × 2^e` into a floating-point format (R133). -/
def roundFp (w m bias top : Nat) (style : FpStyle) (rm : Nat) (neg : Bool) (n d : Nat) (e : Int) : Nat × FlagSet :=
  let sb := b2n neg * 2 ^ (w - 1)
  let emin : Int := 1 - bias
  let eu := ilog2 n d + e
  let ex := max eu emin
  let r := ratio n d (e - (ex - m))
  let q := rquot rm neg r.1 r.2
  let mag := (ex - emin).toNat * 2 ^ m + q.1
  if top < mag then
    match style with
    | .ieee =>
      let inf := rm = 0 ∨ (rm = 2 ∧ ¬ neg) ∨ (rm = 3 ∧ neg)
      (sb + top + (if inf then 1 else 0), fOverflow ||| fInexact)
    | _ => (sb + top, fSat ||| fInexact)
  else if q.2 then
    let u := ratio n d (e - (eu - m))
    let tiny := eu < emin ∧ ((rquot rm neg u.1 u.2).1 : Int) < 2 ^ (emin - eu + m).toNat
    (sb + mag, if tiny then fInexact ||| fUnderflow else fInexact)
  else (sb + mag, 0)

/-- Whether `n / d × 2^e` lies above (`gt`) or at the midpoint (`eq`) of two magnitudes, for round to nearest. -/
def beyondMid (x lo hi : Val) : Bool × Bool :=
  let two := (Val.mul (.ofInt 2) x).1
  let s := (Val.add 0 lo hi).1
  (s.lt two, s.eq two)

/-- The choice between two neighbouring magnitudes under R132: true takes the greater. -/
def pickUp (rm : Nat) (neg : Bool) (x lo hi : Val) (loEven : Bool) : Bool :=
  match rm with
  | 0 => let b := beyondMid x lo hi; b.1 || (b.2 && !loEven)
  | 1 => false
  | 2 => !neg
  | _ => neg

/-- Rounding a nonzero magnitude into a logarithmic grid of step `st` whose code m stands for the power m + off (R127,
R129, R133); `w` is the width of the code. -/
def roundLg (w st : Nat) (off : Int) (rm : Nat) (neg : Bool) (n d : Nat) (e : Int) : Nat × FlagSet :=
  let x : Val := .fin false n d e
  let sb := b2n neg * 2 ^ (w - 1)
  let base : Int := st * (ilog2 n d + e)
  let lo := (List.range st).foldl (fun a (i : Nat) => if x.lt (powLg st false (base + i)) then a else base + i) base
  let exact := x.eq (powLg st false lo)
  let qc := if exact then lo
    else if pickUp rm neg x (powLg st false lo) (powLg st false (lo + 1)) (decide ((lo - off) % 2 = 0)) then lo + 1 else lo
  let mmax : Int := 2 ^ (w - 1) - 1
  if off + mmax < qc then (mmax.toNat + sb, fSat ||| fInexact)
  else if qc < off + 1 then
    if pickUp rm neg x (.zero false) (powLg st false (off + 1)) true then (1 + sb, fInexact ||| fUnderflow)
    else (0, fInexact ||| fUnderflow)
  else ((qc - off).toNat + sb, if exact then 0 else fInexact)

/-- Rounding into an integer format (R133). -/
def roundInt (w : Nat) (sg : Bool) (rm : Nat) (neg : Bool) (n d : Nat) (e : Int) : Nat × FlagSet :=
  let r := ratio n d e
  let q := rquot rm neg r.1 r.2
  if neg && !sg then (0, fSat ||| fInexact)
  else
    let limit := if sg then (if neg then 2 ^ (w - 1) else 2 ^ (w - 1) - 1) else 2 ^ w - 1
    if limit < q.1 then (if neg then 2 ^ w - limit else limit, fSat ||| fInexact)
    else (if neg then (2 ^ w - q.1) % 2 ^ w else q.1, if q.2 then fInexact else 0)

/-- The conversion of a value into a format under R133. -/
def Fmt.encode (f : Fmt) (rm : Nat) : Val → Nat × FlagSet
  | .nan => f.nanCode
  | .inf s => match f with
    | .fp w _ _ top .ieee => (top + 1 + b2n s * 2 ^ (w - 1), 0)
    | .fp w _ _ top .e5m2 => (top + 1 + b2n s * 2 ^ (w - 1), 0)
    | _ => (f.maxCode s, fSat ||| fInexact)
  | .fin s n d e =>
    match f with
    | .fp w m bias top style => if n = 0 then (b2n s * 2 ^ (w - 1), 0) else roundFp w m bias top style rm s n d e
    | .lg w st off => if n = 0 then (0, 0) else roundLg w st (-(off : Int)) rm s n d e
    | .int w sg => if n = 0 then (0, 0) else roundInt w sg rm s n d e

/-- FP32 decode of the low 32 bits. -/
def f32 (c : Nat) : Val := Fmt.fp32.decode (c % 2 ^ 32)
/-- One rounding into FP32. -/
def toF32 (rm : Nat) (x : FVal) : Nat × FlagSet :=
  let r := Fmt.fp32.encode rm x.1
  (r.1, x.2 ||| r.2)
/-- One rounding into FP32 by RNE. -/
def rne32 (x : FVal) : Nat × FlagSet := toF32 0 x

/-! Block scales (R128 to R134) -/

/-- The value of a code of element format `fmt` (a FMT code) under scale code `c` (R129). Code 0x3FF marks an invalid
block, which the consuming unit reports; its elements are NaN. -/
def decodeScaled (fmt c code : Nat) : Val :=
  if c = 0x3FF then .nan
  else match Fmt.ofCode fmt with
    | none => .nan
    | some (.lg w st off) =>
      let m := code % 2 ^ (w - 1)
      if m = 0 then .zero (bit code (w - 1))
      else powLg st (bit code (w - 1)) ((m : Int) - off + (if isBlockFmt fmt then (c : Int) - 508 else 0))
    | some f => if isBlockFmt fmt then (Val.mul (f.decode code) (pow4 ((c : Int) - 508))).1 else f.decode code

/-- The largest scaled value of a block format under scale code `c` (R129). -/
def largestScaled (fmt c : Nat) : Val :=
  decodeScaled fmt c (match fmt with | 0x0E => 0x7E | 0x0F => 0x1F | 0x10 => 0x07 | _ => 0x1F)

/-- The smallest scale code in `c .. c + n - 1` whose largest scaled value reaches `amax`, 0x3FE if none (R134). -/
def findScale (fmt : Nat) (amax : Val) (c : Nat) : Nat → Nat
  | 0 => 0x3FE
  | n + 1 => if (largestScaled fmt c).lt amax then findScale fmt amax (c + 1) n else c

/-- The scale code of a block (R134). -/
def blockScale (fmt : Nat) (xs : List Val) : Nat :=
  let fin := (xs.filter (fun x => !x.isNan && !x.isInf)).map Val.abs
  let amax := fin.foldl (fun a x => if a.lt x then x else a) (.zero false)
  if amax.isZero then 0x1FC
  else match amax with
    | .fin _ n d e =>
      let base := 4 * (ilog2 n d + e - 10) + 508
      let lo := min 0x3FE base.toNat
      findScale fmt amax lo (0x3FF - lo)
    | _ => 0x1FC

/-- One element of a block under scale code `c` (R134, R133). One whose magnitude exceeds the largest scaled value saturates, with SAT and INEXACT, also
where it rounds back to that value (R154, R231; log entry 106). -/
def encodeScaled (fmt c rm : Nat) (x : Val) : Nat × FlagSet :=
  let r : Nat × FlagSet := match Fmt.ofCode fmt, x with
    | some (.lg w st off), .fin s n d e =>
      if n = 0 then (0, 0) else roundLg w st (-(off : Int) + c - 508) rm s n d e
    | some f, x => f.encode rm (if x.isInf then x else (Val.div x (pow4 ((c : Int) - 508))).1)
    | none, _ => (0, 0)
  if !x.isNan && !x.isInf && (largestScaled fmt c).lt x.abs then (r.1, r.2 ||| fSat ||| fInexact) else r

/-! Packing (R124) -/

/-- Codes of `w` bits packed from bit 0 upward. -/
def packCodes (w : Nat) : List Nat → Nat
  | [] => 0
  | c :: t => c % 2 ^ w + 2 ^ w * packCodes w t

/-- `n` codes of `w` bits, from bit 0 upward. -/
def unpackCodes (w x : Nat) : Nat → List Nat
  | 0 => []
  | n + 1 => x % 2 ^ w :: unpackCodes w (x / 2 ^ w) n

end Sys2Proof.Machine
end

