-- ==== Sys2Proof/Machine/State.lean ====
section
/-! DEFINITION. The state of the BA-480 as plain data, the machine after reset, and the reasons a step can stop. -/

namespace Sys2Proof.Machine

/-- Why the machine stops. No rule of the manual stops the machine: a fault of the device is an effect on the state. -/
inductive Fault where
  /-- Raised by a core's turn whose next bundle has no translation or lies in no course: the manual gives a bundle fetch that
  fails no effect. Safe. -/
  | fetchUnmapped (core : Nat) (va : Nat)
deriving DecidableEq, Repr

/-- Why an instruction is refused. -/
inductive Refusal where
  /-- Raised by an arm of exec for an instruction that has no meaning yet. Safe. -/
  | notModelled (mnemonic : String)
deriving DecidableEq, Repr

/-! ## Cox cores -/

/-- What a core is doing (R55, R64, R209, R214). `stopped` follows R364. -/
inductive Run where
  | free | running | trapWait | exited | switchedOut | stopped
deriving DecidableEq, Repr

/-- Destination kinds of a write in flight (R210): x, v, predicate, FLAGS only; a CSR, TPLANE, allotment, replay or
tangent-count write lands by the same queue, and is not a register write of R192. -/
inductive Dst where
  | x (n : Nat) | v (n : Nat) | p (n : Nat) | flags
  | csr (n fn : Nat) | tplane (n : Nat) | allotX (n : Nat) (grow : Bool) | allotV (n : Nat) (grow : Bool)
  | ry (n : Nat) | loop | dual (n : Nat)
deriving DecidableEq, Repr

/-- A write in flight (R169, R192, R210). -/
structure Wr where
  /-- landing step -/
  due : Nat
  /-- issue step, for the order of R169 -/
  iss : Nat
  slot : Nat
  dst : Dst
  /-- tangent planes carried (KP) -/
  kp : Nat
  lmask : Nat
  pmask : Nat
  p0 : BitVec 512
  p1 : BitVec 512
  p2 : BitVec 512
  p3 : BitVec 512
  fl : FlagSet
  /-- request number of an access not yet performed (R199) -/
  wait : Option Nat
  /-- uncorrectable word read: the value never lands (R390) -/
  poison : Bool
deriving DecidableEq, Repr

/-- A replay register (R210): header and the values of four planes; its reserved bytes read zero. -/
structure Ry where
  hdr : DWord
  p0 : BitVec 512
  p1 : BitVec 512
  p2 : BitVec 512
  p3 : BitVec 512
deriving DecidableEq, Repr

/-- An empty replay register. -/
def Ry.empty : Ry := ⟨0, 0, 0, 0, 0⟩

/-- A memory tangent plane (R306). -/
structure TPlane where
  pres : Bool
  pfmt : Nat
  cdisp : Nat
  ndisp : Nat
deriving DecidableEq, Repr

/-- A plane declared absent. -/
def TPlane.absent : TPlane := ⟨false, 0, 0, 0⟩

/-- A fault waiting for a core's next bundle boundary (R356, R363). -/
structure Trap where
  code : Nat
  slot : Nat
  rcd : BitVec 512
deriving DecidableEq, Repr

/-- What a held bundle has found out so far (R170, R203, R204). -/
structure Held where
  /-- device time in ns at which the hold began -/
  since : Option Nat
  /-- WAITSTAMP: the word that met the condition -/
  met : Option DWord
  /-- RVARR: the arrival has been sent -/
  sent : Bool
  /-- RVARR: the phase before the arrival -/
  reply : Option Bool
  /-- RVARR: OP2 of the refusal -/
  refusal : Option Nat
  /-- RVARR: device time in ns at which the hub gave the reply or refusal (R410) -/
  told : Nat
deriving DecidableEq, Repr

/-- Nothing evaluated. -/
def Held.none : Held := ⟨.none, .none, false, .none, .none, 0⟩

/-- The control transfer that the bundle being issued makes (MODEL'S OWN). -/
inductive Next where
  | fall | taken (target : DWord) | loopSkip (target : DWord) | rett | trap (n : Nat) | exit
deriving DecidableEq, Repr

/-- One cox core (R17, R62, R117, R192, R208, R303). -/
structure Core where
  /-- scalar registers, key 128 × plane + n -/
  x : Tab DWord
  /-- vector registers, key 64 × plane + n -/
  v : Tab VWord
  p : Tab (BitVec 16)
  flags : DWord
  pc : DWord
  delayLeft : Nat
  target : DWord
  lc : DWord
  lstart : DWord
  lend : DWord
  tvec : DWord
  tepc : DWord
  tcause : DWord
  tval : DWord
  tdly : DWord
  ttgt : DWord
  tstat : DWord
  stimeo : DWord
  regbase : DWord
  k : Nat
  /-- allotments: scalar and vector, current (a) and of the launch (l) (R61, R213) -/
  ax : Nat
  av : Nat
  lx : Nat
  lv : Nat
  /-- dirty lines: scalar line n of plane p at 16p + n, vector line at 64 + 8p + n (R117) -/
  dirty : Tab Bool
  ports : Tab (BitVec 16)
  tplane : Tab TPlane
  pend : List Wr
  ry : Tab Ry
  step : Nat
  run : Run
  /-- steps before a handler's first bundle may issue (R209) -/
  idle : Nat
  hold : Held
  /-- arrivals that held bundles had sent when a trap took them out, newest first: the bundle, and what has come back (R203, R419) -/
  arrs : List (DWord × Held)
  trapq : List Trap
  /-- cause and operand of the trap being taken, while the core waits (R209) -/
  taking : Option (Nat × Nat × DWord)
  /-- cox-store stores of the bundle being issued: address, bytes, value (MODEL'S OWN, R145) -/
  stores : List (Nat × Nat × Nat)
  next : Next
  team : Option Nat
  member : Nat
  /-- step at which the last admission result lands, for FENCE.t (R155) -/
  admDue : Nat
deriving DecidableEq, Repr

/-- A core with nothing in it. -/
def Core.empty : Core :=
  { x := [], v := [], p := [], flags := 0, pc := 0, delayLeft := 0, target := 0, lc := 0, lstart := 0, lend := 0,
    tvec := 0, tepc := 0, tcause := 0, tval := 0, tdly := 0, ttgt := 0, tstat := 0, stimeo := 0, regbase := 0, k := 0,
    ax := 0, av := 0, lx := 0, lv := 0, dirty := [], ports := [], tplane := [], pend := [], ry := [], step := 0,
    run := .free, idle := 0, hold := Held.none, arrs := [], trapq := [], taking := none, stores := [], next := .fall, team := none,
    member := 0, admDue := 0 }

/-! ## Teams and the hub -/

/-- A rendezvous point (R45). -/
structure Rv where
  exp : Nat
  arr : Nat
  ph : Bool
deriving DecidableEq, Repr

/-- An arrival or setting on its way to the hub (R46, R203). -/
structure RvReq where
  time : Nat
  src : Nat
  team : Nat
  point : Nat
  /-- RVSET with its value, or an arrival -/
  set : Option Nat
  /-- the arrival holds its core's issue -/
  holds : Bool
  /-- LOC of the bundle, for a refusal -/
  loc : Nat
  /-- core told of a refusal -/
  core : Nat
  /-- the syllable -/
  syl : Nat
deriving DecidableEq, Repr

/-- The standing of a team (R64, R364). -/
inductive TeamSt where
  | running | leaving | out | returning | ended
deriving DecidableEq, Repr

/-- A team and its launch (R45, R53, R59, R212, R408). -/
structure Team where
  cores : List Nat
  func : Nat
  asid : Nat
  queue : Nat
  csidx : Nat
  seq : Nat
  k : Nat
  flist : Nat
  csb : Nat
  /-- effective priority and time of the round that dispatched it (R50, R63) -/
  prio : Nat
  round : Nat
  /-- switched-in time so far and the time of the last switching in, in ns (R408) -/
  ran : Nat
  since : Nat
  limit : Nat
  st : TeamSt
  /-- context area number of each member (R119) -/
  areas : List Nat
  /-- the state of R212 of each member that is switched out -/
  saved : List Core
  /-- deliveries to a member's cox store that follow the restore in progress (R120): core, offset, bytes, value -/
  late : List (Nat × Nat × Nat × Nat)
  rv : Tab Rv
  /-- finish and port tokens held at the hub (R64): time, core, port -/
  held : List (Nat × Nat × Nat)
  /-- a packet of one of its riders was dropped (R409) -/
  failed : Bool
  /-- STATUS and code of an ending in progress (R364) -/
  ending : Option (Nat × Nat)
  /-- overlapping pairs reported with the last finish of a load, by FLIST number (R149) -/
  overlaps : Tab Nat
deriving DecidableEq, Repr

/-- No rendezvous state. -/
def Rv.unset : Rv := ⟨0, 0, false⟩

/-- A launch record held in a queue (R52, R53). -/
structure Launch where
  queue : Nat
  arrival : Nat
  rcd : BitVec 512
  /-- cores of victims, released to this record (R63, R64) -/
  claim : List Nat
deriving DecidableEq, Repr

/-! ## Translation and riders -/

/-- A cached translation, or a fault entry (R92, R391); tile 0 to 47 the memory E tiles, 48 the hub. -/
structure Tlb where
  tile : Nat
  asid : Nat
  /-- first virtual address and bytes mapped -/
  va : Nat
  size : Nat
  pa : Nat
  wr : Bool
  enc : Bool
  gen : Nat
  /-- reason and level of a fault entry -/
  fault : Option (Nat × Nat)
deriving DecidableEq, Repr

/-- A walk in progress (R92): the level whose entry its rider reads; what it has found, as reason 0 with the bounds of the page, its
address and its WR and ENC bits, or as a reason and level of R391. -/
structure Walk where
  id : Nat
  tile : Nat
  asid : Nat
  va : Nat
  level : Nat
  found : Option Tlb
deriving DecidableEq, Repr

/-- The kinds of rider (R167), and the riders that units take in on their own account. -/
inductive RKind where
  | rdstr | rdsieve | rdfold | rdmat | rdfp | rdcmp | upd | dep | land | bvload | imp | exp | stream | crsmode | cursor
  | rekey
deriving DecidableEq, Repr

/-- What a part does at its words. -/
inductive Role where
  | data | tail | spanB
deriving DecidableEq, Repr

/-- A run of words of a part that are adjacent in the span and in the course; `key` is the AES key of an encrypted page (R344),
2 ^ 256 once it is erased (R417). -/
structure Piece where
  off : Nat
  len : Nat
  /-- index in the span of the first word -/
  base : Nat
  key : Option Nat
deriving DecidableEq, Repr

/-- One part of a rider in one course (R80). -/
structure Part where
  pc : Nat
  crs : Nat
  runs : List Piece
  role : Role
  /-- named or implied catch point, as a word offset (R76) -/
  catch? : Option Nat
  boarded : Bool
  /-- words passed since boarding -/
  acted : Nat
  /-- offsets postponed by a re-key (R413) -/
  missed : List Nat
  /-- offsets whose source word was lost (R390) -/
  lost : List Nat
  /-- 64 KiB pages that have counted this part in its present pass (R95) -/
  counted : List Nat
  /-- cursor position at which it boarded: its passes begin there (R76, R95) -/
  start : Nat
  /-- runs of a LAND that has waited LWAIT in vain: it acts on none, but its window stays open over them until its stamp (R340, R393) -/
  gave : List Piece
  done : Bool
deriving DecidableEq, Repr

/-- Who a rider belongs to, for withdrawal and for its after-effects (R75, R258, R394). -/
inductive Owner where
  /-- issued by a cox core -/
  | core
  /-- an emission of stream port n of a core (R271) -/
  | stream (core port : Nat)
  /-- a row of drain n of an X tile (R247) -/
  | drain (unit n : Nat)
  /-- a rider of a sequence turn, by turn number (R318) -/
  | turn (n : Nat)
  /-- a declared rider or generator stream of a fabric load (R41, R295) -/
  | load (n : Nat)
  /-- an image fetch of the loader (R40) -/
  | fetch (region : Nat)
  /-- a deposit of oar link n (R340) -/
  | oar (link : Nat)
  /-- a context save or fill by the dispatcher (R120) -/
  | context (team core : Nat)
  /-- a delivery to a switched-out member's cox store, redirected into its saved image (R120) -/
  | redirect (team core : Nat)
  /-- a re-key part of the base die (R413) -/
  | base
  /-- walk `id` of an E tile (R92) -/
  | walk (id : Nat)
deriving DecidableEq, Repr

/-- A rider in flight (R68 to R82, R256 to R273). -/
structure Rider where
  id : Nat
  kind : RKind
  owner : Owner
  /-- account number: core 0 to 31, or 32 + d, 36 (R79) -/
  acct : Nat
  func : Nat
  asid : Nat
  team : Option Nat
  /-- admission timestamp (ns) and account sequence (R79) -/
  time : Nat
  seq : Nat
  /-- clock cycle in which its slots were reserved (R79) -/
  cyc : Nat
  rcd : BitVec 256
  xa : Nat
  stamp : Nat
  parts : List Part
  /-- virtual pages of its translations: first address and bytes (R94) -/
  pages : List (Nat × Nat)
  /-- words read at admission (R81), or host words (R270) -/
  src : List Word
  /-- words observed, by span index (R78) -/
  seen : Tab Word
  /-- words of span B of RDCMP -/
  seenB : Tab Word
  /-- span indices in the order observed, per part, newest first (R261) -/
  order : List Nat
  /-- accumulators of RDMAT by 256 × bank + row (R85) -/
  acc : Tab Word
  /-- what CURSOR records (R273); what its owner keeps of a rider of an engine or of a walk -/
  note : Nat
  /-- time base of the base die at the finish of the last part (R82) -/
  fin : Nat
  flags : FlagSet
  /-- failure: the record to be appended (R382, R388) -/
  fail : Option (BitVec 512)
  /-- some part was stopped by a withdrawal (R394) -/
  stopped : Bool
  /-- the load that declares it was discarded: it delivers nothing and ends FAULTED (R359) -/
  void : Bool
  /-- withdrawal time in ns (R394) -/
  withdrawn : Option Nat
  /-- DEP: its source waits to be read for an edge declared into it (R147) -/
  unread : Bool
  /-- IMPORT: words not yet arrived; EXPORT: host writes not yet complete (R336) -/
  host : Bool
  /-- the host link on which its outstanding requests went out (R332) -/
  link : Nat
  /-- words that have reached a stream port or come from the host, packets queued for a peer, buffers delivered to -/
  sent : Nat
  /-- words acted on, for NACT -/
  nact : Nat
deriving DecidableEq, Repr

/-- A landing contribution (R88, R89): stack, window, address of its word, 0 for a whole word or 1 and 2 for its low and high
half, value and order key; `arrived` is 0 in transit, else the time of arrival in the buffer plus one; `unit` is the X tile and
drain that sent it. -/
structure Contrib where
  stack : Nat
  win : Nat
  pa : Nat
  half : Nat
  word : BitVec 32
  time : Nat
  src : Nat
  seq : Nat
  arrived : Nat
  func : Nat
  unit : Option (Nat × Nat)
deriving DecidableEq, Repr

/-- A stream running or waiting on a port (R271). -/
structure Strm where
  core : Nat
  port : Nat
  time : Nat
  team : Option Nat
  rcd : BitVec 256
  pat : BitVec 256
  xa : Nat
  stamp : Nat
  /-- next emission to take in, emissions that are over, and words delivered (R394) -/
  next : Nat
  done : Nat
  words : Nat
  rid : List Nat
deriving DecidableEq, Repr

/-- A beat (R274): four lanes of four planes, the mark, the scales kept (R277), how the lanes were decoded, and whether the
value is new. -/
structure Beat where
  v0 : BitVec 128
  v1 : BitVec 128
  v2 : BitVec 128
  v3 : BitVec 128
  mark : Nat
  /-- q + 508 of plane p in bits 10p to 10p + 9; 508 for an unscaled entry -/
  scale : Nat
  /-- FMT + 64 × DOMAIN of a decoded entry; 32 for a raw one -/
  fmt : Nat
  new : Bool
deriving DecidableEq, Repr

/-- The scales of an unscaled beat. -/
def plainScale : Nat := 508 * (1 + 2 ^ 10 + 2 ^ 20 + 2 ^ 30)
/-- Nothing: zero lanes, plain, not new. -/
def Beat.zero : Beat := ⟨0, 0, 0, 0, 0, plainScale, 32, false⟩

/-! ## X tiles and transform nodes -/

/-- Kinds of queue entry of an X tile (R236). -/
inductive XKind where
  | step | zero | drain | save | rest | pair
deriving DecidableEq, Repr

/-- A queue entry: the instruction's operands and the record read at issue. -/
structure XEnt where
  kind : XKind
  imm : Nat
  /-- low 16 bits of xa, which name the units (R235, R250) -/
  xa : Nat
  rcd : BitVec 256
  /-- record or save-area address in xb -/
  xb : Nat
  core : Nat
  team : Option Nat
  /-- issue step of its core from which the tile accepts it (R236) -/
  acc : Nat
  accepted : Bool
  begun : Bool
deriving DecidableEq, Repr

/-- The sums of a K step on their way to the accumulators (R241): KPROG after it, new words by offset from acc0, flags, and
whether it is the last of its row. -/
structure XLand where
  kprog : Nat
  upd : List (Nat × Word)
  fl : FlagSet
  last : Bool
  core : Nat
  team : Option Nat
  /-- the row is a half of a pair -/
  pair : Option XEnt
  /-- cycle of the quadrant island at which they land -/
  due : Nat
deriving DecidableEq, Repr

/-- A drain that has left the queue, or is copying (R247): copied words of acc0 then acc1, its time of beginning, riders and
contributions that it waits for, and whether one of them failed. -/
structure Drain where
  id : Nat
  ent : XEnt
  copy : List Word
  copying : Bool
  time : Nat
  written : Bool
  left : Nat
  failed : Bool
  /-- one of its riders has been withdrawn, and the words that they acted on (R394) -/
  killed : Bool
  nact : Nat
  /-- cycle of the quadrant island at which the copy ends -/
  due : Nat
deriving DecidableEq, Repr

/-- A pair at its lower tile (R250, R370): partner, tag, the upper half's result once it has come, whether the lower half's sums
have landed, counted time of the pair timer in ns and the time at which counting last began. -/
structure Pair where
  partner : Nat
  tag : Nat
  upper : Option (List (Nat × Word))
  lower : Bool
  counted : Nat
  from? : Option Nat
  /-- the team of both halves (R369) -/
  team : Option Nat
  /-- its timer has reached PTO (R370) -/
  late : Bool
  /-- device time in ns at which the upper half's result was sent (R410) -/
  sent : Nat
deriving DecidableEq, Repr

/-- An MXSAVE with STOP (R248): who issued it, its save area, BUF, and how many queue entries it takes. -/
structure XStop where
  core : Nat
  team : Option Nat
  la : Nat
  buf : Bool
  n : Nat
deriving DecidableEq, Repr

/-- An X tile: its sequencer and counters; its accumulators and buffers lie in memory (R114, R115, R236 to R251). -/
structure XTile where
  queue : List XEnt
  kprog : Nat
  /-- accumulator kinds: 0 none, 1 FP32, 2 INT32 -/
  kind0 : Nat
  kind1 : Nat
  /-- F bits of XA0, XA1, XB0, XB1 -/
  f : Nat
  /-- pair-pending bits (R250) -/
  pp : Nat
  /-- next K step of the running row -/
  k : Nat
  /-- a K step runs, and the cycle of the quadrant island at which it, or the zeroing in progress, ends (R241, R244) -/
  busy : Bool
  due : Nat
  lands : List XLand
  /-- row counters: buffer of the pair and byte, of A and of B (R239) -/
  abuf : Nat
  aoff : Nat
  bbuf : Nat
  boff : Nat
  /-- snapshot of the accumulator for ASRC = 3 (R242) -/
  snap : List Word
  /-- expected tags of ports A and B, and packets received but not consumed, oldest first -/
  atag : Nat
  btag : Nat
  aq : List Beat
  bq : List Beat
  pairs : List Pair
  drains : List Drain
  flags : FlagSet
  stopped : Bool
  /-- tiles with the other halves of its pairs, which its fault is still to stop (R369) -/
  tell : List Nat
  /-- MXSAVEs with STOP that wait for the K step in progress to land, oldest first (R236, R248) -/
  stops : List XStop
  /-- snapshots of rows with ASRC = 3 that MXSAVE with STOP has stopped, by team and save area (R242, R249) -/
  kept : List (Option Nat × Nat × List Word)
  /-- team whose switched-out context owns the queue or pair state (R367) -/
  away : Option Nat
  /-- core and team that drove it last (R214) -/
  user : Option (Nat × Option Nat)
deriving DecidableEq, Repr

/-- The empty state of R214. -/
def XTile.empty : XTile :=
  { queue := [], kprog := 0, kind0 := 0, kind1 := 0, f := 0, pp := 0, k := 0, busy := false, due := 0, lands := [], abuf := 0, aoff := 0, bbuf := 0,
    boff := 0, snap := [], atag := 0, btag := 0, aq := [], bq := [], pairs := [], drains := [], flags := 0, stopped := false,
    tell := [], stops := [], kept := [], away := none, user := none }

/-- A transform command (R255, R299). -/
structure Xform where
  rcd : BitVec 256
  inv : Bool
  s : Nat
  core : Nat
  team : Option Nat
  /-- region of the load that commands it -/
  load : Option Nat
  begun : Bool
  /-- output beats computed from the snapshot, flags, and what is wrong with the input: code, OP0, OP1, OP2 -/
  out : List Nat
  fl : FlagSet
  bad : Option (Nat × Nat × Nat × Nat)
  /-- cycle of the quadrant island at which it ends (R255) -/
  due : Nat
deriving DecidableEq, Repr

/-! ## Memory nodes and the fabric -/

/-- A request held by an ordered-update node (R103), or an access of a random-mode node already performed. -/
structure NodeReq where
  id : Nat
  time : Nat
  src : Nat
  /-- AOP of an atomic, or 16 load, 17 store, 18 vector load, 19 vector store -/
  op : Nat
  off : Nat
  bytes : Nat
  val : BitVec 512
  expv : Nat
  mask : Nat
  signed : Bool
  k : Nat
  planes : List (BitVec 512)
  /-- present tangent planes: plane, offset of the first word's tangent, PFMT (R307) -/
  tans : List (Nat × Nat × Nat)
  /-- flags that a store's roundings raise with it (R307) -/
  fl : FlagSet
  load : Option Nat
  /-- cycle of the node's clock until which an ordered-update node holds it (R103) -/
  due : Nat
  /-- LOC of the syllable of a core's access (R355) -/
  loc : Nat
deriving DecidableEq, Repr

/-- A memory node's control (R100 to R103); its bytes lie in memory. -/
structure Node where
  /-- owning region, with MODE, depth and cox-shared mark of the resident load -/
  owner : Option Nat
  mode : Nat
  depth : Nat
  shared : Bool
  /-- F bits by buffer -/
  f : Nat
  /-- buffer index and accesses made in the running pattern, of the write and the read view -/
  wbuf : Nat
  wcnt : Nat
  rbuf : Nat
  rcnt : Nat
  /-- snapshot of a transforming read (R105) -/
  snap : List Byte
  /-- read-ahead queue (R102) -/
  ahead : List Beat
  /-- last value delivered to the read port -/
  port : Beat
  wtag : Nat
  /-- value of the write port (R280), address last emitted to the write and to the read view (R294) -/
  wport : Beat
  gw : Int
  gr : Int
  queue : List NodeReq
  /-- words written by wide accesses of a permissive load, for as long as others of the same instant may meet them: the time in half ns, the offset,
  the word before the write, and the engine that wrote it (R149) -/
  recent : List (Nat × Nat × Nat × Nat)
  /-- patterns that the views have ended since the load came (R147) -/
  wend : Nat
  rend : Nat
  /-- cycle from which an ordered-update node is free for its next request (R103) -/
  next : Nat
deriving DecidableEq, Repr

/-- A node no region owns: random mode, F bits 0 (R102). -/
def Node.free : Node :=
  { owner := none, mode := 1, depth := 1, shared := false, f := 0, wbuf := 0, wcnt := 0, rbuf := 0, rcnt := 0, snap := [],
    ahead := [], port := Beat.zero, wtag := 0, wport := Beat.zero, gw := 0, gr := 0, queue := [], recent := [], wend := 0, rend := 0, next := 0 }

/-- A result in flight in an element (R30, R280): steps left, DMODE, issue order, value. -/
structure Res where
  left : Nat
  dmode : Nat
  beat : Beat
deriving DecidableEq, Repr

/-- A decoding line's decoder (R276). -/
structure Dec where
  hdr : Option DWord
  /-- headers of planes 1 to 3 -/
  h1 : DWord
  h2 : DWord
  h3 : DWord
  buf : BitVec 256
  fill : Nat
  group : Nat
  tag : Nat
  /-- payload buffers of planes 1 to 3 -/
  buf1 : BitVec 256
  buf2 : BitVec 256
  buf3 : BitVec 256
deriving DecidableEq, Repr

/-- No header taken. -/
def Dec.empty : Dec := ⟨none, 0, 0, 0, 0, 0, 0, 0, 0, 0, 0⟩

/-- A closed packet of a converter node, beats still to present (R297, R298). -/
structure Packet where
  /-- steps until it is ready -/
  left : Nat
  beats : List Beat
deriving DecidableEq, Repr

/-- The latches of an element (R34 to R36, R274 to R299). -/
structure El where
  a : List Beat
  b : List Beat
  c : List Beat
  out : Beat
  ctl : Word
  res : List Res
  da : Dec
  db : Dec
  dc : Dec
  /-- chained counters of a generator (R294) -/
  j : List Nat
  /-- value presented toward N, E, S, W by a bypass element (R278); of a CE or converter node, its output one step ago (R36) -/
  by_ : List Beat
  /-- converter: lanes collected and packets (R297) -/
  blk : List Beat
  packs : List Packet
  ctag : Nat
  /-- a TEMIT of the last step: its token is sent in the step after (R286) -/
  tok : Bool
deriving DecidableEq, Repr

/-- Everything zero. -/
def El.zero : El :=
  { a := [], b := [], c := [], out := Beat.zero, ctl := 0, res := [], da := Dec.empty, db := Dec.empty, dc := Dec.empty,
    j := [], by_ := [], blk := [], packs := [], ctag := 0, tok := false }

/-- A timing island of a load (R28, R29, R358). -/
structure Isl where
  s : Nat
  started : Bool
  startPend : Bool
  ended : Bool
  /-- cycles since the step began, stalls included (CYC) -/
  cyc : Nat
  /-- cycles left before its clock is gated (R358) -/
  freezeIn : Option Nat
  frozen : Bool
  /-- fold point being drained to (R44) -/
  fold : Option Nat
  atFold : Bool
  /-- first iteration, after a refold -/
  from? : Nat
deriving DecidableEq, Repr

/-- An island not yet started. -/
def Isl.idle : Isl :=
  { s := 0, started := false, startPend := false, ended := false, cyc := 0, freezeIn := none, frozen := false,
    fold := none, atFold := false, from? := 0 }

/-- A fabric load in a region's planes (R39, R178 to R184). -/
structure Load where
  id : Nat
  /-- bytes of the image, by offset -/
  img : Memory
  fl : Nat
  core : Nat
  team : Nat
  func : Nat
  asid : Nat
  stamp : Nat
  k : Nat
  tp : List TPlane
  flags : FlagSet
  isl : List Isl
  /-- pairs counted by the check of a permissive load (R149) -/
  overlaps : Nat
  /-- frozen load's record; held by FRZHOLD (R358 to R362) -/
  rcd : Option (BitVec 512)
  held : Bool
  /-- time at which the other islands stop, in ns (R358) -/
  spread : Option Nat
  /-- handler load: the stamp address and SEQ of the load it replaced, and its record (R362) -/
  handler : Option (Nat × Nat × BitVec 512)
  /-- discarded: it only waits to be overwritten (R361) -/
  discarded : Bool
  /-- its fault edge has been taken (R362) -/
  edged : Bool
  /-- its finish has been reported (R39) -/
  reported : Bool
  /-- its declared riders, by number, that have written their stamps since its image was fetched (R147, R183) -/
  ran : List Nat
  /-- the ordering edges declared within one island (R147): an engine and whether its reads, the engine before it and whether its reads (MODEL'S OWN:
  read once from the image) -/
  inner : List (Nat × Bool × Nat × Bool)
  /-- carry values of a fold variant, each by its entry in the variant's carry lists (R65) -/
  carry : List (Nat × Beat)
  /-- time at which its last island finished, in ns on its die's copy of the time base (R20, R66, R206) -/
  finAt : Nat
deriving DecidableEq, Repr

/-- Phases of a region (R39). -/
inductive Phase where
  | empty | fetch | armed | drain | token | fill | run | resident
deriving DecidableEq, Repr

/-- A configuration command (R206): load number, stamp address, core, team, k, tangent planes. -/
structure Cmd where
  fl : Nat
  stamp : Nat
  core : Nat
  team : Nat
  k : Nat
  tp : List TPlane
  /-- a handler's: stamp address and SEQ of the frozen load, and its record (R362) -/
  handler : Option (Nat × Nat × BitVec 512)
deriving DecidableEq, Repr

/-- A region (R26, R39, R40, R151). -/
structure Region where
  die : Nat
  x : Nat
  y : Nat
  w : Nat
  h : Nat
  team : Nat
  phase : Phase
  active : Option Load
  shadow : Option Load
  cmds : List Cmd
  /-- command whose image is being fetched -/
  fetching : Option Cmd
  frel : Bool
  /-- phase to return to when the fetch is refused -/
  back : Phase
  /-- fold variant that replaces the active load at its fold point (R64, R65) -/
  refold : Option Load
  /-- configuration that a swap has left in the shadow planes, until the next fetch overwrites it (R42) -/
  prev : Option Load
deriving DecidableEq, Repr

/-- A retiming FIFO (R32): directed link key and entries, oldest first: 4 × the time of the push plus the consumer's edges since, up to two;
the value; its control word. -/
structure Fifo where
  key : Nat
  q : List (Nat × Beat × Word)
deriving DecidableEq, Repr

/-- Where a token goes (R37). -/
inductive TokTo where
  | island (region isl : Nat) | port (team core port : Nat) | rv (team point : Nat)
deriving DecidableEq, Repr

/-- A token in transit, with its time of sending and source number (R37, R46); for an island, the cycle of its clock at which it arrives. -/
structure Tok where
  dest : TokTo
  time : Nat
  src : Nat
  core : Nat
  due : Nat
deriving DecidableEq, Repr

/-! ## Sequences, links, security -/

/-- A sequence instruction admitted (R318, R406). -/
structure Turn where
  id : Nat
  kind : Nat
  core : Nat
  team : Option Nat
  func : Nat
  asid : Nat
  time : Nat
  seq : Nat
  stream : Nat
  rcd : BitVec 256
  recAddr : Nat
  stamp : Nat
  src : List Word
  begun : Bool
  /-- held for a sequence-class fault: its code -/
  held : Option Nat
  bypass : Bool
  /-- riders of a stage are in flight -/
  busy : Bool
  /-- words that each stage has read -/
  got : List (List Word)
  /-- source words that are lost (R390) -/
  lost : List Nat
  /-- the pages that a held KVLOOK found absent (R321, R406) -/
  absent : List Nat
  /-- held, and to look again once the riders in flight are done (R406) -/
  again : Bool
  /-- words of its results delivered, once a buffer has kept some back (R258) -/
  out : Option Nat
deriving DecidableEq, Repr

/-- An oar packet (R339). -/
structure OarPkt where
  hdr : BitVec 256
  words : List Word
  rider : Nat
  /-- account of the rider: a core, or an engine's account -/
  core : Nat
  team : Option Nat
deriving DecidableEq, Repr

/-- A packet received before its link was started anew, which `rider` marks in a packet received: it is not acknowledged (R409). -/
def OarPkt.stale (p : OarPkt) : Bool := decide (p.rider ≠ 0)

/-- An oar link (R337 to R340, R409). -/
structure Oar where
  up : Bool
  retrain : Bool
  nextSeq : Nat
  unacked : List OarPkt
  sendq : List OarPkt
  recv : List OarPkt
  taken : List (Nat × List Nat)
  /-- headers of the acknowledgements sent, oldest first (R339) -/
  acks : List (BitVec 256)
  peer : Nat
  /-- consecutive retries of one flit, and that flit (R409) -/
  retries : Nat
  flit : Nat
  /-- time in ns at which retraining began -/
  since : Nat
deriving DecidableEq, Repr

/-- A link never trained. -/
def Oar.down : Oar := ⟨false, false, 0, [], [], [], [], [], 0, 0, 0, 0⟩
/-- LUP: trained and up (R338, R409). -/
def Oar.lup (o : Oar) : Bool := o.up && !o.retrain

/-- Requests of the device to the host (R336). -/
inductive HostOp where
  | read | write | flush
deriving DecidableEq, Repr

/-- A request to the host: the host link that carries it, function, address, bytes, words written, and the tag of one that is completed (R331, R332,
R336). Relaxed Ordering is never set. -/
structure HostReq where
  link : Nat
  func : Nat
  op : HostOp
  addr : Nat
  bytes : Nat
  data : List Word
  tag : Nat
deriving DecidableEq, Repr

/-- States of the hub's boot (R341, R412). -/
inductive Boot where
  | reset | romCheckA | romCheckB | fwStart | ready | halted | thermHalt
deriving DecidableEq, Repr

/-- Who acts in a turn (MODEL'S OWN): a core; the ring word `word` of element `pos` of a region's island, within an island's
step; the end of that step, at which every element's latches take their new values (R30); or an event. -/
inductive Who where
  | core (c : Nat)
  | element (reg isl pos : Nat) (slot : Place) (word : Nat)
  | latch (reg isl : Nat)
  | event (i : Instr) (arg : List Nat)
deriving DecidableEq, Repr

/-- One turn: how far device time advances, in half nanoseconds, and who acts. -/
structure Go where
  dt : Nat
  who : Who
deriving DecidableEq, Repr

/-- An element's context while its ring word executes (MODEL'S OWN). -/
structure ElCtx where
  reg : Nat
  isl : Nat
  pos : Nat
  /-- the operands selected by the tap word -/
  a : Beat
  b : Beat
  c : Beat
  /-- iteration of the slot -/
  iter : Nat
  /-- offset of the element's record in the image -/
  base : Nat
  squash : Bool
deriving DecidableEq, Repr

/-- No element. -/
def ElCtx.none : ElCtx := ⟨0, 0, 0, Beat.zero, Beat.zero, Beat.zero, 0, 0, false⟩

/-- The state of the package. -/
structure State where
  /-- device time in half nanoseconds -/
  now : Nat
  /-- offsets in ns of the copies of the time base: fabric dies 0 to 3, the hub, base dies of stacks 0 to 11 (R6, R20) -/
  skew : List Int
  turns : List Go
  ev : List Nat
  fresh : Nat
  cur : Nat
  curSlot : Nat
  /-- the bundle being issued, and whether it has passed its checks and holds (MODEL'S OWN) -/
  bundle : BitVec 128
  checked : Bool
  el : ElCtx
  mem : Memory
  cores : List Core
  teams : List Team
  /-- account sequences, 0 to 36 (R79) -/
  acct : Tab Nat
  /-- rendezvous requests on their way -/
  rvq : List RvReq
  /-- queue configuration words written and in force (R49, R50) -/
  qnew : Tab DWord
  qcfg : Tab DWord
  launches : List Launch
  drops : Tab Nat
  /-- configuration cache: 16 bytes at key ASID × 2^45 + address / 16 (R18, R40) -/
  ccache : Tab (Option (BitVec 128))
  /-- registers of BAR0 with reset value 0, by 8-byte piece -/
  bar0 : Tab DWord
  grantNew : Tab DWord
  grant : Tab DWord
  lndctl : Tab DWord
  frzctl : DWord
  wrej : DWord
  /-- functions whose reset waits for the ends of their teams (R396) -/
  flr : List Nat
  intst : Tab DWord
  inten : Tab DWord
  wdog : Tab DWord
  /-- messages sent, each with its link, function and vector (R332, R335) -/
  msix : List (Nat × Nat × Nat)
  fq : Tab (List (BitVec 512))
  lost : Tab Nat
  hostRead : DWord
  /-- requests sent to the host, oldest first, and the next tag of each link (R336) -/
  hostReqs : List HostReq
  hostTag : Tab Nat
  /-- Max_Payload_Size of a function, less 128, and its Max_Read_Request_Size, 0 for 512 (R331) -/
  mps : Tab Nat
  mrrs : Tab Nat
  trinvDone : Bool
  trinvTime : Nat
  trinvHeld : List (DWord × DWord)
  /-- virtual addresses [lo, hi) of the invalidation in progress (R94) -/
  trinvSpan : Nat × Nat
  /-- access reports per stack, and OVF (R95) -/
  reports : Tab (List Nat)
  ovf : Tab Bool
  acc16 : Tab Nat
  tick : Tab Nat
  /-- steps taken, cursor and mode of a course, key 8 × PC + course (R70, R72, R273) -/
  courseSteps : Tab Nat
  cursor : Tab Nat
  /-- tick number within the running step of a course in paced modes -/
  phase : Tab Nat
  pendMode : Tab Nat
  /-- boundary reached, part of the step still to take -/
  bv : Tab VWord
  contribs : List Contrib
  riders : List Rider
  nextId : Nat
  tlb : List Tlb
  walks : List Walk
  streams : List Strm
  /-- engine riders waiting to be admitted (R247, R318, R340): a rider to be translated -/
  waiting : List Rider
  eccBad : Tab Nat
  eccTime : Tab Nat
  nodes : Tab Node
  xtiles : Tab XTile
  xforms : Tab (List Xform)
  regions : List Region
  els : Tab El
  fifos : List Fifo
  /-- words delivered at stream ports, by 256 × team + 8 × core + port (R260, R271) -/
  portWords : Tab (List Word)
  /-- ports at which a failing cell has stopped the words (R389), by the same number -/
  portStop : Tab Bool
  toks : List Tok
  /-- deliveries in the retiming FIFOs of quadrant islands whose clocks pause, oldest first: team, core, local address, bytes, value (R22, R24) -/
  retime : List (Option Nat × Nat × Nat × Nat × Nat)
  seqs : List Turn
  oars : List Oar
  hostLinkUp : List Bool
  dieLinkUp : List Bool
  dieRetrain : List Bool
  /-- consecutive retries of one flit of a die link, that flit, and the time in ns at which its retraining began (R410) -/
  dieRetries : Tab Nat
  dieFlit : Tab Nat
  dieSince : Tab Nat
  boot : Boot
  fwsvn : Nat
  minSvn : Nat
  /-- the SHA-256 digest of the HSS public key, fused (R341) -/
  fuseKey : BitVec 256
  meas0 : BitVec 256
  meas1 : BitVec 256
  nonce : BitVec 256
  attest : Nat
  report : Memory
  sigUsed : Nat
  keySlots : Tab (BitVec 256)
  /-- a key command in progress; bit 62 once it has run -/
  keyBusy : Option DWord
  /-- cell metadata: cc and MAC (R346); generations and tree counters (R347) -/
  cellCc : Tab Nat
  cellMac : Tab Nat
  pageGen : Tab Nat
  treeCtr : Tab Nat
  treeKey : Tab Nat
  treeWait : Tab Bool
  alarm : DWord
  islFreq : Tab Nat
  islBudget : Tab Nat
  islThrot : Tab Nat
  islStamp : Tab Nat
  /-- end in ps of the pause of an island's clock, in progress or to come (R24) -/
  islHold : Tab Nat
  /-- device time in ps from which an island's cycles count at its present frequency, 0 from the start of time, and the cycles before it (R24) -/
  islFrom : Tab Nat
  islCount : Tab Nat
  /-- IFREQ as last published, 0 for 24 (R25) -/
  islShown : Tab Nat
  /-- value of the hub's time base at the last reassignment of budgets (R23) -/
  reassigned : Option Nat
  thermCap : List Bool
deriving DecidableEq, Repr

/-- The machine right after reset. The hub is held in Reset until HUB_RESET_RELEASE (R341). Values that the manual does not
give are those of log entries 2 to 10: zero, empty, links up, islands at 1,200 MHz. -/
def State.reset : State :=
  { now := 0, skew := List.replicate 17 0, turns := [], ev := [], fresh := 0, cur := 0, curSlot := 0, bundle := 0, checked := false, el := ElCtx.none, mem := [],
    cores := List.replicate 32 Core.empty, teams := [], acct := [], rvq := [], qnew := [], qcfg := [], launches := [],
    drops := [], ccache := [], bar0 := [], grantNew := [], grant := [], lndctl := [], frzctl := 0x640000,
    wrej := 0, flr := [], intst := [], inten := [], wdog := [], msix := [], fq := [], lost := [], hostRead := 0, hostReqs := [], hostTag := [], mps := [], mrrs := [], trinvDone := true,
    trinvTime := 0, trinvHeld := [], trinvSpan := (0, 0), reports := [], ovf := [], acc16 := [], tick := [], courseSteps := [], cursor := [],
    phase := [], pendMode := [], bv := [], contribs := [], riders := [], nextId := 0, tlb := [],
    walks := [], streams := [], waiting := [], eccBad := [], eccTime := [], nodes := [], xtiles := [], xforms := [],
    regions := [], els := [], fifos := [], portWords := [], portStop := [], toks := [], retime := [], seqs := [], oars := List.replicate 18 Oar.down,
    hostLinkUp := [true, true], dieLinkUp := List.replicate 10 true, dieRetrain := List.replicate 10 false, dieRetries := [], dieFlit := [], dieSince := [],
    boot := .reset, fwsvn := 0, minSvn := 0, fuseKey := 0, meas0 := 0, meas1 := 0, nonce := 0, attest := 0, report := [], sigUsed := 0,
    keySlots := [], keyBusy := none, cellCc := [], cellMac := [], pageGen := [], treeCtr := [], treeKey := [],
    treeWait := [], alarm := 0, islFreq := [], islBudget := [], islThrot := [], islStamp := [], islHold := [],
    islFrom := [], islCount := [], islShown := [], reassigned := none, thermCap := [false, false, false, false] }

end Sys2Proof.Machine
end

