-- ==== Sys2Proof/Machine/Ops.lean ====
section
/-! DEFINITION. The named operations over cores, memory, records and interrupts, and the taking of a trap with the return
from it (R209, R211, R354 to R364). -/

namespace Sys2Proof.Machine

/-! ## Cores -/

/-- Core `c`. -/
def State.core (s : State) (c : Nat) : Core := s.cores.getD c Core.empty
/-- Replace core `c`. -/
def State.setCore (s : State) (c : Nat) (v : Core) : State := { s with cores := s.cores.set c v }
/-- Change core `c`. -/
def State.modCore (s : State) (c : Nat) (f : Core → Core) : State := s.setCore c (f (s.core c))
/-- The core whose turn it is. -/
def State.me (s : State) : Core := s.core s.cur
/-- Change the core whose turn it is. -/
def State.modMe (s : State) (f : Core → Core) : State := s.modCore s.cur f

/-- Device time in ns (R6, R20). -/
def State.ns (s : State) : Nat := s.now / 2
/-- The copy of the time base on die `d`, 4 the hub (R6). -/
def State.dieNs (s : State) (d : Nat) : Nat := ((s.ns : Int) + s.skew.getD d 0).toNat % 2 ^ 64
/-- Device time in ps. -/
def State.ps (s : State) : Nat := 500 * s.now
/-- IFREQ of island `i` (R25): a fabric island's operating point, kept as 0 at its reset value of 1,200 MHz. -/
def State.islIfreq (s : State) (i : Nat) : Nat :=
  if i < 20 then (let v := Tab.get 0 s.islFreq i; if v = 0 then 24 else v) else if i = 20 then 0 else if i = 21 then 20 else 8
/-- The device time in ps at which the `n`-th cycle after `t` ends at `f` times 50 MHz. -/
def edgeAt (t f n : Nat) : Nat := t + (20000 * n + f - 1) / f
/-- Edges of the clock of island `i` so far (R19, R24). A change of frequency falls at an edge E, holds the clock until `islFrom` = E + 40 ns,
and the first edge at the new frequency is one of its periods later; `islCount` counts the edges up to and with E. -/
def State.cycle (s : State) (i : Nat) : Nat :=
  let t := Tab.get 0 s.islFrom i
  let n := Tab.get 0 s.islCount i
  if s.ps < t then (if s.ps + 40000 < t then n - 1 else n) else n + (s.ps - t) * s.islIfreq i / 20000
/-- The next edge of the clock of island `i`, in ps. -/
def State.nextEdge (s : State) (i : Nat) : Nat :=
  let t := Tab.get 0 s.islFrom i
  if s.ps + 40000 < t then t - 40000
  else if s.ps < t then edgeAt t (s.islIfreq i) 1
  else edgeAt t (s.islIfreq i) ((s.ps - t) * s.islIfreq i / 20000 + 1)
/-- The clock of island `i` pauses: no latch of the island changes (R24). -/
def State.paused (s : State) (i : Nat) : Bool := decide (Tab.get 0 s.islHold i ≠ 0 ∧ Tab.get 0 s.islHold i ≤ s.ps + 40000)
/-- Die links: 0 to 3 join fabric die d to the hub, 4 to 9 the pairs of fabric dies (R10); 4 is the hub. -/
def dieLinkEnds : Nat → Nat × Nat
  | 4 => (0, 1)
  | 5 => (0, 2)
  | 6 => (0, 3)
  | 7 => (1, 2)
  | 8 => (1, 3)
  | 9 => (2, 3)
  | d => (d, 4)
/-- What die `a` would have sent to die `b` at time `t` or later in ns waits: a link between them retrains since then, and sends no packet
(R409, R410; log entry 108). -/
def State.dieHeld (s : State) (a b t : Nat) : Bool :=
  (List.range 10).any (fun l => s.dieRetrain.getD l false && decide ((dieLinkEnds l = (a, b) ∨ dieLinkEnds l = (b, a)) ∧ Tab.get 0 s.dieSince l ≤ t))
/-- The quadrant island of core `c` and of the reach that it serves (R21). -/
def coreIsl (c : Nat) : Nat := 5 * (c / 8) + c % 8 / 2
/-- The cycle from which something goes on that could from cycle `due` on: `due` itself if that is less than 4 cycles ago, so that no cycle
is lost between two turns of the unit (log entry 20); else now. -/
def State.goOn (s : State) (c due : Nat) : Nat := if s.cycle (coreIsl c) < due + 4 then due else s.cycle (coreIsl c)
/-- Argument `n` of the event that runs. -/
def State.arg (s : State) (n : Nat) : Nat := s.ev.getD n 0
/-- Put an event at the head of the turns: it follows this step at once. -/
def State.post (s : State) (i : Instr) (a : List Nat) : State := { s with turns := ⟨0, .event i a⟩ :: s.turns }

/-- Register xn of plane `p`; x0 reads zero (R162). -/
def Core.rx (c : Core) (p n : Nat) : DWord := if n = 0 then 0 else Tab.get 0 c.x (128 * p + n)
/-- Register vn of plane `p`. -/
def Core.rv (c : Core) (p n : Nat) : VWord := Tab.get 0 c.v (64 * p + n)
/-- Predicate pn; p0 reads all ones (R162). -/
def Core.rp (c : Core) (n : Nat) : BitVec 16 := if n = 0 then 0xFFFF else Tab.get 0 c.p n
/-- Write xn of plane `p`; a write to x0 is discarded; its line becomes dirty (R117, R162). -/
def Core.wx (c : Core) (p n : Nat) (v : DWord) : Core :=
  if n = 0 then c else { c with x := Tab.set 0 c.x (128 * p + n) v, dirty := Tab.set false c.dirty (16 * p + n / 8) true }
/-- Write vn of plane `p`; its line becomes dirty (R117). -/
def Core.wv (c : Core) (p n : Nat) (v : VWord) : Core :=
  { c with v := Tab.set 0 c.v (64 * p + n) v, dirty := Tab.set false c.dirty (64 + 8 * p + n / 8) true }
/-- Write pn; a write to p0 is discarded. -/
def Core.wp (c : Core) (n : Nat) (v : BitVec 16) : Core := if n = 0 then c else { c with p := Tab.set 0 c.p n v }
/-- OR flags into FLAGS (R136). -/
def Core.orFlags (c : Core) (f : FlagSet) : Core := { c with flags := c.flags ||| f.setWidth 64 }

/-- Lane `n` of a vector value (R215). -/
def lane (v : VWord) (n : Nat) : Nat := v.toNat / 2 ^ (32 * n) % 2 ^ 32
/-- A vector from its 16 lanes. -/
def ofLanes (l : List Nat) : VWord := BitVec.ofNat 512 (packCodes 32 l)
/-- A 512-bit mask with the bits of each lane named by the 16-bit mask `m`. -/
def laneMask (m : Nat) : VWord := ofLanes ((List.range 16).map (fun n => if bit m n then 0xFFFFFFFF else 0))
/-- `new` in the lanes of `m`, `old` elsewhere. -/
def mergeLanes (m : Nat) (old new : VWord) : VWord := (old &&& ~~~(laneMask m)) ||| (new &&& laneMask m)

/-- The planes of a write. -/
def Wr.plane (w : Wr) : Nat → BitVec 512
  | 0 => w.p0
  | 1 => w.p1
  | 2 => w.p2
  | _ => w.p3

/-- Bits of a CSR that a write keeps (R208, R373). -/
def csrMask : Nat → DWord
  | 0x00 => 0x7F
  | 0x08 => 0xFFFFFFFFFFFFFFF0
  | 0x0A => 0x3FF
  | 0x0C => 3
  | 0x0E => 7
  | _ => 0xFFFFFFFFFFFFFFFF

/-- Write a CSR of R208. -/
def Core.putCsr (c : Core) (n : Nat) (v0 : DWord) : Core :=
  let v := v0 &&& csrMask n
  match n with
  | 0x00 => { c with flags := v }
  | 0x08 => { c with tvec := v }
  | 0x09 => { c with tepc := v }
  | 0x0A => { c with tcause := v }
  | 0x0B => { c with tval := v }
  | 0x0C => { c with tdly := v }
  | 0x0D => { c with ttgt := v }
  | 0x0E => { c with tstat := v }
  | 0x10 => { c with lc := v }
  | 0x11 => { c with lstart := v }
  | 0x12 => { c with lend := v }
  | 0x14 => { c with stimeo := v }
  | _ => c

/-- Read a CSR of R208; `time`, team size and core number come from outside the core. -/
def Core.getCsr (c : Core) (n time num size : Nat) : DWord :=
  match n with
  | 0x00 => c.flags
  | 0x01 => BitVec.ofNat 64 time
  | 0x02 => BitVec.ofNat 64 (num + 256 * c.member + 65536 * size)
  | 0x03 => c.regbase
  | 0x04 => BitVec.ofNat 64 (c.ax + 256 * c.av + 65536 * c.lx + 16777216 * c.lv + 2 ^ 32 * c.k)
  | 0x08 => c.tvec
  | 0x09 => c.tepc
  | 0x0A => c.tcause
  | 0x0B => c.tval
  | 0x0C => c.tdly
  | 0x0D => c.ttgt
  | 0x0E => c.tstat
  | 0x10 => c.lc
  | 0x11 => c.lstart
  | 0x12 => c.lend
  | 0x14 => c.stimeo
  | _ => 0

/-- Zero registers `lo .. lo + n - 1` of planes `p0 .. p0 + np - 1`, their lines dirty (R117, R213, R301). -/
def Core.zeroX (c : Core) (ps : List Nat) (lo n : Nat) : Core :=
  ps.foldl (fun c p => (List.range n).foldl (fun c i => c.wx p (lo + i) 0) c) c
/-- As `zeroX`, for vector registers. -/
def Core.zeroV (c : Core) (ps : List Nat) (lo n : Nat) : Core :=
  ps.foldl (fun c p => (List.range n).foldl (fun c i => c.wv p (lo + i) 0) c) c

/-- A released register (R213). -/
def released (cur launch n : Nat) : Bool := cur ≤ n ∧ n < launch

/-- What fn 1, 2 or 3 of R208 makes of a CSR, as it stands at the landing step, with `v`: CSRW, CSRS, CSRC. -/
def csrOp (fn : Nat) (old v : DWord) : DWord :=
  match fn with
  | 2 => old ||| v
  | 3 => old &&& ~~~v
  | _ => v

/-- One write lands (R169, R213, R215, R303): every target in its lanes and planes; flags with it (R136). -/
def Core.land1 (c : Core) (w : Wr) : Core :=
  if w.poison then c
  else
    let c := c.orFlags w.fl
    let planes := (List.range 4).filter (bit w.pmask)
    match w.dst with
    | .x n =>
      if n ≠ 0 ∧ released c.ax c.lx n then c.orFlags fLostwr
      else planes.foldl (fun c p => c.wx p n ((w.plane p).setWidth 64)) c
    | .v n =>
      if released c.av c.lv n then c.orFlags fLostwr
      else planes.foldl (fun c p => c.wv p n (mergeLanes w.lmask (c.rv p n) (w.plane p))) c
    | .p n => if bit w.pmask 0 then c.wp n (w.p0.setWidth 16) else c
    | .flags => c
    | .csr n fn => c.putCsr n (csrOp fn (c.getCsr n 0 0 0) (w.p0.setWidth 64))
    | .tplane n =>
      let a := w.p0.toNat
      { c with tplane := Tab.set TPlane.absent c.tplane n ⟨bit a 63, bits a 49 48, bits a 19 0, bits w.p1.toNat 12 0⟩ }
    | .allotX n g =>
      let m := if g then min n c.lx else n
      if g then (if m ≤ c.ax then c else (fun (k : Core) => { k with ax := m }) (c.zeroX [0, 1, 2, 3] c.ax (m - c.ax)))
      else if c.ax ≤ m then c else { c with ax := m }
    | .allotV n g =>
      let m := if g then min n c.lv else n
      if g then (if m ≤ c.av then c else (fun (k : Core) => { k with av := m }) (c.zeroV [0, 1, 2, 3] c.av (m - c.av)))
      else if c.av ≤ m then c else { c with av := m }
    | .ry n => { c with ry := Tab.set Ry.empty c.ry n ⟨BitVec.ofNat 64 w.lmask, w.p0, w.p1, w.p2, w.p3⟩ }
    | .loop => { c with lc := w.p0.setWidth 64, lstart := w.p1.setWidth 64, lend := w.p2.setWidth 64 }
    | .dual n =>
      let ps := (List.range 4).filter (fun p => 1 ≤ p ∧ p ≤ n)
      let c := (c.zeroX ps 1 (c.ax - 1)).zeroV ps 0 c.av
      { c with k := n }

/-- Insert a write behind every write that lands no later. -/
def insWr (w : Wr) : List Wr → List Wr
  | [] => [w]
  | a :: t => if w.due < a.due then w :: a :: t else a :: insWr w t

/-- A change of allotment (R213): it takes effect before the writes that land in its step. -/
def Wr.allots (w : Wr) : Bool :=
  match w.dst with
  | .allotX _ _ => true
  | .allotV _ _ => true
  | _ => false

/-- Insert a write behind every write of an earlier issue step, or of an earlier slot of the same one. -/
def insIss (w : Wr) : List Wr → List Wr
  | [] => [w]
  | a :: t => if w.iss < a.iss ∨ (w.iss = a.iss ∧ w.slot < a.slot) then w :: a :: t else a :: insIss w t

/-- Land every write that is due and not waiting for its access (R199, R213), in issue order: of two to one register the later-issued wins, and
within one bundle the later slot (R169). -/
def Core.land (c : Core) : Core :=
  let due := (c.pend.filter (fun w => decide (w.due ≤ c.step) && w.wait.isNone)).foldl (fun l w => insIss w l) []
  (due.filter Wr.allots ++ due.filter (fun w => !w.allots)).foldl Core.land1
    { c with pend := c.pend.filter (fun w => !(decide (w.due ≤ c.step) && w.wait.isNone)) }

/-- A write of R192 (register, predicate or FLAGS). A load to x0 that waits for its access (R199) writes nothing. -/
def Wr.counts (w : Wr) : Bool :=
  match w.dst with
  | .x n => n ≠ 0
  | .v _ => true
  | .p _ => true
  | .flags => true
  | .csr n _ => n = 0
  | _ => false

/-- Planes 0 to k. -/
def planesMask (k : Nat) : Nat := 2 ^ (k + 1) - 1

/-- Queue a write of the core whose turn it is, `lat` steps ahead. -/
def State.putW (s : State) (lat : Nat) (d : Dst) (ps : List (BitVec 512)) (lmask pmask : Nat) (fl : FlagSet)
    (wait : Option Nat := none) (poison : Bool := false) : State :=
  s.modMe (fun c =>
    let w : Wr :=
      { due := c.step + lat, iss := c.step, slot := s.curSlot, dst := d, kp := c.k, lmask := lmask, pmask := pmask,
        p0 := ps.getD 0 0, p1 := ps.getD 1 0, p2 := ps.getD 2 0, p3 := ps.getD 3 0, fl := fl, wait := wait, poison := poison }
    { c with pend := insWr w c.pend })

/-- A scalar result at +lat; its tangents are zero bits unless `ts` gives them (R310). A result for x0 leaves only flags. -/
def State.putX (s : State) (lat d : Nat) (v : DWord) (fl : FlagSet := 0) (ts : List DWord := []) : State :=
  if d = 0 then (if fl = 0 then s else s.putW lat .flags [] 0xFFFF (planesMask s.me.k) fl)
  else s.putW lat (.x d) (v.setWidth 512 :: ts.map (BitVec.setWidth 512)) 0xFFFF (planesMask s.me.k) fl

/-- A result of a divide form, with the flags it may raise. For x0 the write of FLAGS alone stands in flight whether or not it raises
one: how many writes are in flight depends on the instructions only (R192, R194). -/
def State.putDiv (s : State) (d : Nat) (v : DWord) (fl : FlagSet) : State :=
  if d = 0 then s.putW 12 .flags [] 0xFFFF (planesMask s.me.k) fl else s.putX 12 d v fl

/-- A vector result at +lat in the lanes of `m`, with its tangent planes (R215, R303). -/
def State.putV (s : State) (lat d m : Nat) (vs : List VWord) (fl : FlagSet := 0) : State :=
  s.putW lat (.v d) vs m (planesMask s.me.k) fl

/-- A predicate result at +lat. -/
def State.putP (s : State) (lat d : Nat) (v : BitVec 16) : State :=
  if d = 0 then s else s.putW lat (.p d) [v.setWidth 512] 0xFFFF (planesMask s.me.k) 0

/-- CSRW, CSRS or CSRC, fn 1 to 3, of CSR `n` with `v`, at +1 (R208). -/
def State.putCsr (s : State) (fn n : Nat) (v : DWord) : State := s.putW 1 (.csr n fn) [v.setWidth 512] 0xFFFF 1 0

/-- Memory once the stores of the bundle being issued are performed, in slot order (R145). -/
def State.memStored (s : State) : Memory := s.me.stores.foldl (fun m w => m.writeN w.1 w.2.1 w.2.2) s.mem

/-! ## Addresses -/

/-- Memory address of byte 0 of core `c`'s cox store. -/
def coxBase (c : Nat) : Nat := 2 ^ 40 + c * 2 ^ 20
/-- Memory address of byte 0 of node `key` = die, tile_x, tile_y, index as in bits [29:13] of R99. -/
def nodeBase (key : Nat) : Nat := 2 ^ 41 + key * 8192
/-- Memory address of accumulator `a` of X tile `u` = 32 × core + xt. -/
def accBase (u a : Nat) : Nat := 2 ^ 42 + u * 65536 + a * 16384
/-- Memory address of operand buffer `b` (XA0, XA1, XB0, XB1) of X tile `u`. -/
def bufBase (u b : Nat) : Nat := 2 ^ 42 + u * 65536 + 32768 + b * 8192
/-- Memory address of stamp cell `i` of function `f` (R53). -/
def cellAddr (f i : Nat) : Nat := 2 ^ 43 + f * 65536 + 8 * i
/-- Memory address of byte `o` of the MSI-X table of function `f` (R333). -/
def msixAddr (f o : Nat) : Nat := 2 ^ 43 + 2 ^ 32 + f * 4096 + o

/-- The kind of tile of R13. -/
inductive TileKind where
  | C | M | X | A | V | E
deriving DecidableEq, Repr

/-- Tile kinds by column and row within the reach (R13). -/
def tileKind (tx ty : Nat) : TileKind :=
  let cx := tx % 16
  let cy := ty % 16
  if cx ∈ [0, 1, 3, 4, 8, 9, 11, 12] then .C
  else if cx ∈ [2, 5, 10, 13] then .M
  else if cx = 6 ∨ cx = 14 then .X
  else if cy ≤ 11 then .A
  else if cy ≤ 14 then .V
  else .E

/-- The reach of a tile (R5), and the core that serves it. -/
def coreOfTile (die tx ty : Nat) : Nat := 8 * die + 2 * (ty / 16) + tx / 16

/-- Node key of a local address with SP = 1. -/
def keyOf (la : Nat) : Nat := la / 8192 % 2 ^ 17
/-- The core that serves a node. -/
def keyCore (key : Nat) : Nat := coreOfTile (key / 2 ^ 15) (key / 2 ^ 10 % 32) (key / 16 % 64)
/-- The kind of the tile that a node key names. -/
def keyKind (key : Nat) : TileKind := tileKind (key / 2 ^ 10 % 32) (key / 16 % 64)
/-- Node `key`'s control. -/
def State.node (s : State) (key : Nat) : Node := Tab.get Node.free s.nodes key
/-- Change node `key`'s control. -/
def State.modNode (s : State) (key : Nat) (f : Node → Node) : State :=
  { s with nodes := Tab.mod Node.free s.nodes key f }

/-- A well-formed local address of R99 with `SP` as found. -/
def localOk (la : Nat) : Bool :=
  decide (la < 2 ^ 32) && (if bit la 31 then !bit la 30 else decide (bits la 30 20 = 0))

/-- Node that core `c` may reach (R151, R377). -/
def State.nodeReach (s : State) (c key : Nat) : Bool :=
  decide (keyKind key = .M) && decide (keyCore key = c) && ((s.node key).owner.isNone || (s.node key).shared)

/-- The save or the fill of team `t`'s member on core `c` is under way (R120). -/
def State.moving (s : State) (t c : Nat) : Bool := (s.riders ++ s.waiting).any (fun q => decide (q.owner = .context t c))

/-- Bytes of the cox store that a context saves (R64). -/
def Team.csBytes (tm : Team) : Nat := (tm.csb + 4095) / 4096 * 4096

/-- Team `t`'s member on core `c` is there: not switched out, nor about to be restored. -/
def State.present (s : State) (t : Option Nat) (c : Nat) : Bool := decide ((s.core c).team = t ∧ (s.core c).run ≠ .switchedOut)

/-- `n` bytes of core `c`'s cox store. -/
def State.coxRead (s : State) (c off n : Nat) : Nat := s.mem.readN (coxBase c + off) n

/-- A stamp in the layout of R82. -/
def stampWord (status seq time : Nat) : Nat := status % 256 * 2 ^ 56 + seq % 256 * 2 ^ 48 + time % 2 ^ 48

/-! ## Interrupts and fault records -/

/-- The host link that carries function `f` (R332). -/
def State.linkOf (s : State) (f : Nat) : Nat :=
  if f = 0 then b2n (bit (Tab.get 0 s.bar0 0).toNat 16) else if f ≤ 32 then 0 else 1

/-- The windows of function `f` can be reached: a virtual function's through its own link, the physical function's through either (R332, R407). -/
def State.hostReaches (s : State) (f : Nat) : Bool := if f = 0 then s.hostLinkUp.any (fun u => u) else s.hostLinkUp.getD (s.linkOf f) true

/-- Vector of each INTST bit (R335). -/
def vectorBits : Nat → Nat
  | 0 => 1
  | 1 => 2
  | 2 => 4
  | _ => 24

/-- Set INTST and INTEN of function `f`, sending the messages of R335. -/
def State.setInt (s : State) (f : Nat) (st en : DWord) : State :=
  let old := (Tab.get 0 s.intst f &&& Tab.get 0 s.inten f).toNat
  let new := (st &&& en).toNat
  let fire := (List.range 4).filter (fun v => decide (old &&& vectorBits v = 0) && decide (new &&& vectorBits v ≠ 0))
  { s with intst := Tab.set 0 s.intst f st, inten := Tab.set 0 s.inten f en,
           msix := if s.hostLinkUp.getD (s.linkOf f) true then s.msix ++ fire.map (fun v => (s.linkOf f, f, v)) else s.msix }

/-- Set one INTST bit (R335). -/
def State.raiseInt (s : State) (f b : Nat) : State :=
  s.setInt f (Tab.get 0 s.intst f ||| BitVec.ofNat 64 (2 ^ b)) (Tab.get 0 s.inten f)

/-- The fields of a fault record (R354). -/
structure RecF where
  time : Nat := 0
  code : Nat
  sk : Nat
  evt : Bool := false
  rank : Nat := 0
  fli : Nat := 0
  func : Nat := 0
  loc : Nat := 0
  scnt : Nat := 0
  cyc : Nat := 0
  isl : Nat := 0
  core : Nat := 0
  op0 : Nat := 0
  op1 : Nat := 0
  op2 : Nat := 0
  op3 : Nat := 0

/-- The 64 bytes of a fault record (R354). -/
def RecF.pack (r : RecF) : BitVec 512 :=
  BitVec.ofNat 512 (r.op0 % 2 ^ 64 + 2 ^ 64 * (r.op1 % 2 ^ 64) + 2 ^ 128 * (r.op2 % 2 ^ 64) + 2 ^ 192 * (r.op3 % 2 ^ 64)
    + 2 ^ 272 * (r.core % 256) + 2 ^ 280 * (r.isl % 256) + 2 ^ 288 * (r.cyc % 65536) + 2 ^ 304 * (r.scnt % 2 ^ 48)
    + 2 ^ 352 * (r.loc % 2 ^ 64) + 2 ^ 416 * (r.func % 256) + 2 ^ 424 * (r.fli % 256) + 2 ^ 432 * (r.rank % 8)
    + 2 ^ 435 * b2n r.evt + 2 ^ 436 * (r.sk % 16) + 2 ^ 440 * (r.code % 256) + 2 ^ 448 * (r.time % 2 ^ 64))

/-- A field [hi:lo] of a record. -/
def recBits (r : BitVec 512) (hi lo : Nat) : Nat := bits r.toNat hi lo
/-- A record with RANK 7 (R363), and its code and OP0 where they change. -/
def recRank7 (r : BitVec 512) : BitVec 512 := r ||| (7 : BitVec 512) <<< 432

/-- Append a record to the queue of its function and set INTST.FAULT; a full queue counts it as lost (R357). -/
def State.queueRec (s : State) (r : BitVec 512) : State :=
  let f := recBits r 423 416
  let q := Tab.get [] s.fq f
  if q.length < 64 then { s with fq := Tab.set [] s.fq f (q ++ [r]) }.raiseInt f 2
  else { s with lost := Tab.set 0 s.lost f (min 0xFFFFFFFF (Tab.get 0 s.lost f + 1)) }

/-! ## Teams -/

/-- Team number `t`. -/
def State.team? (s : State) (t : Nat) : Option Team := s.teams[t]?
/-- Change team `t`. -/
def State.modTeam (s : State) (t : Nat) (f : Team → Team) : State := { s with teams := s.teams.modify t f }
/-- The team of core `c`. -/
def State.teamOf (s : State) (c : Nat) : Option Team := (s.core c).team.bind s.team?
/-- Function, ASID and team size of core `c`. -/
def State.funcOf (s : State) (c : Nat) : Nat := ((s.teamOf c).map Team.func).getD 0
/-- Address space of core `c`. -/
def State.asidOf (s : State) (c : Nat) : Nat := ((s.teamOf c).map Team.asid).getD 0

/-- The records of faults that wait for the members of team `tm`, switched out or not (R357). -/
def State.waitingRecs (s : State) (t : Nat) (tm : Team) : List (BitVec 512) :=
  (tm.cores.flatMap (fun c => if (s.core c).team = some t then (s.core c).trapq.map Trap.rcd else []))
    ++ tm.saved.flatMap (fun k => k.trapq.map Trap.rcd)

/-- The management core takes a team in hand (R364): its members stop at once, writes in flight are discarded, the records that wait
for a member's boundary are appended to their queues (R357), and TEAM_END follows this step. A team that is ending already goes on
ending. -/
def State.endTeam (s : State) (t status code : Nat) : State :=
  match s.team? t with
  | none => s
  | some tm =>
    if tm.ending.isSome ∨ tm.st = .ended then s
    else
      let s := (s.waitingRecs t tm).foldl State.queueRec s
      let s := s.modTeam t (fun tm => { tm with ending := some (status, code), saved := tm.saved.map (fun k => { k with trapq := [] }) })
      let s := if tm.st = .out then s
        else tm.cores.foldl (fun s c => s.modCore c (fun k => { k with run := .stopped, pend := [], trapq := [] })) s
      s.post .teamEnd [t]

/-! ## Traps -/

/-- LOC of a bundle and slot of core `c` (R355). -/
def coxLoc (c : Nat) (pc : Nat) (slot : Nat) : Nat := pc % 2 ^ 49 * 2 ^ 15 + slot * 8192 + c * 256

/-- The fields of a record of core `c`'s own whatever its place and operands. -/
def State.coreRecF (s : State) (c code : Nat) : RecF := { time := s.dieNs (c / 8), code := code, sk := 0, func := s.funcOf c, core := c }
/-- The record of a fault of core `c`'s own (R372). -/
def State.coreRec (s : State) (c code slot op0 op1 op2 : Nat) : BitVec 512 :=
  { s.coreRecF c code with loc := coxLoc c (s.core c).pc.toNat slot, op0 := op0, op1 := op1, op2 := op2 }.pack

/-- An arrival has been sent and its reply has not come (R203). -/
def Held.awaits (h : Held) : Bool := h.sent && h.reply.isNone && h.refusal.isNone

/-- A trap takes the bundle at pc out of its hold (R419): an arrival that it has sent is kept for it, so that the bundle, evaluated afresh after RETT,
makes no second one (R46, R203; log entry 34). A refused arrival was none. -/
def Core.breakHold (c : Core) : Core :=
  let l := c.arrs.filter (fun x => decide (x.1 ≠ c.pc))
  { c with hold := Held.none, arrs := if c.hold.sent ∧ c.hold.refusal = none then (c.pc, { Held.none with sent := true, reply := c.hold.reply, told := c.hold.told }) :: l else l }

/-- The hub's answer to an arrival that holds issue: to the oldest that awaits one, since a core's operations are applied in issue order (R203). -/
def Core.answer (c : Core) (f : Held → Held) : Core :=
  match c.arrs.reverse.find? (fun x => x.2.awaits) with
  | some x => { c with arrs := c.arrs.map (fun y => if y = x then (x.1, f x.2) else y) }
  | none => { c with hold := f c.hold }

/-- The hub's reply or refusal has reached core `c`: no die link on its way has retrained since it was given (R410). -/
def State.heard (s : State) (c : Nat) : Bool := !s.dieHeld 4 (c / 8) (s.core c).hold.told

/-- Core `c` stands still: the clock of its quadrant island pauses (R24), or the hub's word that its team starts or goes on has not come to it, since a
die link retrains (R410). -/
def State.coreStill (s : State) (c : Nat) : Bool :=
  s.paused (coreIsl c) || (((s.core c).team.bind s.team?).any (fun tm => s.dieHeld 4 (c / 8) tm.since))

/-- A trap can be taken (R363). -/
def Core.canTrap (c : Core) : Bool := decide (c.tvec ≠ 0) && !c.tstat.getLsbD 0 && decide (c.run = .running)

/-- Every access that core `c` has issued to a node is performed (R209). -/
def State.quiet (s : State) (c : Nat) : Bool :=
  s.nodes.all (fun e => e.2.queue.all (fun r => decide (r.src ≠ c)))

/-- A write in a replay register (R210), `left` the steps remaining. DESIGN CHOICE: the layout names no place for what CSRW, CSRS and CSRC do to FLAGS;
the fn stands in NUM of KIND 3, with its operand as the value (log entry 127). -/
def Ry.ofWr (w : Wr) (left : Nat) : Ry :=
  let kn : Nat × Nat := match w.dst with
    | .x n => (0, n)
    | .v n => (1, n)
    | .p n => (2, n)
    | .csr _ fn => (3, fn)
    | _ => (3, 0)
  ⟨BitVec.ofNat 64 (2 ^ 63 + kn.1 * 2 ^ 60 + kn.2 * 2 ^ 53 + left % 32 * 2 ^ 48 + w.fl.toNat * 2 ^ 41 + w.kp % 4 * 2 ^ 39
    + w.lmask % 65536 * 2 ^ 23 + w.pmask % 16 * 2 ^ 19), w.p0, w.p1, w.p2, w.p3⟩

/-- Remove from a write what a later-issued write to the same register, landing in the same step, takes over (R169). -/
def Wr.under (w w' : Wr) : Wr :=
  if w.dst = w'.dst ∧ w.due = w'.due ∧ (w.iss < w'.iss ∨ (w.iss = w'.iss ∧ w.slot < w'.slot)) then
    if w.lmask &&& w'.lmask = w.lmask then { w with pmask := w.pmask &&& (15 - w'.pmask % 16) }
    else if w.pmask &&& w'.pmask = w.pmask then { w with lmask := w.lmask &&& (65535 - w'.lmask % 65536) }
    else w
  else w

/-- Insert in ascending landing step, then slot (R209). -/
def insBySlot (w : Wr) : List Wr → List Wr
  | [] => [w]
  | a :: t => if w.due < a.due ∨ (w.due = a.due ∧ w.slot % 4 < a.slot % 4) then w :: a :: t else a :: insBySlot w t

/-- Snapshot the writes in flight into the replay registers (R209); a write to a CSR other than FLAGS still lands (it is not
a write of R192 and has no replay register). A write whose value is lost never lands (R390), so no replay register holds it. -/
def Core.snapshot (c : Core) : Core :=
  let live := c.pend.filter (fun w => w.counts && !w.poison)
  let ws := live.foldl (fun l w => insBySlot (live.foldl Wr.under w) l) []
  let ry := (List.range 32).foldl (fun t n =>
    Tab.set Ry.empty t n (match ws[n]? with | some w => Ry.ofWr w (w.due - c.step) | none => Ry.empty)) []
  { c with ry := ry, pend := c.pend.filter (fun w => !w.counts) }

/-- What is done at step sW of a trap (R209): land, snapshot, write the trap CSRs, leave tangent mode, and start the handler
so that its first bundle issues at sW + 3. -/
def Core.enterHandler (c : Core) : Core :=
  match c.taking with
  | none => c
  | some (code, slot, tv) =>
    let c := c.snapshot
    { c with tepc := c.pc, tdly := BitVec.ofNat 64 c.delayLeft, ttgt := c.target,
             tstat := BitVec.ofNat 64 (1 + 2 * c.k), k := 0, tcause := BitVec.ofNat 64 (code % 256 + 256 * slot), tval := tv,
             pc := c.tvec, delayLeft := 0, target := 0, run := .running, idle := 3, taking := none }

/-- HANDLER_START: once every access of the waiting core is performed, what is due by then lands and the trap is taken (R209); not while the core
stands still (R24). -/
def State.handlerStart (s : State) (c : Nat) : State :=
  let k := s.core c
  if k.run = .trapWait ∧ s.coreStill c = false ∧ s.quiet c ∧ k.pend.all (fun w => w.wait.isNone) then
    s.setCore c k.land.enterHandler
  else s

/-- A fault that its core cannot take escalates (R363): its record is queued with RANK 7, and team `t` ends FAULTED (R364). -/
def State.escalate (s : State) (t : Option Nat) (r : BitVec 512) : State :=
  let s := s.queueRec (recRank7 r)
  match t with
  | some t => s.endTeam t 0x04 (recBits r 447 440)
  | none => s

/-- TAKING AN EXCEPTION (R209, R357, R363): a trap with cause `code`, `slot` and operand reaches core `c` at its next bundle.
Where it cannot be taken, it escalates: the record is queued with RANK 7 and the team ends (R363, R364). -/
def State.takeTrap (s : State) (c code slot : Nat) (tv : DWord) (r : Option (BitVec 512)) : State :=
  if (s.core c).canTrap then
    let s := match r with
      | some r =>
        let s := s.queueRec r
        { s with mem := s.mem.writeN (coxBase c + 0xFFFC0) 64 r.toNat }
      | none => s
    (s.modCore c (fun k => { k.breakHold with run := .trapWait, taking := some (code, slot, tv) })).handlerStart c
  else
    s.escalate (s.core c).team (match r with
      | some r => r
      | none => s.coreRec c 0x1D 0 (code - 0x80) 0 0)

/-- The trap of a fault with record `r`: its slot is that of the syllable in LOC where a core is the source, else 0 (R355, R363). -/
def trapOf (r : BitVec 512) : Trap := ⟨recBits r 447 440, if recBits r 439 436 = 0 then recBits r 366 365 else 0, r⟩

/-- A fault of the unit class reaches core `c` at its next bundle boundary (R356); after EXIT it escalates (R363). A core whose team
is being ended takes it no more: its record is queued (R357). -/
def State.unitTrap (s : State) (c : Nat) (r : BitVec 512) : State :=
  if (s.core c).run = .exited then s.escalate (s.core c).team r
  else if (s.core c).run = .stopped then s.queueRec r
  else s.modCore c (fun k => { k with trapq := k.trapq ++ [trapOf r] })

/-- Change the context of team `t`'s member on core `c`, wherever it stands; nothing where the team is gone. -/
def State.modContext (s : State) (t : Option Nat) (c : Nat) (f : Core → Core) : State :=
  if s.present t c then s.modCore c f
  else match t with
    | none => s
    | some n => s.modTeam n (fun tm => { tm with saved := tm.saved.modify (tm.cores.idxOf c) f })

/-- A fault for team `t`'s member on core `c` (R356): it traps, at once or when it is switched in again, and escalates where the member
has exited (R363); the record of a team that is gone or is being ended is queued alone. -/
def State.trapTo (s : State) (t : Option Nat) (c : Nat) (r : BitVec 512) : State :=
  if s.present t c then s.unitTrap c r
  else match t.bind s.team? with
    | some tm =>
      if tm.st = .ended ∨ tm.ending.isSome = true then s.queueRec r
      else if (tm.saved.getD (tm.cores.idxOf c) Core.empty).run = .exited then s.escalate t r
      else s.modContext t c (fun k => { k with trapq := k.trapq ++ [trapOf r] })
    | none => s.queueRec r

/-- The write that a replay register holds, landing REM steps after step `step`, as if issued last of step `iss`: with RETT's bundle (R211), or before the
first bundle that a switched-in core issues (R67). -/
def Ry.toWr (y : Ry) (step iss : Nat) : Option Wr :=
  let h := y.hdr.toNat
  let n := bits h 59 53
  let dst : Option Dst := match bits h 62 60 with
    | 0 => some (if n = 0 then .flags else .x n)
    | 1 => some (.v (n % 64))
    | 2 => some (.p (n % 16))
    | 3 => some (if 1 ≤ n ∧ n ≤ 3 then .csr 0 n else .flags)
    | _ => none
  if bit h 63 then
    dst.map (fun d =>
      { due := step + bits h 52 48, iss := iss, slot := 4, dst := d, kp := bits h 40 39, lmask := bits h 38 23,
        pmask := bits h 22 19, p0 := y.p0, p1 := y.p1, p2 := y.p2, p3 := y.p3, fl := BitVec.ofNat 7 (bits h 47 41), wait := none, poison := false })
  else none

/-- THE RETURN FROM A TRAP (R211): k and INH restored, the bundle at TEPC next with its delay bundles owed, and every valid
replay register's write in flight again; an arrival that this bundle had sent counts as sent (R203). -/
def Core.returnTrap (c : Core) : Core :=
  let ws := (List.range 32).filterMap (fun n => (Tab.get Ry.empty c.ry n).toWr c.step c.step)
  let a := c.arrs.find? (fun x => decide (x.1 = c.tepc))
  { c with hold := a.elim c.hold Prod.snd, arrs := c.arrs.filter (fun x => decide (some x ≠ a)), k := bits c.tstat.toNat 2 1, tstat := c.tstat &&& ~~~1, pc := c.tepc, delayLeft := (c.tdly &&& 3).toNat,
           target := c.ttgt, pend := ws.foldl (fun l w => insWr w l) c.pend }

end Sys2Proof.Machine
end

