-- ==== Sys2Proof/Machine/Named.lean ====
section
/-! DEFINITION. The registers that a syllable names, in rising position of their fields (R374), and the writes it adds (R192). -/

namespace Sys2Proof.Machine

/-- Registers named: kind 0 for x, 1 for v, with the number (R374). -/
def namedRegs : Instr → List (Nat × Nat)
  | .add d a b => [(0, b), (0, a), (0, d)]
  | .sub d a b => [(0, b), (0, a), (0, d)]
  | .and d a b => [(0, b), (0, a), (0, d)]
  | .or d a b => [(0, b), (0, a), (0, d)]
  | .xor d a b => [(0, b), (0, a), (0, d)]
  | .sll d a b => [(0, b), (0, a), (0, d)]
  | .srl d a b => [(0, b), (0, a), (0, d)]
  | .sra d a b => [(0, b), (0, a), (0, d)]
  | .min d a b => [(0, b), (0, a), (0, d)]
  | .max d a b => [(0, b), (0, a), (0, d)]
  | .minu d a b => [(0, b), (0, a), (0, d)]
  | .maxu d a b => [(0, b), (0, a), (0, d)]
  | .mul d a b => [(0, b), (0, a), (0, d)]
  | .mulh d a b => [(0, b), (0, a), (0, d)]
  | .mulhu d a b => [(0, b), (0, a), (0, d)]
  | .div d a b => [(0, b), (0, a), (0, d)]
  | .divu d a b => [(0, b), (0, a), (0, d)]
  | .rem d a b => [(0, b), (0, a), (0, d)]
  | .remu d a b => [(0, b), (0, a), (0, d)]
  | .cmpEq _ a b => [(0, b), (0, a)]
  | .cmpNe _ a b => [(0, b), (0, a)]
  | .cmpLt _ a b => [(0, b), (0, a)]
  | .cmpGe _ a b => [(0, b), (0, a)]
  | .cmpLtu _ a b => [(0, b), (0, a)]
  | .cmpGeu _ a b => [(0, b), (0, a)]
  | .pmov d _ => [(0, d)]
  | .pset _ a => [(0, a)]
  | .extu d a b => [(0, b), (0, a), (0, d)]
  | .exts d a b => [(0, b), (0, a), (0, d)]
  | .ins d a b => [(0, b), (0, a), (0, d)]
  | .clz d a => [(0, a), (0, d)]
  | .ctz d a => [(0, a), (0, d)]
  | .popc d a => [(0, a), (0, d)]
  | .addi d a _ => [(0, a), (0, d)]
  | .andi d a _ => [(0, a), (0, d)]
  | .ori d a _ => [(0, a), (0, d)]
  | .xori d a _ => [(0, a), (0, d)]
  | .slli d a _ => [(0, a), (0, d)]
  | .srli d a _ => [(0, a), (0, d)]
  | .srai d a _ => [(0, a), (0, d)]
  | .cmpiEq _ a _ => [(0, a)]
  | .cmpiNe _ a _ => [(0, a)]
  | .cmpiLt _ a _ => [(0, a)]
  | .cmpiGe _ a _ => [(0, a)]
  | .cmpiLtu _ a _ => [(0, a)]
  | .cmpiGeu _ a _ => [(0, a)]
  | .lui d _ => [(0, d)]
  | .ldB d a _ => [(0, a), (0, d)]
  | .ldH d a _ => [(0, a), (0, d)]
  | .ldW d a _ => [(0, a), (0, d)]
  | .ldD d a _ => [(0, a), (0, d)]
  | .stB s a _ => [(0, a), (0, s)]
  | .stH s a _ => [(0, a), (0, s)]
  | .stW s a _ => [(0, a), (0, s)]
  | .stD s a _ => [(0, a), (0, s)]
  | .ldnB d a b => [(0, b), (0, a), (0, d)]
  | .ldnH d a b => [(0, b), (0, a), (0, d)]
  | .ldnW d a b => [(0, b), (0, a), (0, d)]
  | .ldnD d a b => [(0, b), (0, a), (0, d)]
  | .ldnBu d a b => [(0, b), (0, a), (0, d)]
  | .ldnHu d a b => [(0, b), (0, a), (0, d)]
  | .ldnWu d a b => [(0, b), (0, a), (0, d)]
  | .stnB s a b => [(0, b), (0, a), (0, s)]
  | .stnH s a b => [(0, b), (0, a), (0, s)]
  | .stnW s a b => [(0, b), (0, a), (0, s)]
  | .stnD s a b => [(0, b), (0, a), (0, s)]
  | .atn d a b _ => [(0, b), (0, a), (0, d)]
  | .jal d _ => [(0, d)]
  | .jalr d a => [(0, a), (0, d)]
  | .loop a _ => [(0, a)]
  | .rvset a _ => [(0, a)]
  | .rvarr d _ => [(0, d)]
  | .rvwait a _ => [(0, a)]
  | .waitstampNe d a b => [(0, b), (0, a), (0, d)]
  | .waitstampTag d a b => [(0, b), (0, a), (0, d)]
  | .waitstampAny d a => [(0, a), (0, d)]
  | .fcfg d a b => [(0, b), (0, a), (0, d)]
  | .frel b => [(0, b)]
  | .tksend a b => [(0, b), (0, a)]
  | .tktake d _ => [(0, d)]
  | .csrr d _ => [(0, d)]
  | .csrw a _ => [(0, a)]
  | .csrs a _ => [(0, a)]
  | .csrc a _ => [(0, a)]
  | .tget d a _ => [(0, a), (0, d)]
  | .tgetV d a _ => [(1, a), (1, d)]
  | .tset d a _ => [(0, a), (0, d)]
  | .tsetV d a _ => [(1, a), (1, d)]
  | .tplane _ a b => [(0, b), (0, a)]
  | .rysave a => [(0, a)]
  | .ryload a => [(0, a)]
  | .vadd d a b _ => [(1, b), (1, a), (1, d)]
  | .vsub d a b _ => [(1, b), (1, a), (1, d)]
  | .vmul d a b _ => [(1, b), (1, a), (1, d)]
  | .vmin d a b _ => [(1, b), (1, a), (1, d)]
  | .vmax d a b _ => [(1, b), (1, a), (1, d)]
  | .vabs d a _ => [(1, a), (1, d)]
  | .vneg d a _ => [(1, a), (1, d)]
  | .vfma d a b _ => [(1, b), (1, a), (1, d)]
  | .vfnma d a b _ => [(1, b), (1, a), (1, d)]
  | .viadd d a b _ => [(1, b), (1, a), (1, d)]
  | .visub d a b _ => [(1, b), (1, a), (1, d)]
  | .vimul d a b _ => [(1, b), (1, a), (1, d)]
  | .vimin d a b _ => [(1, b), (1, a), (1, d)]
  | .vimax d a b _ => [(1, b), (1, a), (1, d)]
  | .vsll d a b _ => [(1, b), (1, a), (1, d)]
  | .vsrl d a b _ => [(1, b), (1, a), (1, d)]
  | .vsra d a b _ => [(1, b), (1, a), (1, d)]
  | .vand d a b _ => [(1, b), (1, a), (1, d)]
  | .vor d a b _ => [(1, b), (1, a), (1, d)]
  | .vxor d a b _ => [(1, b), (1, a), (1, d)]
  | .vandn d a b _ => [(1, b), (1, a), (1, d)]
  | .vcmpEqF _ a b _ => [(1, b), (1, a)]
  | .vcmpLtF _ a b _ => [(1, b), (1, a)]
  | .vcmpLeF _ a b _ => [(1, b), (1, a)]
  | .vcmpEqI _ a b _ => [(1, b), (1, a)]
  | .vcmpLtI _ a b _ => [(1, b), (1, a)]
  | .vsel d a b _ => [(1, b), (1, a), (1, d)]
  | .vperm d a b _ => [(1, b), (1, a), (1, d)]
  | .vbcast d a _ _ => [(1, a), (1, d)]
  | .vredadd d a _ => [(1, a), (1, d)]
  | .vredmax d a _ => [(1, a), (1, d)]
  | .vrediadd d a _ => [(1, a), (1, d)]
  | .vexp2 d a _ => [(1, a), (1, d)]
  | .vlog2 d a _ => [(1, a), (1, d)]
  | .vrcp d a _ => [(1, a), (1, d)]
  | .vrsqrt d a _ => [(1, a), (1, d)]
  | .vtanh d a _ => [(1, a), (1, d)]
  | .vsigm d a _ => [(1, a), (1, d)]
  | .vdiv d a b _ => [(1, b), (1, a), (1, d)]
  | .vsqrt d a _ => [(1, a), (1, d)]
  | .vcvtTo d a _ _ _ => [(1, a), (1, d)]
  | .vcvtFrom d a _ _ _ => [(1, a), (1, d)]
  | .vscale d a n _ => (1, a) :: (if 16 ≤ n then [(1, a + 1)] else []) ++ [(1, d)]
  | .vquant d a n _ _ => (1, a) :: (if 16 ≤ n then [(1, a + 1)] else []) ++ [(1, d)]
  | .vld d a _ _ => [(0, a), (1, d)]
  | .vldb d a _ _ => [(0, a), (1, d)]
  | .vst s a _ _ => [(0, a), (1, s)]
  | .vldn d a _ _ => [(0, a), (1, d)]
  | .vstn s a _ _ => [(0, a), (1, s)]
  | .vins d a _ => [(0, a), (1, d)]
  | .vsplat d a _ => [(0, a), (1, d)]
  | .vext v d _ => [(0, d), (1, v)]
  | .vexts v d _ => [(0, d), (1, v)]
  | .mxstep a b => [(0, b), (0, a)]
  | .mxdrain a b _ => [(0, b), (0, a)]
  | .mxzero a _ => [(0, a)]
  | .mxsave a b _ _ => [(0, b), (0, a)]
  | .mxrest a b _ => [(0, b), (0, a)]
  | .mxpair a b _ => [(0, b), (0, a)]
  | .mxstat a d => [(0, d), (0, a)]
  | .xfwd a b _ => [(0, b), (0, a)]
  | .xinv a b => [(0, b), (0, a)]
  | .rdstr d a b => [(0, b), (0, a), (0, d)]
  | .rdsieve d a b => [(0, b), (0, a), (0, d)]
  | .rdfold d a b => [(0, b), (0, a), (0, d)]
  | .rdmat d a b => [(0, b), (0, a), (0, d)]
  | .rdfp d a b => [(0, b), (0, a), (0, d)]
  | .rdcmp d a b => [(0, b), (0, a), (0, d)]
  | .upd d a b => [(0, b), (0, a), (0, d)]
  | .dep d a b => [(0, b), (0, a), (0, d)]
  | .land d a b => [(0, b), (0, a), (0, d)]
  | .bvload d a b => [(0, b), (0, a), (0, d)]
  | .importHost d a b => [(0, b), (0, a), (0, d)]
  | .exportHost d a b => [(0, b), (0, a), (0, d)]
  | .stream d a b => [(0, b), (0, a), (0, d)]
  | .crsmode d a b => [(0, b), (0, a), (0, d)]
  | .cursor d a b => [(0, b), (0, a), (0, d)]
  | .kvlook d a b => [(0, b), (0, a), (0, d)]
  | .kvapp d a b => [(0, b), (0, a), (0, d)]
  | .kvfork d a b => [(0, b), (0, a), (0, d)]
  | .kvtrunc d a b => [(0, b), (0, a), (0, d)]
  | .kvflat d a b => [(0, b), (0, a), (0, d)]
  | .kvdep d a b => [(0, b), (0, a), (0, d)]
  | .playset d a b => [(0, b), (0, a), (0, d)]
  | .framein d a b => [(0, b), (0, a), (0, d)]
  | .stateck d a b => [(0, b), (0, a), (0, d)]
  | _ => []

/-- Writes of R192 that a syllable adds. A write to x0 or p0 is discarded and counts for nothing; the divide forms and ATN can write FLAGS. -/
def addsWrites : Instr → Nat
  | .add d _ _ => b2n (d ≠ 0)
  | .sub d _ _ => b2n (d ≠ 0)
  | .and d _ _ => b2n (d ≠ 0)
  | .or d _ _ => b2n (d ≠ 0)
  | .xor d _ _ => b2n (d ≠ 0)
  | .sll d _ _ => b2n (d ≠ 0)
  | .srl d _ _ => b2n (d ≠ 0)
  | .sra d _ _ => b2n (d ≠ 0)
  | .min d _ _ => b2n (d ≠ 0)
  | .max d _ _ => b2n (d ≠ 0)
  | .minu d _ _ => b2n (d ≠ 0)
  | .maxu d _ _ => b2n (d ≠ 0)
  | .mul d _ _ => b2n (d ≠ 0)
  | .mulh d _ _ => b2n (d ≠ 0)
  | .mulhu d _ _ => b2n (d ≠ 0)
  | .div _ _ _ => 1
  | .divu _ _ _ => 1
  | .rem _ _ _ => 1
  | .remu _ _ _ => 1
  | .cmpEq d _ _ => b2n (d ≠ 0)
  | .cmpNe d _ _ => b2n (d ≠ 0)
  | .cmpLt d _ _ => b2n (d ≠ 0)
  | .cmpGe d _ _ => b2n (d ≠ 0)
  | .cmpLtu d _ _ => b2n (d ≠ 0)
  | .cmpGeu d _ _ => b2n (d ≠ 0)
  | .pand d _ _ => b2n (d ≠ 0)
  | .por d _ _ => b2n (d ≠ 0)
  | .pxor d _ _ => b2n (d ≠ 0)
  | .pandn d _ _ => b2n (d ≠ 0)
  | .pmov d _ => b2n (d ≠ 0)
  | .pset d _ => b2n (d ≠ 0)
  | .extu d _ _ => b2n (d ≠ 0)
  | .exts d _ _ => b2n (d ≠ 0)
  | .ins d _ _ => b2n (d ≠ 0)
  | .clz d _ => b2n (d ≠ 0)
  | .ctz d _ => b2n (d ≠ 0)
  | .popc d _ => b2n (d ≠ 0)
  | .addi d _ _ => b2n (d ≠ 0)
  | .andi d _ _ => b2n (d ≠ 0)
  | .ori d _ _ => b2n (d ≠ 0)
  | .xori d _ _ => b2n (d ≠ 0)
  | .slli d _ _ => b2n (d ≠ 0)
  | .srli d _ _ => b2n (d ≠ 0)
  | .srai d _ _ => b2n (d ≠ 0)
  | .cmpiEq d _ _ => b2n (d ≠ 0)
  | .cmpiNe d _ _ => b2n (d ≠ 0)
  | .cmpiLt d _ _ => b2n (d ≠ 0)
  | .cmpiGe d _ _ => b2n (d ≠ 0)
  | .cmpiLtu d _ _ => b2n (d ≠ 0)
  | .cmpiGeu d _ _ => b2n (d ≠ 0)
  | .lui d _ => b2n (d ≠ 0)
  | .ldB d _ _ => b2n (d ≠ 0)
  | .ldH d _ _ => b2n (d ≠ 0)
  | .ldW d _ _ => b2n (d ≠ 0)
  | .ldD d _ _ => b2n (d ≠ 0)
  | .ldnB d _ _ => b2n (d ≠ 0)
  | .ldnH d _ _ => b2n (d ≠ 0)
  | .ldnW d _ _ => b2n (d ≠ 0)
  | .ldnD d _ _ => b2n (d ≠ 0)
  | .ldnBu d _ _ => b2n (d ≠ 0)
  | .ldnHu d _ _ => b2n (d ≠ 0)
  | .ldnWu d _ _ => b2n (d ≠ 0)
  | .atn _ _ _ _ => 1
  | .jal d _ => b2n (d ≠ 0)
  | .jalr d _ => b2n (d ≠ 0)
  | .rvarr d _ => b2n (d ≠ 0)
  | .waitstampNe d _ _ => b2n (d ≠ 0)
  | .waitstampTag d _ _ => b2n (d ≠ 0)
  | .waitstampAny d _ => b2n (d ≠ 0)
  | .tktake d _ => b2n (d ≠ 0)
  | .csrr d _ => b2n (d ≠ 0)
  | .csrw _ c => b2n (c = 0)
  | .csrs _ c => b2n (c = 0)
  | .csrc _ c => b2n (c = 0)
  | .tget d _ _ => b2n (d ≠ 0)
  | .tgetV _ _ _ => 1
  | .tset d _ _ => b2n (d ≠ 0)
  | .tsetV _ _ _ => 1
  | .vadd _ _ _ _ => 1
  | .vsub _ _ _ _ => 1
  | .vmul _ _ _ _ => 1
  | .vmin _ _ _ _ => 1
  | .vmax _ _ _ _ => 1
  | .vabs _ _ _ => 1
  | .vneg _ _ _ => 1
  | .vfma _ _ _ _ => 1
  | .vfnma _ _ _ _ => 1
  | .viadd _ _ _ _ => 1
  | .visub _ _ _ _ => 1
  | .vimul _ _ _ _ => 1
  | .vimin _ _ _ _ => 1
  | .vimax _ _ _ _ => 1
  | .vsll _ _ _ _ => 1
  | .vsrl _ _ _ _ => 1
  | .vsra _ _ _ _ => 1
  | .vand _ _ _ _ => 1
  | .vor _ _ _ _ => 1
  | .vxor _ _ _ _ => 1
  | .vandn _ _ _ _ => 1
  | .vcmpEqF p _ _ _ => b2n (p ≠ 0)
  | .vcmpLtF p _ _ _ => b2n (p ≠ 0)
  | .vcmpLeF p _ _ _ => b2n (p ≠ 0)
  | .vcmpEqI p _ _ _ => b2n (p ≠ 0)
  | .vcmpLtI p _ _ _ => b2n (p ≠ 0)
  | .vsel _ _ _ _ => 1
  | .vperm _ _ _ _ => 1
  | .vbcast _ _ _ _ => 1
  | .vredadd _ _ _ => 1
  | .vredmax _ _ _ => 1
  | .vrediadd _ _ _ => 1
  | .vexp2 _ _ _ => 1
  | .vlog2 _ _ _ => 1
  | .vrcp _ _ _ => 1
  | .vrsqrt _ _ _ => 1
  | .vtanh _ _ _ => 1
  | .vsigm _ _ _ => 1
  | .vdiv _ _ _ _ => 1
  | .vsqrt _ _ _ => 1
  | .vcvtTo _ _ _ _ _ => 1
  | .vcvtFrom _ _ _ _ _ => 1
  | .vscale _ _ _ _ => 1
  | .vquant _ _ _ _ _ => 1
  | .vld _ _ _ _ => 1
  | .vldb _ _ _ _ => 1
  | .vldn _ _ _ _ => 1
  | .vins _ _ _ => 1
  | .vsplat _ _ _ => 1
  | .vext _ d _ => b2n (d ≠ 0)
  | .vexts _ d _ => b2n (d ≠ 0)
  | .mxstat _ d => b2n (d ≠ 0)
  | .rdstr _ _ _ => 1
  | .rdsieve _ _ _ => 1
  | .rdfold _ _ _ => 1
  | .rdmat _ _ _ => 1
  | .rdfp _ _ _ => 1
  | .rdcmp _ _ _ => 1
  | .upd _ _ _ => 1
  | .dep _ _ _ => 1
  | .land _ _ _ => 1
  | .bvload _ _ _ => 1
  | .importHost _ _ _ => 1
  | .exportHost _ _ _ => 1
  | .stream _ _ _ => 1
  | .crsmode _ _ _ => 1
  | .cursor _ _ _ => 1
  | .kvlook _ _ _ => 1
  | .kvapp _ _ _ => 1
  | .kvfork _ _ _ => 1
  | .kvtrunc _ _ _ => 1
  | .kvflat _ _ _ => 1
  | .kvdep _ _ _ => 1
  | .playset _ _ _ => 1
  | .framein _ _ _ => 1
  | .stateck _ _ _ => 1
  | _ => 0

end Sys2Proof.Machine
end

