-- ==== Sys2Proof/Machine/Translate.lean ====
section
/-! DEFINITION. Registers of BAR0, courses (R69, R70), and page-table walks (R90 to R92, R391). -/

namespace Sys2Proof.Machine

/-- The 8-byte piece of BAR0 at offset `o`, for registers whose reset value is 0. -/
def State.reg (s : State) (o : Nat) : Nat := (Tab.get 0 s.bar0 (o / 8)).toNat
/-- Set the piece of BAR0 at offset `o`. -/
def State.setReg (s : State) (o v : Nat) : State := { s with bar0 := Tab.set 0 s.bar0 (o / 8) (BitVec.ofNat 64 v) }

/-- Registers respond (R341, R412); before the hub is released nothing does. -/
def State.responds (s : State) : Bool := decide (s.boot ≠ .reset ∧ s.boot ≠ .halted ∧ s.boot ≠ .thermHalt)

/-- A course descriptor (R70), without its read-only fields. -/
structure Crs where
  func : Nat
  valid : Bool
  tc : Bool
  mode : Nat
  base : Nat
  len : Nat
deriving DecidableEq, Repr

/-- Offset of the descriptor of course `c` of PC `p` = 64 × stack + PC (R70). -/
def crsOff (p c : Nat) : Nat := 0x80000 + 0x100 * p + 16 * c

/-- Decode a descriptor from its two pieces. -/
def Crs.of (lo hi : Nat) : Crs :=
  ⟨bits hi 47 40, bit hi 39, bit hi 38, bits hi 34 33, bits hi 23 0, bits lo 56 32⟩

/-- Course `c` of PC `p`. -/
def State.crs (s : State) (p c : Nat) : Crs := Crs.of (s.reg (crsOff p c)) (s.reg (crsOff p c + 8))

/-- Key of a course in the tables of cursors, steps and pending modes. -/
def crsKey (p c : Nat) : Nat := 8 * p + c

/-- Words per step of a mode (R69). -/
def modeW : Nat → Nat
  | 0 => 256
  | 1 => 64
  | _ => 1
/-- Alignment of BASE and LEN of a mode, in cells (R69). -/
def modeCells : Nat → Nat
  | 0 => 16
  | 1 => 4
  | _ => 1

/-- The cursor of a course, in words (R70, R72). -/
def State.cur? (s : State) (p c : Nat) : Nat := Tab.get 0 s.cursor (crsKey p c)
/-- Words in a course. -/
def Crs.words (c : Crs) : Nat := 16 * c.len
/-- Physical address of word `w` of a course. -/
def Crs.pa (c : Crs) (p w : Nat) : Nat := p * 2 ^ 30 + c.base * 64 + 4 * w

/-- The valid course of PC `p` that holds cell `n`, if any. -/
def State.crsOfCell (s : State) (p n : Nat) : Option Nat :=
  (List.range 8).find? (fun c => let d := s.crs p c; d.valid && decide (d.base ≤ n) && decide (n < d.base + d.len))

/-- The course that holds physical address `pa`, as PC and course number. -/
def State.crsOfPa (s : State) (pa : Nat) : Option (Nat × Nat) :=
  if pa / 2 ^ 36 < 12 then (s.crsOfCell (pa / 2 ^ 30) (pa % 2 ^ 30 / 64)).map (fun c => (pa / 2 ^ 30, c)) else none

/-- What a walk finds: a page, or a reason and level of R391. -/
inductive WalkRes where
  | page (va size pa : Nat) (wr enc : Bool)
  | fail (reason level : Nat)
deriving DecidableEq, Repr

/-- KEYMAP of an ASID (R344): KV and slot. -/
def State.keymap (s : State) (asid : Nat) : Nat := bits (s.reg (0x7000 + 2 * asid)) (16 * (asid % 4) + 15) (16 * (asid % 4))

/-- A table at PA lies in the translation course of its stack (R92). -/
def State.tableOk (s : State) (pa : Nat) : Bool :=
  match s.crsOfPa pa with
  | some (p, c) => (s.crs p c).tc
  | none => false

/-- A cell whose check code or MAC a walk finds wrong (R391, reason 0x14). -/
def State.cellBad (s : State) (pa : Nat) : Bool := decide (1 < Tab.get 0 s.eccBad (pa / 64))

/-- What entry `e` of a table of level `lv` says in a walk of stack `st` (R90, R391): the end of the walk, or the next table. -/
def State.walkEntry (s : State) (st lv asid va e : Nat) : Sum WalkRes Nat :=
  let size := match lv with | 0 => 2 ^ 30 | 1 => 2 ^ 21 | _ => 2 ^ 14
  let leaf := bit e 61
  let padr := bits e 39 10 * 1024
  let algn := if leaf then size else match lv with | 0 => 4096 | _ => 1024
  if !bit e 63 then .inl (.fail 0x11 lv)
  else if (lv = 2 ∧ ¬ leaf) ∨ bits e 59 40 ≠ 0 ∨ bits e 9 0 ≠ 0 then .inl (.fail 0x12 lv)
  else if padr % algn ≠ 0 ∨ 12 ≤ padr / 2 ^ 36 then .inl (.fail 0x13 lv)
  else if leaf then
    if (s.crsOfPa padr).isNone then .inl (.fail 0x15 lv)
    else if bit e 60 ∧ ¬ bit (s.keymap asid) 15 then .inl (.fail 0x16 lv)
    else if bit e 60 ∧ Tab.get 0 s.treeKey (padr / 2 ^ 36) = 0 then .inl (.fail 0x14 lv)
    else .inl (.page (va / size * size) size padr (bit e 62) (bit e 60))
  else if !s.tableOk (st * 2 ^ 36 + padr % 2 ^ 36) then .inl (.fail 0x15 lv)
  else .inr (padr % 2 ^ 36)

/-- Address of the entry for `va` in the table of level `lv` at offset `tab` of stack `st` (R90). -/
def walkPa (st tab lv va : Nat) : Nat :=
  st * 2 ^ 36 + tab + 8 * (match lv with | 0 => va / 2 ^ 30 | 1 => va / 2 ^ 21 % 512 | _ => va / 2 ^ 14 % 128)

/-- One level of a walk at once: the table at offset `tab` of stack `st`. -/
def State.walkLevel (s : State) (st tab lv asid va : Nat) : Sum WalkRes Nat :=
  let pa := walkPa st tab lv va
  if !s.tableOk pa then .inl (.fail 0x15 lv)
  else if s.cellBad pa then .inl (.fail 0x14 lv)
  else s.walkEntry st lv asid va (s.mem.readN pa 8)

/-- A walk of the tables of `asid` in stack `st`, as the tables stand (R90, R391). -/
def State.walk (s : State) (st asid va : Nat) : WalkRes :=
  let lo := s.reg (0x40000 + 16 * asid)
  let hi := s.reg (0x40000 + 16 * asid + 8)
  if bits lo 19 0 ≤ va / 2 ^ 30 then .fail 0x10 0
  else match s.walkLevel st (bits hi 35 0) 0 asid va with
    | .inl r => r
    | .inr t1 => match s.walkLevel st t1 1 asid va with
      | .inl r => r
      | .inr t2 => match s.walkLevel st t2 2 asid va with
        | .inl r => r
        | .inr _ => .fail 0x12 2

/-- The cached translation of a page in E tile `tile` (48 is the hub). -/
def State.tlbFind (s : State) (tile asid va : Nat) : Option Tlb :=
  s.tlb.find? (fun e => decide (e.tile = tile ∧ e.asid = asid ∧ e.va ≤ va ∧ va < e.va + e.size))

end Sys2Proof.Machine
end

