-- ==== Sys2Proof/Machine/Operands.lean ====
section
/-! DEFINITION. Operand forms: register values read at issue, effective addresses, the tangent planes of registers and of memory,
vector lanes (R162, R192, R198, R199, R215, R217, R232, R306, R307). -/

namespace Sys2Proof.Machine

/-! ## Scalar operands and addresses -/

/-- The primal value of xn in the core whose turn it is, read at issue (R192). -/
def State.xval (s : State) (n : Nat) : Nat := (s.me.rx 0 n).toNat

/-- Base register plus a sign-extended 12-bit offset (R198). -/
def State.eaImm (s : State) (a i : Nat) : Nat := (s.me.rx 0 a + sext 12 i).toNat
/-- Base register plus index register (R199). -/
def State.eaReg (s : State) (a b : Nat) : Nat := (s.me.rx 0 a + s.me.rx 0 b).toNat
/-- Base register plus a scaled sign-extended 5-bit offset (R232). -/
def State.eaVec (s : State) (a i m : Nat) : Nat := (s.me.rx 0 a + BitVec.ofNat 64 m * sext 5 i).toNat

/-- The record that a syllable of the core reads at `a`, `n` bytes of its cox store (R177). -/
def State.recAt (s : State) (a n : Nat) : Nat := s.coxRead s.cur (bits a 19 0) n

/-! ## Tangent planes in memory -/

/-- The bytes of tangent plane data per word in PFMT (R306). -/
def pfmtBytes (f : Nat) : Nat := if f = 0 then 4 else 2

/-- The tangent planes that the core carries and that memory holds, as plane number and declaration (R306, R307). -/
def Core.memPlanes (c : Core) : List (Nat × TPlane) :=
  ((List.range 4).filter (fun p => 1 ≤ p ∧ p ≤ c.k)).map (fun p => (p, Tab.get TPlane.absent c.tplane p))

/-- Offset of the tangent of the word at `off` (R307). -/
def TPlane.at (t : TPlane) (node : Bool) (off : Nat) : Nat :=
  (if node then t.ndisp else t.cdisp) + off / 4 * pfmtBytes t.pfmt

/-- The tangent run of an access to `n` words at offset `off` (R307). -/
def Core.runs (c : Core) (node : Bool) (off n : Nat) : List (Nat × Nat) :=
  (c.memPlanes.filter (fun p => p.2.pres)).map (fun p => (p.2.at node off, n * pfmtBytes p.2.pfmt))

/-- The format of a memory tangent plane (R306). -/
def pfmtOf (f : Nat) : Fmt := match f with
  | 0 => .fp32
  | 1 => .fp16
  | _ => .bf16

/-- A tangent of memory converted to FP32 exactly (R307); an FP32 one passes bit for bit. -/
def tanLoad (f code : Nat) : Nat := if f = 0 then code % 2 ^ 32 else (Fmt.fp32.encode 0 ((pfmtOf f).decode code)).1
/-- A tangent rounded to PFMT by RNE, with its flags (R307); an FP32 one passes bit for bit. -/
def tanStore (f w : Nat) : Nat × FlagSet := if f = 0 then (w % 2 ^ 32, 0) else (pfmtOf f).encode 0 (f32 w)

/-! ## Vector operands -/

/-- The lanes of a vector register of plane `p`. -/
def State.lanes (s : State) (p n : Nat) : List Nat := (List.range 16).map (lane (s.me.rv p n))
/-- Tangent planes carried, 1 to k. -/
def State.tans (s : State) : List Nat := (List.range s.me.k).map (· + 1)

end Sys2Proof.Machine
end

