-- ==== Sys2Proof/Machine/Records.lean ====
section
/-! DEFINITION. The records that M-slot and C-slot instructions read at issue, and the checks of them (R177, R237, R246, R255,
R271, R319, R379 to R381). -/

namespace Sys2Proof.Machine

/-- The lowest position among the fields that fail their check (R372). -/
def lowestBad : List (Bool × Nat) → Option Nat
  | [] => none
  | (ok, n) :: t =>
    match lowestBad t with
    | none => if ok then none else some n
    | some m => if ok then some m else some (Nat.min n m)

/-- A local address that an instruction uses, and what is required of it (R376, R377). `sp` is 0 for the cox store, 1 for a
node, 2 for either; `owned` tells whether the core has to be allowed the node (R151); `bytes` 0 checks alignment alone. -/
structure AddrReq where
  addr : Nat
  width : Nat
  bytes : Nat := 0
  sp : Nat := 2
  owned : Bool := true
  runs : List (Nat × Nat) := []
deriving DecidableEq, Repr

/-- The address is well formed, and the access with its tangent run is reachable (R99, R307, R377). -/
def State.reachable (s : State) (c : Nat) (r : AddrReq) : Bool :=
  let lim := if bit r.addr 31 then 8192 else 1048576
  let off := if bit r.addr 31 then bits r.addr 12 0 else bits r.addr 19 0
  localOk r.addr
    && (decide (r.sp = 2) || decide ((r.sp = 1) = (bit r.addr 31 = true)))
    && decide (off + r.bytes ≤ lim) && r.runs.all (fun p => decide (p.1 + p.2 ≤ lim))
    && (!bit r.addr 31 || (decide (keyKind (keyOf r.addr) = .M) && decide (keyCore (keyOf r.addr) = c)
        && (!r.owned || s.nodeReach c (keyOf r.addr))))

/-! ## Matrix and transform records -/

/-- The pairing class of a format code: 1 narrow, 2 log6, 3 log8, 4 half, 5 single, 6 complex, 0 none (R111, R138). -/
def pairClass (f : Nat) : Nat :=
  if f ∈ [3, 4, 5, 6, 7, 10, 11, 12, 13, 14, 15, 16] then 1
  else if f = 8 ∨ f = 17 then 2
  else if f = 9 then 3
  else if f = 1 ∨ f = 2 then 4
  else if f = 0 then 5
  else if f = 18 ∨ f = 19 then 6
  else 0

/-- Alignment of a start byte (R239). -/
def offAlign (f : Nat) : Nat := if 14 ≤ f ∧ f ≤ 17 then 16 else 8

/-- The lowest offending field of a row record (R237, R380). -/
def rowBad (r : Nat) : Option Nat :=
  let af := bits r 15 11
  let bf := bits r 31 27
  let a3 := bits r 10 9 = 3
  lowestBad
    [(bits r 34 32 = 0, 32), (bits r 127 72 = 0, 72), (bits r 38 37 ≠ 3, 37), (bits r 26 25 ≠ 3, 25),
     (pairClass af ≠ 0, 11), (pairClass bf ≠ 0, 27), (pairClass af = pairClass bf ∨ pairClass bf = 0, 11),
     (¬ a3 ∨ (af = 0 ∧ bits r 71 56 ≤ 1), 9), (if a3 then bits r 6 1 = 0 else bits r 6 0 % offAlign af = 0, 0),
     (bits r 22 16 % offAlign bf = 0, 16), (pairClass af ≠ 6 ∨ ¬ bit r 36, 36)]

/-- The lowest offending field of a tensor shape record (R246, R380). -/
def drainBad (r : Nat) : Option Nat :=
  lowestBad
    [(bits r 33 24 = 0, 24), (bits r 23 22 ≠ 3, 22), (bits r 21 19 < 6, 19), (bits r 5 4 ≠ 3, 4),
     (¬ bit r 6 ∨ (bits r 23 22 = 2 ∧ bits r 99 80 = 0 ∧ bits r 21 19 ≠ 3), 6)]

/-- The lowest offending field of a transform record; `inv` for XINV (R255, R380). -/
def xformBad (inv : Bool) (r : Nat) : Option Nat :=
  let real := fun f => f ∈ [0, 1, 2, 18, 19]
  let cplx := fun f => f ∈ [18, 19]
  lowestBad
    [(bits r 129 0 = 0, 0), (2 ≤ bits r 143 140 ∧ bits r 143 140 ≤ 10, 140),
     (if inv then cplx (bits r 139 135) else real (bits r 139 135), 135),
     (if inv then real (bits r 134 130) else cplx (bits r 134 130), 130)]

/-! ## Rider and sequence records -/

/-- The alignment of the virtual start of a span (R256, R263 to R270). -/
def spanAlign (kind r : Nat) : Nat :=
  if kind = 3 ∨ kind = 9 then 1024
  else if kind = 4 ∨ (kind = 7 ∧ bit r 222) then 4096
  else if kind = 10 ∨ kind = 11 then 64
  else 4

/-- Fields that a rider kind does not use, as bit ranges (R256, R260 to R273). -/
def riderUnused (kind r : Nat) : List (Nat × Nat) :=
  let dk := bits r 255 252
  (30, 28) :: match kind with
  | 0 => (251, 200) :: (match dk with
      | 0 => [(191, 128)]
      | 1 => [(191, 128)]
      | 2 => [(127, 64), (191, 142)]
      | 3 => [(127, 67), (191, 128)]
      | 4 => [(191, 133)]
      | _ => [])
  | 1 => [(233, 200)]
  | 2 => (251, 200) :: (if dk = 9 then [] else [(191, 128)])
  | 3 => [(191, 143), (255, 200)]
  | 4 => [(191, 128), (255, 200)]
  | 5 => [(191, 177), (255, 200)]
  | 6 => [(251, 200), (127, 64)]
  | 7 => [(221, 200)]
  | 8 => [(240, 200), (191, 128), (127, 64)]
  | 9 => [(255, 207), (127, 64)]
  | 10 => [(191, 128), (255, 200)]
  | 11 => [(191, 128), (255, 200)]
  | 12 => [(255, 200), (127, 67)]
  | 13 => [(255, 200), (127, 64), (191, 130)]
  | _ => [(255, 200), (191, 128)]

/-- The lowest offending field of a rider record (R177, R381). -/
def riderBad (kind r : Nat) : Option Nat :=
  let dk := bits r 255 252
  let n := bits r 63 32
  let fpw := kind = 7 ∧ bit r 222
  lowestBad
    ((riderUnused kind r).map (fun p => (decide (bits r p.1 p.2 = 0), p.2)) ++
    ([(n ≠ 0, 32), (kind = 3 ∨ bit r 31 ∨ bits r 27 0 = 0, 0),
     ((kind ≠ 13 ∧ kind ≠ 14) ∨ ¬ bit r 31, 31),
     (kind ≠ 0 ∨ dk ≤ 4, 252),
     (kind ≠ 0 ∨ dk ≠ 2 ∨ 4 * n ≤ 128 * (64 - bits r 141 135), 32),
     (kind ≠ 0 ∨ dk ≠ 4 ∨ bits r 132 128 ≤ 17, 128),
     (kind ≠ 1 ∨ bits r 255 240 ≠ 0, 240), (kind ≠ 1 ∨ bits r 239 236 ≤ 7, 236), (kind ≠ 1 ∨ bits r 235 234 ≠ 3, 234),
     (kind ≠ 2 ∨ dk ≤ 10, 252), (kind ≠ 6 ∨ dk ≤ 12, 252),
     (kind ≠ 3 ∨ n = 256 * (bits r 142 136 + 1) * ((bits r 135 128 + 32) / 32), 32),
     ((kind ≠ 4 ∧ ¬ fpw) ∨ n % 1024 = 0, 32), ((kind ≠ 10 ∧ kind ≠ 11) ∨ n % 16 = 0, 32),
     (kind ≠ 9 ∨ n = 256, 32), ((kind ≠ 13 ∧ kind ≠ 14) ∨ n = 1, 32),
     (kind ≠ 5 ∨ bits r 176 128 % 4 = 0, 128),
     (kind ≠ 7 ∨ (if bit r 223 then bits r 127 64 % 4 = 0 ∧ bits r 127 113 = 0 else bits r 127 64 = 0), 64),
     (kind ≠ 8 ∨ bits r 249 248 = 3 ∨ ¬ bit r 247, 247), (kind ≠ 8 ∨ 4 * n * (bits r 246 241 + 1) ≤ 262144, 32),
     (kind ≠ 13 ∨ bits r 129 128 ≠ 3, 128), ((kind ≠ 10 ∧ kind ≠ 11) ∨ bits r 127 64 % 64 = 0, 64)] : List (Bool × Nat)))

/-- The local addresses in a rider record (R260 to R273). -/
def riderAddrs (kind r : Nat) : List AddrReq :=
  let n := bits r 63 32
  let dest := bits r 127 64
  let arga := bits r 191 128
  let one (a n w sp : Nat) : List AddrReq := [{ addr := a, width := w, bytes := n, sp := sp, owned := false }]
  match kind with
  | 0 => if bits r 255 252 < 2 then one dest (4 * n) 4 (bits r 255 252) else []
  | 1 => one dest (8 + bits r 255 240 * (if bits r 235 234 = 2 then 8 else 4)) 8 2
  | 2 => one dest 8 8 2
  | 3 => one dest (64 * (bits r 135 128 + 1)) 4 2
  | 4 => one dest (8 * (n / 1024)) 8 2
  | 5 => one dest 8 8 2
  | 7 => one arga (4 * n) 4 2
  | 9 => one arga (32 * (bits r 206 200 + 1)) 64 2
  | 12 => one arga 32 32 0
  | 14 => one dest 16 8 2
  | _ => []

/-- Bytes at the stamp address: the stamp, and the fingerprints that follow it (R268, R326). -/
def stampBytes (seqOp : Bool) (kind r : Nat) : Nat :=
  if seqOp then (if kind = 5 ∧ bit r 230 then 16 else 8)
  else if kind = 7 ∧ bit r 222 then 8 + 8 * (bits r 63 32 / 1024) else 8

/-- Fields that a sequence kind does not use (R319). -/
def seqUnused (kind : Nat) : List (Nat × Nat) :=
  [(27, 0), (30, 28), (31, 31)] ++ match kind with
  | 0 => [(191, 152), (255, 200)]
  | 1 => [(175, 158), (255, 201)]
  | 2 => [(191, 140), (255, 249)]
  | 3 => [(127, 64), (191, 152), (255, 200)]
  | 4 => [(127, 64), (191, 128), (255, 200)]
  | 5 => [(127, 64), (255, 232)]
  | 6 => [(127, 64), (191, 152), (255, 200)]
  | 7 => [(191, 176), (255, 230)]
  | _ => [(127, 64), (255, 200)]

/-- The lowest offending field of a sequence record (R319, R381). -/
def seqBad (kind r : Nat) : Option Nat :=
  let n := bits r 63 32
  let top := match kind with
    | 0 => 256
    | 1 => 64
    | 5 => 2 ^ 32
    | 7 => 64
    | 8 => 2 ^ 32
    | _ => 1
  lowestBad ((1 ≤ n ∧ n ≤ top, 32) :: (seqUnused kind).map (fun p => (decide (bits r p.1 p.2 = 0), p.2)))

/-- The local addresses in a sequence record (R319). -/
def seqAddrs (kind r : Nat) : List AddrReq :=
  let n := bits r 63 32
  let one (a n w : Nat) : List AddrReq := [{ addr := a, width := w, bytes := n, sp := 2, owned := false }]
  match kind with
  | 0 => one (bits r 127 64) (8 * n) 8
  | 1 => one (bits r 127 64) 8 8
  | 5 => one (bits r 191 128) (4 * n) 4
  | 7 => one (bits r 127 64) 16 16
  | 8 => one (bits r 191 128) (4 * n) 4
  | _ => []

/-! ## Units of a reach -/

/-- Number of X tile `xt` of core `c`'s reach (R235). -/
def tileNo (c xt : Nat) : Nat := 32 * c + xt
/-- Tile column and row of X tile `u`. -/
def tilePos (u : Nat) : Nat × Nat :=
  let c := u / 32
  let xt := u % 32
  (16 * (c % 2) + 8 * (xt % 2) + 6, 16 * (c % 8 / 2) + xt / 2)
/-- Tile column and row of the V tile of transform node `n` (0–23) of core `c` (R235). -/
def xformPos (c n : Nat) : Nat × Nat :=
  let v := n / 4
  (16 * (c % 2) + 8 * (v / 3) + 7, 16 * (c % 8 / 2) + 12 + v % 3)

/-- Tile (tx, ty) of die `d` lies in a region. -/
def Region.holds (r : Region) (d tx ty : Nat) : Bool :=
  decide (r.die = d ∧ r.x ≤ tx ∧ tx < r.x + r.w ∧ r.y ≤ ty ∧ ty < r.y + r.h)

/-- The active region that owns tile (tx, ty) of die `d` (R151). -/
def State.ownerOf (s : State) (d tx ty : Nat) : Option Region :=
  s.regions.find? (fun r => r.holds d tx ty && r.active.isSome)

/-- Byte offset in a load's image of the record of element `i` of tile (x, y), relative to the region (R181): tile records are
16 element records of 512 bytes, an X tile's one. -/
def Load.elOff (l : Load) (rx ry w x y i : Nat) : Nat :=
  let before := (List.range (w * y + x)).foldl (fun n t =>
    n + (if tileKind (rx + t % w) (ry + t / w) = .X then 512 else 8192)) 0
  l.img.readN 44 4 + before + 512 * i

/-- X tile `u` is marked cox-driven by the load of the region that owns it (R251). -/
def State.coxDriven (s : State) (u : Nat) : Bool :=
  let p := tilePos u
  match s.ownerOf (u / 256) p.1 p.2 with
  | none => true
  | some r => match r.active with
    | none => true
    | some l => decide ((l.img.read (l.elOff r.x r.y r.w (p.1 - r.x) (p.2 - r.y) 0)).toNat = 1)

/-- X tile `u`. -/
def State.xtile (s : State) (u : Nat) : XTile := Tab.get XTile.empty s.xtiles u

/-- Why core `c` may not drive X tile `xt` of its reach (R379). -/
def State.xRefused (s : State) (c xt : Nat) : Option Nat :=
  if ¬ s.coxDriven (tileNo c xt) then some 1
  else if (s.xtile (tileNo c xt)).away.isSome then some 2
  else none

/-- Why core `c` may not drive transform node `n` of its reach (R379). -/
def State.xfRefused (s : State) (c n : Nat) : Option Nat :=
  let p := xformPos c n
  if 24 ≤ n then some 0 else if (s.ownerOf (c / 8) p.1 p.2).isSome then some 1 else none

end Sys2Proof.Machine
end

