-- ==== Sys2Proof/Machine/Check.lean ====
section
/-! DEFINITION. The checks that a bundle passes in the step in which it would issue (R371 to R381), the conditions on which it
holds issue (R155, R170, R192, R203, R204, R236, R255, R301), and the one way in which a syllable issues. -/

namespace Sys2Proof.Machine

/-- A failing check: its fault code and operand words (R372). -/
structure Bad where
  code : Nat
  op0 : Nat
  op1 : Nat
  op2 : Nat
deriving DecidableEq, Repr

/-- The slot of an instruction: S 0, V 1, M 2, C 3 (R161). -/
def slotNo (i : Instr) : Nat :=
  match i.place with
  | .v => 1
  | .m => 2
  | .c => 3
  | _ => 0

/-! ## Addresses (R376, R377) -/

/-- A cox-store or node access of `w` bytes that carries the tangents of `n` words, none for a width that R307 gives no tangent. -/
def State.access (s : State) (a w n sp : Nat) : AddrReq :=
  { addr := a, width := w, bytes := w, sp := sp,
    runs := if n = 0 then [] else s.me.runs (sp = 1) (if sp = 1 then bits a 12 0 else bits a 19 0) n }

/-- A record that can be read at `a`: aligned, in the cox store (R376, R377). -/
def recReadable (a n : Nat) : Bool := localOk a && !bit a 31 && decide (a % n = 0 ∧ bits a 19 0 + n ≤ 1048576)

/-- The addresses of a C-slot syllable: record pointer, stamp, and, of a record that can be read, the local addresses in it. -/
def State.cAddrs (s : State) (seqOp : Bool) (kind d b : Nat) : List AddrReq :=
  let xb := s.xval b
  let r := s.recAt xb 32
  let ok := recReadable xb 32
  { addr := xb, width := 32, bytes := 32, sp := 0 } ::
  { addr := s.xval d, width := 8, bytes := if ok then stampBytes seqOp kind r else 8 } ::
  (if ok then (if seqOp then seqAddrs kind r else riderAddrs kind r) else [])

/-- The addresses of an entry with a record of 32 bytes: the record pointer, and where the record can be read the STAMP in its bits [hi:lo]. -/
def State.recAddrs (s : State) (b hi lo : Nat) : List AddrReq :=
  { addr := s.xval b, width := 32, bytes := 32, sp := 0 } ::
    (if recReadable (s.xval b) 32 then [{ addr := bits (s.recAt (s.xval b) 32) hi lo, width := 8, bytes := 8 }] else [])

/-- Width of the operand of an atomic as an address (R376). -/
def atomicAlign (o : Nat) : Nat := if o = 1 then 8 else 4

/-- The addresses that an instruction uses, in rising position of the fields that name them. -/
def State.addrs (s : State) : Instr → List AddrReq
  | .ldB _ a i => [s.access (s.eaImm a i) 1 0 0]
  | .ldH _ a i => [s.access (s.eaImm a i) 2 0 0]
  | .ldW _ a i => [s.access (s.eaImm a i) 4 1 0]
  | .ldD _ a i => [s.access (s.eaImm a i) 8 0 0]
  | .stB _ a i => [s.access (s.eaImm a i) 1 0 0]
  | .stH _ a i => [s.access (s.eaImm a i) 2 0 0]
  | .stW _ a i => [s.access (s.eaImm a i) 4 1 0]
  | .stD _ a i => [s.access (s.eaImm a i) 8 0 0]
  | .ldnB _ a b => [s.access (s.eaReg a b) 1 0 1]
  | .ldnH _ a b => [s.access (s.eaReg a b) 2 0 1]
  | .ldnW _ a b => [s.access (s.eaReg a b) 4 1 1]
  | .ldnD _ a b => [s.access (s.eaReg a b) 8 0 1]
  | .ldnBu _ a b => [s.access (s.eaReg a b) 1 0 1]
  | .ldnHu _ a b => [s.access (s.eaReg a b) 2 0 1]
  | .ldnWu _ a b => [s.access (s.eaReg a b) 4 1 1]
  | .stnB _ a b => [s.access (s.eaReg a b) 1 0 1]
  | .stnH _ a b => [s.access (s.eaReg a b) 2 0 1]
  | .stnW _ a b => [s.access (s.eaReg a b) 4 1 1]
  | .stnD _ a b => [s.access (s.eaReg a b) 8 0 1]
  | .atn _ a _ o => [s.access (s.xval a) (atomicAlign o) 0 1]
  | .jalr _ a => [{ addr := s.xval a, width := 16 }]
  | .rett => [{ addr := s.me.tepc.toNat, width := 16 }]
  | .waitstampNe _ a _ => [{ addr := s.xval a, width := 8, bytes := 8 }]
  | .waitstampTag _ a _ => [{ addr := s.xval a, width := 8, bytes := 8 }]
  | .waitstampAny _ a => [{ addr := s.xval a, width := 8, bytes := 8 }]
  | .fcfg d _ _ => [{ addr := s.xval d, width := 8, bytes := 8 }]
  | .rysave a => [{ addr := s.xval a, width := 512, bytes := 16384, sp := 0 }]
  | .ryload a => [{ addr := s.xval a, width := 512, bytes := 16384, sp := 0 }]
  | .vld _ a i _ => [s.access (s.eaVec a i 64) 64 16 0]
  | .vldb _ a i _ => [s.access (s.eaVec a i 4) 4 1 0]
  | .vst _ a i _ => [s.access (s.eaVec a i 64) 64 16 0]
  | .vldn _ a i _ => [s.access (s.eaVec a i 64) 64 16 1]
  | .vstn _ a i _ => [s.access (s.eaVec a i 64) 64 16 1]
  | .mxstep _ b => [{ addr := s.xval b, width := 16, bytes := 16, sp := 0 }]
  | .mxpair _ b _ => [{ addr := s.xval b, width := 16, bytes := 16, sp := 0 }]
  | .mxdrain _ b _ => s.recAddrs b 79 48
  | .mxsave _ b u _ => [{ addr := s.xval b, width := 64, bytes := if u = 1 then 0x10240 else 0x8240, sp := 0 }]
  | .mxrest _ b u => [{ addr := s.xval b, width := 64, bytes := if u = 1 then 0x10240 else 0x8240, sp := 0 }]
  | .xfwd _ b _ => s.recAddrs b 191 160
  | .xinv _ b => s.recAddrs b 191 160
  | .rdstr d _ b => s.cAddrs false 0 d b
  | .rdsieve d _ b => s.cAddrs false 1 d b
  | .rdfold d _ b => s.cAddrs false 2 d b
  | .rdmat d _ b => s.cAddrs false 3 d b
  | .rdfp d _ b => s.cAddrs false 4 d b
  | .rdcmp d _ b => s.cAddrs false 5 d b
  | .upd d _ b => s.cAddrs false 6 d b
  | .dep d _ b => s.cAddrs false 7 d b
  | .land d _ b => s.cAddrs false 8 d b
  | .bvload d _ b => s.cAddrs false 9 d b
  | .importHost d _ b => s.cAddrs false 10 d b
  | .exportHost d _ b => s.cAddrs false 11 d b
  | .stream d _ b => s.cAddrs false 12 d b
  | .crsmode d _ b => s.cAddrs false 13 d b
  | .cursor d _ b => s.cAddrs false 14 d b
  | .kvlook d _ b => s.cAddrs true 0 d b
  | .kvapp d _ b => s.cAddrs true 1 d b
  | .kvfork d _ b => s.cAddrs true 2 d b
  | .kvtrunc d _ b => s.cAddrs true 3 d b
  | .kvflat d _ b => s.cAddrs true 4 d b
  | .kvdep d _ b => s.cAddrs true 5 d b
  | .playset d _ b => s.cAddrs true 6 d b
  | .framein d _ b => s.cAddrs true 7 d b
  | .stateck d _ b => s.cAddrs true 8 d b
  | _ => []

/-! ## Reserved values (R373, R378, R379 to R381) -/

/-- Offending fields that the core's own standing shows, without a register value: the position of the field (R301, R305, R373,
R378). -/
def State.badState (s : State) : Instr → Option Nat
  | .br _ _ => if s.me.delayLeft ≠ 0 then some 26 else none
  | .brNot _ _ => if s.me.delayLeft ≠ 0 then some 26 else none
  | .jal _ _ => if s.me.delayLeft ≠ 0 then some 26 else none
  | .jalr _ _ => if s.me.delayLeft ≠ 0 then some 26 else none
  | .loop _ _ => if s.me.delayLeft ≠ 0 ∨ s.me.lc ≠ 0 then some 26 else none
  | .rett => if s.me.delayLeft ≠ 0 then some 26 else none
  | .dual _ => if s.bundle.toNat / 2 ^ 32 ≠ 0 then some 0 else if s.me.k ≠ 0 then some 5 else none
  | .dualend => if s.bundle.toNat / 2 ^ 32 ≠ 0 ∨ s.me.k = 0 then some 0 else none
  | .tget _ _ t => if t = 0 ∨ s.me.k < t then some 5 else none
  | .tgetV _ _ t => if t = 0 ∨ s.me.k < t then some 5 else none
  | .tset _ _ t => if t = 0 ∨ s.me.k < t then some 5 else none
  | .tsetV _ _ t => if t = 0 ∨ s.me.k < t then some 5 else none
  | _ => none

/-- A region origin with a reserved bit set (R206). -/
def originBad (v : Nat) : Bool := decide (v / 2 ^ 18 ≠ 0 ∨ bits v 15 14 ≠ 0 ∨ bits v 7 5 ≠ 0)

/-- The fault code of a register name, 0 when it is in the allotment (R61, R374). -/
def Core.regCode (c : Core) (r : Nat × Nat) : Nat :=
  let cur := if r.1 = 0 then c.ax else c.av
  let lau := if r.1 = 0 then c.lx else c.lv
  if (r.1 = 0 ∧ r.2 = 0) ∨ r.2 < cur then 0 else if lau ≤ r.2 then 2 else 3
/-- Register xn is in the allotment: its value can be read, and checked (R371). -/
def State.has (s : State) (n : Nat) : Bool := decide (s.me.regCode (0, n) = 0)

/-- A unit that an M-slot instruction may not drive: the field of its register, with the reason (R372, R379). -/
def State.badUnit (s : State) (xf : Bool) (a : Nat) : Option (Nat × Nat) :=
  if s.has a = false then none else (if xf then s.xfRefused s.cur (s.xval a % 32) else s.xRefused s.cur (s.xval a % 32)).map (fun r => (15, r))

/-- The virtual start of a rider or the stream number of a sequence instruction offends (R256, R317, R381). -/
def State.badSpan (s : State) (seqOp : Bool) (kind a b : Nat) : Option (Nat × Nat) :=
  let v := s.xval a
  if s.has a = false then none
  else if seqOp then (if v / 2 ^ 12 ≠ 0 then some (7, 0) else none)
  else
    let r := if s.has b ∧ recReadable (s.xval b) 32 = true then s.recAt (s.xval b) 32 else 0
    if v / 2 ^ 49 ≠ 0 ∨ v % spanAlign kind r ≠ 0 then some (7, 0) else none

/-- Offending register values read at issue: the position of the field that names the register, and OP2 (R372, R373). A value can be read only
of a register in the allotment; any other is for the checks that follow (R371). -/
def State.badValue (s : State) : Instr → Option (Nat × Nat)
  | .rvset a _ => if s.has a ∧ (s.xval a = 0 ∨ 255 < s.xval a) then some (12, 0) else none
  | .rvarr _ _ => if s.heard s.cur then s.me.hold.refusal.map (fun o => (5, o)) else none
  | .fcfg _ _ b => if s.has b && originBad (s.xval b) then some (5, 0) else none
  | .frel b => if s.has b && originBad (s.xval b) then some (5, 0) else none
  | .tksend _ b => if s.has b && originBad (s.xval b) then some (5, 0) else none
  | .tplane _ a b =>
    let x := s.xval a
    let y := s.xval b
    if s.has b ∧ (y / 2 ^ 13 ≠ 0 ∨ y % 16 ≠ 0 ∨ (s.has a ∧ ¬ bit x 63 ∧ y ≠ 0)) then some (5, 0)
    else if s.has a = false then none
    else if bits x 62 50 ≠ 0 ∨ bits x 47 20 ≠ 0 ∨ bits x 49 48 = 3 ∨ x % 64 ≠ 0 ∨ (¬ bit x 63 ∧ x ≠ 0) then some (12, 0)
    else none
  | .mxstep a _ => s.badUnit false a
  | .mxdrain a _ _ => s.badUnit false a
  | .mxzero a _ => s.badUnit false a
  | .mxsave a _ _ _ => s.badUnit false a
  | .mxrest a _ _ => s.badUnit false a
  | .mxpair a _ _ => s.badUnit false a
  | .mxstat a _ => s.badUnit false a
  | .xfwd a _ _ => s.badUnit true a
  | .xinv a _ => s.badUnit true a
  | .rdstr _ a b => s.badSpan false 0 a b
  | .rdsieve _ a b => s.badSpan false 1 a b
  | .rdfold _ a b => s.badSpan false 2 a b
  | .rdmat _ a b => s.badSpan false 3 a b
  | .rdfp _ a b => s.badSpan false 4 a b
  | .rdcmp _ a b => s.badSpan false 5 a b
  | .upd _ a b => s.badSpan false 6 a b
  | .dep _ a b => s.badSpan false 7 a b
  | .land _ a b => s.badSpan false 8 a b
  | .bvload _ a b => s.badSpan false 9 a b
  | .importHost _ a b => s.badSpan false 10 a b
  | .exportHost _ a b => s.badSpan false 11 a b
  | .stream _ a b => s.badSpan false 12 a b
  | .crsmode _ a b => s.badSpan false 13 a b
  | .cursor _ a b => s.badSpan false 14 a b
  | .kvlook _ a b => s.badSpan true 0 a b
  | .kvapp _ a b => s.badSpan true 1 a b
  | .kvfork _ a b => s.badSpan true 2 a b
  | .kvtrunc _ a b => s.badSpan true 3 a b
  | .kvflat _ a b => s.badSpan true 4 a b
  | .kvdep _ a b => s.badSpan true 5 a b
  | .playset _ a b => s.badSpan true 6 a b
  | .framein _ a b => s.badSpan true 7 a b
  | .stateck _ a b => s.badSpan true 8 a b
  | _ => none

/-- The byte offset of the lowest offending field of the record that register xb names, where it can be read. -/
def State.badRecAt (s : State) (b n : Nat) (f : Nat → Option Nat) : Option Nat :=
  if s.has b && recReadable (s.xval b) n then (f (s.recAt (s.xval b) n)).map (· / 8) else none

/-- The lowest offending field of a rider record, the tile of an X-buffer destination among them (R260, R372); then the pattern record of a
STREAM (R271). -/
def State.badRider (s : State) (kind r : Nat) : Option Nat :=
  let tile : Bool := decide (kind = 0 ∧ bits r 255 252 = 2) && (s.xRefused s.cur (bits r 132 128)).isSome
  match riderBad kind r with
  | some b => some (if tile then Nat.min b 128 else b)
  | none =>
    if tile then some 128
    else if kind = 12 ∧ recReadable (bits r 191 128) 32 ∧ s.recAt (bits r 191 128) 32 / 2 ^ 192 ≠ 0 then some 192
    else none

/-- The byte offset of the lowest offending record field (R372, R380, R381). -/
def State.badRecord (s : State) : Instr → Option Nat
  | .mxstep _ b => s.badRecAt b 16 rowBad
  | .mxpair _ b _ => s.badRecAt b 16 rowBad
  | .mxdrain _ b _ => s.badRecAt b 32 drainBad
  | .xfwd _ b _ => s.badRecAt b 32 (xformBad false)
  | .xinv _ b => s.badRecAt b 32 (xformBad true)
  | .rdstr _ _ b => s.badRecAt b 32 (s.badRider 0)
  | .rdsieve _ _ b => s.badRecAt b 32 (s.badRider 1)
  | .rdfold _ _ b => s.badRecAt b 32 (s.badRider 2)
  | .rdmat _ _ b => s.badRecAt b 32 (s.badRider 3)
  | .rdfp _ _ b => s.badRecAt b 32 (s.badRider 4)
  | .rdcmp _ _ b => s.badRecAt b 32 (s.badRider 5)
  | .upd _ _ b => s.badRecAt b 32 (s.badRider 6)
  | .dep _ _ b => s.badRecAt b 32 (s.badRider 7)
  | .land _ _ b => s.badRecAt b 32 (s.badRider 8)
  | .bvload _ _ b => s.badRecAt b 32 (s.badRider 9)
  | .importHost _ _ b => s.badRecAt b 32 (s.badRider 10)
  | .exportHost _ _ b => s.badRecAt b 32 (s.badRider 11)
  | .stream _ _ b => s.badRecAt b 32 (s.badRider 12)
  | .crsmode _ _ b => s.badRecAt b 32 (s.badRider 13)
  | .cursor _ _ b => s.badRecAt b 32 (s.badRider 14)
  | .kvlook _ _ b => s.badRecAt b 32 (seqBad 0)
  | .kvapp _ _ b => s.badRecAt b 32 (seqBad 1)
  | .kvfork _ _ b => s.badRecAt b 32 (seqBad 2)
  | .kvtrunc _ _ b => s.badRecAt b 32 (seqBad 3)
  | .kvflat _ _ b => s.badRecAt b 32 (seqBad 4)
  | .kvdep _ _ b => s.badRecAt b 32 (seqBad 5)
  | .playset _ _ b => s.badRecAt b 32 (seqBad 6)
  | .framein _ _ b => s.badRecAt b 32 (seqBad 7)
  | .stateck _ _ b => s.badRecAt b 32 (seqBad 8)
  | _ => none

/-! ## The check of a syllable -/

/-- The lower of two offending positions; on a tie the first. -/
def lowerOf (a b : Option (Nat × Nat)) : Option (Nat × Nat) :=
  match a, b with
  | none, b => b
  | a, none => a
  | some p, some q => if q.1 < p.1 then some q else some p

/-- The ILLEGAL_OP check, as OP1 and OP2; `dec` is the position of the field at which decoding failed (R372). -/
def State.illegal (s : State) (i : Instr) (dec : Option Nat) : Option (Nat × Nat) :=
  match lowerOf (dec.map (·, 0)) (lowerOf ((s.badState i).map (·, 0)) (s.badValue i)) with
  | some p => some p
  | none => (s.badRecord i).map (fun o => (0xFF, o))

/-- The stamp word that a WAITSTAMP evaluates (R204). -/
def State.stampAt (s : State) (a : Nat) : DWord :=
  BitVec.ofNat 64 (if bit a 31 then s.mem.readN (nodeBase (keyOf a) + bits a 12 0) 8 else s.coxRead s.cur (bits a 19 0) 8)

/-- The address and condition of a WAITSTAMP (R204). -/
def State.waiting? (s : State) : Instr → Option (Nat × Bool)
  | .waitstampNe _ a b => some (s.xval a, decide (s.stampAt (s.xval a) ≠ s.me.rx 0 b))
  | .waitstampTag _ a b => some (s.xval a, decide (bits (s.stampAt (s.xval a)).toNat 63 48 = s.xval b % 65536))
  | .waitstampAny _ a => some (s.xval a, decide (bits (s.stampAt (s.xval a)).toNat 63 56 ≠ 0))
  | _ => none

/-- The hold of a WAITSTAMP has lasted STIMEO microseconds, its condition unmet (R204). -/
def State.stampLate (s : State) (i : Instr) : Option Bad :=
  match s.waiting? i, s.me.hold.since with
  | some (a, ok), some t =>
    if ¬ ok ∧ s.me.hold.met = none ∧ s.me.stimeo ≠ 0 ∧ t + 1000 * s.me.stimeo.toNat ≤ s.ns then
      some ⟨0x1B, a, (s.stampAt a).toNat, s.me.stimeo.toNat⟩
    else none
  | _, _ => none

/-- THE CHECK OF A SYLLABLE: ILLEGAL_OP, REG_RANGE, REG_RELEASED, ALIGN, NODE_RANGE, STAMP_TIMEOUT in that order (R371). -/
def State.checkIns (s : State) (i : Instr) (syl : Nat) (dec : Option Nat) : Option Bad :=
  match s.illegal i dec with
  | some (o1, o2) => some ⟨1, syl, o1, o2⟩
  | none =>
    let regs := namedRegs i
    let allot := s.me.ax + 256 * s.me.av
    match regs.find? (fun r => s.me.regCode r = 2) with
    | some r => some ⟨2, 256 * r.1 + r.2, syl, allot⟩
    | none => match regs.find? (fun r => s.me.regCode r = 3) with
      | some r => some ⟨3, 256 * r.1 + r.2, syl, allot⟩
      | none =>
        let ads := s.addrs i
        match ads.find? (fun a => a.addr % a.width ≠ 0) with
        | some a => some ⟨4, a.addr, syl, a.width⟩
        | none => match ads.find? (fun a => a.bytes ≠ 0 && !s.reachable s.cur a) with
          | some a => some ⟨5, a.addr, syl, a.width⟩
          | none => s.stampLate i

/-- A precise fault of the core whose turn it is: its bundle does not issue and the core traps at it (R356, R371). -/
def State.precise (s : State) (b : Bad) (slot : Nat) : State :=
  s.takeTrap s.cur b.code slot (BitVec.ofNat 64 b.op0) (some (s.coreRec s.cur b.code slot b.op0 b.op1 b.op2))

/-! ## Holding issue -/

/-- Every access that core `c` has made is performed (R155): node requests, arrivals and token sends. -/
def State.performed (s : State) (c : Nat) : Bool :=
  s.quiet c && (s.core c).pend.all (fun w => w.wait.isNone) && s.rvq.all (fun r => decide (r.src ≠ c))
    && s.toks.all (fun t => decide (t.src ≠ c))

/-- Riders, sequence instructions and streams of core `c` that have not written their stamps (R155). -/
def State.unstamped (s : State) (c : Nat) : Bool :=
  s.riders.any (fun r => decide (r.acct = c ∧ r.kind ≠ .rekey)) || s.seqs.any (fun t => decide (t.core = c))
    || s.streams.any (fun t => decide (t.core = c))

/-- A packet of core `c` is not yet written at its target (R155, R339). -/
def State.packetsOut (s : State) (c : Nat) : Bool :=
  s.oars.any (fun o => (o.unacked ++ o.sendq).any (fun p => decide (p.core = c)))

/-- The conditions of the three fences: 0 FENCE.t, 1 FENCE.d, 2 FENCE.s (R155). -/
def State.fenceOk (s : State) (scope : Nat) : Bool :=
  s.performed s.cur && decide (s.me.admDue ≤ s.me.step)
    && (decide (scope = 0) || !s.unstamped s.cur) && (decide (scope < 2) || !s.packetsOut s.cur)

/-- Change what the held bundle has found out. -/
def State.modHold (s : State) (f : Held → Held) : State := s.modMe (fun c => { c with hold := f c.hold })

/-- The rendezvous point `r` of the core's team. -/
def State.point (s : State) (r : Nat) : Rv :=
  match s.teamOf s.cur with
  | some t => Tab.get Rv.unset t.rv r
  | none => Rv.unset

/-- Send a rendezvous operation of the core to the hub (R203). -/
def State.sendRv (s : State) (i : Instr) (p : Nat) (set : Option Nat) (holds : Bool) : State :=
  { s with rvq := s.rvq ++ [{ time := s.dieNs (s.cur / 8), src := s.cur, team := s.me.team.getD 0, point := p, set := set,
                              holds := holds, loc := coxLoc s.cur s.me.pc.toNat 0, core := s.cur, syl := encode i }] }

/-- The condition of a bundle's S or M syllable: the state after a step that holds issue, or nothing when the bundle may issue
(R155, R170, R203, R204, R236, R255, R301). -/
def State.holdStep (s : State) (i : Instr) : Option State :=
  let full (a : Nat) : Option State := if 8 ≤ (s.xtile (tileNo s.cur (s.xval a % 32))).queue.length then some s else none
  let busy (a : Nat) : Option State :=
    if (Tab.get [] s.xforms (24 * s.cur + s.xval a % 32)).isEmpty then none else some s
  match s.waiting? i with
  | some (a, ok) =>
    if s.me.hold.met.isSome then none
    else if ok then some (s.modHold (fun h => { h with met := some (s.stampAt a) }))
    else some (s.modHold (fun h => { h with since := some (h.since.getD s.ns) }))
  | none =>
    match i with
    | .fenceT => if s.fenceOk 0 then none else some s
    | .fenceD => if s.fenceOk 1 then none else some s
    | .fenceS => if s.fenceOk 2 then none else some s
    | .rvwait a r => if (s.point r).ph = bit (s.xval a) 0 then some s else none
    | .rvarr d r =>
      if d = 0 ∨ (s.me.hold.reply.isSome ∧ s.heard s.cur = true) then none
      else if s.me.hold.sent then some s
      else some ((s.sendRv i r none true).modHold (fun h => { h with sent := true }))
    | .dual _ => if s.me.pend.isEmpty then none else some s
    | .dualend => if s.me.pend.isEmpty then none else some s
    | .mxstep a _ => full a
    | .mxdrain a _ _ => full a
    | .mxzero a _ => full a
    | .mxsave a _ _ t => if t = 1 then none else full a
    | .mxrest a _ _ => full a
    | .mxpair a _ _ => full a
    | .xfwd a _ _ => busy a
    | .xinv a _ => busy a
    | _ => none

/-- The writes of R192 that the core still has to land, less those due in this step. -/
def Core.inFlight (c : Core) : Nat := (c.pend.filter Wr.counts).length

/-- A TRAP that cannot be taken does not issue: it escalates (R363). -/
def State.trapEsc (s : State) : Instr → Option State
  | .trap n => if s.me.canTrap then none else some (s.takeTrap s.cur (0x80 + n) 0 (BitVec.ofNat 64 n) none)
  | _ => none

/-- What stops a syllable from issuing in this step: a precise fault, an escalated TRAP, a hold, or the limit of 32 writes in
flight. Nothing where it may issue. -/
def State.stopBefore (s : State) (i : Instr) : Option State :=
  match s.checkIns i (encode i) none with
  | some b => some (s.precise b (slotNo i))
  | none => match s.trapEsc i with
    | some t => some t
    | none => if 32 < s.me.inFlight + addsWrites i then some s else s.holdStep i

/-- A syllable issues: as one of a bundle that has passed (checked), its effect comes about; alone, after its own checks and its
own conditions. -/
def coxIssue (i : Instr) (eff : State → State) (s : State) : Host.Outcome State Fault Refusal :=
  if s.checked then .next (eff s)
  else match s.stopBefore i with
    | some t => .next t
    | none => .next (eff s)

end Sys2Proof.Machine
end

