-- ==== Sys2Proof/Machine/Place.lean ====
section
/-! DEFINITION. One instruction placed where the next step fetches it (log entry 13). No program stands in the machine after
reset: a team comes to run by a launch (R52 to R62), which loads a kernel from memory that the host has written. What stands
here is that load: core 0 of a launched team, with the whole register file allotted and the bundle in the configuration cache,
and its turn next; an instruction of the fabric stands as the ring word of an element whose turn is next. -/

namespace Sys2Proof.Machine

/-- A team of one core, as a launch with every optional field zero leaves it (R59, R62). -/
def Team.launched (c : Nat) : Team :=
  { cores := [c], func := 0, asid := 0, queue := 0, csidx := 0, seq := 0, k := 0, flist := 0, csb := 0, prio := 0,
    round := 0, ran := 0, since := 0, limit := 0, st := .running, areas := [], saved := [], late := [], rv := [],
    held := [], failed := false, ending := none, overlaps := [] }

/-- A 32-bit word as the syllable of slot `n` of a bundle whose other syllables are NOP (R161). -/
def bundleOf (n w : Nat) : BitVec 128 := BitVec.ofNat 128 (w % 2 ^ 32 * 2 ^ (32 * n))

/-- The slot number of a place. -/
def placeSlot : Place → Nat
  | .v => 1
  | .m => 2
  | .c => 3
  | _ => 0

/-- Core 0 runs, and the bundle it fetches next is `b`. -/
def State.launchBundle (s : State) (b : BitVec 128) : State :=
  let (t, s) := match (s.core 0).team with
    | some t => (t, s)
    | none => (s.teams.length, { s with teams := s.teams ++ [Team.launched 0] })
  let s := s.modCore 0 (fun c =>
    { c with run := .running, team := some t, ax := 128, av := 64, lx := 128, lv := 64, idle := 0, trapq := [], pend := [],
             hold := Held.none })
  { s with ccache := Tab.set none s.ccache (s.asidOf 0 * 2 ^ 45 + (s.core 0).pc.toNat / 16) (some b), checked := false,
           turns := ⟨0, .core 0⟩ :: s.turns }

/-- The instruction whose table bits are `w`, placed where the next step runs it. -/
def State.placeWord (s : State) (nbits w : Nat) : State :=
  match tablePlace nbits w with
  | none => s
  | some p =>
    if nbits = 32 then s.launchBundle (bundleOf (placeSlot p) w)
    else { s with turns := ⟨0, .element 0 0 0 p w⟩ :: s.turns }

end Sys2Proof.Machine
end

