-- ==== Sys2Proof/Machine/Ecc.lean ====
section
/-! DEFINITION. Check codes (R387, R390): corrected cells and words with their events, and uncorrectable words of the on-chip
stores. Which cells and words are bad is data of the state; no step of the machine makes one bad. -/

namespace Sys2Proof.Machine

/-- Key of a 16-byte word of an on-chip store in the table of bad words; a DRAM cell has the key PA / 64. -/
def wordKey (a : Nat) : Nat := 2 ^ 60 + a / 16

/-- The unit whose corrections share one record in a microsecond (R387, R390): the PC of a DRAM cell, 2^16 + the core of a cox
store, 2^20 + a node's key, 2^24 + an X tile. -/
def eccUnit (a : Nat) : Nat :=
  if a < 2 ^ 40 then a / 2 ^ 30
  else if a < 2 ^ 41 then 2 ^ 16 + (a - 2 ^ 40) / 2 ^ 20
  else if a < 2 ^ 42 then 2 ^ 20 + (a - 2 ^ 41) / 8192
  else 2 ^ 24 + (a - 2 ^ 42) / 65536

/-- A node's position as LOC of SK 1 (R355). -/
def nodeLoc (key : Nat) : Nat :=
  key / 2 ^ 15 * 2 ^ 15 + (4 * (key / 2 ^ 10 % 32) + key % 16 % 4) * 2 ^ 8 + (4 * (key / 16 % 64) + key % 16 / 4)

/-- An X tile as LOC of SK 2 (R355). -/
def tileLoc (u : Nat) : Nat := u / 32 * 256 + u % 32

/-- LOC of SK 3 that names no word (R382). -/
def noWord : Nat := 0xFFFF * 2 ^ 48
/-- LOC of SK 3 of physical address `pa` in course `c` (R355). -/
def wordLoc (c pa : Nat) : Nat := noWord + c * 2 ^ 40 + pa

/-- The die on whose copy of the time base the corrections of a unit are stamped (R20). -/
def eccDie (unit : Nat) : Nat :=
  if unit < 2 ^ 16 then 5 + unit / 64
  else if unit < 2 ^ 20 then (unit - 2 ^ 16) / 8
  else if unit < 2 ^ 24 then (unit - 2 ^ 20) / 2 ^ 15
  else (unit - 2 ^ 24) / 256

/-- Source kind and LOC of a unit's corrections; a DRAM cell's LOC names its course (R355). -/
def State.eccLoc (s : State) (unit addr : Nat) : Nat × Nat :=
  if unit < 2 ^ 16 then (3, wordLoc (((s.crsOfPa addr).map Prod.snd).getD 0) addr)
  else if unit < 2 ^ 20 then (1, (unit - 2 ^ 16) / 8 * 2 ^ 15)
  else if unit < 2 ^ 24 then (1, nodeLoc (unit - 2 ^ 20))
  else (2, tileLoc (unit - 2 ^ 24))

/-- The function that an address belongs to: the owner of a DRAM cell's course, else the function of the core it serves. -/
def State.funcOfAddr (s : State) (a : Nat) : Nat :=
  if a < 2 ^ 40 then
    match s.crsOfPa a with
    | some (p, c) => (s.crs p c).func
    | none => 0
  else if a < 2 ^ 41 then s.funcOf ((a - 2 ^ 40) / 2 ^ 20)
  else if a < 2 ^ 42 then s.funcOf (keyCore ((a - 2 ^ 41) / 8192))
  else s.funcOf ((a - 2 ^ 42) / 65536 / 32)

/-- Write out the record of a microsecond that has passed: the first corrected address and the count (R387). -/
def State.eccFlush (s : State) (unit : Nat) : State :=
  let v := Tab.get 0 s.eccTime unit
  if v ≠ 0 ∧ v / 2 ^ 80 - 1 < s.ns / 1000 then
    let a := v % 2 ^ 48
    let l := s.eccLoc unit a
    let s := { s with eccTime := Tab.set 0 s.eccTime unit 0 }
    s.queueRec { time := s.dieNs (eccDie unit), code := 0x13, sk := l.1, evt := true, func := s.funcOfAddr a, loc := l.2, op0 := a,
                 op1 := v / 2 ^ 48 % 2 ^ 32 : RecF }.pack
  else s

/-- Write out every record of a microsecond that has passed (R387). -/
def State.eccFlushAll (s : State) : State := s.eccTime.foldl (fun (s : State) e => s.eccFlush e.1) s

/-- A correction at memory address `a` is counted (R387). -/
def State.eccNote (s : State) (a : Nat) : State :=
  let u := eccUnit a
  let s := s.eccFlush u
  let v := Tab.get 0 s.eccTime u
  { s with eccTime := Tab.set 0 s.eccTime u (if v = 0 then (s.ns / 1000 + 1) * 2 ^ 80 + 2 ^ 48 + a else v + 2 ^ 48) }

/-- The 16-byte words of `n` bytes at `a`. -/
def wordsOf (a n : Nat) : List Nat := (List.range ((a % 16 + n + 15) / 16)).map (fun i => a / 16 * 16 + 16 * i)

/-- An uncorrectable word lies in `n` bytes at `a` of an on-chip store (R390). -/
def State.wordsBad (s : State) (a n : Nat) : Bool :=
  (wordsOf a n).any (fun w => decide (1 < Tab.get 0 s.eccBad (wordKey w)))

/-- Correctable words among `n` bytes at `a` are corrected and reported (R390). -/
def State.wordsFixed (s : State) (a n : Nat) : State :=
  (wordsOf a n).foldl (fun s w =>
    if Tab.get 0 s.eccBad (wordKey w) = 1 then
      ({ s with eccBad := Tab.set 0 s.eccBad (wordKey w) 0 }).eccNote w
    else s) s

/-- The trap of core `c`, whose syllable at LOC `loc` read an uncorrectable word at local address `la` (R355, R390). -/
def State.eccTrap (s : State) (c loc la : Nat) : State :=
  s.unitTrap c { s.coreRecF c 0x14 with loc := loc, op0 := la }.pack

/-- A read by core `c` of `n` bytes at memory address `a`, named by local address `la`, and of the runs of its tangents: corrections, and whether
the value is lost, in which case the core traps (R390). -/
def State.readCheck (s : State) (c a n la : Nat) (runs : List (Nat × Nat)) : State × Bool :=
  let t := ((a, n) :: runs).foldl (fun (s : State) x => s.wordsFixed x.1 x.2) s
  if ((a, n) :: runs).any (fun x => s.wordsBad x.1 x.2) then (t.eccTrap c (coxLoc c (s.core c).pc.toNat s.curSlot) la, true) else (t, false)

end Sys2Proof.Machine
end

