-- ==== Sys2Proof/Machine/Flags.lean ====
section
/-! DEFINITION. Lane arithmetic and the flags it raises (R108, R123, R217 to R222, R135): FP32 operations by one rounding, minimum
and maximum, compares, and the tangent rules' first cases. -/

namespace Sys2Proof.Machine

/-- The canonical FP32 NaN (R123). -/
def nan32 : Nat := 0x7FC00000

/-- Order of two FP32 values that are not NaN, −0.0 below +0.0: a is below b (R108, R218). -/
def below32 (a b : Nat) : Bool :=
  let x := f32 a
  let y := f32 b
  x.lt y || (x.eq y && x.sign && !y.sign)

/-- The lesser of two FP32 values (R108, R218): true when the second is taken. -/
def minTakesB (a b : Nat) : Bool := below32 b a
/-- The greater of two FP32 values: true when the second is taken. -/
def maxTakesB (a b : Nat) : Bool := below32 a b
/-- Either value is NaN. -/
def anyNan32 (a b : Nat) : Bool := (f32 a).isNan || (f32 b).isNan
/-- Minimum of R108 and R218: a NaN in either input gives the canonical NaN with no flag. -/
def min32 (a b : Nat) : Nat := if anyNan32 a b then nan32 else if minTakesB a b then b else a
/-- Maximum of R108 and R218. -/
def max32 (a b : Nat) : Nat := if anyNan32 a b then nan32 else if maxTakesB a b then b else a

/-- A result lane and its flags. -/
abbrev LaneRes := Nat × FlagSet

/-- FP32 sum (R218). -/
def add32 (a b : Nat) : LaneRes := rne32 (Val.add 0 (f32 a) (f32 b))
/-- FP32 difference (R218). -/
def sub32 (a b : Nat) : LaneRes := rne32 (Val.add 0 (f32 a) (f32 b).neg)
/-- FP32 product (R218). -/
def mul32 (a b : Nat) : LaneRes := rne32 (Val.mul (f32 a) (f32 b))
/-- a × b + d with one rounding (R219). -/
def fma32 (a b d : Nat) : LaneRes := rne32 ((Val.mul (f32 a) (f32 b)).bind (fun p => Val.add 0 p (f32 d)))
/-- d − a × b with one rounding (R219). -/
def fnma32 (a b d : Nat) : LaneRes := rne32 ((Val.mul (f32 a).neg (f32 b)).bind (fun p => Val.add 0 p (f32 d)))
/-- FP32 quotient (R227). -/
def div32 (a b : Nat) : LaneRes := rne32 (Val.div (f32 a) (f32 b))
/-- The magnitude; a NaN gives the canonical NaN (R218). -/
def abs32 (a : Nat) : Nat := if (f32 a).isNan then nan32 else a % 2 ^ 31
/-- The negation; a NaN gives the canonical NaN (R218). -/
def neg32 (a : Nat) : Nat := if (f32 a).isNan then nan32 else if bit a 31 then a % 2 ^ 31 else a % 2 ^ 31 + 2 ^ 31

/-- FP32 compares (R222): a NaN operand compares false. -/
def eq32 (a b : Nat) : Bool := (f32 a).eq (f32 b)
/-- a < b as FP32. -/
def lt32 (a b : Nat) : Bool := (f32 a).lt (f32 b)
/-- a ≤ b as FP32. -/
def le32 (a b : Nat) : Bool := lt32 a b || eq32 a b

/-- A zero of either sign. -/
def zero32 (a : Nat) : Bool := decide (a % 2 ^ 31 = 0)

/-- The tangent of a lane by R217: NaN when the primal result is, +0.0 when every tangent input is a zero, else the formula. -/
def tangentLane (primal : Nat) (inputs : List Nat) (f : Unit → LaneRes) : LaneRes :=
  if (f32 primal).isNan then (nan32, 0) else if inputs.all zero32 then (0, 0) else f ()

/-- The formula of a tangent as an exact sum of products, rounded once by RNE (R217). -/
def sumOfProducts (l : List (Val × Val)) : LaneRes := rne32 (FVal.total 0 (l.map (fun p => Val.mul p.1 p.2)))

/-- The OR of a list of flag sets. -/
def orAll (l : List FlagSet) : FlagSet := l.foldl (fun a b => a ||| b) 0

/-- A 32-bit word from an integer, wrapped. -/
def wrap32 (i : Int) : Nat := (i % 2 ^ 32).toNat

/-- The atomic operations of R108: the new value and the flags, from the old value, the operand and the expected value. -/
def atomicNew (o m v e : Nat) : Nat × FlagSet :=
  match o with
  | 0 => ((m + v) % 2 ^ 32, 0)
  | 1 => ((m + v) % 2 ^ 64, 0)
  | 2 => ((BitVec.ofNat 32 m &&& BitVec.ofNat 32 v).toNat, 0)
  | 3 => ((BitVec.ofNat 32 m ||| BitVec.ofNat 32 v).toNat, 0)
  | 4 => ((BitVec.ofNat 32 m ^^^ BitVec.ofNat 32 v).toNat, 0)
  | 5 => (if sint 32 v < sint 32 m then v % 2 ^ 32 else m, 0)
  | 6 => (if sint 32 m < sint 32 v then v % 2 ^ 32 else m, 0)
  | 7 => (if v % 2 ^ 32 < m then v % 2 ^ 32 else m, 0)
  | 8 => (if m < v % 2 ^ 32 then v % 2 ^ 32 else m, 0)
  | 9 => (min32 m (v % 2 ^ 32), 0)
  | 10 => (max32 m (v % 2 ^ 32), 0)
  | 11 => add32 m v
  | 12 => Fmt.bf16.encode 0 (Val.add 0 (Fmt.bf16.decode m) (Fmt.bf16.decode (v % 2 ^ 16))).1 |> fun r =>
      (r.1, r.2 ||| (Val.add 0 (Fmt.bf16.decode m) (Fmt.bf16.decode (v % 2 ^ 16))).2)
  | 13 => (v % 2 ^ 32, 0)
  | _ => (if m = e % 2 ^ 32 then v % 2 ^ 32 else m, 0)

/-- The bytes of an atomic's operand (R108). -/
def atomicBytes (o : Nat) : Nat := if o = 1 then 8 else if o = 12 then 2 else 4

end Sys2Proof.Machine
end

