-- ==== Sys2Proof/Machine/Node.lean ====
section
/-! DEFINITION. Requests to memory nodes: what each does to the node's bytes (R99, R108, R199, R232, R307), random-mode nodes
performing them at once (R109) and ordered-update nodes queueing them (R103). -/

namespace Sys2Proof.Machine

/-- What a request returns: the planes of its result and the flags. -/
structure NodeRes where
  mem : Memory
  planes : List (BitVec 512)
  fl : FlagSet
deriving DecidableEq, Repr

/-- Tangent words of planes 1 to k: `n` lanes converted from memory, +0.0 for an absent plane (R307). -/
def loadTans (m : Memory) (base k n : Nat) (ts : List (Nat × Nat × Nat)) : List (BitVec 512) :=
  (List.range k).map (fun p => match ts.find? (fun t => t.1 = p + 1) with
    | none => 0
    | some (_, off, pf) => BitVec.ofNat 512 (packCodes 32 ((List.range n).map (fun i =>
        tanLoad pf (m.readN (base + off + i * pfmtBytes pf) (pfmtBytes pf))))))

/-- Store the tangent lanes of `mask` of the present planes (R307); `planes` holds planes 1 to k, already rounded. -/
def storeTans (m : Memory) (base mask : Nat) (planes : List (BitVec 512)) (ts : List (Nat × Nat × Nat)) : Memory :=
  ts.foldl (fun m t =>
    let v := planes.getD (t.1 - 1) 0
    (List.range 16).foldl (fun m i =>
      if bit mask i then m.writeN (base + t.2.1 + i * pfmtBytes t.2.2) (pfmtBytes t.2.2) (lane v i) else m) m) m

/-- Write the lanes of `mask` of a vector at `a` (R232). -/
def storeLanes (m : Memory) (a mask : Nat) (v : BitVec 512) : Memory :=
  (List.range 16).foldl (fun m i => if bit mask i then m.writeN (a + 4 * i) 4 (lane v i) else m) m

/-- The bytes of the tangents of `n` words, run by run: address and number. -/
def tanRuns (base n : Nat) (ts : List (Nat × Nat × Nat)) : List (Nat × Nat) := ts.map (fun t => (base + t.2.1, n * pfmtBytes t.2.2))

/-- Perform one request on the bytes at `base` (R103, R108). -/
def performReq (m : Memory) (base : Nat) (r : NodeReq) : NodeRes :=
  let a := base + r.off
  if r.op < 16 then
    let n := atomicBytes r.op
    let old := m.readN a n
    let new := atomicNew r.op old r.val.toNat r.expv
    ⟨m.writeN a n new.1, [BitVec.ofNat 512 old], new.2⟩
  else if r.op = 16 then
    let v := m.readN a r.bytes
    ⟨m, (if r.signed then (sext (8 * r.bytes) v).setWidth 512 else BitVec.ofNat 512 v) :: loadTans m base r.k 1 r.tans, 0⟩
  else if r.op = 17 then
    ⟨storeTans (m.writeN a r.bytes r.val.toNat) base (2 ^ (r.bytes / 4) - 1) r.planes r.tans, [], r.fl⟩
  else if r.op = 18 then
    ⟨m, BitVec.ofNat 512 (m.readN a 64) :: loadTans m base r.k 16 r.tans, 0⟩
  else ⟨storeTans (storeLanes m a r.mask r.val) base r.mask r.planes r.tans, [], 0⟩

/-- The request returns bytes of the node. -/
def NodeReq.reads (r : NodeReq) : Bool := decide (r.op ≤ 16 ∨ r.op = 18)

/-- The present tangent planes of an access at offset `off` (R307). -/
def Core.tansAt (c : Core) (node : Bool) (off : Nat) : List (Nat × Nat × Nat) :=
  (c.memPlanes.filter (fun p => p.2.pres)).map (fun p => (p.1, p.2.at node off, p.2.pfmt))

/-- Where a result goes: latency, destination, lanes and planes written. -/
structure Sink where
  lat : Nat
  dst : Dst
  lmask : Nat
  pmask : Nat
deriving DecidableEq, Repr

/-- The core whose turn it is makes a request to node `key` (R199, R200, R232). A random-mode node performs it at once; an
ordered-update node queues it, and the result's write waits for it. -/
def State.nodeRequest (s : State) (key : Nat) (r : NodeReq) (snk : Option Sink) : State :=
  if (s.node key).mode = 2 then
    let id := s.nextId
    let s := { s.modNode key (fun n => { n with queue := n.queue ++ [{ r with id := id }] }) with nextId := id + 1 }
    match snk with
    | some k => s.putW k.lat k.dst [] k.lmask k.pmask 0 (some id)
    | none => s
  else
    let p := performReq s.mem (nodeBase key) r
    let c := if r.reads then s.readCheck s.cur (nodeBase key + r.off) r.bytes (2 ^ 31 + key * 8192 + r.off) (tanRuns (nodeBase key) (r.bytes / 4) r.tans) else (s, false)
    let s := { c.1 with mem := p.mem }
    match snk with
    | some k => s.putW k.lat k.dst p.planes k.lmask k.pmask p.fl none c.2
    | none => s

/-- The cycle of a node's clock until which a request issued now is held: 8 of its cycles after the end of this nanosecond (R103). -/
def State.holdEnd (s : State) (key : Nat) : Nat := ({ s with now := 2 * (s.ns + 1) } : State).cycle (coreIsl (keyCore key)) + 8

/-- A request of the core whose turn it is, with nothing filled in but its place and time. -/
def State.reqAt (s : State) (op la bytes : Nat) : NodeReq :=
  { id := 0, time := s.dieNs (s.cur / 8), src := s.cur, op := op, off := bits la 12 0, bytes := bytes, val := 0, expv := 0,
    mask := 0, signed := false, k := s.me.k, planes := [], tans := [], fl := 0, load := none, due := s.holdEnd (keyOf la),
    loc := coxLoc s.cur s.me.pc.toNat s.curSlot }

/-- The result of a node request reaches the waiting write of the core that made it (R199); a lost value never lands (R390). -/
def State.fillWait (s : State) (c id : Nat) (planes : List (BitVec 512)) (fl : FlagSet) (lost : Bool) : State :=
  s.modCore c (fun k => { k with pend := k.pend.map (fun w =>
    if w.wait = some id then
      { w with wait := none, poison := lost, fl := fl, p0 := planes.getD 0 0, p1 := planes.getD 1 0, p2 := planes.getD 2 0,
               p3 := planes.getD 3 0 }
    else w) })

/-- Order of requests at an ordered-update node: timestamp, source, issue order (R103). -/
def reqBefore (a b : NodeReq) : Bool :=
  decide (a.time < b.time ∨ (a.time = b.time ∧ (a.src < b.src ∨ (a.src = b.src ∧ a.id < b.id))))

/-- The request that an ordered-update node executes next. -/
def Node.first (n : Node) : Option NodeReq :=
  n.queue.foldl (fun b r => match b with
    | none => some r
    | some a => if reqBefore r a then some r else some a) none

end Sys2Proof.Machine
end

