-- ==== Sys2Proof/Config.lean ====
section
/-! DEFINITION. The free values of the model: what the manual leaves open. They have no body; nothing can be proved of the
value of any of them. Each is applied to the counter `fresh` of the state or to the operands it depends on. -/

namespace Sys2Proof.Config

/-- Random bits of a key slot or of an alarm's new tree key (R344, R417): the manual says only that they are random. -/
opaque randomKey : Nat → BitVec 256

/-- The private values of the attestation key (R342), from the level, 0 the top one, and the number of its tree: the tree's identifier; the start of
a chain, from the leaf and the chain; the randomizer of a leaf's signature. -/
opaque lmsIdentifier : Nat → Nat → BitVec 128
opaque lmsSecret : Nat → Nat → Nat → Nat → BitVec 256
opaque lmsRandomizer : Nat → Nat → Nat → BitVec 256

/-- What a read brings of a register that does not respond, from the counter (R341, R412). -/
opaque unanswered : Nat → Nat

/-- The 64-bit MAC of a tree cell, from the stack, the number of its device key, the parent counter and the cell's 448 bits of counters (R347):
the manual does not give the function. -/
opaque treeMac : Nat → Nat → Nat → Nat → BitVec 64

/-- The completion status that a request cut by DL_Down reports, from the counter (R407): the manual gives none. -/
opaque cutStatus : Nat → BitVec 2

/-- The demand that the arbiter measured of a fabric island over the last microsecond, from the counter and the island (R23). -/
opaque measuredDemand : Nat → Nat → Nat

/-- The current budget in units of 0.1 A that a power budget in watts allows (R23, R25): the manual gives no voltage. -/
opaque currentOf : Nat → Nat

/-- The full need of islands 20 to 23 at a reassignment, in units of 0.1 A, from the counter and the island (R23): the manual gives no value,
and does not say whether it changes. -/
opaque fixedNeed : Nat → Nat → Nat

/-- Which line the hub's configuration cache gives up for a new one when it is full, from the counter (R18): the manual gives no rule. -/
opaque cacheVictim : Nat → Nat

/-- What a load binds a stream port to, from the image's FSUM, the core and the port (R260): the image has no field for it. 0 for nothing; else
one more than 3 × an element of the region, in tile order, plus 0 for the write view of a node, 1 and 2 for ports A and B of an X tile. -/
opaque portBinding : Nat → Nat → Nat → Nat

/-- How the arbiter rounds a budget to 0.1 A, or shares it where nothing was demanded, from the counter and the island (R23). -/
opaque budgetRound : Nat → Nat → Nat

/-- The predicted current of a fabric island at an operating point, from the counter, the island and the point (R23). -/
opaque predictedCurrent : Nat → Nat → Nat → Nat

/-- Which of two accesses that meet at one word of a permissive load's range in one instant comes first (R149), from the time in half ns and the
word's address: true where the later one in the order of elements does. -/
opaque wordBefore : Nat → Nat → Bool

/-- Which of its two dies names a link between fabric dies in LOC (R355, R410): the higher one where true. -/
opaque linkNamedByHigher : Nat → Bool

end Sys2Proof.Config
end

