-- ==== Sys2Proof/Machine/Tree.lean ====
section
/-! DEFINITION. The counter tree of a stack's protected region (R345, R347): its shape, its cells in the tree course, and their MACs. The
counters are kept in tables of the state, `pageGen` for level 0 and `treeCtr` above, at stack × 2^40 + level × 2^32 + index; level 6 is the
parents on die. `treeKey` holds twice the number of the device key, plus 1 once the cells stand in the course (log entry 9). -/

namespace Sys2Proof.Machine

/-- ENCRGN of a stack (R345): first protected page, protected pages, PC of the tree course and its course. -/
def State.encBase (s : State) (st : Nat) : Nat := bits (s.reg (0x9108 + 16 * st)) 31 10
def State.encPages (s : State) (st : Nat) : Nat := bits (s.reg (0x9100 + 16 * st)) 63 53 + bits (s.reg (0x9108 + 16 * st)) 9 0 * 2 ^ 11
def State.treePc (s : State) (st : Nat) : Nat := 64 * st + bits (s.reg (0x9100 + 16 * st)) 52 47
def State.treeCourse (s : State) (st : Nat) : Nat := bits (s.reg (0x9100 + 16 * st)) 46 44

/-- Cells of level `l` of the counter tree over `n` protected pages (R347). -/
def treeCells (n l : Nat) : Nat := (n + 8 ^ (l + 1) - 1) / 8 ^ (l + 1)

/-- First word, in the tree course, of cell `j` of level `l`: the top level comes first (R347). -/
def treeWord (n l j : Nat) : Nat := 16 * ((((List.range 6).filter (fun m => decide (l < m))).map (treeCells n)).sum + j)

/-- First words of the cells on the path of protected page `i` of `n`, from the top level down (R347). -/
def treePath (n i : Nat) : List Nat := [5, 4, 3, 2, 1, 0].map (fun l => treeWord n l (i / 8 ^ (l + 1)))

/-- Counter `i` of level `l` (R347). -/
def State.treeCounter (s : State) (st l i : Nat) : Nat :=
  if l = 0 then Tab.get 0 s.pageGen (st * 2 ^ 22 + s.encBase st + i) else Tab.get 0 s.treeCtr (st * 2 ^ 40 + l * 2 ^ 32 + i)

/-- The MAC of a tree cell under the stack's device key, from the parent counter and the cell's counters (R347). -/
def State.treeMac (s : State) (st parent cs : Nat) : Nat := (Config.treeMac st (Tab.get 0 s.treeKey st / 2) parent cs).toNat

/-- The 64 bytes of cell `j` of level `l`: eight counters of 56 bits, then the MAC (R347). -/
def State.treeCell (s : State) (st l j : Nat) : Nat :=
  let n := if l = 0 then s.encPages st else treeCells (s.encPages st) (l - 1)
  let cs := packCodes 56 ((List.range 8).map (fun k => if 8 * j + k < n then s.treeCounter st l (8 * j + k) else 0))
  cs + 2 ^ 448 * s.treeMac st (s.treeCounter st (l + 1) j) cs

/-- The base die writes cell `j` of level `l`. -/
def State.treePut (s : State) (st l j : Nat) : State :=
  let p := s.treePc st
  { s with mem := s.mem.writeN ((s.crs p (s.treeCourse st)).pa p (treeWord (s.encPages st) l j)) 64 (s.treeCell st l j) }

/-- The tree course is valid and holds the whole tree. -/
def State.treeFits (s : State) (st : Nat) : Bool :=
  let c := s.crs (s.treePc st) (s.treeCourse st)
  c.valid && decide (16 * ((List.range 6).map (treeCells (s.encPages st))).sum ≤ c.words)

/-- The cells stand in the tree course. -/
def State.treeLaid (s : State) (st : Nat) : Bool := decide (Tab.get 0 s.treeKey st % 2 = 1) && s.treeFits st

/-- Every cell of the tree is written under the key in force (R414). -/
def State.treeLay (s : State) (st : Nat) : State :=
  let s := { s with treeKey := Tab.mod 0 s.treeKey st (fun k => k / 2 * 2 + 1) }
  (List.range 6).foldl (fun (s : State) l => (List.range (treeCells (s.encPages st) l)).foldl (fun (s : State) j => s.treePut st l j) s) s

/-- A new device tree key of a stack (R345, R414). -/
def State.newTreeKey (s : State) (st : Nat) : State :=
  { s with treeKey := Tab.set 0 s.treeKey st (2 * (s.fresh + 1)), fresh := s.fresh + 1 }

/-- The cells on the path of protected page `i` are written after its counters have advanced (R413). -/
def State.treeUpdate (s : State) (st i : Nat) : State :=
  if s.treeLaid st then (List.range 6).foldl (fun (s : State) l => s.treePut st l (i / 8 ^ (l + 1))) s else s

/-- The words of the path of protected page `i` as they stand, from the top level down. -/
def State.pathWords (s : State) (st i : Nat) : List Nat :=
  let p := s.treePc st
  (treePath (s.encPages st) i).flatMap (fun o => (List.range 16).map (fun k => s.mem.readN ((s.crs p (s.treeCourse st)).pa p (o + k)) 4))

/-- The check of the words `ws` of a path, 16 for each cell from the top level down, for protected page `i` of stack `st`: every cell's MAC is
right under its parent, the top cell's on die (R347). -/
def State.pathOk (s : State) (st i : Nat) (ws : List Nat) : Bool :=
  let cell (l : Nat) : Nat := packCodes 32 ((List.range 16).map (fun k => ws.getD (16 * (5 - l) + k) 0))
  let parent (l : Nat) : Nat :=
    if l = 5 then s.treeCounter st 6 (i / 8 ^ 6) else cell (l + 1) / 2 ^ (56 * (i / 8 ^ (l + 1) % 8)) % 2 ^ 56
  (List.range 6).all (fun l => decide (cell l / 2 ^ 448 = s.treeMac st (parent l) (cell l % 2 ^ 448)))

/-- The generation that a path's words give protected page `i` (R347). -/
def pathGen (i : Nat) (ws : List Nat) : Nat :=
  packCodes 32 ((List.range 16).map (fun k => ws.getD (80 + k) 0)) / 2 ^ (56 * (i % 8)) % 2 ^ 56

end Sys2Proof.Machine
end

