-- ==== Sys2Proof/Machine/Admit.lean ====
section
/-! DEFINITION. Admission of riders (R75, R79, R80, R92, R93, R382, R391, R392): translation of a span through the cache of an
E tile, its split into parts, slots, and the failures that show at admission. -/

namespace Sys2Proof.Machine

/-! ## What a rider is -/

/-- NWORDS of a rider. -/
def Rider.n (r : Rider) : Nat := bits r.rcd.toNat 63 32
/-- A field of the record. -/
def Rider.f (r : Rider) (hi lo : Nat) : Nat := bits r.rcd.toNat hi lo
/-- SEQ of a rider. -/
def Rider.sq (r : Rider) : Nat := r.f 199 192

/-- Writers of R78. -/
def RKind.writes : RKind → Bool
  | .upd => true
  | .dep => true
  | .land => true
  | .imp => true
  | .rekey => true
  | _ => false

/-- Kinds that act on no word (R259). -/
def RKind.still : RKind → Bool
  | .bvload => true
  | .crsmode => true
  | .cursor => true
  | _ => false

/-- The kind that a kind code of R167 names. -/
def RKind.ofCode : Nat → RKind
  | 0 => .rdstr
  | 1 => .rdsieve
  | 2 => .rdfold
  | 3 => .rdmat
  | 4 => .rdfp
  | 5 => .rdcmp
  | 6 => .upd
  | 7 => .dep
  | 8 => .land
  | 9 => .bvload
  | 10 => .imp
  | 11 => .exp
  | 12 => .stream
  | 13 => .crsmode
  | _ => .cursor

/-- A part of no words. -/
def Part.empty : Part :=
  { pc := 0, crs := 0, runs := [], role := .data, catch? := none, boarded := false, acted := 0, missed := [],
    lost := [], counted := [], start := 0, gave := [], done := false }

/-- Words of a part. -/
def Part.len (p : Part) : Nat := (p.runs.map Piece.len).sum
/-- The run that holds word `w` of the course. -/
def Part.runAt (p : Part) (w : Nat) : Option Piece := p.runs.find? (fun r => decide (r.off ≤ w ∧ w < r.off + r.len))
/-- The span index of word `w` of the course. -/
def Part.idx (p : Part) (w : Nat) : Nat := match p.runAt w with | some r => r.base + (w - r.off) | none => 0
/-- Word offset of the part's first word. -/
def Part.first (p : Part) : Nat := match p.runs with | r :: _ => r.off | [] => 0
/-- Every word of the part has been acted on (R77). -/
def Part.complete (p : Part) : Bool := p.boarded && p.missed.isEmpty && decide (p.acted = p.len)

/-- The spans of a rider: first address, words, role (R256 to R273). -/
def Rider.spans (r : Rider) : List (Nat × Nat × Role) :=
  (r.xa, if r.kind.still then 1 else r.n, .data) ::
    (match r.kind with
    | .rdcmp => [(r.f 176 128, r.n, .spanB)]
    | .dep => if r.f 223 223 = 1 then [(r.f 127 64, 1, .tail)] else []
    | _ => [])

/-- Virtual address of word `i` of a role's span. -/
def Rider.va (r : Rider) (role : Role) (i : Nat) : Nat :=
  match role with
  | .data => r.xa + 4 * i
  | .spanB => r.f 176 128 + 4 * i
  | .tail => r.f 127 64

/-- The rider is one of core `c`'s in flight (R75). -/
def Rider.ofCore (r : Rider) (c : Nat) : Bool := decide (r.acct = c ∧ r.kind ≠ .rekey)

/-- Rider number `id`. -/
def State.rider? (s : State) (id : Nat) : Option Rider := s.riders.find? (fun r => decide (r.id = id))
/-- Change rider `id`. -/
def State.modRider (s : State) (id : Nat) (f : Rider → Rider) : State :=
  { s with riders := s.riders.map (fun r => if r.id = id then f r else r) }
/-- The rider is gone: its slots are free (R75). -/
def State.dropRider (s : State) (id : Nat) : State := { s with riders := s.riders.filter (fun r => decide (r.id ≠ id)) }

/-- A rider asked for but not yet admitted. -/
def Rider.ask (kind : RKind) (owner : Owner) (acct func asid : Nat) (team : Option Nat) (rcd : BitVec 256) (xa stamp : Nat) : Rider :=
  { id := 0, kind := kind, owner := owner, acct := acct, func := func, asid := asid, team := team, time := 0, seq := 0,
    cyc := 0, rcd := rcd, xa := xa, stamp := stamp, parts := [], pages := [], src := [], seen := [], seenB := [], order := [], acc := [], note := 0,
    fin := 0, flags := 0, fail := none, stopped := false, void := false, withdrawn := none, unread := false, host := false, link := 0, sent := 0, nact := 0 }

/-- A rider record of R177 with NWORDS, DEST, ARGA, SEQ and ARGB. -/
def mkRecord (n dest arga seq argb : Nat) : BitVec 256 :=
  BitVec.ofNat 256 (n * 2 ^ 32 + dest * 2 ^ 64 + arga * 2 ^ 128 + seq * 2 ^ 192 + argb * 2 ^ 200)

/-- The die of the E tile that admits a rider, 4 the hub. -/
def Rider.die (r : Rider) : Nat := if r.acct < 32 then r.acct / 8 else r.acct - 32

/-! ## Translation of a span -/

/-- A failure at admission: code, reason, OP2, virtual address. -/
structure AdmFail where
  code : Nat
  reason : Nat
  op2 : Nat
  va : Nat
  /-- the word concerned, as a LOC of SK 3 (R355) -/
  loc : Nat
deriving DecidableEq, Repr

/-- What the cache knows of a span. -/
structure Xlat where
  miss : List Nat
  fail : Option AdmFail
  pages : Nat
  /-- pages that are translated: first address and bytes -/
  on : List (Nat × Nat)
  /-- physical runs: address, words, span index, key -/
  runs : List (Nat × Nat × Nat × Option Nat)
deriving DecidableEq, Repr

/-- The key of an address space (R344). -/
def State.keyOfAsid (s : State) (asid : Nat) : Nat := (Tab.get 0 s.keySlots (s.keymap asid % 256)).toNat

/-- The size of the page that a walk would find; 16 KiB where it finds none. -/
def State.pageSize (s : State) (asid va : Nat) : Nat :=
  match s.walk 0 asid va with
  | .page _ size _ _ _ => size
  | .fail _ _ => 2 ^ 14

/-- The first of `n` words from `pa` on that lies in no course. -/
def State.outside (s : State) (pa n : Nat) : Nat → Option Nat
  | 0 => none
  | fuel + 1 =>
    if n = 0 then none
    else match s.crsOfPa pa with
      | none => some 0
      | some (p, c) =>
        let d := s.crs p c
        let k := min n (d.words - (pa - d.pa p 0) / 4)
        (s.outside (pa + 4 * k) (n - k) fuel).map (k + ·)

/-- Look up the pages of `n` words from `va` (R92); the failure is that of the first page concerned, one whose words lie in no course among them (R382,
R391). At most `fuel` pages are looked at. -/
def State.xlate (s : State) (tile asid : Nat) (writer : Bool) (va n base : Nat) : Nat → Xlat
  | 0 => ⟨[], none, 0, [], []⟩
  | fuel + 1 =>
    if n = 0 then ⟨[], none, 0, [], []⟩
    else match s.tlbFind tile asid va with
      | none =>
        let size := s.pageSize asid va
        let k := min n ((size - va % size) / 4)
        let x := s.xlate tile asid writer (va + 4 * k) (n - k) (base + k) fuel
        { x with miss := va :: x.miss, pages := x.pages + 1 }
      | some e =>
        let k := min n ((e.va + e.size - va) / 4)
        let x := s.xlate tile asid writer (va + 4 * k) (n - k) (base + k) fuel
        match e.fault with
        | some (reason, level) =>
          { x with fail := some ⟨0x0E, reason, if reason = 0x11 then level else 0, va, noWord⟩, pages := x.pages + 1 }
        | none =>
          if let some i := s.outside (e.pa + (va - e.va)) k 16 then { x with fail := some ⟨0x0E, 0x15, 0, va + 4 * i, noWord⟩, pages := x.pages + 1 }
          else if writer ∧ ¬ e.wr then { x with fail := some ⟨0x0F, 0, 0, va, noWord⟩, pages := x.pages + 1 }
          else
            { x with pages := x.pages + 1, on := (e.va, e.size) :: x.on,
                     runs := (e.pa + (va - e.va), k, base, if e.enc then some (s.keyOfAsid asid) else none) :: x.runs }

/-- Cut a physical run at the bounds of courses: PC, course and run of the part. Nothing where some word lies in no course. -/
def State.cut (s : State) (pa n base : Nat) (key : Option Nat) : Nat → Option (List (Nat × Nat × Piece))
  | 0 => some []
  | fuel + 1 =>
    if n = 0 then some []
    else match s.crsOfPa pa with
      | none => none
      | some (p, c) =>
        let d := s.crs p c
        let off := (pa - d.pa p 0) / 4
        let k := min n (d.words - off)
        match s.cut (pa + 4 * k) (n - k) (base + k) key fuel with
        | none => none
        | some l => some ((p, c, ⟨off, k, base, key⟩) :: l)

/-- Add a run to the part of its course, joined to the last run where it continues it. -/
def addRun (l : List Part) (role : Role) (p c : Nat) (r : Piece) : List Part :=
  match l with
  | [] => [{ Part.empty with pc := p, crs := c, runs := [r], role := role }]
  | q :: t =>
    if q.pc = p ∧ q.crs = c then
      (match q.runs.getLast? with
      | some z =>
        if z.off + z.len = r.off ∧ z.base + z.len = r.base ∧ z.key = r.key then
          { q with runs := q.runs.dropLast ++ [{ z with len := z.len + r.len }] }
        else { q with runs := q.runs ++ [r] }
      | none => { q with runs := [r] }) :: t
    else q :: addRun t role p c r

/-- The parts of a span: one per course touched, in span order (R80). -/
def State.split (s : State) (role : Role) (runs : List (Nat × Nat × Nat × Option Nat)) : Option (List Part) :=
  runs.foldl (fun acc r => match acc with
    | none => none
    | some l => match s.cut r.1 r.2.1 r.2.2.1 r.2.2.2 16 with
      | none => none
      | some ps => some (ps.foldl (fun l q => addRun l role q.1 q.2.1 q.2.2) l)) (some [])

/-- The part acts on no word; its first run keeps its place. -/
def Part.idle (p : Part) : Part := { p with runs := (p.runs.take 1).map (fun r => { r with len := 0 }) }

/-- What admission finds of a rider: missing pages, the parts it would have, and why it fails. -/
structure Found where
  miss : List Nat
  fail : Option AdmFail
  pages : Nat
  on : List (Nat × Nat)
  parts : Option (List Part)
deriving DecidableEq, Repr

/-- Translate and split every span of a rider (R75, R92, R391). The pages of the tail count toward no limit (R93). -/
def State.find (s : State) (tile : Nat) (r : Rider) : Found :=
  r.spans.foldl (fun f sp =>
    let x := s.xlate tile r.asid r.kind.writes sp.1 sp.2.1 0 1025
    { miss := f.miss ++ x.miss, fail := f.fail.or x.fail, pages := if sp.2.2 = .tail then f.pages else f.pages + x.pages,
      on := f.on ++ x.on, parts := match f.parts, s.split sp.2.2 x.runs with
        | some a, some b => some (a ++ b)
        | _, _ => none }) ⟨[], none, 0, [], some []⟩

/-! ## Limits that show only at admission (R382) -/

/-- An FPW or RDFP page, or a kind that needs one course, crosses courses: the first word outside (R382, reason 0x23). -/
def Rider.crosses (r : Rider) (ps : List Part) : Option Nat :=
  let data := ps.filter (fun p => decide (p.role = .data))
  let one := decide (r.kind = .land ∨ r.kind = .stream ∨ (r.kind = .rdstr ∧ (r.f 255 252 = 3 ∨ r.f 255 252 = 4)))
  let page := decide (r.kind = .rdfp ∨ (r.kind = .dep ∧ r.f 222 222 = 1))
  if one then (match data with
    | _ :: q :: _ => (q.runs.head?).map Piece.base
    | _ => none)
  else if page then (data.flatMap Part.runs).findSome? (fun z => if z.base % 1024 ≠ 0 then some z.base else none)
  else none

/-- A LAND opens a window, which stays open until its stamp is written (R88, R269); one refused because its window was open, which `note` marks,
opens none. -/
def Rider.opensWindow (r : Rider) : Bool := decide (r.kind = .land ∧ r.note = 0)
/-- A LAND names a window that is open in its stack (R393). -/
def State.winOpen (s : State) (stack win : Nat) : Bool :=
  s.riders.any (fun q => q.opensWindow && decide (q.f 255 250 = win) && q.parts.any (fun p => decide (p.pc / 64 = stack)))

/-! ## Boarding order, and pending modes (R74, R79, R272) -/

/-- Place among the admissions of one cycle on one account (R79): C slot, drain deposits, stream emissions, sequence-unit riders, the E
tiles' own walks. -/
def Owner.rank : Owner → Nat
  | .drain _ _ => 1
  | .stream _ _ => 2
  | .load _ => 2
  | .turn _ => 3
  | .walk _ => 4
  | _ => 0

/-- One list of numbers is before another of its length, the first difference deciding. -/
def lexBefore : List Nat → List Nat → Bool
  | a :: s, b :: t => decide (a < b) || (decide (a = b) && lexBefore s t)
  | _, _ => false

/-- Boarding order (R79): re-key parts first (R413), then timestamp, core number, account sequence. The account sequence counts the admissions of
one cycle in the order of their rank, whichever the model admitted first; `seq` counts those of one rank. -/
def Rider.before (a b : Rider) : Bool :=
  let key (r : Rider) : List Nat := if r.kind = .rekey then [0, 0, 0, 0, 0] else [r.time + 1, r.acct, r.cyc, r.owner.rank, r.seq]
  lexBefore (key a) (key b)

/-- Insert a rider's part in boarding order. -/
def insActor (a : Rider × Part) : List (Rider × Part) → List (Rider × Part)
  | [] => [a]
  | b :: t => if a.1.before b.1 then a :: b :: t else b :: insActor a t

/-- The time base of the base die of a PC's stack (R76). -/
def State.pcNs (s : State) (p : Nat) : Nat := s.dieNs (5 + p / 64)

/-- The riders' parts of a course. -/
def State.partsOf (s : State) (p c : Nat) : List (Rider × Part) :=
  s.riders.flatMap (fun r => (r.parts.filter (fun q => decide (q.pc = p ∧ q.crs = c) && !q.done)).map (fun q => (r, q)))

/-- CRSMODE parts whose boarding time has come (R74, R272). -/
def State.modeAsks (s : State) (p c : Nat) : List (Rider × Part) :=
  ((s.partsOf p c).filter (fun a => decide (a.1.kind = .crsmode ∧ a.1.fail = none ∧ a.1.time + 250 ≤ s.pcNs p))).foldl
    (fun l a => insActor a l) []

/-- PMODE and PEND of a course (R70, R74, R272): 0, or one more than the mode asked. A request counts from its boarding time on, the one last in
boarding order. -/
def State.pendOf (s : State) (p c : Nat) : Nat :=
  match (s.modeAsks p c).getLast? with
  | some a => 1 + a.1.f 129 128
  | none => Tab.get 0 s.pendMode (crsKey p c)

/-- The limits of R382, R393, R407 and R409 in the order of their reasons: the reason and the span index of the first word concerned. -/
def State.limits (s : State) (r : Rider) (pages : Nat) (ps : List Part) : Option (Nat × Part × Nat) :=
  match ps with
  | [] => none
  | p :: _ =>
    let d := s.crs p.pc p.crs
    let m := r.f 129 128
    if bit r.rcd.toNat 31 ∧ r.kind ≠ .rdmat ∧ r.owner = .core ∧ d.words ≤ r.f 27 0 then some (0x20, p, 0)
    else if r.kind = .bvload ∧ d.mode ≠ 0 then some (0x21, p, 0)
    else if let (true, some q) := (decide (r.kind = .rdmat), ps.find? (fun q => decide ((s.crs q.pc q.crs).mode ≠ 0))) then
      some (0x21, q, ((q.runs.head?).map Piece.base).getD 0)
    else if r.kind = .bvload ∧ s.pendOf p.pc p.crs ≠ 0 then some (0x22, p, 0)
    else match r.crosses ps with
      | some i => some (0x23, (ps.find? (fun q => q.runs.any (fun z => decide (z.base = i)))).getD p, i)
      | none =>
        if 1024 < pages then some (0x24, p, 0)
        else match ps.find? (fun q => decide ((s.crs q.pc q.crs).func ≠ r.func)) with
          | some q => some (0x25, q, ((q.runs.head?).map Piece.base).getD 0)
          | none =>
            if r.kind = .crsmode ∧ (d.words % modeW m ≠ 0 ∨ d.base % modeCells m ≠ 0 ∨ (m = 2 ∧ 256 < d.len)) then some (0x26, p, 0)
            else if r.kind = .land ∧ s.winOpen (p.pc / 64) (r.f 255 250) then some (0x27, p, 0)
            else if (r.kind = .imp ∨ r.kind = .exp) ∧ s.hostLinkUp.getD (s.linkOf r.func) true = false then some (0x2B, p, 0)
            else if r.kind = .rdstr ∧ r.owner = .core ∧ r.f 255 252 = 4 ∧ (s.oars.getD (r.f 132 128) Oar.down).lup = false then some (0x2C, p, 0)
            else none

/-- Physical address of word `w` of a part's course. -/
def State.partPa (s : State) (p : Part) (w : Nat) : Nat := (s.crs p.pc p.crs).pa p.pc w

/-- The failure of a limit, with its LOC; the record of R393 names the window. -/
def State.limitFail (s : State) (r : Rider) (x : Nat × Part × Nat) : AdmFail :=
  let off := match x.2.1.runs.find? (fun z => decide (z.base ≤ x.2.2 ∧ x.2.2 < z.base + z.len)) with
    | some z => z.off + (x.2.2 - z.base)
    | none => x.2.1.first
  ⟨0x0E, x.1, 0, if x.1 = 0x27 then r.f 255 250 else r.va x.2.1.role x.2.2, wordLoc x.2.1.crs (s.partPa x.2.1 off)⟩

/-! ## Slots -/

/-- An emission of a stream: it writes no stamp of its own, and holds its slots until it finishes (R271, R295). -/
def Rider.emission (r : Rider) : Bool :=
  match r.owner with
  | .stream _ _ => true
  | .load _ => true
  | _ => false

/-- The port of a load's emission. -/
def Rider.loadPort (r : Rider) : Nat := bits (r.f 127 64) 2 0

/-- Two emissions of a load go to one port. -/
def Rider.samePort (q r : Rider) : Bool := (match q.owner with
  | .load _ => true
  | _ => false) && decide (q.owner = r.owner ∧ q.acct = r.acct ∧ q.loadPort = r.loadPort)

/-- Rider slots of a PC that are held (R75, R80, R271). -/
def State.slotsHeld (s : State) (pc : Nat) : Nat :=
  (s.riders.map (fun r => if r.kind = .rekey ∨ (r.emission && r.parts.all Part.done) = true then 0
    else (r.parts.filter (fun p => decide (p.pc = pc))).length)).sum

/-- The bank-pass resource of a PC is held (R86). -/
def State.bankHeld (s : State) (pc : Nat) : Bool :=
  s.riders.any (fun r => decide (r.kind = .rdmat ∨ r.kind = .bvload) && r.parts.any (fun p => decide (p.pc = pc)))

/-- Some PC lacks the slots that the parts need, or the bank-pass resource or an RDMAT's course is not ready (R75, R86, R264). -/
def State.noSlot (s : State) (r : Rider) (ps : List Part) : Bool :=
  ps.any (fun p => decide (128 < s.slotsHeld p.pc + (ps.filter (fun q => decide (q.pc = p.pc))).length))
    || (decide (r.kind = .rdmat ∨ r.kind = .bvload) && ps.any (fun p => s.bankHeld p.pc))
    || (decide (r.kind = .rdmat) && ps.any (fun p =>
          decide ((s.crs p.pc p.crs).mode = 0 ∧ s.pendOf p.pc p.crs ≠ 0)))

/-- Riders of core `c` in flight, with its sequence instructions and the streams of its ports, whose stamps are unwritten too (R75, R271,
R318). -/
def State.coreFlight (s : State) (c : Nat) : Nat :=
  (s.riders.filter (fun r => r.ofCore c)).length + (s.seqs.filter (fun t => decide (t.core = c))).length
    + (s.streams.filter (fun t => decide (t.core = c))).length

/-! ## Admission -/

/-- The E tile that admits a span for account `acct` (R75): `q` is the core number within the die, or that of a region's
north-west tile. -/
def eTile (die q va : Nat) : Nat := 12 * die + (q + 8 * (va / 2 ^ 14 % 2)) % 12

/-- The part whose catch point a record names is the one that holds the span's first word (R76, R177, R259): RDMAT boards at the
matrix's first cell (R85), a stream emission at its span's first word. LAND and IMPORT board once what they write is there, wherever the
cursor stands (R88, R259, R270). -/
def Rider.withCatch (r : Rider) (ps : List Part) : List Part :=
  match ps with
  | [] => []
  | p :: t =>
    (if r.kind = .rdmat ∨ r.kind = .stream ∨ (r.kind = .rdstr ∧ r.f 255 252 = 3) then { p with catch? := some p.first }
      else if bit r.rcd.toNat 31 ∧ r.owner = .core ∧ r.kind ≠ .land ∧ r.kind ≠ .imp then { p with catch? := some (r.f 27 0) } else p) :: t

/-- The next account sequence (R79). -/
def State.nextAcct (s : State) (a : Nat) : Nat := Tab.get 0 s.acct a + 1

/-- The island whose clock counts the cycles of admissions on account `a` (R21, R79): a core's quadrant, its die's uncore for the loader, the hub. -/
def acctIsl (a : Nat) : Nat := if a < 32 then coreIsl a else if a < 36 then 5 * (a - 32) + 4 else 21

/-- Offsets in a part of the span indices whose source word is lost. -/
def Part.lostAt (p : Part) (l : List Nat) : List Nat :=
  p.runs.flatMap (fun z => (l.filter (fun i => decide (z.base ≤ i ∧ i < z.base + z.len))).map (fun i => z.off + (i - z.base)))

/-- Span indices of a sequence turn's deposit whose source words are lost (R326, R390). -/
def State.turnLost (s : State) (r : Rider) : List Nat :=
  match r.owner with
  | .turn n => ((s.seqs.find? (fun t => decide (t.id = n ∧ t.src ≠ [] ∧ t.src = r.src))).map Turn.lost).getD []
  | _ => []

/-- A rider takes its slots: its identity, timestamp and place in the boarding order are fixed (R75, R79). -/
def State.takeSlots (s : State) (r : Rider) (time : Nat) (ps : List Part) : State :=
  let lost := s.turnLost r
  let ps := if lost.isEmpty then ps else ps.map (fun p => { p with lost := p.lostAt lost })
  let r := { r with id := s.nextId, time := time, seq := s.nextAcct r.acct, cyc := s.cycle (acctIsl r.acct), parts := ps }
  { s with riders := s.riders ++ [r], nextId := s.nextId + 1, acct := Tab.set 0 s.acct r.acct r.seq }

/-! ## Riders of the dispatcher, and deliveries into a cox store (R116, R120) -/

/-- A part whose runs are pieces of an area at physical address `pa`; none where no course holds it. -/
def State.physParts (s : State) (pa : Nat) (ps : List (Nat × Nat)) : List Part :=
  match s.crsOfPa pa with
  | none => []
  | some (p, c) =>
    let d := s.crs p c
    let o := (pa - d.pa p 0) / 4
    let runs := (ps.foldl (fun (acc : List Piece × Nat) q => (acc.1 ++ [⟨o + q.1 / 4, q.2, acc.2, none⟩], acc.2 + q.2)) ([], 0)).1
    [{ Part.empty with pc := p, crs := c, runs := runs.filter (fun z => decide (z.off + z.len ≤ d.words)) }]

/-- The member that a rider of the dispatcher saves, fills or writes for (R120). -/
def Owner.context? : Owner → Option (Nat × Nat)
  | .context t c => some (t, c)
  | .redirect t c => some (t, c)
  | _ => none

/-- A rider of the dispatcher waits behind those of the same context that wait (R120). -/
def behind (q : Rider) (l : List Rider) : Bool := q.owner.context?.isSome && l.any (fun x => decide (x.owner.context? = q.owner.context?))

/-- A rider whose parts are known is admitted, or waits for slots (R75, R120). -/
def State.admitPhys (s : State) (q : Rider) : State :=
  if q.parts.isEmpty then s
  else if behind q s.waiting ∨ s.noSlot q q.parts = true then { s with waiting := s.waiting ++ [q] }
  else s.takeSlots q (s.dieNs (q.acct / 8)) q.parts

/-- THE REDIRECTION of R120: `n` bytes of `v` for offset `off` of a switched-out member's cox store go to its saved image, by a DEP rider on
its core's account, behind the save's own write; what lies beyond the image is dropped. -/
def State.redirect (s : State) (t c : Nat) (tm : Team) (off n v : Nat) : State :=
  let pa := (tm.saved.getD (tm.cores.idxOf c) Core.empty).regbase.toNat
  let k := Nat.min ((n + 3) / 4) ((tm.csBytes - off) / 4)
  if k = 0 then s
  else s.admitPhys { Rider.ask .dep (.redirect t c) c 0 0 (some t) (mkRecord k 0 0 0 0) pa 0 with
    parts := s.physParts pa [(0xA000 + off, k)]
    src := (List.range k).map (fun i => BitVec.ofNat 32 (v / 2 ^ (32 * i))) }

/-- Deliver `n` bytes of `v` at cox-store offset `off` of team `t`'s member on core `c`. From the step at which the save begins to that at
which the restore begins they go to its saved image; while the restore is under way they follow it (R120). A team that has ended takes none. -/
def State.coxDeliver (s : State) (t : Option Nat) (c off n v : Nat) : State :=
  if s.present t c then { s with mem := s.mem.writeN (coxBase c + off) n v }
  else match t.bind (fun t => (s.teams[t]?).map (fun tm => (t, tm))) with
    | some (t, tm) =>
      if tm.st = .ended then s
      else if tm.st = .returning then { s with teams := s.teams.modify t (fun tm => { tm with late := tm.late ++ [(c, off, n, v)] }) }
      else s.redirect t c tm off n v
    | none => s

/-- `n` bytes of `v` enter at local address `la` of core `c`'s reach (R116, R120). -/
def State.deliverNow (s : State) (t : Option Nat) (c la n v : Nat) : State :=
  if bit la 31 then { s with mem := s.mem.writeN (nodeBase (keyOf la) + bits la 12 0) n v }
  else s.coxDeliver t c (bits la 19 0) n v

/-- Deliver `n` bytes of `v` at local address `la` (R116): from the uncore they pass the retiming FIFO of the core's quadrant island, where they wait while
its clock pauses (R22, R24). -/
def State.deliver (s : State) (t : Option Nat) (c la n v : Nat) : State :=
  if s.paused (coreIsl c) then { s with retime := s.retime ++ [(t, c, la, n, v)] } else s.deliverNow t c la n v

/-! ## Walks (R92, R391) -/

/-- What an E tile of a fabric die serves (R15): sixteen PCs of a stack from the first one on, the hub, or another fabric die. -/
inductive ERole where
  | memory (stack pc : Nat) | hub | die (d : Nat)
deriving DecidableEq, Repr

/-- Tile position of E tile `e` of a fabric die (R15). -/
def eTilePos (e : Nat) : Nat × Nat := (16 * (e / 2 % 2) + 7 + 8 * (e % 2), 16 * (e / 4) + 15)
/-- Role of E tile `e` of fabric die `d` (R15). -/
def eRole (d e : Nat) : ERole :=
  if e < 12 then .memory (3 * d + e / 4) (16 * (e % 4)) else if e = 12 then .hub else .die (d ^^^ (e - 12))

/-- The stack whose tables an E tile walks (R15, R92); the hub's are those of stack 0. -/
def tileStack (t : Nat) : Nat :=
  if t < 48 then (match eRole (t / 12) (t % 12) with
    | .memory st _ => st
    | _ => 0)
  else 0

/-- The entry that the end of a walk puts into its translation cache (R92, R391). -/
def State.walkTlb (s : State) (tile asid va : Nat) (r : WalkRes) : Tlb :=
  match r with
  | .page v size pa wr enc => ⟨tile, asid, v, size, pa, wr, enc, if enc then Tab.get 0 s.pageGen (pa / 2 ^ 14) else 0, none⟩
  | .fail reason level => ⟨tile, asid, va, 2 ^ 14, 0, false, false, 0, some (reason, level)⟩

/-- Change walk `id`. -/
def State.modWalk (s : State) (id : Nat) (f : Walk → Walk) : State :=
  { s with walks := s.walks.map (fun w => if w.id = id then f w else w) }

/-- Walk `w` is over. -/
def State.walkOver (s : State) (w : Walk) (r : WalkRes) : State :=
  s.modWalk w.id (fun x => { x with found := some (s.walkTlb w.tile w.asid w.va r) })

/-- A walk rider reads the entry of level `lv` in the table at offset `tab` (R92): one pass of the translation course. It waits while
its PC has no slot. -/
def State.walkPass (s : State) (w : Walk) (lv tab : Nat) : State :=
  let pa := walkPa (tileStack w.tile) tab lv w.va
  match s.crsOfPa pa with
  | some (p, c) =>
    if (s.crs p c).tc then
      let q : Rider := Rider.ask .rdstr (.walk w.id) (if w.tile < 48 then 32 + w.tile / 12 else 36) (s.crs p c).func 4096 none (mkRecord 2 0 0 0 0) pa 0
      let q := { q with parts := [{ Part.empty with pc := p, crs := c, runs := [⟨(pa - (s.crs p c).pa p 0) / 4, 2, 0, none⟩] }] }
      let s := s.modWalk w.id (fun x => { x with level := lv })
      if s.noSlot q q.parts then { s with waiting := s.waiting ++ [q] } else s.takeSlots q (s.dieNs q.die) q.parts
    else s.walkOver w (.fail 0x15 lv)
  | none => s.walkOver w (.fail 0x15 lv)

/-- Start a walk, if none of its page runs in its tile (R92). -/
def State.startWalk (s : State) (tile asid va : Nat) : State :=
  let v := va / 2 ^ 14 * 2 ^ 14
  if s.walks.any (fun w => decide (w.tile = tile ∧ w.asid = asid ∧ w.va = v)) then s
  else
    let w : Walk := ⟨s.nextId, tile, asid, v, 0, none⟩
    let s := { s with nextId := s.nextId + 1, walks := s.walks ++ [w] }
    if bits (s.reg (0x40000 + 16 * asid)) 19 0 ≤ v / 2 ^ 30 then s.walkOver w (.fail 0x10 0)
    else s.walkPass w 0 (bits (s.reg (0x40000 + 16 * asid + 8)) 35 0)

/-- Start the walks of missing pages (R92). -/
def State.startWalks (s : State) (tile asid : Nat) (l : List Nat) : State := l.foldl (fun s va => s.startWalk tile asid va) s

/-- The walk has found the leaf entry `e` of an ENC page: a rider passes the page's path in the tree course of its stack, catching at word 0
(R347). A page outside the protected region, or of a stack whose tree course is not valid, cannot be checked (R391, reason 0x14). -/
def State.treePass (s : State) (w : Walk) (e : Nat) : State :=
  let pa := bits e 39 10 * 1024
  let st := pa / 2 ^ 36
  let page := pa / 2 ^ 14 % 2 ^ 22
  let p := s.treePc st
  let c := s.treeCourse st
  if page < s.encBase st ∨ s.encBase st + s.encPages st ≤ page ∨ s.treeFits st = false then s.walkOver w (.fail 0x14 w.level)
  else
    let s := if s.treeLaid st then s else s.treeLay st
    let q : Rider := Rider.ask .rdstr (.walk w.id) (if w.tile < 48 then 32 + w.tile / 12 else 36) (s.crs p c).func 4096 none (mkRecord 96 0 0 0 0) 0 0
    let runs := ((List.range 6).zip (treePath (s.encPages st) (page - s.encBase st))).map (fun x => (⟨x.2, 16, 16 * x.1, none⟩ : Piece))
    let q := { q with note := e, parts := [{ Part.empty with pc := p, crs := c, runs := runs, catch? := some 0 }] }
    if s.noSlot q q.parts then { s with waiting := s.waiting ++ [q] } else s.takeSlots q (s.dieNs q.die) q.parts

/-- The rider of walk `id` has read entry `e`, or has met a lost cell: the next pass, or the end (R92, R391). -/
def State.walkRead (s : State) (id : Nat) (e : Option Nat) : State :=
  match s.walks.find? (fun w => decide (w.id = id)), e with
  | none, _ => s
  | some w, none => s.walkOver w (.fail 0x14 w.level)
  | some w, some e =>
    match s.walkEntry (tileStack w.tile) w.level w.asid w.va e with
    | .inl (.page v n pa wr enc) => if enc then s.treePass w e else s.walkOver w (.page v n pa wr enc)
    | .inl r => s.walkOver w r
    | .inr t => if w.level < 2 then s.walkPass w (w.level + 1) t else s.walkOver w (.fail 0x12 2)

/-- The rider of walk `id` has passed the path of the ENC page of entry `e`: the translation holds the page's generation, or a MAC fails (R347,
R391). The cells are judged as they stand when the rider finishes, for a tree update writes a whole path at once. -/
def State.treeRead (s : State) (id e : Nat) : State :=
  match s.walks.find? (fun w => decide (w.id = id)) with
  | none => s
  | some w =>
    let pa := bits e 39 10 * 1024
    let st := pa / 2 ^ 36
    let i := pa / 2 ^ 14 % 2 ^ 22 - s.encBase st
    let ws := s.pathWords st i
    match s.walkEntry (tileStack w.tile) w.level w.asid w.va e with
    | .inl (.page v n pa wr enc) =>
      if s.pathOk st i ws then
        let t := s.walkTlb w.tile w.asid w.va (.page v n pa wr enc)
        s.modWalk id (fun x => { x with found := some { t with gen := pathGen i ws } })
      else s.walkOver w (.fail 0x14 w.level)
    | .inl r => s.walkOver w r
    | .inr _ => s

/-- The record of a rider-class fault (R382, R388, R391). -/
def riderRec (r : Rider) (time : Nat) (a : AdmFail) : BitVec 512 :=
  { time := time, code := a.code, sk := 3, func := r.func, core := if r.acct < 32 then r.acct else 0, loc := a.loc,
    op0 := a.va, op1 := a.reason, op2 := a.op2 : RecF }.pack

/-- ADMISSION (R75): the result of p15 and the state after it. `die` is the admitting E tile's. All or nothing. -/
def State.tryAdmit (s : State) (r : Rider) (die tile : Nat) : Nat × State :=
  let f := s.find tile r
  let full := decide (r.acct < 32 ∧ 512 ≤ s.coreFlight r.acct)
  let now := s.dieNs die
  match f.miss with
  | _ :: _ =>
    let ns := match f.parts with | some ps => s.noSlot r ps | none => false
    (4 + 8 * b2n full + 2 * b2n ns, s.startWalks tile r.asid f.miss)
  | [] =>
    let away := f.fail.or (match f.parts with
      | none => some ⟨0x0E, 0x15, 0, r.xa, noWord⟩
      | some _ => none)
    match away with
    | some a =>
      if full then (8, s)
      else (1, s.takeSlots { r with pages := f.on, fail := some (riderRec r now a) } now [])
    | none =>
      let ps := f.parts.getD []
      match s.limits r f.pages ps with
      | some x =>
        let one := (ps.head?.map Part.idle).toList
        let held := s.noSlot r one || (decide (r.kind = .rdmat ∨ r.kind = .bvload) && ps.any (fun p => s.bankHeld p.pc))
        if full ∨ held = true then (8 * b2n full + 2 * b2n held, s)
        else (1, s.takeSlots { r with pages := f.on, note := if x.1 = 0x27 then 1 else r.note, fail := some (riderRec r now (s.limitFail r x)) } now one)
      | none =>
        let ps := if r.kind.still then (ps.take 1).map Part.idle else r.withCatch ps
        if full ∨ s.noSlot r ps then (8 * b2n full + 2 * b2n (s.noSlot r ps), s)
        else (1, s.takeSlots { r with pages := f.on } now ps)

/-- Admission on a cox core's account (R75). -/
def State.admitCore (s : State) (r : Rider) : Nat × State :=
  s.tryAdmit r (r.acct / 8) (eTile (r.acct / 8) (r.acct % 8) r.xa)

/-- A rider of an engine that was not admitted waits and is tried again (R247, R271, R318, R340). -/
def State.admitOrWait (s : State) (r : Rider) (die tile : Nat) : State :=
  let a := s.tryAdmit r die tile
  if a.1 = 1 then a.2 else { a.2 with waiting := a.2.waiting ++ [r] }

end Sys2Proof.Machine
end

