-- ==== Sys2Proof/Machine/Crypto.lean ====
section
/-! DEFINITION. SHA-256 (FIPS 180-4), AES-256 (FIPS 197) and GHASH (SP 800-38D), as the rules use them (R179, R265, R268, R346). -/

namespace Sys2Proof.Machine

/-! ## SHA-256 -/

/-- Rotate a 32-bit word right. -/
def ror32 (n : Nat) (x : BitVec 32) : BitVec 32 := x.rotateRight n

/-- Round constants, eight to a number. -/
def shaKs : Nat → Nat
  | 0 => 0xab1c5ed5923f82a459f111f13956c25be9b5dba5b5c0fbcf71374491428a2f98
  | 1 => 0xc19bf1749bdc06a780deb1fe72be5d74550c7dc3243185be12835b01d807aa98
  | 2 => 0x76f988da5cb0a9dc4a7484aa2de92c6f240ca1cc0fc19dc6efbe4786e49b69c1
  | 3 => 0x1429296706ca6351d5a79147c6e00bf3bf597fc7b00327c8a831c66d983e5152
  | 4 => 0x92722c8581c2c92e766a0abb650a735453380d134d2c6dfc2e1b213827b70a85
  | 5 => 0x106aa070f40e3585d6990624d192e819c76c51a3c24b8b70a81a664ba2bfe8a1
  | 6 => 0x682e6ff35b9cca4f4ed8aa4a391c0cb334b0bcb52748774c1e376c0819a4c116
  | _ => 0xc67178f2bef9a3f7a4506ceb90befffa8cc7020884c8781478a5636f748f82ee

/-- Round constant `i`. -/
def shaK (i : Nat) : BitVec 32 := BitVec.ofNat 32 (shaKs (i / 8) / 2 ^ (32 * (i % 8)))

/-- The initial hash value. -/
def shaInit : List (BitVec 32) :=
  [0x6a09e667, 0xbb67ae85, 0x3c6ef372, 0xa54ff53a, 0x510e527f, 0x9b05688c, 0x1f83d9ab, 0x5be0cd19]

/-- Extend the schedule by `n` words; the newest word stands first. -/
def shaExtend : Nat → List (BitVec 32) → List (BitVec 32)
  | 0, w => w
  | n + 1, w =>
    let g (k : Nat) : BitVec 32 := w.getD k 0
    let s0 := ror32 7 (g 14) ^^^ ror32 18 (g 14) ^^^ (g 14 >>> 3)
    let s1 := ror32 17 (g 1) ^^^ ror32 19 (g 1) ^^^ (g 1 >>> 10)
    shaExtend n ((s1 + g 6 + s0 + g 15) :: w)

/-- One round on the eight working words. -/
def shaRound (v : List (BitVec 32)) (k w : BitVec 32) : List (BitVec 32) :=
  let g (i : Nat) : BitVec 32 := v.getD i 0
  let s1 := ror32 6 (g 4) ^^^ ror32 11 (g 4) ^^^ ror32 25 (g 4)
  let ch := (g 4 &&& g 5) ^^^ (~~~(g 4) &&& g 6)
  let t1 := g 7 + s1 + ch + k + w
  let s0 := ror32 2 (g 0) ^^^ ror32 13 (g 0) ^^^ ror32 22 (g 0)
  let mj := (g 0 &&& g 1) ^^^ (g 0 &&& g 2) ^^^ (g 1 &&& g 2)
  [t1 + (s0 + mj), g 0, g 1, g 2, g 3 + t1, g 4, g 5, g 6]

/-- Hash one block of 16 words, first word first. -/
def shaBlock (h : List (BitVec 32)) (b : List (BitVec 32)) : List (BitVec 32) :=
  let w := (shaExtend 48 b.reverse).reverse
  let v := ((List.range 64).zip w).foldl (fun v p => shaRound v (shaK p.1) p.2) h
  (h.zip v).map (fun p => p.1 + p.2)

/-- A big-endian word from four bytes. -/
def beWord (l : List Byte) : BitVec 32 :=
  BitVec.ofNat 32 (l.foldl (fun n b => 256 * n + b.toNat) 0)

/-- The blocks of a padded message, `n` of them. -/
def shaBlocks : Nat → List Byte → List (BitVec 32) → List (BitVec 32)
  | 0, _, h => h
  | n + 1, m, h => shaBlocks n (m.drop 64) (shaBlock h ((List.range 16).map (fun i => beWord ((m.drop (4 * i)).take 4))))

/-- The eight words of the SHA-256 digest of a message of bytes. -/
def sha256 (m : List Byte) : List (BitVec 32) :=
  let len := m.length
  let z := (119 - len % 64) % 64
  let pad := m ++ [0x80] ++ List.replicate z 0 ++ ((List.range 8).map (fun i => BitVec.ofNat 8 (8 * len / 2 ^ (8 * (7 - i)))))
  shaBlocks (pad.length / 64) pad shaInit

/-- The digest as 32 bytes in digest order. -/
def sha256Bytes (m : List Byte) : List Byte :=
  (sha256 m).flatMap (fun w => (List.range 4).map (fun i => BitVec.ofNat 8 (w.toNat / 2 ^ (8 * (3 - i)))))

/-- Bytes 0 to 7 of the digest, byte 0 in the low byte of the number, as they are written to memory (R265, R268). -/
def fingerprint (m : List Byte) : Nat :=
  ((sha256Bytes m).take 8).foldr (fun b n => b.toNat + 256 * n) 0

/-! ## AES-256 and GHASH: 128-bit numbers, their most significant byte first -/

/-- The S-box, 32 bytes to a number. -/
def sboxRow : Nat → Nat
  | 0 => 0xc072a49cafa2d4adf04759fa7dc982ca76abd7fe2b670130c56f6bf27b777c63
  | 1 => 0x75b227ebe28012079a059618c323c7041531d871f1e5a534ccf73f362693fdb7
  | 2 => 0xcf584c4a39becb6a5bb1fc20ed00d153842fe329b3d63b52a05a6e1b1a2c8309
  | 3 => 0xd2f3ff1021dab6bcf5389d928f40a351a89f3c507f02f94585334d43fbaaefd0
  | 4 => 0xdb0b5ede14b8ee4688902a22dc4f816073195d643d7ea7c41744975fec130ccd
  | 5 => 0x8ae7a65eaf4566ca94ed58d6d37c8e779e4959162acd3c25c2406490a3a32e0
  | 6 => 0x9e1dc186b95735610ef6034866b53e708a8bbd4b1f74dde8c6b4a61c2e2578ba
  | _ => 0x16bb54b00f2d99416842e6bf0d89a18cdf2855cee9871e9b948ed9691198f8e1

/-- The S-box. -/
def sbox (x : Nat) : Nat := sboxRow (x / 32 % 8) / 2 ^ (8 * (x % 32)) % 256

/-- Byte `i` of a 128-bit block, byte 0 the most significant. -/
def blkByte (b i : Nat) : Nat := b / 2 ^ (8 * (15 - i)) % 256

/-- A block from its bytes. -/
def ofBlkBytes (l : List Nat) : Nat := l.foldl (fun n b => 256 * n + b % 256) 0

/-- Bitwise exclusive or of numbers. -/
def nxor (a b : Nat) : Nat := Nat.xor a b

/-- Multiplication by x in the field of AES. -/
def xtime (b : Nat) : Nat := if b < 128 then 2 * b else nxor (2 * b % 256) 0x1B

/-- The key schedule of AES-256 as 60 words; the newest word stands first. -/
def aesExpand : Nat → Nat → List Nat → List Nat
  | 0, _, w => w
  | n + 1, i, w =>
    let t := w.getD 0 0
    let sub := fun (x : Nat) => sbox (x / 2 ^ 24 % 256) * 2 ^ 24 + sbox (x / 2 ^ 16 % 256) * 2 ^ 16 + sbox (x / 2 ^ 8 % 256) * 2 ^ 8 + sbox (x % 256)
    let t := if i % 8 = 0 then nxor (sub (t % 2 ^ 24 * 256 + t / 2 ^ 24)) (2 ^ (i / 8 - 1) * 2 ^ 24)
      else if i % 8 = 4 then sub t else t
    aesExpand n (i + 1) (nxor (w.getD 7 0) t :: w)

/-- The 15 round keys of a 256-bit key. -/
def aesKeys (k : Nat) : List Nat :=
  let w := (aesExpand 52 8 ((List.range 8).map (fun i => k / 2 ^ (32 * i) % 2 ^ 32))).reverse
  (List.range 15).map (fun r => (List.range 4).foldl (fun n j => 2 ^ 32 * n + w.getD (4 * r + j) 0) 0)

/-- SubBytes and ShiftRows. -/
def aesSub (b : Nat) : List Nat := (List.range 16).map (fun i => sbox (blkByte b ((i + 4 * (i % 4)) % 16)))

/-- MixColumns. -/
def aesMix (l : List Nat) : List Nat :=
  (List.range 16).map (fun i =>
    let g (k : Nat) : Nat := l.getD (4 * (i / 4) + (i + k) % 4) 0
    nxor (nxor (xtime (g 0)) (nxor (xtime (g 1)) (g 1))) (nxor (g 2) (g 3)))

/-- AES-256 of one block (R346). -/
def aes256 (key blk : Nat) : Nat :=
  let ks := aesKeys key
  let mid := ((ks.drop 1).take 13).foldl (fun b k => nxor (ofBlkBytes (aesMix (aesSub b))) k) (nxor blk (ks.getD 0 0))
  nxor (ofBlkBytes (aesSub mid)) (ks.getD 14 0)

/-- Multiplication in the field of GHASH, bit 127 of the number being the first bit of the block. -/
def ghashMul (x y : Nat) : Nat :=
  ((List.range 128).foldl (fun (p : Nat × Nat) i =>
    (if bit x (127 - i) then nxor p.1 p.2 else p.1,
     if p.2 % 2 = 1 then nxor (p.2 / 2) (0xE1 * 2 ^ 120) else p.2 / 2)) (0, y)).1

/-- GHASH of a list of blocks. -/
def ghash (h : Nat) (l : List Nat) : Nat := l.foldl (fun y b => ghashMul (nxor y b) h) 0

end Sys2Proof.Machine
end

