-- ==== Sys2Proof/Machine/Image.lean ====
section
/-! DEFINITION. Fabric load images (R178 to R184, R289, R293, R296, R299): their fields and element records, the positions of a
region's elements, and which value a source names (R36, R173, R278). -/

namespace Sys2Proof.Machine

/-! ## Header and tables -/

/-- A field of the image header (R179). -/
def hd (m : Memory) (hi lo : Nat) : Nat := bits (m.readN 0 128) hi lo
/-- Width in tiles. -/
def imgW (m : Memory) : Nat := hd m 29 24 + 1
/-- Height in tiles. -/
def imgH (m : Memory) : Nat := hd m 37 32 + 1
/-- Timing islands. -/
def imgIsl (m : Memory) : Nat := hd m 45 40 + 1
/-- Rank. -/
def imgRank (m : Memory) : Nat := hd m 10 8

/-- Island record `n` (R180). -/
def islRec (m : Memory) (n : Nat) : Nat := m.readN (hd m 351 320 + 32 * n) 32
/-- II of island `n`. -/
def islII (m : Memory) (n : Nat) : Nat := bits (islRec m n) 11 0 + 1
/-- Limit `j` of the counter chain of island `n`. -/
def islN (m : Memory) (n j : Nat) : Nat := bits (islRec m n) (79 + 16 * j) (64 + 16 * j) + 1
/-- Trip count T of island `n` (R28). -/
def islT (m : Memory) (n : Nat) : Nat := islN m n 0 * islN m n 1 * islN m n 2 * islN m n 3
/-- Largest stage of island `n`. -/
def islG (m : Memory) (n : Nat) : Nat := bits (islRec m n) 47 40
/-- Nf of island `n`. -/
def islNf (m : Memory) (n : Nat) : Nat := bits (islRec m n) 63 48 + 1
/-- Rectangle of island `n`: x, y, width, height in tiles, relative to the region. -/
def islRect (m : Memory) (n : Nat) : Nat × Nat × Nat × Nat :=
  let r := islRec m n
  (bits r 20 16, bits r 26 21, bits r 31 27 + 1, bits r 37 32 + 1)
/-- Carry entries of island `n` (R180). -/
def islCarry (m : Memory) (n : Nat) : List Nat :=
  (List.range (bits (islRec m n) 152 148)).map (fun i => m.readN (bits (islRec m n) 191 160 + 8 * i) 8)
/-- Island of tile (tx, ty), relative to the region (R28). -/
def imgIsland (m : Memory) (tx ty : Nat) : Option Nat :=
  (List.range (imgIsl m)).find? (fun n =>
    let r := islRect m n
    decide (r.1 ≤ tx ∧ tx < r.1 + r.2.2.1 ∧ r.2.1 ≤ ty ∧ ty < r.2.1 + r.2.2.2))

/-- A declared range (R182). -/
structure Rng where
  eng : Nat
  kind : Nat
  tx : Nat
  ty : Nat
  node : Nat
  first : Nat
  last : Nat
  after : Nat
deriving DecidableEq, Repr

/-- Declared range `n`. -/
def imgRange (m : Memory) (n : Nat) : Rng :=
  let v := m.readN (hd m 415 384 + 16 * n) 16
  ⟨bits v 127 112, bits v 111 110, bits v 94 90, bits v 89 84, bits v 83 80, bits v 76 64, bits v 44 32, bits v 31 16⟩

/-- Declared rider `n` (R183): record, virtual start, opcode, kind. -/
def imgRider (m : Memory) (n : Nat) : Nat × Nat × Nat × Nat :=
  let a := hd m 447 416 + 48 * n
  (m.readN a 32, m.readN (a + 32) 8, m.readN (a + 40) 1, m.readN (a + 41) 1)

/-- The blocks of initial contents from offset `o` (R184): tile x, tile y, node, first byte, offset and number of the bytes. -/
def imgInits (m : Memory) : Nat → Nat → List (Nat × Nat × Nat × Nat × Nat × Nat)
  | 0, _ => []
  | fuel + 1, o =>
    let n := m.readN (o + 6) 2
    if n = 0 then []
    else (m.readN o 1, m.readN (o + 1) 1, m.readN (o + 2) 1, m.readN (o + 4) 2, o + 16, n)
      :: imgInits m fuel (o + 16 + (n + 15) / 16 * 16)

/-! ## Elements -/

/-- What stands at an element position (R13, R14). -/
inductive ElKind where
  | ce | node | gen | conv | xform | xt
deriving DecidableEq, Repr

/-- Key of element (x, y) of a die: LOC of SK 1 (R355). -/
def elKey (die x y : Nat) : Nat := die * 2 ^ 15 + x * 2 ^ 8 + y
/-- Die of an element key. -/
def elDie (k : Nat) : Nat := k / 2 ^ 15
/-- x of an element key. -/
def elX (k : Nat) : Nat := k / 2 ^ 8 % 128
/-- y of an element key. -/
def elY (k : Nat) : Nat := k % 2 ^ 8
/-- Index of an element in its tile (R12). -/
def elIdx (k : Nat) : Nat := 4 * (elY k % 4) + elX k % 4
/-- Kind of the element at a key. -/
def elKind (k : Nat) : ElKind :=
  match tileKind (elX k / 4) (elY k / 4) with
  | .C => .ce
  | .M => .node
  | .A => .gen
  | .V => if elIdx k < 12 then .conv else .xform
  | _ => .xt
/-- Node key (R99) of a node element. -/
def elNode (k : Nat) : Nat := elDie k * 2 ^ 15 + elX k / 4 * 2 ^ 10 + elY k / 4 * 16 + elIdx k
/-- Element key of a node. -/
def nodeEl (key : Nat) : Nat :=
  elKey (key / 2 ^ 15) (4 * (key / 2 ^ 10 % 32) + key % 4) (4 * (key / 16 % 64) + key % 16 / 4)

/-- Tile of an element key relative to a region. -/
def Region.rel (r : Region) (k : Nat) : Nat × Nat := (elX k / 4 - r.x, elY k / 4 - r.y)
/-- The region holds the element. -/
def Region.holdsEl (r : Region) (k : Nat) : Bool := r.holds (elDie k) (elX k / 4) (elY k / 4)
/-- The edges declared between engines of one island (R147, R182). -/
def imgInner (m : Memory) : List (Nat × Bool × Nat × Bool) :=
  let gs := (List.range (hd m 55 48)).map (imgRange m)
  let isl (e : Nat) : Option Nat := if e < 16 * (imgW m * imgH m) then imgIsland m (e / 16 % imgW m) (e / 16 / imgW m) else none
  (gs.filter (fun g => (isl g.eng).isSome && decide (isl g.eng = isl g.after))).flatMap (fun g =>
    (gs.filter (fun h => decide (h.eng = g.after))).map (fun h => (g.eng, decide (g.kind = 0), g.after, decide (h.kind = 0))))

/-- Key of element `i` of tile (tx, ty) relative to a region. -/
def Region.key (r : Region) (tx ty i : Nat) : Nat := elKey r.die (4 * (r.x + tx) + i % 4) (4 * (r.y + ty) + i / 4)
/-- Engines of the tile records: 16 for each tile, in tile order. -/
def Region.engines (r : Region) : Nat := 16 * (r.w * r.h)
/-- Engine number of element `k`. -/
def Region.engine (r : Region) (k : Nat) : Nat := 16 * ((r.rel k).2 * r.w + (r.rel k).1) + elIdx k
/-- The element that an engine number below `engines` names (R182). -/
def Region.engineEl (r : Region) (e : Nat) : Nat := r.key (e / 16 % Nat.max 1 r.w) (e / 16 / Nat.max 1 r.w) (e % 16)
/-- Tiles of a region in row-major order, relative to it. -/
def Region.tiles (r : Region) : List (Nat × Nat) :=
  (List.range r.h).flatMap (fun y => (List.range r.w).map (fun x => (x, y)))
/-- Elements of a list of tiles, in element order. -/
def Region.elsOf (r : Region) (l : List (Nat × Nat)) : List Nat :=
  l.flatMap (fun t => (List.range 16).map (fun i => r.key t.1 t.2 i))
/-- Elements of an island. -/
def Region.islEls (r : Region) (m : Memory) (n : Nat) : List Nat :=
  r.elsOf (r.tiles.filter (fun t => decide (imgIsland m t.1 t.2 = some n)))

/-- Offset of the record of element `k` in the image of a load of region `r` (R181). -/
def Region.elAt (r : Region) (l : Load) (k : Nat) : Nat :=
  let t := r.rel k
  l.elOff r.x r.y r.w t.1 t.2 (if elKind k = .xt then 0 else elIdx k)
/-- Island of element `k`. -/
def Region.isl (r : Region) (l : Load) (k : Nat) : Option Nat := let t := r.rel k; imgIsland l.img t.1 t.2

/-- `n` bytes at offset `o` of the record at `b`. -/
def Load.at (l : Load) (b o n : Nat) : Nat := l.img.readN (b + o) n

/-- Bytes that are all zero. -/
def Load.zeros (l : Load) (a n : Nat) : Bool := (l.img.bytes a n).all (fun b => decide (b = 0))

/-- Ring length, stage and offset of the length bytes of an element's main ring (R181, R293, R296). -/
def Load.ringLen (l : Load) (k : ElKind) (b : Nat) : Nat :=
  match k with
  | .ce => l.at b 0x120 1 + 1
  | _ => l.at b 0x040 1 + 1
/-- Stage of an element. -/
def Load.stage (l : Load) (k : ElKind) (b : Nat) : Nat :=
  match k with
  | .ce => l.at b 0x123 1
  | _ => l.at b 0x041 1
/-- The ring word of an element at step `s` (R34). -/
def Load.ringWord (l : Load) (k : ElKind) (b s : Nat) : Nat :=
  match k with
  | .ce => l.at b (3 * (s % l.ringLen .ce b)) 3
  | .xform => 0
  | .xt => 0
  | _ => l.at b (2 * (s % l.ringLen k b)) 2
/-- Route word of a CE at step `s`. -/
def Load.route (l : Load) (b s : Nat) : Nat := l.at b (0x060 + 2 * (s % (l.at b 0x121 1 + 1))) 2
/-- Tap word of a CE at step `s`. -/
def Load.tap (l : Load) (b s : Nat) : Nat := l.at b (0x0A0 + 2 * (s % (l.at b 0x122 1 + 1))) 2
/-- Place of an element's ring words. -/
def ElKind.place : ElKind → Place
  | .ce => .ce
  | .node => .node
  | .gen => .gen
  | _ => .conv

/-- The node that a port field of a CE record names (R289). -/
def Region.portNode (r : Region) (p : Nat) : Option Nat :=
  if bit p 16 then some (elNode (r.key (bits p 31 27) (bits p 26 21) (bits p 20 17))) else none
/-- The binding `p` of the tile of a generator (R293). -/
def Region.binding (r : Region) (l : Load) (k p : Nat) : Nat :=
  let t := r.rel k
  l.at (l.elOff r.x r.y r.w t.1 t.2 0) (0x068 + 4 * p) 4
/-- The node that a binding names. -/
def Region.bindNode (r : Region) (b : Nat) : Nat := elNode (r.key (bits b 29 25) (bits b 24 19) (bits b 18 15))

/-- A load names stream port `p` in its rider table (R183, R295). -/
def Load.bindsPort (l : Load) (p : Nat) : Bool :=
  (List.range (hd l.img 63 56)).any (fun i =>
    let e := imgRider l.img i
    decide (bits e.1 66 64 = p ∧ (e.2.2.2 = 12 ∨ (e.2.2.2 = 0 ∧ bits e.1 255 252 = 3))))
/-- What a load binds stream port `p` of core `c` to (R260): an element, and 0 for the write view of a node, 1 and 2 for ports A and B of an
X tile; where the image names the port and Config.portBinding a place for it in the region (log entry 99). -/
def Region.portTo (r : Region) (l : Load) (c p : Nat) : Option (Nat × Nat) :=
  if !l.bindsPort p then none
  else match Config.portBinding (hd l.img 191 128) c p with
    | 0 => none
    | v + 1 =>
      let t := v / 48
      let k := r.key (t % Nat.max 1 r.w) (t / Nat.max 1 r.w) (if v % 3 = 0 then v / 3 % 16 else 0)
      if r.w * r.h ≤ t then none
      else if v % 3 = 0 then (if elKind k = .node then some (k, 0) else none)
      else if elKind k = .xt ∧ l.at (r.elAt l k) 0 1 = 1 then some (k, v % 3) else none
/-- The stream port, as core and number, that feeds an element (R260). -/
def Region.portOf (r : Region) (l : Load) (k a : Nat) : Option (Nat × Nat) :=
  (((List.range 8).filter l.bindsPort).flatMap (fun p => (List.range 32).map (fun c => (c, p)))).find? (fun x => decide (r.portTo l x.1 x.2 = some (k, a)))
/-- The number of a stream port in the tables of their words. -/
def portKey (t : Option Nat) (c p : Nat) : Nat := 256 * t.getD 0 + 8 * c + p

/-- The quadrant island whose clock timing island `i` runs on (R22). -/
def Region.clock (r : Region) (l : Load) (i : Nat) : Nat := coreIsl (coreOfTile r.die r.x (r.y + (islRect l.img i).2.1))

/-! ## Neighbours and links (R32, R36, R278) -/

/-- The element `n` positions from `k` in direction `d` (0 N, 1 E, 2 S, 3 W), if the region holds it. -/
def Region.neighbour (r : Region) (k d n : Nat) : Option Nat :=
  let x := elX k
  let y := elY k
  let p : Option (Nat × Nat) := match d with
    | 0 => if n ≤ y then some (x, y - n) else none
    | 1 => if x + n < 128 then some (x + n, y) else none
    | 2 => if y + n < 256 then some (x, y + n) else none
    | _ => if n ≤ x then some (x - n, y) else none
  p.bind (fun q => let j := elKey (elDie k) q.1 q.2; if r.holdsEl j then some j else none)

/-- The opposite direction. -/
def opposite (d : Nat) : Nat := (d + 2) % 4

/-- An element that passes values on (R278). -/
def ElKind.passes : ElKind → Bool
  | .ce => false
  | .conv => false
  | _ => true

/-- Key of the link on which element `k` presents toward direction `d`. -/
def linkKey (k d : Nat) : Nat := 4 * k + d

/-- The links between timing islands that source direction `d` of element `k` leads over, through bypass elements, whichever island they lie in (R32,
R278). -/
def Region.crossings (r : Region) (l : Load) (d : Nat) : Nat → Nat → List Nat
  | 0, _ => []
  | fuel + 1, k =>
    match r.neighbour k d 1 with
    | none => []
    | some j =>
      (if r.isl l j ≠ r.isl l k then [linkKey j (opposite d)] else []) ++ (if (elKind j).passes then r.crossings l d fuel j else [])

/-- The source codes of a route word, in line order. -/
def routeCodes (w : Nat) : List Nat := [bits w 15 12, bits w 11 8, bits w 7 4]
/-- The neighbours that a route word reads: those of its source codes, and the one whose control word code 9 names (R173). -/
def routeDirs (w : Nat) : List Nat :=
  ((routeCodes w).filter (fun c => decide (c < 4)))
    ++ (if (routeCodes w).contains 9 then (match bits w 3 2 with
      | 1 => [0]
      | 2 => [3]
      | _ => []) else [])

/-- Source directions that an element's configuration names: neighbour codes of a CE's routes, a converter's source, the ports of
a cox-driven X tile (R173, R251, R296). -/
def Region.sources (r : Region) (l : Load) (k : Nat) : List Nat :=
  let b := r.elAt l k
  match elKind k with
  | .ce => (List.range (l.at b 0x121 1 + 1)).flatMap (fun n =>
      let w := l.at b (0x060 + 2 * n) 2
      if bit w 0 then [] else routeDirs w)
  | .conv => if l.at b 0x043 1 % 16 < 4 then [l.at b 0x043 1 % 16] else []
  | .xt => if l.at b 0 1 = 1 then
      ([l.at b 6 1, l.at b 7 1].filter (fun d => decide (k = r.key (r.rel k).1 (r.rel k).2 (if d = 1 then 3 else if d = 2 then 12 else 0)))) else []
  | _ => []

/-- The links of a load that carry a retiming FIFO: those that some route crosses (R32). -/
def Region.links (r : Region) (l : Load) : List Nat :=
  ((r.elsOf r.tiles).flatMap (fun k => (r.sources l k).flatMap (fun d => r.crossings l d 256 k))).eraseDups

/-- The element that reads link `key`. -/
def Region.reader (r : Region) (key : Nat) : Option Nat := r.neighbour (key / 4) (key % 4) 1

end Sys2Proof.Machine
end

