-- ==== Sys2Proof/Machine/Freeze.lean ====
section
/-! DEFINITION. Regions and their loads, and how a load freezes or is discarded (R39, R358, R359, R361, R368). -/

namespace Sys2Proof.Machine

/-- Region `n`. -/
def State.region (s : State) (n : Nat) : Option Region := s.regions[n]?
/-- The active load of region `n`, with the region. -/
def State.active (s : State) (n : Nat) : Option (Region × Load) := (s.region n).bind (fun r => r.active.map (fun l => (r, l)))
/-- Change region `n`. -/
def State.modRegion (s : State) (n : Nat) (f : Region → Region) : State := { s with regions := s.regions.modify n f }
/-- Change the active load of region `n`. -/
def State.modActive (s : State) (n : Nat) (f : Load → Load) : State := s.modRegion n (fun r => { r with active := r.active.map f })
/-- Change island `i` of the active load of region `n`. -/
def State.modIsl (s : State) (n i : Nat) (f : Isl → Isl) : State := s.modActive n (fun l => { l with isl := l.isl.modify i f })
/-- Flags of a load's units (R136). -/
def State.loadFlags (s : State) (n : Nat) (fl : FlagSet) : State :=
  if fl = 0 then s else s.modActive n (fun l => { l with flags := l.flags ||| fl })

/-- Element `k`. -/
def State.elem (s : State) (k : Nat) : El := Tab.get El.zero s.els k
/-- Change element `k`. -/
def State.modEl (s : State) (k : Nat) (f : El → El) : State := { s with els := Tab.mod El.zero s.els k f }

/-- The stamp of a configuration command with TIME `t` (R206). -/
def State.cfgStampAt (s : State) (team core stamp seq status t : Nat) : State := s.deliver (some team) core stamp 8 (stampWord status seq t)
/-- The stamp of a configuration command that ends now (R206, R368). -/
def State.cfgStamp (s : State) (team core stamp seq status : Nat) : State := s.cfgStampAt team core stamp seq status (s.dieNs (core / 8))

/-- A configuration command ends FAULTED in Fetch, Armed or Drain: the shadow is discarded, the old load runs on (R368). A
handler's command has no stamp of its own (R362). -/
def State.dropShadow (s : State) (n : Nat) : State :=
  match s.region n with
  | none => s
  | some r =>
    let s := match r.fetching with
      | some c => if c.handler.isNone then s.cfgStamp c.team c.core c.stamp c.fl 0x04 else s
      | none => s
    s.modRegion n (fun r => { r with shadow := none, fetching := none, phase := r.back })

/-- A load that faults while it drains to its fold point is no longer drained, and its team no longer a victim (R367). -/
def State.cancelRefold (s : State) (n t : Nat) : State :=
  match s.team? t with
  | none => s
  | some tm =>
    let s := (s.modRegion n (fun r => { r with refold := none })).modActive n (fun l => { l with
      isl := l.isl.map (fun x => { x with fold := none, atFold := false }) })
    if tm.st = .leaving then
      { s.modTeam t (fun tm => { tm with st := .running }) with
        launches := s.launches.map (fun x => { x with claim := x.claim.filter (fun c => !tm.cores.contains c) }) }
    else s

/-- A FREEZE-CLASS FAULT at element `key` of island `i` (R358): the first of a load fixes the record; the island's clock is gated
six cycles later, the others stop from 20 ns on. A load being configured over it is dropped (R368). -/
def State.freezeFault (s : State) (n i key code op0 op1 op2 : Nat) : State :=
  match s.active n with
  | none => s
  | some (r, l) =>
    if l.rcd.isSome ∨ l.discarded = true then s
    else
      let il := l.isl.getD i Isl.idle
      let rec_ := { time := s.dieNs r.die, code := code, sk := 1, rank := imgRank l.img, fli := l.fl, func := l.func, loc := key,
                    scnt := il.s, cyc := il.cyc, isl := i, core := l.core, op0 := op0, op1 := op1, op2 := op2 : RecF }.pack
      let s := (s.modActive n (fun l => { l with rcd := some rec_, spread := some (s.ns + 20) })).modIsl n i
        (fun x => { x with freezeIn := some 6 })
      let s := if r.refold.isSome then s.cancelRefold n l.team else s
      if r.phase = .fetch ∨ r.phase = .armed ∨ r.phase = .drain then s.dropShadow n else s

/-- Every island of a load is frozen (R358). -/
def Load.isFrozen (l : Load) : Bool := l.rcd.isSome && l.isl.all Isl.frozen

/-- A rider that a load declares: issued by its team with a record of its table (R43, R183). -/
def Load.declares (l : Load) (q : Rider) : Bool :=
  decide (q.owner = .core ∧ q.team = some l.team) &&
    (List.range (hd l.img 63 56)).any (fun i => let e := imgRider l.img i; decide (e.1 = q.rcd.toNat ∧ e.2.1 = q.xa))

/-- A load notes that rider record `rcd` with start address `xa`, declared in its table, has written its stamp (R147). -/
def Load.noteRan (l : Load) (team : Option Nat) (rcd xa : Nat) : Load :=
  if team = some l.team then { l with ran := (List.range (hd l.img 63 56)).foldl (fun t i =>
    let e := imgRider l.img i
    if e.1 = rcd ∧ e.2.1 = xa ∧ ¬ t.contains i = true then i :: t else t) l.ran }
  else l
/-- A rider or stream of `team` has written its stamp: every load that declares it notes it (R147). -/
def State.noteRan (s : State) (team : Option Nat) (rcd xa : Nat) : State :=
  let f := Option.map (fun (l : Load) => l.noteRan team rcd xa)
  { s with regions := s.regions.map (fun r => { r with active := f r.active, shadow := f r.shadow, refold := f r.refold }) }

/-- A stream of the load's team on a port that the load binds (R41, R260). -/
def Load.feeds (l : Load) (t : Strm) : Bool := decide (t.team = some l.team) && l.bindsPort t.port
/-- The words that wait at the stream ports bound to a load's elements are gone. -/
def State.dropPorts (s : State) (r : Region) (l : Load) : State :=
  (((List.range 8).filter l.bindsPort).flatMap (fun p => (List.range 32).map (fun c => (c, p)))).foldl (fun (s : State) x =>
    if (r.portTo l x.1 x.2).isSome then
      let key := portKey (some l.team) x.1 x.2
      { s with portWords := Tab.del key s.portWords, portStop := Tab.del key s.portStop }
    else s) s
/-- A stream of a discarded load admits no further emission; with none under way it ends FAULTED (R359). -/
def State.haltStream (s : State) (t : Strm) : State :=
  if t.rid.isEmpty then
    ({ s with streams := s.streams.erase t }).deliver t.team t.core t.stamp 8 (stampWord 0x04 (bits t.rcd.toNat 199 192) (s.dieNs (t.core / 8)))
  else { s with streams := s.streams.map (fun x => if x = t then { x with next := 2 ^ 64 } else x) }

/-- DISCARD of a load (R361): nothing is drained; its declared riders and the emissions admitted for it run to their finish but deliver nothing
further (R359), its tokens, node requests and transforms are gone, its stamp is written FAULTED where it has none. The record of a load that has
not followed its edge is queued now (R357). -/
def State.discardLoad (s : State) (n : Nat) (stamp : Bool) : State :=
  match s.active n with
  | none => s
  | some (r, l) =>
    if l.discarded then s
    else
      let fed := s.streams.filter l.feeds
      let s := { s with
        riders := s.riders.map (fun (q : Rider) =>
          if l.declares q ∨ q.owner = Owner.load n ∨ fed.any (fun t => t.rid.contains q.id) = true then { q with void := true } else q)
        waiting := s.waiting.filter (fun (q : Rider) => decide (q.owner ≠ Owner.load n))
        fifos := s.fifos.filter (fun f => !r.holdsEl (f.key / 4))
        nodes := s.nodes.map (fun x => (x.1, { x.2 with queue := x.2.queue.filter (fun q => decide (q.load ≠ some n)) }))
        xforms := (s.xforms.map (fun x => (x.1, x.2.filter (fun c => decide (c.load ≠ some n))))).filter (fun x => decide (x.2 ≠ []))
        toks := s.toks.filter (fun t => match t.dest with
          | .island g _ => decide (g ≠ n)
          | _ => true) }
      let s := (fed.foldl State.haltStream s).dropPorts r l
      let s := match l.rcd with
        | some q => if l.edged then s else s.queueRec q
        | none => s
      let s := s.modActive n (fun l => { l with discarded := true })
      if stamp ∧ ¬ l.reported then
        let a := match l.handler with
          | some h => (h.1, h.2.1)
          | none => (l.stamp, l.fl)
        (s.cfgStamp l.team l.core a.1 a.2 0x04).modActive n (fun l => { l with reported := true })
      else s

end Sys2Proof.Machine
end

