-- ==== Sys2Proof/Machine/Cell.lean ====
section
/-! DEFINITION. DRAM cells and words: the encryption of protected cells (R346), their generations while a page is re-keyed (R413),
the values that riders see and leave, and reads of kernel and image bytes through the configuration cache (R18, R40). -/

namespace Sys2Proof.Machine

/-- Physical address of the 16 KiB page of `pa`. -/
def pageOf (pa : Nat) : Nat := pa / 2 ^ 14 * 2 ^ 14

/-- The re-key part at work on the page of `pa` (R413). -/
def State.rekeyOf (s : State) (pa : Nat) : Option Rider :=
  s.riders.find? (fun r => decide (r.kind = .rekey ∧ r.note = 0 ∧ r.xa = pageOf pa))

/-- The generation under which the cell of `pa` stands: a cell that a re-key part has not reached keeps the old one (R413). -/
def State.cellGen (s : State) (pa : Nat) : Nat :=
  let g := Tab.get 0 s.pageGen (pa / 2 ^ 14)
  match s.rekeyOf pa with
  | some r =>
    if r.parts.any Part.boarded then (if Tab.get 0 r.seen (pa / 64) = 0 then g - 1 else g) else g
  | none => g

/-- The block of R346. -/
def cellBlk (pa cc g t j : Nat) : Nat := pa / 64 * 2 ^ 94 + cc * 2 ^ 66 + g * 2 ^ 10 + t * 2 ^ 2 + j

/-- The pad of the word at `pa` under key `k`, counter `cc` and generation `g` (R346). -/
def padWord (k pa cc g : Nat) : Nat := aes256 k (cellBlk pa cc g 0 (pa / 16 % 4)) / 2 ^ (32 * (pa / 4 % 4)) % 2 ^ 32

/-- The value of the word at `pa` as a part with `key` sees it (R346). -/
def State.wordAt (s : State) (pa : Nat) (key : Option Nat) : Nat :=
  let v := s.mem.readN pa 4
  match key with
  | none => v
  | some k => nxor v (padWord k pa (Tab.get 0 s.cellCc (pa / 64)) (s.cellGen pa))

/-- Leave `v` in the word at `pa` (R346). -/
def State.putWord (s : State) (pa : Nat) (key : Option Nat) (v : Nat) : State :=
  let c := match key with
    | none => v
    | some k => nxor (v % 2 ^ 32) (padWord k pa (Tab.get 0 s.cellCc (pa / 64)) (s.cellGen pa))
  { s with mem := s.mem.writeN pa 4 c }

/-- The MAC of the cell of `pa` as it stands, under key `k` (R346). -/
def State.macOf (s : State) (pa k : Nat) : Nat :=
  let a := pa / 64 * 64
  let h := aes256 k 0
  let cs := (List.range 4).map (fun j => s.mem.readN (a + 16 * j) 16)
  nxor (ghash h cs) (aes256 k (cellBlk pa (Tab.get 0 s.cellCc (pa / 64)) (s.cellGen pa) 1 0)) / 2 ^ 92

/-- The MAC stored with the cell is right (R346). -/
def State.macOk (s : State) (pa k : Nat) : Bool := decide (Tab.get 0 s.cellMac (pa / 64) = s.macOf pa k)

/-- Store the MAC of the cell as it stands. -/
def State.macSet (s : State) (pa k : Nat) : State := { s with cellMac := Tab.set 0 s.cellMac (pa / 64) (s.macOf pa k) }

/-- The 16 words of the cell of `pa` under `k`. -/
def State.cellWords (s : State) (pa k : Nat) : List Nat := (List.range 16).map (fun i => s.wordAt (pa / 64 * 64 + 4 * i) (some k))

/-- Write the 16 words of a cell. -/
def State.putCell (s : State) (pa k : Nat) (ws : List Nat) : State :=
  ((List.range 16).zip ws).foldl (fun s p => s.putWord (pa / 64 * 64 + 4 * p.1) (some k) p.2) s

/-- The cell is written: its counter advances, its words keep their values (R346). -/
def State.ccStep (s : State) (pa k : Nat) : State :=
  let ws := s.cellWords pa k
  let s := { s with cellCc := Tab.mod 0 s.cellCc (pa / 64) (· + 1) }
  s.putCell pa k ws

/-- A re-key part rewrites the cell under the page's new generation with cc := 1 (R413). -/
def State.rekeyCell (s : State) (id pa k : Nat) : State :=
  let ws := s.cellWords pa k
  let s := s.modRider id (fun r => { r with seen := Tab.set 0 r.seen (pa / 64) 1 })
  let s := { s with cellCc := Tab.set 0 s.cellCc (pa / 64) 1 }
  (s.putCell pa k ws).macSet pa k

/-! ## The configuration cache (R18, R40) -/

/-- The path in the counter tree of an encrypted page at `pa` is right, as far as the tree is laid (R347). -/
def State.treeGood (s : State) (pa : Nat) : Bool :=
  let st := pa / 2 ^ 36
  let page := pa / 2 ^ 14 % 2 ^ 22
  decide (s.encBase st ≤ page ∧ page < s.encBase st + s.encPages st) && s.treeFits st
    && (!s.treeLaid st || s.pathOk st (page - s.encBase st) (s.pathWords st (page - s.encBase st)))

/-- The physical address of a virtual byte that function `f` may reach, with the key of its page where it is encrypted, by a walk in
stack 0 (the tables are alike in every stack, R91). -/
def State.vaToPa (s : State) (asid f va : Nat) : Option (Nat × Option Nat) :=
  if va < 2 ^ 49 then
    match s.walk 0 asid va with
    | .page v _ pa _ enc =>
      let a := pa + (va - v)
      match s.crsOfPa a with
      | some (p, c) =>
        if (s.crs p c).func = f ∧ ¬ s.cellBad a ∧ (enc = false ∨ s.treeGood a = true) then some (a, if enc then some (s.keyOfAsid asid) else none) else none
      | none => none
    | .fail _ _ => none
  else none

/-- Sixteen aligned bytes at a physical address, decrypted under the key of an encrypted page; none where the key is erased or the cell's
MAC is wrong (R344, R346, R415, R417). -/
def State.plain16 (s : State) (pa : Nat) : Option Nat → Option Nat
  | none => some (s.mem.readN pa 16)
  | some k =>
    if 2 ^ 256 ≤ k ∨ s.macOk pa k = false then none
    else some (packCodes 32 ((List.range 4).map (fun i => s.wordAt (pa + 4 * i) (some k))))

/-- Lines of 16 bytes in the 16 MiB of the configuration cache (R18). -/
def ccLines : Nat := 2 ^ 20

/-- A line enters the configuration cache; a full cache gives up another (R18). The manual gives neither a line size nor a rule of replacement
(log entry 40). -/
def State.ccPut (s : State) (key : Nat) (b : BitVec 128) : State :=
  if ccLines ≤ s.ccache.length ∧ Tab.get none s.ccache key = none then
    { s with ccache := Tab.set none (s.ccache.eraseIdx (Config.cacheVictim s.fresh % s.ccache.length)) key (some b), fresh := s.fresh + 1 }
  else { s with ccache := Tab.set none s.ccache key (some b) }

/-- Sixteen aligned bytes at a virtual address through the configuration cache (R18, R40, R59). -/
def State.cached (s : State) (asid f va : Nat) : Option (BitVec 128 × State) :=
  let key := asid * 2 ^ 45 + va / 16
  match Tab.get none s.ccache key with
  | some b => some (b, s)
  | none => match (s.vaToPa asid f (va / 16 * 16)).bind (fun a => s.plain16 a.1 a.2) with
    | some v => some (BitVec.ofNat 128 v, s.ccPut key (BitVec.ofNat 128 v))
    | none => none

/-- `n` times sixteen bytes through the configuration cache, as one number, low bytes first. -/
def State.cachedN (s : State) (asid f va : Nat) : Nat → Option (Nat × State)
  | 0 => some (0, s)
  | n + 1 => match s.cached asid f va with
    | none => none
    | some (b, s) => match State.cachedN s asid f (va + 16) n with
      | none => none
      | some (r, s) => some (b.toNat + 2 ^ 128 * r, s)

end Sys2Proof.Machine
end

