-- ==== Sys2Proof/Machine/Sweep.lean ====
section
/-! DEFINITION. One step of a course: the boundary before it (finish, mode change, withdrawal, boarding), check codes and MACs of
its cells, the word actions under the cursor rule, access counters (R71 to R89, R95, R387, R388, R394, R413 to R415). -/

namespace Sys2Proof.Machine

/-! ## Who acts at a word -/

/-- Every data word of a deposit has been passed (R81). -/
def Rider.dataDone (r : Rider) : Bool := r.parts.all (fun p => decide (p.role ≠ .data) || p.complete)

/-- A part takes word `w` at this pass: in its first lap each word of its span, afterwards those postponed (R77, R413). -/
def Part.takes (p : Part) (w : Nat) : Bool :=
  p.boarded && !p.done && (p.runAt w).isSome
    && (if p.acted + p.missed.length < p.len then true else p.missed.contains w)

/-- The parts of a list of riders that act at word `w` of course `c` of PC `p`, in boarding order; a tail follows its data (R78, R81). -/
def actorsOf (rs : List Rider) (p c w : Nat) : List (Rider × Part) :=
  (rs.flatMap (fun r => (r.parts.filter (fun q =>
      decide (q.pc = p ∧ q.crs = c) && q.takes w && (decide (q.role ≠ .tail) || r.dataDone))).map (fun q => (r, q)))).foldl
    (fun l a => insActor a l) []

/-- Change a rider's part in a course. -/
def Rider.modPart (r : Rider) (p c : Nat) (role : Role) (f : Part → Part) : Rider :=
  { r with parts := r.parts.map (fun q => if q.pc = p ∧ q.crs = c ∧ q.role = role then f q else q) }

/-- A word has been passed. -/
def Part.pass (p : Part) (w : Nat) : Part := { p with acted := p.acted + 1, missed := p.missed.filter (· ≠ w) }

/-- The parts that act at word `w` of course `c` of PC `p`. -/
def State.actors (s : State) (p c w : Nat) : List (Rider × Part) := actorsOf s.riders p c w

/-- Who acts at each word of a cell in its pass: a part passes each word once (R77), so one that ends its lap within the cell takes no more of
it. -/
def cellActs (p c : Nat) : List Nat → List Rider → List (Nat × Rider × Part)
  | [], _ => []
  | w :: ws, rs =>
    let as := actorsOf rs p c w
    as.map (fun a => (w, a)) ++ cellActs p c ws (as.foldl (fun rs a =>
      rs.map (fun r => if r.id = a.1.id then r.modPart p c a.2.role (fun z => z.pass w) else r)) rs)

/-! ## Failing riders (R388, R413, R415) -/

/-- A rider fails at the word `w` of a part: its first failure is kept; the word counts as passed. -/
def State.failWord (s : State) (r : Rider) (p : Part) (w code reason : Nat) : State :=
  let i := p.idx w
  s.modRider r.id (fun q => { (q.modPart p.pc p.crs p.role (fun z => z.pass w)) with
    fail := q.fail.or (some (riderRec r 0 ⟨code, reason, 0, r.va p.role i, wordLoc p.crs (s.partPa p w)⟩)) })

/-- An action is postponed to the writer's next pass (R413). -/
def State.postpone (s : State) (r : Rider) (p : Part) (w : Nat) : State :=
  s.modRider r.id (fun q => q.modPart p.pc p.crs p.role (fun z => if z.missed.contains w then z else { z with missed := z.missed ++ [w] }))

/-- The words of an encrypted page's course that a re-key part covers. -/
def State.rekeyRun (s : State) (p c pa k : Nat) : Piece :=
  let d := s.crs p c
  let lo := Nat.max (pageOf pa) (d.pa p 0)
  let hi := Nat.min (pageOf pa + 2 ^ 14) (d.pa p d.words)
  ⟨(lo - d.pa p 0) / 4, (hi - lo) / 4, 0, some k⟩

/-- A re-key part is sent for the page of `pa`, unless one is at work (R413). -/
def State.startRekey (s : State) (p c pa k : Nat) : State :=
  if (s.rekeyOf pa).isSome then s
  else
    let r := { Rider.ask .rekey .base 37 (s.crs p c).func 0 none 0 (pageOf pa) 0 with
               id := s.nextId, parts := addRun [] .data p c (s.rekeyRun p c pa k) }
    { s with riders := s.riders ++ [r], nextId := s.nextId + 1 }

/-- What the check of one cell of a step finds: words to skip, as rider, role and offset, and the keys whose MAC is to be stored. -/
structure CellRes where
  st : State
  skip : List (Nat × Role × Nat)
  keys : List Nat

/-- A writer's action that writes its word, if it is performed: the source word is there, the key is not erased, and it is no tail of a failed deposit (R81,
R388, R390, R417). -/
def writesWord (a : Nat × Rider × Part) : Bool :=
  a.2.1.kind.writes && decide (a.2.1.kind ≠ .rekey) && !a.2.2.lost.contains a.1 && !(decide (a.2.2.role = .tail) && a.2.1.fail.isSome)
    && ((a.2.2.runAt a.1).bind Piece.key).all (fun k => decide (k < 2 ^ 256))

/-- Bits that word `i` of a drain's row keeps below and above the bytes written (log entry 18). -/
def Rider.keeps (r : Rider) (i : Nat) : Nat × Nat :=
  (if i = 0 then 8 * (r.note % 4) else 0, if i + 1 = r.n then 8 * (r.note / 4) else 0)

/-- A writer that writes word `w` of a part without reading it (R388). -/
def Rider.blindAt (r : Rider) (p : Part) (w : Nat) : Bool :=
  match r.kind with
  | .dep => decide (p.role = .tail ∨ r.keeps (p.idx w) = (0, 0))
  | .imp => true
  | .upd => decide (r.f 255 252 = 8 ∨ r.f 255 252 = 9)
  | _ => false

/-- All 16 words of the cell are written in this step by writers that do not read them, among the actions that are performed (R388); a re-key part reads. -/
def healed (acts : List (Nat × Rider × Part)) (ws : List Nat) : Bool :=
  decide (ws.length = 16) && !acts.any (fun a => decide (a.2.1.kind = .rekey)) && ws.all (fun w =>
    match (acts.filter (fun a => decide (a.1 = w) && writesWord a)).head? with
    | some a => a.2.1.blindAt a.2.2 w
    | none => false)

/-- Why an action fails: the check code (R388), an erased key (R417), a wrong MAC (R415), a lost source word (R390). -/
def State.actFails (s : State) (bad heal : Bool) (a : Nat × Rider × Part) (pa : Nat) : Option (Nat × Nat) :=
  if bad ∧ ¬ heal then some (0x14, 0)
  else if a.2.2.lost.contains a.1 then some (0x14, 0)
  else match (a.2.2.runAt a.1).bind Piece.key with
    | none => none
    | some k =>
      if 2 ^ 256 ≤ k then some (0x16, 2)
      else if ¬ heal ∧ ¬ s.macOk pa k then some (0x16, 1)
      else none

/-- An action on a protected word that its pass leaves out: the stack's tree is being rewritten (R414), or the counter of the cell is at its end and no re-key
part acts here (R413). -/
def State.putOff (s : State) (acts : List (Nat × Rider × Part)) (stack cell : Nat) (a : Nat × Rider × Part) : Bool :=
  writesWord a && ((a.2.2.runAt a.1).bind Piece.key).isSome
    && (Tab.get false s.treeWait stack || (decide (2 ^ 28 - 1 ≤ Tab.get 0 s.cellCc cell) && !acts.any (fun a => decide (a.2.1.kind = .rekey))))

/-- The check of one cell before its words are acted on (R387, R388, R413 to R415); `ws` are the offsets of its words in the step. A postponed write
is not performed in this step: it heals nothing, and fails with no reader (log entry 109). -/
def State.checkCell (s : State) (p c : Nat) (ws : List Nat) : CellRes :=
  match ws with
  | [] => ⟨s, [], []⟩
  | w0 :: _ =>
    let acts := cellActs p c ws (s.riders.filter (fun r => r.parts.any (fun q => decide (q.pc = p ∧ q.crs = c))))
    if acts.isEmpty then ⟨s, [], []⟩
    else
      let pa := (s.crs p c).pa p w0
      let cell := pa / 64
      let s := if Tab.get 0 s.eccBad cell = 1 then ({ s with eccBad := Tab.set 0 s.eccBad cell 0 }).eccNote (64 * cell) else s
      let bad := decide (1 < Tab.get 0 s.eccBad cell)
      let now := acts.filter (fun a => !s.putOff acts (p / 64) cell a)
      let heal := healed now ws
      let fails := now.filterMap (fun a => (s.actFails bad heal a pa).map (fun f => (a, f)))
      let s1 := fails.foldl (fun s x => s.failWord x.1.2.1 x.1.2.2 x.1.1 x.2.1 x.2.2) s
      let s1 := if bad ∧ heal then { s1 with eccBad := Tab.set 0 s1.eccBad cell 0 } else s1
      let skip := fails.map (fun x => (x.1.2.1.id, x.1.2.2.role, x.1.1))
      let left := acts.filter (fun a => !skip.contains (a.2.1.id, a.2.2.role, a.1))
      let rk := left.filter (fun a => decide (a.2.1.kind = .rekey))
      let wr := left.filter (fun a => writesWord a && ((a.2.2.runAt a.1).bind Piece.key).isSome)
      let s1 := match rk with
        | a :: _ => if a.2.1.note = 0 ∧ Tab.get 0 a.2.1.seen cell = 0 then
            s1.rekeyCell a.2.1.id pa (((a.2.2.runAt a.1).bind Piece.key).getD 0) else s1
        | [] => s1
      match wr with
      | [] => ⟨s1, skip, []⟩
      | a :: _ =>
        let k := ((a.2.2.runAt a.1).bind Piece.key).getD 0
        let wait := Tab.get false s1.treeWait (p / 64)
        if wait ∨ 2 ^ 28 - 1 ≤ Tab.get 0 s1.cellCc cell then
          if ¬ wait ∧ 2 ^ 56 - 1 ≤ Tab.get 0 s1.pageGen (pa / 2 ^ 14) then
            let s2 := wr.foldl (fun s x => s.failWord x.2.1 x.2.2 x.1 0x16 3) s1
            ⟨s2, skip ++ wr.map (fun x => (x.2.1.id, x.2.2.role, x.1)), []⟩
          else
            let s2 := wr.foldl (fun s x => s.postpone x.2.1 x.2.2 x.1) s1
            ⟨if wait then s2 else s2.startRekey p c pa k, skip ++ wr.map (fun x => (x.2.1.id, x.2.2.role, x.1)), []⟩
        else ⟨s1.ccStep pa k, skip, [k]⟩

/-! ## Landing (R88, R89, R393) -/

/-- Order of contributions (R89). -/
def Contrib.before (a b : Contrib) : Bool :=
  decide (a.time < b.time ∨ (a.time = b.time ∧ (a.src < b.src ∨ (a.src = b.src ∧ a.seq < b.seq))))

/-- Insert a contribution in order (R89). DESIGN CHOICE: of two equal in timestamp, source and sequence, for which R89 gives no order, the one that came
first stays first (log entry 129). -/
def insContrib (a : Contrib) : List Contrib → List Contrib
  | [] => [a]
  | b :: t => if a.before b then a :: b :: t else b :: insContrib a t

/-- The contributions pending for element `e` of the word at `pa` of a window, in order: 0 the word, 1 and 2 its halves. A
contribution of a whole word to a window of 16-bit elements contributes to both. -/
def State.pending (s : State) (stack win pa e : Nat) : List Contrib :=
  (s.contribs.filter (fun x => decide (x.stack = stack ∧ x.win = win ∧ x.pa = pa ∧ x.arrived ≠ 0 ∧ (x.half = 0 ∨ x.half = e)))).foldl
    (fun l a => insContrib a l) []

/-- The value that a contribution gives element `e`. -/
def Contrib.elem (c : Contrib) (e : Nat) : Nat :=
  if e = 2 ∧ c.half = 0 then c.word.toNat / 65536 else if e = 0 then c.word.toNat else c.word.toNat % 65536

/-- The elements of a word of a window: one, or two halves (R269). -/
def Rider.elems (r : Rider) : List Nat := if r.f 249 248 = 1 ∨ r.f 249 248 = 2 then [1, 2] else [0]

/-- Sum of a list of FP32 codes from the left, one rounding each. -/
def sumF32 : List Nat → LaneRes
  | [] => (0, 0)
  | a :: t => t.foldl (fun x b => let y := add32 x.1 b; (y.1, x.2 ||| y.2)) (a, 0)

/-- One element of a 16-bit float format (R89): widened contributions, then the stored value, then one rounding. -/
def land16 (f : Fmt) (cs : List Nat) (m : Nat) : LaneRes :=
  let wide (x : Nat) : LaneRes := rne32 (f.decode (x % 2 ^ 16), 0)
  let t := sumF32 (cs.map (fun x => (wide x).1))
  let u := add32 t.1 (wide m).1
  let r := f.encode 0 (f32 u.1)
  (r.1, t.2 ||| u.2 ||| r.2)

/-- The combination of R89 of one element: format, saturating, contributions in order, stored value. -/
def landElem (fmt : Nat) (sat : Bool) (cs : List Nat) (m : Nat) : LaneRes :=
  match fmt with
  | 0 =>
    let t := sumF32 cs
    let u := add32 m t.1
    (u.1, t.2 ||| u.2)
  | 3 =>
    let t : Int := (cs.map (sint 32)).sum + sint 32 m
    if sat then
      (if t < -2147483648 then 0x80000000 else if 2147483647 < t then 0x7FFFFFFF else wrap32 t,
       if t < -2147483648 ∨ 2147483647 < t then fSat else 0)
    else (wrap32 t, 0)
  | _ => land16 (if fmt = 1 then Fmt.fp16 else Fmt.bf16) cs m

/-- The record of a landing fault (R393). -/
def State.landRec (s : State) (func core pa win reason : Nat) : BitVec 512 :=
  let c := match s.crsOfPa pa with | some x => x.2 | none => 0
  { time := s.dieNs (5 + pa / 2 ^ 36), code := 0x0E, sk := 3, func := func, core := core, loc := wordLoc c pa, op0 := win,
    op1 := reason : RecF }.pack

/-- A contribution of a drain is dropped: the drain ends FAULTED (R247). -/
def State.dropNote (s : State) (c : Contrib) : State :=
  match c.unit with
  | some (u, n) => { s with xtiles := Tab.mod XTile.empty s.xtiles u (fun t =>
      { t with drains := t.drains.map (fun d => if d.id = n then { d with failed := true } else d) }) }
  | none => s

/-- The LAND rider acts on a word: at each element the lowest NSRC contributions are combined, the rest dropped with one record
(R89, R393). -/
def State.landAct (s : State) (r : Rider) (stack pa m : Nat) : Nat × FlagSet × State :=
  let win := r.f 255 250
  let nsrc := r.f 246 241 + 1
  let one (e : Nat) : LaneRes :=
    landElem (r.f 249 248) (r.f 247 247 = 1) (((s.pending stack win pa e).take nsrc).map (fun c => c.elem e))
      (if e = 0 then m else if e = 1 then m % 65536 else m / 65536)
  let extra := r.elems.flatMap (fun e => (s.pending stack win pa e).drop nsrc)
  let vs := r.elems.map one
  let s := { s with contribs := s.contribs.filter (fun x => !decide (x.stack = stack ∧ x.win = win ∧ x.pa = pa ∧ x.arrived ≠ 0)) }
  let s := if extra.isEmpty then s else extra.foldl State.dropNote (s.queueRec (s.landRec r.func r.acct pa win 0x29))
  (packCodes (if vs.length = 2 then 16 else 32) (vs.map Prod.fst), orAll (vs.map Prod.snd), s)

/-! ## Word actions -/

/-- UPD at word `i` of the span with value `w` (R267). -/
def updWord (uop val step i w : Nat) : LaneRes :=
  match uop with
  | 0 => ((w + val) % 2 ^ 32, 0)
  | 1 => ((BitVec.ofNat 32 w &&& BitVec.ofNat 32 val).toNat, 0)
  | 2 => ((BitVec.ofNat 32 w ||| BitVec.ofNat 32 val).toNat, 0)
  | 3 => ((BitVec.ofNat 32 w ^^^ BitVec.ofNat 32 val).toNat, 0)
  | 4 => (if sint 32 val < sint 32 w then val else w, 0)
  | 5 => (if sint 32 w < sint 32 val then val else w, 0)
  | 6 => (Nat.min w val, 0)
  | 7 => (Nat.max w val, 0)
  | 8 => (val, 0)
  | 9 => ((val + i * step) % 2 ^ 32, 0)
  | 10 => add32 w val
  | 11 => (min32 w val, 0)
  | _ => (max32 w val, 0)

/-- The value that a deposit leaves in word `i` of its span over `old`. A drain's row that does not begin and end on a word keeps
the other bytes of its first and last word: `note` holds how many, first + 4 × last (log entry 18). -/
def Rider.merged (r : Rider) (i old : Nat) : Nat :=
  let v := (r.src.getD i 0).toNat
  let lead := (r.keeps i).1
  let tail := (r.keeps i).2
  let keepLow := old % 2 ^ lead
  let mid := v % 2 ^ (32 - tail) / 2 ^ lead * 2 ^ lead
  keepLow + mid + old / 2 ^ (32 - tail) * 2 ^ (32 - tail)

/-- A writer acts on word `w`: the word takes its result (R78). -/
def State.writeAct (s : State) (r : Rider) (p : Part) (w : Nat) : State :=
  let pa := s.partPa p w
  let key := (p.runAt w).bind Piece.key
  let i := p.idx w
  let done (s : State) (v : Nat) (fl : FlagSet) : State :=
    (s.putWord pa key v).modRider r.id (fun q => { (q.modPart p.pc p.crs p.role (fun z => z.pass w)) with
      nact := if p.role = .tail then q.nact else q.nact + 1, flags := q.flags ||| fl })
  match r.kind with
  | .upd =>
    let v := updWord (r.f 255 252) (r.f 159 128) (r.f 191 160) i (s.wordAt pa key)
    done s v.1 v.2
  | .dep =>
    if p.role = .tail then
      if r.fail.isSome then s.modRider r.id (fun q => q.modPart p.pc p.crs p.role (fun z => z.pass w))
      else done s (r.f 255 224) 0
    else done s (r.merged i (s.wordAt pa key)) 0
  | .imp => done s (r.src.getD i 0).toNat 0
  | .land =>
    let v := s.landAct r (p.pc / 64) pa (s.wordAt pa key)
    done (v.2.2.modRider r.id (fun q => { q with seen := Tab.set 0 q.seen i 1 })) v.1 v.2.1
  | _ => s.modRider r.id (fun q => q.modPart p.pc p.crs p.role (fun z => z.pass w))

/-- The FP16 element of the bank vector registers: PC, bank, stripe position (R84). -/
def State.bvElem (s : State) (pc bank st : Nat) : Nat :=
  (Tab.get 0 s.bv (64 * pc + 4 * bank + st / 32)).toNat / 2 ^ (16 * (st % 32)) % 65536

/-- RDMAT at word `i` of its span (R83, R85): two elements, each with one rounding per product. -/
def State.matWord (s : State) (r : Rider) (pc i v : Nat) (acc : Tab Word) : Tab Word × FlagSet :=
  let m := r.f 135 128 + 1
  let h := (m + 31) / 32
  let k := i / 256
  let bank := i % 256 / 16
  let row := 32 * (k % h) + 2 * (i % 16)
  let x := s.bvElem pc bank (k / h)
  ([0, 1] : List Nat).foldl (fun a e =>
    if row + e < m then
      let key := 256 * bank + row + e
      let z := rne32 ((Val.mul (Fmt.fp16.decode (v / 2 ^ (16 * e) % 65536)) (Fmt.fp16.decode x)).bind
        (fun q => Val.add 0 (f32 (Tab.get 0 a.1 key).toNat) q))
      (Tab.set 0 a.1 key (BitVec.ofNat 32 z.1), a.2 ||| z.2)
    else a) (acc, 0)

/-- A reader observes word `w` (R78). -/
def State.readAct (s : State) (r : Rider) (p : Part) (w : Nat) : State :=
  let v := s.wordAt (s.partPa p w) ((p.runAt w).bind Piece.key)
  let i := p.idx w
  s.modRider r.id (fun q =>
    let q := { (q.modPart p.pc p.crs p.role (fun z => z.pass w)) with nact := q.nact + 1 }
    if r.kind = .rdmat then
      let a := s.matWord r p.pc i v q.acc
      { q with acc := a.1, flags := q.flags ||| a.2 }
    else if p.role = .spanB then { q with seenB := Tab.set 0 q.seenB i (BitVec.ofNat 32 v) }
    else { q with seen := Tab.set 0 q.seen i (BitVec.ofNat 32 v), order := i :: q.order })

/-- The access counter of a page advances; at ACTH the page is reported (R95). -/
def State.countPage (s : State) (pa : Nat) : State :=
  let k := pa / 65536
  let st := pa / 2 ^ 36
  let old := Tab.get 0 s.acc16 k
  let new := Nat.min 65535 (old + 1)
  let s := { s with acc16 := Tab.set 0 s.acc16 k new }
  let th := s.reg (0x20000 + 8 * st) % 65536
  if new = th ∧ old + 1 = th then
    let q := Tab.get [] s.reports st
    let s := if q.length < 64 then { s with reports := Tab.set [] s.reports st (q ++ [k]) }
      else { s with ovf := Tab.set false s.ovf st true }
    s.raiseInt 0 1
  else s

/-- A part that acts on its first word of a page in a pass counts there (R95); a tail of a failed deposit acts on none (R388). DESIGN CHOICE: a re-key part (R413) counts nowhere; R95 speaks of
rider parts, and the manual does not say whether the base die's own part is one (log entry 111). -/
def State.countPart (s : State) (r : Rider) (p : Part) (w : Nat) : State :=
  let pa := s.partPa p w
  if p.counted.contains (pa / 65536) ∨ r.kind = .rekey ∨ (r.kind = .dep ∧ p.role = .tail ∧ r.fail.isSome) then s
  else (s.modRider r.id (fun q => q.modPart p.pc p.crs p.role (fun z => { z with counted := z.counted ++ [pa / 65536] }))).countPage pa

/-- THE CURSOR RULE at one word (R78): the writers in boarding order, then every reader. -/
def State.wordStep (s : State) (p c w : Nat) (skip : List (Nat × Role × Nat)) : State :=
  let as := (s.actors p c w).filter (fun a => !skip.contains (a.1.id, a.2.role, w))
  let s := as.foldl (fun s a => s.countPart a.1 a.2 w) s
  let s := (as.filter (fun a => a.1.kind.writes)).foldl (fun s a => s.writeAct a.1 a.2 w) s
  (as.filter (fun a => !a.1.kind.writes)).foldl (fun s a => s.readAct a.1 a.2 w) s

/-- The cells of a step, as lists of word offsets. -/
def stepCells (cur w : Nat) : List (List Nat) :=
  if w < 16 then [(List.range w).map (cur + ·)]
  else (List.range (w / 16)).map (fun i => (List.range 16).map (fun j => cur + 16 * i + j))

/-- The words of one step (R78). -/
def State.courseWords (s : State) (p c cur w : Nat) : State :=
  (stepCells cur w).foldl (fun s ws =>
    let x := s.checkCell p c ws
    let s := ws.foldl (fun s w => s.wordStep p c w x.skip) x.st
    match ws with
    | [] => s
    | w0 :: _ => x.keys.foldl (fun s k => s.macSet ((s.crs p c).pa p w0) k) s) s

/-! ## The boundary before a step -/

/-- A part finishes at this boundary (R77, R263, R273): every word acted on, or nothing to act on. -/
def Rider.partEnds (r : Rider) (p : Part) : Bool :=
  p.boarded && !p.done &&
    (match r.kind with
    | .bvload => r.fail.isSome || decide (p.acted = 1)
    | .crsmode => r.fail.isSome
    | _ => p.complete)

/-- The event that follows when the last part is done: results, or a stamp without results (R82, R382, R388, R394). -/
def State.riderOver (s : State) (r : Rider) : State :=
  if r.parts.all Part.done then
    (if r.fail.isSome ∨ r.stopped then s.post .faultedRiderStamp [r.id] else s.post .riderDelivery [r.id])
  else s

/-- A part is done at this boundary. DESIGN CHOICE: TIME is to be that of the last part on its base die (R82), and the copies of two dies may differ; the model
takes the greatest of the parts' finish times, each read on its own die (log entry 112). -/
def State.endPart (s : State) (r : Rider) (p : Part) (stopped : Bool) : State :=
  let s := s.modRider r.id (fun q => { (q.modPart p.pc p.crs p.role (fun z => { z with done := true })) with
    fin := Nat.max q.fin (s.pcNs p.pc), stopped := q.stopped || stopped })
  match s.rider? r.id with
  | some q => s.riderOver q
  | none => s

/-- The re-key part of a page finishes: the tree counters above it advance, an overflow re-keys the tree, and the page's new
generation is reported (R413, R414). -/
def State.rekeyEnd (s : State) (r : Rider) : State :=
  if r.note = 0 then
    let st := r.xa / 2 ^ 36
    let page := r.xa / 2 ^ 14
    let s := { s with tlb := s.tlb.map (fun (e : Tlb) => if e.enc ∧ e.pa = r.xa then { e with gen := Tab.get 0 s.pageGen page } else e) }
    let s := s.queueRec { time := s.dieNs (5 + st), code := 0x15, sk := 3, evt := true, func := r.func,
                          loc := (match s.crsOfPa r.xa with | some x => wordLoc x.2 r.xa | none => noWord), op0 := r.xa,
                          op1 := 0, op2 := Tab.get 0 s.pageGen page : RecF }.pack
    let i := page % 2 ^ 22 - s.encBase st
    let keys := (List.range 6).map (fun l => st * 2 ^ 40 + (l + 1) * 2 ^ 32 + i / 8 ^ (l + 1))
    if keys.any (fun k => decide (2 ^ 56 - 1 ≤ Tab.get 0 s.treeCtr k)) then
      let s := ({ s with treeCtr := s.treeCtr.filter (fun e => decide (e.1 / 2 ^ 40 ≠ st)), treeWait := Tab.set false s.treeWait st true } : State).newTreeKey st
      let s := if s.treeFits st then s.treeLay st else s
      let s := s.queueRec { time := s.dieNs (5 + st), code := 0x15, sk := 3, evt := true, func := 0, loc := noWord, op0 := 0,
                            op1 := 1 : RecF }.pack
      let t := { Rider.ask .rekey .base 37 0 0 none 0 (st * 2 ^ 36) 0 with
                 id := s.nextId, note := 1,
                 parts := addRun [] .data (s.treePc st) (s.treeCourse st) ⟨0, (s.crs (s.treePc st) (s.treeCourse st)).words, 0, none⟩ }
      { s with riders := s.riders ++ [t], nextId := s.nextId + 1 }
    else ({ s with treeCtr := keys.foldl (fun t k => Tab.mod 0 t k (· + 1)) s.treeCtr } : State).treeUpdate st i
  else { s with treeWait := Tab.set false s.treeWait (r.xa / 2 ^ 36) false }

/-- Finish (R77). -/
def State.finishStep (s : State) (p c : Nat) : State :=
  ((s.partsOf p c).filter (fun a => a.1.partEnds a.2)).foldl (fun s a =>
    if a.1.kind = .rekey then (s.dropRider a.1.id).rekeyEnd a.1 else s.endPart a.1 a.2 false) s

/-- PMODE and PEND of the requests whose boarding time has come outlast them (R74, R272). -/
def State.modePend (s : State) (p c : Nat) : State :=
  if (s.modeAsks p c).isEmpty then s else { s with pendMode := Tab.set 0 s.pendMode (crsKey p c) (s.pendOf p c) }

/-- A withdrawn part stops at the first boundary 100 ns after the withdrawal; a tail whose data words are all written is still
written (R394). -/
def State.stopsHere (s : State) (p : Nat) (a : Rider × Part) : Bool :=
  (match a.1.withdrawn with
    | some t => decide (t + 100 ≤ s.pcNs p)
    | none => false) && (decide (a.2.role ≠ .tail) || !a.1.dataDone)

/-- Withdrawn parts stop (R394). -/
def State.withdrawStep (s : State) (p c : Nat) : State :=
  ((s.partsOf p c).filter (s.stopsHere p)).foldl (fun s a => s.endPart a.1 a.2 true) s

/-- Every word of a LAND's span has its contributions pending (R88). -/
def State.landReady (s : State) (r : Rider) (p : Part) : Bool :=
  p.runs.all (fun z => (List.range z.len).all (fun i => r.elems.all (fun e =>
    decide (r.f 246 241 + 1 ≤ (s.pending (p.pc / 64) (r.f 255 250) (s.partPa p (z.off + i)) e).length))))

/-- The host words of an IMPORT's part have all come (R270). -/
def Rider.hostCame (r : Rider) (p : Part) : Bool :=
  p.runs.all (fun z => (List.range z.len).all (fun i => decide (Tab.get 0 r.seen (z.base + i) = 1)))

/-- A part may board at this boundary (R76, R85, R88, R259, R270), unless a die link that retrains holds it back (R410) or its source is still to be read (R147); one that acts on no word waits for nothing. `w` is the step width before
any mode change here. -/
def State.mayBoard (s : State) (w cur words : Nat) (r : Rider) (p : Part) : Bool :=
  !p.boarded && !r.unread && decide (r.kind ≠ .crsmode ∨ r.fail.isSome)
    && (decide (r.kind = .rekey) || (decide (r.time + 250 ≤ s.pcNs p.pc) && !s.dieHeld r.die (p.pc / 192) r.time))
    && (decide (p.len = 0) ||
      ((match p.catch? with
        | none => true
        | some k => decide (cur = k ∨ (k % w ≠ 0 ∧ cur = (k / w * w + w) % words)))
      && (decide (r.kind ≠ .land) || s.landReady r p)
      && (decide (r.kind ≠ .imp) || r.hostCame p)))

/-- A part of an RDMAT that holds a mode change back (R74, R87): one that is aboard, or that was admitted and has its pass before it, so that the
pass runs in all-bank mode (log entry 110). One that acts on no word boards and ends at one boundary. DESIGN CHOICE: one that a withdrawal stops at
this very boundary is no longer aboard at it, as one that finishes there (log entry 122). -/
def State.holdsMode (s : State) (p : Nat) (a : Rider × Part) : Bool :=
  decide (a.1.kind = .rdmat) && (a.2.boarded || decide (a.2.len ≠ 0)) && !s.stopsHere p a

/-- The mode changes at a wrap at which no RDMAT holds it back, and its CRSMODE parts finish (R74, R87, R272). The cursor of a course that has taken
no step stands at 0 by no wrap. -/
def State.modeStep (s : State) (p c : Nat) : State :=
  if s.cur? p c = 0 ∧ Tab.get 0 s.courseSteps (crsKey p c) ≠ 0 ∧ Tab.get 0 s.pendMode (crsKey p c) ≠ 0
      ∧ ¬ (s.partsOf p c).any (s.holdsMode p) then
    let m := Tab.get 0 s.pendMode (crsKey p c) - 1
    let o := crsOff p c + 8
    let hi := s.reg o
    let s1 := s.setReg o (hi - bits hi 34 33 * 2 ^ 33 + m * 2 ^ 33)
    let s1 := { s1 with pendMode := Tab.set 0 s1.pendMode (crsKey p c) 0 }
    (s.modeAsks p c).foldl (fun s a => s.endPart a.1 a.2 false) s1
  else s

/-- A deposit with a lost source word fails at its first step (R388, R390), with the first such word of its span in this part, or else in another
(log entry 123). -/
def State.lostSource (s : State) (r : Rider) (p : Part) : Option (BitVec 512) :=
  match (p :: r.parts).find? (fun q => !q.lost.isEmpty) with
  | some q =>
    let w := q.lost.headD 0
    some (riderRec r 0 ⟨0x14, 0, 0, r.va q.role (q.idx w), wordLoc q.crs (s.partPa q w)⟩)
  | none => none

/-- A part boards (R76): accumulators are zero (R85), CURSOR records the course (R273), a re-key advances its page's generation
(R413), and a deposit that lost a source word fails (R390). -/
def State.boardPart (s : State) (cur : Nat) (r : Rider) (p : Part) : State :=
  let s := s.modRider r.id (fun q => q.modPart p.pc p.crs p.role (fun z => { z with boarded := true, start := cur }))
  match r.kind with
  | .dep => s.modRider r.id (fun q => { q with fail := q.fail.or (s.lostSource q p) })
  | .cursor =>
    let k := crsKey p.pc p.crs
    let pend := s.pendOf p.pc p.crs
    s.modRider r.id (fun q => { q with note := s.pcNs p.pc +
      2 ^ 64 * (Tab.get 0 s.courseSteps k % 2 ^ 32 * 2 ^ 32 + (s.crs p.pc p.crs).mode * 2 ^ 30 + b2n (pend ≠ 0) * 2 ^ 29 + cur) })
  | .rekey => if r.note = 0 then { s with pageGen := Tab.mod 0 s.pageGen (r.xa / 2 ^ 14) (· + 1) } else s
  | _ => s

/-- Boarding (R76). -/
def State.boardStep (s : State) (w p c : Nat) : State :=
  let cur := s.cur? p c
  let words := (s.crs p c).words
  ((s.partsOf p c).filter (fun a => s.mayBoard w cur words a.1 a.2)).foldl (fun s a => s.boardPart cur a.1 a.2) s

/-- The vector of a BVLOAD reaches the bank vector registers (R84). -/
def State.loadBv (s : State) (pc : Nat) (r : Rider) : State :=
  let n := r.f 206 200 + 1
  let elem (e : Nat) : Nat := (r.src.getD (e / 2) 0).toNat / 2 ^ (16 * (e % 2)) % 65536
  (List.range 64).foldl (fun s i =>
    let b := i / 4
    let v := packCodes 16 ((List.range 32).map (fun l => let st := 32 * (i % 4) + l; if st < n then elem (n * b + st) else 0))
    { s with bv := Tab.set 0 s.bv (64 * pc + i) (BitVec.ofNat 512 v) }) s

/-- BVLOAD parts take their one step (R263); one whose vector was lost fails there (R390). -/
def State.bvStep (s : State) (p c : Nat) : State :=
  ((s.partsOf p c).filter (fun a => decide (a.1.kind = .bvload ∧ a.2.acted = 0 ∧ a.1.fail = none) && a.2.boarded)).foldl (fun s a =>
    let s := s.modRider a.1.id (fun q => { (q.modPart p c a.2.role (fun z => { z with acted := 1 })) with
      fail := if a.2.lost.isEmpty then q.fail
        else some (riderRec a.1 0 ⟨0x14, 0, 0, a.1.xa, wordLoc c (s.partPa a.2 a.2.first)⟩) })
    if a.2.lost.isEmpty then s.loadBv p a.1 else s) s

/-! ## A step and a tick -/

/-- Parts whose passes begin in this step have counted on no page of it (R95). -/
def State.newPass (s : State) (p c cur w : Nat) : State :=
  ((s.partsOf p c).filter (fun a => a.2.boarded && decide (cur ≤ a.2.start ∧ a.2.start < cur + w))).foldl (fun s a =>
    s.modRider a.1.id (fun q => q.modPart p c a.2.role (fun z => { z with counted := [] }))) s

/-- A COURSE STEP (R72): the boundary, then the words, then the cursor advances. -/
def State.courseStep (s : State) (p c : Nat) : State :=
  let w0 := modeW (s.crs p c).mode
  let s := ((((s.finishStep p c).modePend p c).modeStep p c).withdrawStep p c).boardStep w0 p c
  let s := s.finishStep p c
  let d := s.crs p c
  let w := modeW d.mode
  let cur := s.cur? p c
  let s := s.bvStep p c
  let s := if (s.partsOf p c).any (fun a => a.2.boarded) then (s.newPass p c cur w).courseWords p c cur w else s
  { s with cursor := Tab.set 0 s.cursor (crsKey p c) (if d.words ≤ cur + w then 0 else cur + w),
           courseSteps := Tab.mod 0 s.courseSteps (crsKey p c) (· + 1) }

/-- Grant entry `i` of PC `p` (R71); the table is kept less its reset value 8. -/
def State.grantAt (s : State) (p i : Nat) : Nat :=
  bits (nxor (Tab.get 0 s.grant (4 * p + i / 16)).toNat 0x8888888888888888) (4 * (i % 16) + 3) (4 * (i % 16))

/-- A TICK of a stack (R71): written grant tables take effect every 64 ticks; every PC grants the tick to a course or leaves it
idle. -/
def State.tickStack (s : State) (st : Nat) : State :=
  let t := Tab.get 0 s.tick st
  let s := if t % 64 = 0 then
      { s with grant := (List.range 256).foldl (fun g i => Tab.set 0 g (256 * st + i) (Tab.get 0 s.grantNew (256 * st + i))) s.grant }
    else s
  let s := (List.range 64).foldl (fun (s : State) i =>
    let p := 64 * st + i
    let s := (List.range 8).foldl (fun (s : State) c => if (s.crs p c).valid then s.modePend p c else s) s
    let e := s.grantAt p (t % 64)
    if e < 8 ∧ (s.crs p e).valid then s.courseStep p e else s) s
  { s with tick := Tab.set 0 s.tick st (t + 1) }

end Sys2Proof.Machine
end

