-- ==== Sys2Proof/Machine/Matrix.lean ====
section
/-! DEFINITION. The arithmetic of a K step of an X tile: rows of a record, operands from buffers and ports, terms and their order
(R110, R112, R113, R138 to R140, R237 to R242, R253, R399, R400). -/

namespace Sys2Proof.Machine

/-! ## Row records (R237) -/

/-- A field of a row record. -/
def XEnt.f (e : XEnt) (hi lo : Nat) : Nat := bits e.rcd.toNat hi lo
/-- K steps of the row. -/
def XEnt.steps (e : XEnt) : Nat := e.f 71 56 + 1
/-- Rows of A and of the result. -/
def XEnt.m (e : XEnt) : Nat := e.f 50 45 + 1
/-- Columns of B and of the result. -/
def XEnt.n (e : XEnt) : Nat := e.f 44 39 + 1
/-- K positions of step `k`. -/
def XEnt.count (e : XEnt) (k : Nat) : Nat := if k + 1 = e.steps then e.f 55 51 + 1 else 32

/-- Bytes of a row that a K step reads (R238). -/
def stepBytes (fmt : Nat) : Nat :=
  if fmt = 0 ∨ fmt = 18 ∨ fmt = 19 then 128
  else if fmt = 1 ∨ fmt = 2 then 64
  else if fmt ∈ [3, 4, 9, 10, 11, 16] then 32
  else if fmt ∈ [5, 6, 8] then 24
  else if fmt ∈ [7, 12, 13] then 16
  else 48

/-- Bytes of a row that a K step of `n` elements reads (R238): a partial last step reads its elements only. -/
def readBytes (fmt n : Nat) : Nat := (if isBlockFmt fmt then 16 else 0) + (n * fmtWidth fmt + 7) / 8

/-- One operand row of a K step: scale code less 508 and element codes. -/
structure KRow where
  q : Int
  codes : List Nat
deriving DecidableEq, Repr

/-! ## Operands -/

/-- A fault of the tile: code, OP0, OP1, OP2 (R390, R399, R400). -/
abbrev UFault := Nat × Nat × Nat × Nat

/-- One row of a named buffer at byte `c` (R238, R239); a block packet carries its scale (R130), and elements at or beyond its COUNT are left out, exact
zeros (R131). DESIGN CHOICE: a step whose bytes pass the row's 128 reads on, into the next row (log entry 128). -/
def State.bufRow (s : State) (base c fmt n : Nat) : KRow :=
  if isBlockFmt fmt then
    let h := s.mem.readN (base + c) 8
    ⟨(bits h 16 7 : Int) - 508, unpackCodes (fmtWidth fmt) (s.mem.readN (base + c + 16) (stepBytes fmt - 16)) (Nat.min n (bits h 38 33))⟩
  else ⟨0, unpackCodes (fmtWidth fmt) (s.mem.readN (base + c) (stepBytes fmt)) n⟩

/-- The header of a row of a named buffer has an invalid scale (R128). -/
def State.bufNan (s : State) (base c fmt : Nat) : Bool :=
  isBlockFmt fmt && decide (bits (s.mem.readN (base + c) 8) 16 7 = 0x3FF)

/-- Beats of payload of `n` elements (R110). -/
def payBeats (fmt n : Nat) : Nat := (n * fmtWidth fmt + 127) / 128

/-- What is wrong with a packet at a port that expects `tag`, format, count and domain (R240, R399, R400). -/
def portFault (site tag fmt n dom h : Nat) : Option UFault :=
  if 0x14 ≤ bits h 4 0 ∨ bits h 6 5 = 3 ∨ bits h 38 33 = 0 ∨ 32 < bits h 38 33 ∨ (bits h 32 29 ≠ 0 ∧ bits h 6 5 = 0) then some (9, h, fmt, site)
  else if bits h 16 7 = 0x3FF then some (0x1A, h, 0, site)
  else if bits h 28 17 ≠ tag then some (7, h, tag, site)
  else if bits h 4 0 ≠ fmt then some (9, h, fmt, site)
  else if bits h 38 33 ≠ n then some (9, h, n, site)
  else if bits h 40 39 ≠ 0 then some (9, h, 0, site)
  else if ¬ isBlockFmt fmt ∧ bits h 16 7 ≠ 0x1FC then some (9, h, 0x1FC, site)
  else if bits h 6 5 ≠ dom then some (8, h, dom, site)
  else none

/-- Take `rows` packets from a port's beats (R240): the rows, or a fault of the tile; nothing while beats are missing. -/
def takePackets (site fmt n dom : Nat) : Nat → Nat → List Beat → Option (Sum UFault (List KRow × List Beat × Nat))
  | 0, tag, q => some (.inr ([], q, tag))
  | rows + 1, tag, q =>
    match q with
    | [] => none
    | h :: t =>
      let hd := h.v0.toNat % 2 ^ 64
      let nb := payBeats (bits hd 4 0) (bits hd 38 33)
      if t.length < nb then none
      else match portFault site tag fmt n dom hd with
        | some f => some (.inl f)
        | none =>
          let pay := packCodes 128 ((t.take nb).map (fun b => b.v0.toNat))
          match takePackets site fmt n dom rows ((tag + 1) % 4096) (t.drop nb) with
          | none => none
          | some (.inl f) => some (.inl f)
          | some (.inr x) => some (.inr (⟨(bits hd 16 7 : Int) - 508, unpackCodes (fmtWidth fmt) pay n⟩ :: x.1, x.2.1, x.2.2))

/-- Split a list into groups of `g`, at most `fuel` of them. -/
def chunks {α : Type} (g : Nat) : Nat → List α → List (List α)
  | 0, _ => []
  | fuel + 1, l => if l.isEmpty then [] else l.take g :: chunks g fuel (l.drop g)

/-- A packet header (R110). -/
def mkHeader (fmt dom scale tag xsh count plane : Nat) : Nat :=
  fmt + dom * 2 ^ 5 + scale * 2 ^ 7 + tag % 4096 * 2 ^ 17 + xsh * 2 ^ 29 + count * 2 ^ 33 + plane * 2 ^ 39

/-- The beats of one packet, header first (R110). -/
def packetBeats (header fmt : Nat) (codes : List Nat) : List Nat :=
  let v := packCodes (fmtWidth fmt) codes
  header :: (List.range (payBeats fmt codes.length)).map (fun i => v / 2 ^ (128 * i) % 2 ^ 128)

/-- Values as consecutive packets of at most 32 elements with SCALE 0x1FC, tags from `tag`: the beats and the next tag. -/
def packRun (fmt dom xsh plane tag : Nat) (codes : List Nat) : List Nat × Nat :=
  let cs := chunks 32 codes.length codes
  (((List.range cs.length).zip cs).flatMap (fun p => packetBeats (mkHeader fmt dom 0x1FC (tag + p.1) xsh p.2.length plane) fmt p.2),
   tag + cs.length)

/-! ## Terms (R139, R140, R253) -/

/-- The product of two elements of the narrow class with the sum of their scales applied once (R129, R139). -/
def narrowProd (fa fb : Nat) (q : Int) (a b : Nat) : FVal :=
  match Fmt.ofCode fa, Fmt.ofCode fb with
  | some x, some y =>
    let p := Val.mul (x.decode a) (y.decode b)
    if q = 0 then p else p.bind (fun v => Val.mul v (pow4 q))
  | _, _ => (.nan, 0)

/-- The product of two logarithmic elements (R139); a zero code adds nothing. -/
def lgProd (fa : Nat) (q : Int) (a b : Nat) : FVal :=
  let six : Bool := decide (fa ≠ 9)
  let w : Nat := if six then 5 else 7
  let ma : Nat := a % 2 ^ w
  let mb : Nat := b % 2 ^ w
  if ma = 0 ∨ mb = 0 then (.zero false, 0)
  else (powLg (if six then 4 else 8) (bit a w != bit b w) ((ma : Int) + mb - (if six then 32 else 128) + q), 0)

/-- One part of a complex element (R125): 0 real, 1 imaginary. -/
def cpart (fmt code i : Nat) : Val :=
  (if fmt = 18 then Fmt.fp16 else Fmt.bf16).decode (code / 2 ^ (16 * i) % 65536)

/-- Add a list of terms to an accumulator, one rounding each (R139). -/
def addTerms (acc : Nat) (ts : List FVal) : LaneRes :=
  ts.foldl (fun x t => let y := rne32 (t.bind (fun v => Val.add 0 (f32 x.1) v)); (y.1, x.2 ||| y.2)) (acc, 0)

/-- Both formats are integers (R138). -/
def bothInt (fa fb : Nat) : Bool := decide (fa ∈ [10, 11, 12, 13] ∧ fb ∈ [10, 11, 12, 13])

/-- The integer value of a code. -/
def intOf (fmt c : Nat) : Int :=
  if fmt = 10 then sint 8 c else if fmt = 11 then ((c % 256 : Nat) : Int) else if fmt = 12 then sint 4 c else ((c % 16 : Nat) : Int)

/-- One element of the accumulators after a K step (R139): the words of acc (real) and of acc1 (imaginary), from their values
before it. `freqp` is a FREQP row (R253). The positions that K leaves out of a block or group are left out of the sum, so products of −0.0 alone keep
their sign; R139 has a missing position add an exact zero and gives it no sign (DESIGN CHOICE, log entry 119). -/
def kElement (fa fb : Nat) (freqp : Bool) (a b : KRow) (acc acc1 : Nat) : Nat × Nat × FlagSet :=
  let ps := a.codes.zip b.codes
  let q := a.q + b.q
  match pairClass fa with
  | 1 =>
    if bothInt fa fb then (wrap32 ((acc : Int) + (ps.map (fun p => intOf fa p.1 * intOf fb p.2)).sum), acc1, 0)
    else
      let r := addTerms acc [FVal.total 0 (ps.map (fun p => narrowProd fa fb q p.1 p.2))]
      (r.1, acc1, r.2)
  | 2 => let r := addTerms acc [FVal.total 0 (ps.map (fun p => lgProd fa q p.1 p.2))]; (r.1, acc1, r.2)
  | 3 => let r := addTerms acc [FVal.total 0 (ps.map (fun p => lgProd fa q p.1 p.2))]; (r.1, acc1, r.2)
  | 4 =>
    let r := addTerms acc ((chunks 8 4 ps).map (fun g => FVal.total 0 (g.map (fun p => narrowProd fa fb 0 p.1 p.2))))
    (r.1, acc1, r.2)
  | 5 => let r := addTerms acc (ps.map (fun p => Val.mul (f32 p.1) (f32 p.2))); (r.1, acc1, r.2)
  | _ =>
    let prod (x y : Nat) (p : Nat × Nat) : FVal := Val.mul (cpart fa p.1 x) (cpart fb p.2 y)
    let gs := chunks 8 4 ps
    let re := gs.map (fun g => FVal.total 0 (if freqp then g.map (prod 0 0) else g.map (prod 0 0) ++ g.map (fun p => (prod 1 1 p).neg)))
    let im := gs.map (fun g => FVal.total 0 (if freqp then g.map (prod 1 1) else g.map (prod 0 1) ++ g.map (prod 1 0)))
    let r := addTerms acc re
    let i := addTerms acc1 im
    (r.1, i.1, r.2 ||| i.2)

/-! ## The counters of a row (R239) -/

/-- The core that drives X tile `u` (R235). -/
def tileCore (u : Nat) : Nat := u / 32

/-- The cycle that the clock of tile `u` has reached. -/
def State.tileCycle (s : State) (u : Nat) : Nat := s.cycle (coreIsl (tileCore u))
/-- The clock of tile `u` pauses (R24). -/
def State.tilePaused (s : State) (u : Nat) : Bool := s.paused (coreIsl (tileCore u))

/-- F bit `b` set to `v`. -/
def XTile.putF (t : XTile) (b : Nat) (v : Bool) : XTile :=
  { t with f := t.f - b2n (bit t.f b) * 2 ^ b + b2n v * 2 ^ b }

/-- The address counter of a named buffer after a K step (R239): buffer of the pair and byte. `b0` is 0 for A, 2 for B. -/
def XTile.count (t : XTile) (b0 cur c fmt : Nat) (ping rel last : Bool) : XTile × Nat × Nat :=
  let c1 := c + stepBytes fmt
  let x := if 128 < c1 + stepBytes fmt then
      (if ping then (t.putF (b0 + cur) false, 1 - cur, 0) else (t, cur, 0))
    else (t, cur, c1)
  if last ∧ rel then (x.1.putF (b0 + cur) false, x.2) else x

/-- The counters of a row after a K step (R239). -/
def XTile.advance (t : XTile) (e : XEnt) : XTile :=
  let last := decide (t.k + 1 = e.steps)
  let t := if e.f 10 9 < 2 then
      (let x := t.count 0 t.abuf t.aoff (e.f 15 11) (e.f 8 8 = 1) (e.f 7 7 = 1) last
       { x.1 with abuf := x.2.1, aoff := x.2.2 })
    else t
  if e.f 26 25 < 2 then
    (let x := t.count 2 t.bbuf t.boff (e.f 31 27) (e.f 24 24 = 1) (e.f 23 23 = 1) last
     { x.1 with bbuf := x.2.1, boff := x.2.2 })
  else t

/-- The K step that runs has run its cycles at cycle `now`: the counters move on (R239, R241). -/
def XTile.settle (t : XTile) (now : Nat) : XTile :=
  match t.queue with
  | e :: _ => if t.busy ∧ t.due ≤ now then { t.advance e with k := t.k + 1, busy := false } else t
  | [] => t
/-- Tile `u` as its clock leaves it now. -/
def State.tileNow (s : State) (u : Nat) : XTile := (s.xtile u).settle (s.tileCycle u)

end Sys2Proof.Machine
end

