-- ==== Sys2Proof/Machine/Real.lean ====
section
/-! DEFINITION. Correctly rounded real functions (R226, R227, R254): positive intervals of scaled naturals that are
narrowed until both ends round alike. DEDUCED (log entry 12): the widest precision tried suffices for FP32. -/

namespace Sys2Proof.Machine

/-- An interval `[lo, hi] × 2^e` of positive reals. -/
structure Iv where
  lo : Nat
  hi : Nat
  e : Int
deriving DecidableEq, Repr

/-- Cut the ends to about `p` bits, widening outward. -/
def Iv.norm (p : Nat) (x : Iv) : Iv :=
  let l := Nat.log2 x.hi
  if l ≤ p then x else ⟨x.lo >>> (l - p), (x.hi >>> (l - p)) + 1, x.e + (l - p : Nat)⟩

/-- The interval around `n / d × 2^e`. -/
def Iv.ofRat (p n d : Nat) (e : Int) : Iv := ⟨(n <<< p) / d, (n <<< p) / d + 1, e - p⟩

/-- The integer `n`. -/
def Iv.nat (n : Nat) : Iv := ⟨n, n, 0⟩

/-- Both ends over the exponent `g ≤ x.e`. -/
def Iv.at (x : Iv) (g : Int) : Nat × Nat := (x.lo <<< (x.e - g).toNat, x.hi <<< (x.e - g).toNat)

/-- Sum. -/
def Iv.add (p : Nat) (x y : Iv) : Iv :=
  let g := min x.e y.e
  let a := x.at g
  let b := y.at g
  Iv.norm p ⟨a.1 + b.1, a.2 + b.2, g⟩

/-- Difference of a greater and a smaller. -/
def Iv.sub (p : Nat) (x y : Iv) : Iv :=
  let g := min x.e y.e
  let a := x.at g
  let b := y.at g
  Iv.norm p ⟨a.1 - b.2, a.2 - b.1, g⟩

/-- Product. -/
def Iv.mul (p : Nat) (x y : Iv) : Iv := Iv.norm p ⟨x.lo * y.lo, x.hi * y.hi, x.e + y.e⟩

/-- Quotient, the divisor's lower end not zero. -/
def Iv.div (p : Nat) (x y : Iv) : Iv :=
  let s := 2 * p + Nat.log2 y.hi
  Iv.norm p ⟨(x.lo <<< s) / y.hi, (x.hi <<< s) / y.lo + 1, x.e - y.e - s⟩

/-- Terms `k, k+1, …` of the series Σ r^k / k! in fixed point with `p` fraction bits, each rounded down. -/
def expTerms (p r : Nat) : Nat → Nat → Nat → Nat
  | 0, _, _ => 0
  | n + 1, k, t => t + expTerms p r n (k + 1) ((t * r) / (2 ^ p * (k + 1)))

/-- e^r for `r` in `[lo, hi] × 2^-p`, below 2. -/
def expIv (p lo hi : Nat) : Iv :=
  let n := p / 2 + 20
  ⟨expTerms p lo n 0 (2 ^ p), expTerms p hi n 0 (2 ^ p) + 16 * n, -p⟩

/-- Terms of Σ t^(2k+1) / (2k+1) in fixed point, `u` = t², each rounded down. -/
def atanhTerms (p u : Nat) : Nat → Nat → Nat → Nat
  | 0, _, _ => 0
  | n + 1, k, t => t / (2 * k + 1) + atanhTerms p u n (k + 1) ((t * u) >>> p)

/-- 2 atanh t for t = n / d at most 1/3, with `p` fraction bits: natural logarithm of (d + n) / (d − n). -/
def lnIv (p n d : Nat) : Iv :=
  let t := (n <<< p) / d
  let m := p / 3 + 8
  let s := 2 * atanhTerms p ((t * t) >>> p) m 0 t
  ⟨s, s + 16 * m, -p⟩

/-- The natural logarithm of 2. -/
def ln2Iv (p : Nat) : Iv := lnIv p 1 3

/-- e^x for x = ±n / d × 2^e with |x| below 1024 (larger arguments are cut to 1024). -/
def expRat (p : Nat) (neg : Bool) (n d : Nat) (e : Int) : Iv :=
  let r := ratio n d (e + p)
  let x := min (r.1 / r.2) (2 ^ (p + 10))
  let l := ln2Iv p
  if neg then
    let k := (x + 1) / l.lo + 2
    (fun (v : Iv) => ⟨v.lo, v.hi, v.e - (k : Int)⟩) (expIv p (k * l.lo - (x + 1)) (k * l.hi - x))
  else
    let k := x / l.hi - 1
    (fun (v : Iv) => ⟨v.lo, v.hi, v.e + (k : Int)⟩) (expIv p (x - k * l.hi) (x + 1 - k * l.lo))

/-- The rounded value of an irrational real in the interval, if both ends (taken strictly inside) round alike. -/
def Iv.round? (f : Fmt) (rm : Nat) (neg : Bool) (x : Iv) : Option (Nat × FlagSet) :=
  let a := f.encode rm (.fin neg (2 * x.lo + 1) 1 (x.e - 1))
  let b := f.encode rm (.fin neg (2 * x.hi - 1) 1 (x.e - 1))
  if a = b then some a else none

/-- Narrow the interval until it rounds; the last precision's lower end otherwise. -/
def roundReal (f : Fmt) (rm : Nat) (neg : Bool) (g : Nat → Iv) : Nat × FlagSet :=
  match (g 160).round? f rm neg with
  | some r => r
  | none =>
    let x := g 700
    (x.round? f rm neg).getD (f.encode rm (.fin neg (2 * x.lo + 1) 1 (x.e - 1)))

/-- Integer square root by bits, from bit `i` downward. -/
def isqrtBits (q : Nat) : Nat → Nat → Nat
  | 0, r => r
  | i + 1, r => let s := r + 2 ^ i; isqrtBits q i (if s * s ≤ q then s else r)

/-- The floor of the square root. -/
def isqrt (q : Nat) : Nat := isqrtBits q (Nat.log2 q / 2 + 1) 0

/-- The square root of `n / d × 2^e`: exact, or a value between the same neighbours of every format of at most 60 bits. -/
def sqrtRat (n d : Nat) (e : Int) : Val :=
  let odd := e % 2 = 1
  let m := if odd then 2 * n else n
  let h := (if odd then e - 1 else e) / 2
  let k := 64 + Nat.log2 d
  let q := (m <<< (2 * k)) / d
  let r := isqrt q
  if (m <<< (2 * k)) % d = 0 ∧ r * r = q then .fin false r 1 (h - k) else .fin false (2 * r + 1) 1 (h - k - 1)

/-! The functions of R226 on FP32, in a rounding mode; each answers a code and its flags. -/

/-- Code of a FP32 constant with no flag. -/
def plain32 (v : Val) : Nat × FlagSet := ((Fmt.fp32.encode 0 v).1, 0)

/-- Magnitudes cut to 1024, where every result is the same as beyond (R226). -/
def cut1024 (n d : Nat) (e : Int) : Nat × Nat × Int :=
  if (ilog2 n d + e) < 10 then (n, d, e) else (1024, 1, 0)

/-- 2^x as an interval for x = ±n × 2^e. -/
def exp2Iv (neg : Bool) (n : Nat) (e : Int) (p : Nat) : Iv :=
  let r := ratio n 1 e
  let fl := r.1 / r.2
  let x := Iv.mul p (Iv.ofRat p (r.1 % r.2) r.2 0) (ln2Iv p)
  let y := ratio 1 1 (x.e + p)
  let v := expIv p (x.lo * y.1 / y.2) (x.hi * y.1 / y.2 + 1)
  if neg then Iv.div p ⟨1, 1, -(fl : Int)⟩ v else ⟨v.lo, v.hi, v.e + fl⟩

/-- 2^a (R226). -/
def fnExp2 (rm : Nat) : Val → Nat × FlagSet
  | .nan => Fmt.fp32.nanCode
  | .inf true => (0, 0)
  | .inf false => plain32 (.inf false)
  | .fin s n0 d0 e0 =>
    if n0 = 0 then plain32 .one
    else
      let c := cut1024 n0 d0 e0
      let r := ratio c.1 1 c.2.2
      if r.1 % r.2 = 0 then
        let k : Int := (r.1 / r.2 : Nat)
        Fmt.fp32.encode rm (.fin false 1 1 (if s then -k else k))
      else roundReal .fp32 rm false (exp2Iv s c.1 c.2.2)

/-- ln of a positive dyadic n × 2^e, as sign and interval; `n × 2^e ≠ 1`. -/
def lnDyadic (n : Nat) (e : Int) (p : Nat) : Bool × Iv :=
  let l := Nat.log2 n
  let k : Int := l + e
  -- mantissa in [1, 2) is n / 2^l; brought to (2/3, 4/3] to keep the logarithm relative
  let high := 2 ^ l * 4 < 3 * n
  let k' := if high then k + 1 else k
  let den : Nat := if high then 2 ^ (l + 1) else 2 ^ l
  let nm := (n : Int) - den
  let frac := lnIv (p + 200) nm.natAbs (n + den)
  let whole := Iv.mul p (Iv.nat k'.natAbs) (ln2Iv p)
  if k' = 0 then (nm < 0, frac)
  else if nm = 0 then (k' < 0, whole)
  else if decide (k' < 0) = decide (nm < 0) then (k' < 0, Iv.add p whole frac)
  else (k' < 0, Iv.sub p whole frac)

/-- log2 a (R226). -/
def fnLog2 (rm : Nat) : Val → Nat × FlagSet
  | .nan => Fmt.fp32.nanCode
  | .inf s => if s then (Fmt.fp32.nanCode.1, fInvalid) else plain32 (.inf false)
  | .fin s n _ e =>
    if n = 0 then ((plain32 (.inf true)).1, fDivzero)
    else if s then (Fmt.fp32.nanCode.1, fInvalid)
    else
      let l := Nat.log2 n
      if n = 2 ^ l then Fmt.fp32.encode rm (.ofInt (l + e))
      else
        let sg := (lnDyadic n e 160).1
        roundReal .fp32 rm sg (fun p => Iv.div p (lnDyadic n e p).2 (ln2Iv p))

/-- 1 / a (R226). -/
def fnRcp (rm : Nat) (a : Val) : Nat × FlagSet := toF32 rm (Val.div .one a)

/-- 1 / √a (R226). -/
def fnRsqrt (rm : Nat) : Val → Nat × FlagSet
  | .nan => Fmt.fp32.nanCode
  | .inf s => if s then (Fmt.fp32.nanCode.1, fInvalid) else (0, 0)
  | .fin s n d e =>
    if n = 0 then ((plain32 (.inf s)).1, fDivzero)
    else if s then (Fmt.fp32.nanCode.1, fInvalid)
    else Fmt.fp32.encode rm (sqrtRat d n (-e))

/-- √a (R227). -/
def fnSqrt (rm : Nat) : Val → Nat × FlagSet
  | .nan => Fmt.fp32.nanCode
  | .inf s => if s then (Fmt.fp32.nanCode.1, fInvalid) else plain32 (.inf false)
  | .fin s n d e =>
    if n = 0 then plain32 (.zero s)
    else if s then (Fmt.fp32.nanCode.1, fInvalid)
    else Fmt.fp32.encode rm (sqrtRat n d e)

/-- tanh a (R226). -/
def fnTanh (rm : Nat) : Val → Nat × FlagSet
  | .nan => Fmt.fp32.nanCode
  | .inf s => plain32 (.fin s 1 1 0)
  | .fin s n0 d0 e0 =>
    if n0 = 0 then plain32 (.zero s)
    else
      let c := cut1024 n0 d0 e0
      roundReal .fp32 rm s (fun p =>
        let x := expRat p false c.1 1 (c.2.2 + 1)
        Iv.div p (Iv.sub p x (Iv.nat 1)) (Iv.add p x (Iv.nat 1)))

/-- 1 / (1 + e^−a) (R226). -/
def fnSigm (rm : Nat) : Val → Nat × FlagSet
  | .nan => Fmt.fp32.nanCode
  | .inf s => if s then (0, 0) else plain32 .one
  | .fin s n0 d0 e0 =>
    if n0 = 0 then plain32 (.fin false 1 1 (-1))
    else
      let c := cut1024 n0 d0 e0
      roundReal .fp32 rm false (fun p => Iv.div p (Iv.nat 1) (Iv.add p (Iv.nat 1) (expRat p (!s) c.1 1 c.2.2)))

/-! Tangents of the functions (R217 rule 3, R226, R227): `a` the primal value, `ta` the tangent, neither NaN. -/

/-- A factor that is an irrational positive real, times `ta`. -/
def tangentReal (ta : Val) (g : Nat → Iv) : Nat × FlagSet :=
  match ta with
  | .fin s n d e =>
    if n = 0 then plain32 (.zero s) else roundReal .fp32 0 s (fun p => Iv.mul p (g p) (Iv.ofRat p n d e))
  | v => plain32 v

/-- Quotient by R217: a nonzero numerator over zero is an infinity with DIVZERO, a zero one is NaN with INVALID. -/
def divR217 (x y : Val) : FVal :=
  let r := Val.div x y
  match x, y with
  | .inf _, .fin _ m _ _ => if m = 0 then (r.1, r.2 ||| fDivzero) else r
  | _, _ => r

/-- f(a) × ln 2 × ta. -/
def tanExp2 (a ta : Val) : Nat × FlagSet :=
  match a with
  | .fin s n0 d0 e0 =>
    let c := cut1024 n0 d0 e0
    tangentReal ta (fun p => Iv.mul p (ln2Iv p) (if n0 = 0 then Iv.nat 1 else exp2Iv s c.1 c.2.2 p))
  | .inf s => rne32 (Val.mul (if s then .zero false else .inf false) ta)
  | .nan => rne32 (.nan, 0)

/-- ta / (a × ln 2). -/
def tanLog2 (a ta : Val) : Nat × FlagSet :=
  match a with
  | .fin s n _ e =>
    if n = 0 then rne32 (divR217 ta a)
    else tangentReal (if s then ta.neg else ta) (fun p => Iv.div p (Iv.nat 1) (Iv.mul p (Iv.ofRat p n 1 e) (ln2Iv p)))
  | v => rne32 (Val.div ta v)

/-- −ta / a². -/
def tanRcp (a ta : Val) : Nat × FlagSet :=
  rne32 (FVal.bind (Val.mul a a) (divR217 ta.neg))

/-- −ta / (2 × a × √a), a not below zero. -/
def tanRsqrt (a ta : Val) : Nat × FlagSet :=
  match a, ta with
  | .fin false n d e, .fin s m c f =>
    if n = 0 ∨ m = 0 then rne32 (divR217 ta.neg (Val.mul a a).1)
    else
      match sqrtRat (m * m * (d * d * d)) (4 * c * c * (n * n * n)) (2 * f - 3 * e) with
      | .fin _ n' d' e' => rne32 (.fin (!s) n' d' e', 0)
      | v => rne32 (v, 0)
  -- the square of a signed zero is +0.0, and so is −0.0 × √−0.0 (R217, IEEE 754)
  | a, ta => rne32 (divR217 ta.neg (match a with | .fin _ 0 _ _ => .zero false | v => v))

/-- ta / (2 × √a), a not below zero. -/
def tanSqrt (a ta : Val) : Nat × FlagSet :=
  match a, ta with
  | .fin false n d e, .fin s m c f =>
    if n = 0 ∨ m = 0 then rne32 (divR217 ta a)
    else
      match sqrtRat (m * m * d) (4 * c * c * n) (2 * f - e) with
      | .fin _ n' d' e' => rne32 (.fin s n' d' e', 0)
      | v => rne32 (v, 0)
  | a, ta => rne32 (divR217 ta a)

/-- (1 − tanh² a) × ta. -/
def tanTanh (a ta : Val) : Nat × FlagSet :=
  match a with
  | .fin _ n0 d0 e0 =>
    if n0 = 0 then rne32 (ta, 0)
    else
      let c := cut1024 n0 d0 e0
      tangentReal ta (fun p =>
        let x := expRat p false c.1 1 (c.2.2 + 1)
        let y := Iv.add p x (Iv.nat 1)
        Iv.div p (Iv.mul p (Iv.nat 4) x) (Iv.mul p y y))
  | _ => rne32 (Val.mul (.zero false) ta)

/-- σ(a) × (1 − σ(a)) × ta. -/
def tanSigm (a ta : Val) : Nat × FlagSet :=
  match a with
  | .fin s n0 d0 e0 =>
    if n0 = 0 then rne32 (Val.mul (.fin false 1 1 (-2)) ta)
    else
      let c := cut1024 n0 d0 e0
      tangentReal ta (fun p =>
        let x := expRat p (!s) c.1 1 c.2.2
        let y := Iv.add p x (Iv.nat 1)
        Iv.div p x (Iv.mul p y y))
  | _ => rne32 (Val.mul (.zero false) ta)

/-! Twiddles of R254: cos(2πt/b) and sin(2πt/b), rounded to FP32. -/

/-- Alternating series of arctangent 1/x in fixed point: positive terms minus negative terms. -/
def atanInv (p x : Nat) : Nat → Nat → Nat → Int
  | 0, _, _ => 0
  | n + 1, k, t => (if k % 2 = 0 then ((t / (2 * k + 1) : Nat) : Int) else -((t / (2 * k + 1) : Nat) : Int)) + atanInv p x n (k + 1) (t / (x * x))

/-- π with `p` fraction bits, within `p` units either way (Machin's formula). -/
def piFix (p : Nat) : Nat :=
  (16 * atanInv p 5 (p / 4 + 8) 0 (2 ^ p / 5) - 4 * atanInv p 239 (p / 4 + 8) 0 (2 ^ p / 239)).toNat

/-- Alternating series of cosine (k from 0) or sine (k from 1): the term t is followed by t × u / ((k+1)(k+2)). -/
def trigTerms (p u : Nat) : Nat → Nat → Nat → Bool → Int
  | 0, _, _, _ => 0
  | n + 1, k, t, neg =>
    (if neg then -(t : Int) else t) + trigTerms p u n (k + 2) (t * u / (2 ^ p * ((k + 1) * (k + 2)))) (!neg)

/-- cos or sin of 2π × t / b for an angle of at most an eighth turn, as an interval. -/
def trigIv (isSin : Bool) (t b p : Nat) : Iv :=
  let th := 2 * piFix p * t / b
  let u := (th * th) >>> p
  let s := (if isSin then trigTerms p u (p / 3 + 8) 1 th false else trigTerms p u (p / 3 + 8) 0 (2 ^ p) false).toNat
  ⟨s - 40 * p, s + 40 * p, -p⟩

/-- cos(2πt/b) as FP32, t below b, b a power of two from 4; by symmetry brought to the first eighth turn. -/
def twCos (t b : Nat) : Nat :=
  let q := 4 * t / b
  let r := 4 * t % b
  -- angle within the quadrant is r/(4b) of a turn; odd quadrants exchange sine and cosine
  let useSin : Bool := decide (q % 2 = 1)
  let neg : Bool := decide (q = 1 ∨ q = 2)
  if r = 0 then (if useSin then 0 else (plain32 (.fin neg 1 1 0)).1)
  else
    let small : Bool := decide (2 * r ≤ b)
    let r' := if small then r else b - r
    (roundReal .fp32 0 neg (trigIv (useSin == small) r' (4 * b))).1

/-- sin(2πt/b) as FP32. -/
def twSin (t b : Nat) : Nat := twCos ((t + b - b / 4) % b) b

end Sys2Proof.Machine
end

