-- ==== Sys2Proof/Machine/Beats.lean ====
section
/-! DEFINITION. Beats (R274, R277): how an operation reads the lanes of an operand, the decoders of operand lines (R276), and the
results of compute elements (R279 to R287, R309, R310, R401). -/

namespace Sys2Proof.Machine

/-! ## Reading a beat -/

/-- Plane `p` of a beat. -/
def Beat.v (b : Beat) : Nat → BitVec 128
  | 0 => b.v0
  | 1 => b.v1
  | 2 => b.v2
  | _ => b.v3
/-- Lane `i` of plane `p`. -/
def Beat.lane (b : Beat) (p i : Nat) : Nat := bits (b.v p).toNat (32 * i + 31) (32 * i)
/-- The scale q of plane `p` (R277). -/
def Beat.q (b : Beat) (p : Nat) : Int := (bits b.scale (10 * p + 9) (10 * p) : Int) - 508
/-- The entry comes from a decoding line. -/
def Beat.decoded (b : Beat) : Bool := decide (b.fmt % 64 ≠ 32)
/-- The domain tag of a decoded entry (R401). -/
def Beat.dom (b : Beat) : Option Nat := if b.decoded then some (b.fmt / 64) else none
/-- Four lanes as 128 bits. -/
def ofQuad (l : List Nat) : BitVec 128 := BitVec.ofNat 128 (packCodes 32 l)
/-- A beat of planes of four lanes. -/
def Beat.of (ps : List (List Nat)) (mark : Nat) : Beat :=
  { v0 := ofQuad (ps.getD 0 []), v1 := ofQuad (ps.getD 1 []), v2 := ofQuad (ps.getD 2 []), v3 := ofQuad (ps.getD 3 []),
    mark := mark, scale := plainScale, fmt := 32, new := true }

/-- How lanes are read and written: the TYPE codes of R172. -/
abbrev CeType := Nat
/-- An integer type. -/
def intType (t : CeType) : Bool := decide (t = 3 ∨ t = 4 ∨ t = 5)
/-- Bits of an integer type. -/
def intBits (t : CeType) : Nat := if t = 3 then 32 else if t = 4 then 16 else 8
/-- The format of a floating-point type. -/
def floatFmt (t : CeType) : Fmt := if t = 1 then Fmt.fp16 else if t = 2 then Fmt.bf16 else Fmt.fp32

/-- The value of an lg lane (R284). -/
def lgVal (w : Nat) : Val :=
  if bit w 30 then .zero (bit w 31) else powLg (if bit w 29 then 8 else 4) (bit w 31) (sint 21 w)

/-- Lane `i` read as an lg lane (R284) beside the same lane of another operand. A void entry is zero (R276); which of G it has the spec
leaves open, and it takes the other operand's (DESIGN CHOICE, log entry 99). -/
def Beat.lg (b other : Beat) (i : Nat) : Nat :=
  if b.mark = 3 then 2 ^ 30 + b2n (bit (other.lane 0 i) 29) * 2 ^ 29 else b.lane 0 i

/-- The lane in the form of its line or, on a raw line, of TYPE (R276, R279), without its scale. -/
def Beat.raw (b : Beat) (t : CeType) (p i : Nat) : Val :=
  let w := b.lane p i
  let f := b.fmt % 64
  if f = 32 then
    if intType t then Val.ofInt (sint (intBits t) w) else if t = 7 then (if b.mark = 3 then .zero false else lgVal w) else (floatFmt t).decode (w % 2 ^ (floatFmt t).width)
  else if f ∈ [10, 11, 12, 13] then Val.ofInt (sint 32 w)
  else if f ∈ [8, 9, 17] then lgVal w
  else f32 w

/-- Multiply an exact value by POW4(q) (R277). -/
def scaled (x : FVal) (q : Int) : FVal := if q = 0 then x else x.bind (fun v => Val.mul v (pow4 q))
/-- The value of an operand's lane: v × POW4(q) (R277). -/
def Beat.val (b : Beat) (t : CeType) (p i : Nat) : Val := (scaled (b.raw t p i, 0) (b.q p)).1

/-- An exact product of two lanes with both scales applied once (R277, R129). -/
def laneProd (a b : Beat) (t : CeType) (p i p' i' : Nat) : FVal := scaled (Val.mul (a.raw t p i) (b.raw t p' i')) (a.q p + b.q p')

/-! ## Writing a lane -/

/-- The integer nearest to an exact value, 0 for a value that is not finite. -/
def Val.toInt : Val → Int
  | .fin s n d e =>
    let x := if 0 ≤ e then rquot 0 s (n * 2 ^ e.toNat) d else rquot 0 s n (d * 2 ^ (-e).toNat)
    if s then -(x.1 : Int) else x.1
  | _ => 0

/-- An integer as a lane of an integer type: wrapped, sign-extended (R279). -/
def intLane (t : CeType) (i : Int) : Nat := wrap32 (sint (intBits t) (i % 2 ^ intBits t).toNat)

/-- Write an exact result as a lane of TYPE, one rounding in RM (R279). -/
def putLane (t : CeType) (rm : Nat) (x : FVal) : LaneRes :=
  if intType t then (intLane t x.1.toInt, 0)
  else
    let r := (floatFmt t).encode rm x.1
    (r.1, x.2 ||| r.2)

/-- The tangent of lane `i` in plane `p` without its scale (R307, R310): lg lanes carry none (R284); a decoded integer line delivers integers (R276). -/
def Beat.tanRaw (b : Beat) (p i : Nat) : Val :=
  let f := b.fmt % 64
  if f ∈ [8, 9, 17] then .zero false
  else if f ∈ [10, 11, 12, 13] then Val.ofInt (sint 32 (b.lane p i))
  else f32 (b.lane p i)
/-- The tangent of lane `i` in plane `p`, with the entry's scale (R277, R307, R310). -/
def Beat.tan (b : Beat) (p i : Nat) : Val := (scaled (b.tanRaw p i, 0) (b.q p)).1

/-- The primal result of a floating-point TYPE is NaN. -/
def nanLane (t : CeType) (w : Nat) : Bool := !intType t && decide (t ≠ 7) && ((floatFmt t).decode (w % 2 ^ (floatFmt t).width)).isNan

/-- A tangent lane by R217: NaN when the primal is, +0.0 when every tangent input is a zero, else the formula with one rounding
by RNE, always as FP32 (R307, R310). -/
def tanLane (nan : Bool) (ins : List Val) (f : Unit → FVal) : LaneRes :=
  if nan then (nan32, 0) else if ins.all Val.isZero then (0, 0) else rne32 (f ())

/-- A result beat: lanes of plane 0, and of planes 1 to `k` from the primal lanes. -/
def mkBeat (k : Nat) (f : Nat → LaneRes) (g : Nat → Nat → Nat → LaneRes) : Beat × FlagSet :=
  let ps := (List.range 4).map f
  let ts := (List.range k).map (fun p => (List.range 4).map (fun i => g (p + 1) i (ps.getD i (0, 0)).1))
  (Beat.of ((ps :: ts).map (fun l => l.map Prod.fst)) 0, orAll ((ps :: ts).flatMap (fun l => l.map Prod.snd)))

/-- A beat whose tangents are zero. -/
def plainBeat (f : Nat → LaneRes) : Beat × FlagSet := mkBeat 0 f (fun _ _ _ => (0, 0))

/-! ## Decoders (R276) -/

/-- Bits of a group: four elements, or two complex ones. -/
def groupBits (f : Nat) : Nat := if f = 18 ∨ f = 19 then 64 else 4 * fmtWidth f
/-- Elements of a group. -/
def groupSize (f : Nat) : Nat := if f = 18 ∨ f = 19 then 2 else 4

/-- One element as its lanes: FP32 of the unscaled value, INT32, an FP32 pair, or an lg lane (R276). -/
def decodeElem (f : Nat) (q : Int) (c : Nat) : List Nat :=
  if f ∈ [10, 11, 12, 13] then [wrap32 (intOf f c)]
  else if f = 18 ∨ f = 19 then [(Fmt.fp32.encode 0 (cpart f c 0)).1, (Fmt.fp32.encode 0 (cpart f c 1)).1]
  else if f = 8 ∨ f = 9 ∨ f = 17 then
    let w : Nat := if f = 9 then 7 else 5
    let m := c % 2 ^ w
    [b2n (bit c w) * 2 ^ 31 + (if f = 9 then 2 ^ 29 else 0) + if m = 0 then 2 ^ 30 else
        (((m : Int) - (if f = 9 then 64 else 16) + (if f = 17 then q else 0)) % 2 ^ 21).toNat]
  else match Fmt.ofCode f with
    | some x => [(Fmt.fp32.encode 0 (x.decode c)).1]
    | none => [0]

/-- Header of plane `p`. -/
def Dec.head (d : Dec) : Nat → Nat
  | 0 => (d.hdr.getD 0).toNat
  | 1 => d.h1.toNat
  | 2 => d.h2.toNat
  | _ => d.h3.toNat
/-- Payload buffer of plane `p`. -/
def Dec.pay (d : Dec) : Nat → Nat
  | 0 => d.buf.toNat
  | 1 => d.buf1.toNat
  | 2 => d.buf2.toNat
  | _ => d.buf3.toNat

/-- The lanes of the next group in plane `p`, zero beyond the last element (R276, R131). -/
def Dec.groupLanes (d : Dec) (p : Nat) : List Nat :=
  let h := d.head p
  let f := bits h 4 0
  let n := groupSize f
  let q : Int := if isBlockFmt f then (bits h 16 7 : Int) - 508 else 0
  (List.range n).flatMap (fun j =>
    if d.group * n + j < bits h 38 33 then decodeElem f q (d.pay p / 2 ^ (j * fmtWidth f) % 2 ^ fmtWidth f)
    else if f = 18 ∨ f = 19 then [0, 0]
    else if f = 8 ∨ f = 17 then [2 ^ 30] else if f = 9 then [2 ^ 30 + 2 ^ 29] else [0])

/-- The entry that a decoding line shifts in for the next group. -/
def Dec.entry (d : Dec) (k : Nat) : Beat :=
  let ps := (List.range (k + 1)).map d.groupLanes
  let h := d.head 0
  let f := bits h 4 0
  let sc (p : Nat) : Nat :=
    let g := bits (d.head p) 4 0
    if isBlockFmt g ∧ g ≠ 17 ∧ p ≤ k then bits (d.head p) 16 7 else 508
  { Beat.of ps 0 with
    scale := sc 0 + 2 ^ 10 * sc 1 + 2 ^ 20 * sc 2 + 2 ^ 30 * sc 3, fmt := f + 64 * bits h 6 5 }

/-- The void entry. -/
def voidBeat : Beat := { Beat.zero with mark := 3 }

/-- Groups of the current packet. -/
def Dec.groups (d : Dec) : Nat := let h := d.head 0; (bits h 38 33 + groupSize (bits h 4 0) - 1) / groupSize (bits h 4 0)

/-- What is wrong with the form of a header, with the load's k (R400): code, OP0, OP1, OP2. -/
def headerForm (site k h : Nat) : Option UFault :=
  if 0x14 ≤ bits h 4 0 ∨ bits h 6 5 = 3 ∨ bits h 38 33 = 0 ∨ 32 < bits h 38 33 ∨ k < bits h 40 39
      ∨ (bits h 32 29 ≠ 0 ∧ bits h 6 5 = 0) then some (9, h, 0, site)
  else none
/-- What is wrong with a header at a site that takes its scale (R128, R400). -/
def headerFault (site k h : Nat) : Option UFault :=
  (headerForm site k h).or (if bits h 16 7 = 0x3FF then some (0x1A, h, 0, site) else none)

/-- Bits of plane `p` in its payload buffer: those of plane 0, by what each plane's groups have taken of the same beats (R309). -/
def Dec.held (d : Dec) (p : Nat) : Nat :=
  d.fill + d.group * groupBits (bits (d.head 0) 4 0) - d.group * groupBits (bits (d.head p) 4 0)

/-- What a decoding line does in a step in which it would shift (R276): its decoder, the entry shifted in (none while a header is
taken), and a fault (R399, R400). -/
def Dec.step (d : Dec) (site k : Nat) (v : Beat) : Dec × Option Beat × Option UFault :=
  if v.new ∧ v.mark = 1 then
    match (List.range (k + 1)).findSome? (fun p => headerFault site k ((v.v p).toNat % 2 ^ 64)) with
    | some f => (d, none, some f)
    | none =>
      ({ d with hdr := some (v.v0.setWidth 64), h1 := v.v1.setWidth 64, h2 := v.v2.setWidth 64, h3 := v.v3.setWidth 64, buf := 0, buf1 := 0,
                buf2 := 0, buf3 := 0, fill := 0, group := 0 }, none, none)
  else
    let pay := v.new && decide (v.mark = 2)
    if pay ∧ d.hdr.isNone then (d, none, some (7, v.v0.toNat % 2 ^ 64, d.tag, site))
    else if pay ∧ d.group = 0 ∧ d.fill = 0 ∧ bits (d.head 0) 28 17 ≠ d.tag then (d, none, some (7, d.head 0, d.tag, site))
    else if pay ∧ (List.range (k + 1)).any (fun p => decide (256 < d.held p + 128)) then (d, none, some (7, v.v0.toNat % 2 ^ 64, d.tag, site))
    else
      let app (b : BitVec 256) (x : BitVec 128) (p : Nat) : BitVec 256 := b ||| (x.setWidth 256 <<< d.held p)
      let d := if pay then
          { d with buf := app d.buf v.v0 0, buf1 := app d.buf1 v.v1 1, buf2 := app d.buf2 v.v2 2, buf3 := app d.buf3 v.v3 3, fill := d.fill + 128 }
        else d
      let f := bits (d.head 0) 4 0
      let n := d.groups
      if d.hdr.isNone ∨ n ≤ d.group then (d, some voidBeat, none)
      else
        let left := bits (d.head 0) 38 33 - d.group * groupSize f
        let need := Nat.min (groupBits f) (left * fmtWidth f)
        if d.fill < need then (d, some voidBeat, none)
        else
          let e := d.entry k
          let last := decide (d.group + 1 = n)
          let w (p : Nat) : Nat := groupBits (bits (d.head p) 4 0)
          ({ d with buf := d.buf >>> w 0, buf1 := d.buf1 >>> w 1, buf2 := d.buf2 >>> w 2, buf3 := d.buf3 >>> w 3, group := d.group + 1,
                    fill := if last then 0 else d.fill - w 0, tag := if last then (d.tag + 1) % 4096 else d.tag }, some e, none)

end Sys2Proof.Machine
end

