-- ==== Sys2Proof/Machine/CeOps.lean ====
section
/-! DEFINITION. Results of the compute-element operations (R279 to R287, R401), and what every operation has in common: squashed
slots, domains, landing (R30, R280). -/

namespace Sys2Proof.Machine

/-! ## Landing a result -/

/-- The tangent count of the load whose element acts (R309). -/
def State.ceK (s : State) : Nat := match s.active s.el.reg with | some x => x.2.k | none => 0

/-- A freeze-class fault of the element that acts. -/
def State.elFault (s : State) (f : UFault) : State := s.freezeFault s.el.reg s.el.isl s.el.pos f.1 f.2.1 f.2.2.1 f.2.2.2

/-- A result starts toward its landing `lat` steps later (R30, R280); with DMODE 3 only its flags come about. -/
def State.ceIssue (s : State) (lat dmode : Nat) (x : Beat × FlagSet) : State :=
  let s := s.loadFlags s.el.reg x.2
  if dmode = 3 then s else s.modEl s.el.pos (fun e => { e with res := e.res ++ [⟨lat, dmode, x.1⟩] })

/-- How an operation may read frequency-tagged entries (R401): not at all, additively, as multiplicands with a raw one, or in
complex products. -/
inductive DomRule where
  | none | both | mul | freq
deriving DecidableEq, Repr

/-- The domain fault of an operation that reads the operands `l`, each with its line number (R400, R401). -/
def domFault (r : DomRule) (l : List (Nat × Beat)) : Option UFault :=
  let tags := l.filterMap (fun x => x.2.dom.map (fun d => (x.1, d, x.2)))
  match tags with
  | [] => none
  | t :: _ =>
    match tags.find? (fun x => decide (x.2.1 ≠ t.2.1)) with
    | some x => some (8, x.2.2.lane 0 0, t.2.1, x.1)
    | none =>
      let ok : Bool :=
        if t.2.1 = 0 then true
        else match r with
          | .none => false
          | .both => true
          | .mul => if t.2.1 = 1 then true else decide (((l.take 2).filter (fun x => x.2.decoded)).length < 2)
          | .freq => decide (t.2.1 = 1)
      if ok then none else some (8, t.2.2.lane 0 0, 0, t.1)

/-- AN OPERATION OF A COMPUTE ELEMENT: nothing in a squashed slot (R30); a domain fault freezes the load and gives no result
(R401); else its result. -/
def State.ceOp (s : State) (r : DomRule) (l : List (Nat × Beat)) (lat dmode : Nat) (f : Unit → Beat × FlagSet) : State :=
  if s.el.squash then s
  else match domFault r l with
    | some x => s.elFault x
    | none => s.ceIssue lat dmode (f ())

/-- The operands a; a and b; a, b and c, with their lines. -/
def State.opA (s : State) : List (Nat × Beat) := [(0, s.el.a)]
/-- Operands a and b. -/
def State.opAB (s : State) : List (Nat × Beat) := [(0, s.el.a), (1, s.el.b)]
/-- Operands of a shift: b is none of them where IMM[5] gives the amount (R281). -/
def State.opShift (s : State) (i : Nat) : List (Nat × Beat) := if bit i 5 then s.opA else s.opAB
/-- Operands a, b and c. -/
def State.opABC (s : State) : List (Nat × Beat) := [(0, s.el.a), (1, s.el.b), (2, s.el.c)]

/-! ## Lane operations (R281, R282) -/

/-- a + b, or a − b. -/
def ceAddR (k : Nat) (t : CeType) (rm : Nat) (sub : Bool) (a b : Beat) : Beat × FlagSet :=
  let sg (v : Val) : Val := if sub then v.neg else v
  mkBeat k (fun i => putLane t rm (Val.add rm (a.val t 0 i) (sg (b.val t 0 i))))
    (fun p i w => tanLane (nanLane t w) [a.tan p i, b.tan p i] (fun _ => Val.add 0 (a.tan p i) (sg (b.tan p i))))

/-- The tangent of a product: ta × b + a × tb (R281). -/
def prodTan (a b : Beat) (t : CeType) (p i : Nat) : List FVal :=
  [scaled (Val.mul (a.tanRaw p i) (b.raw t 0 i)) (a.q p + b.q 0), scaled (Val.mul (a.raw t 0 i) (b.tanRaw p i)) (a.q 0 + b.q p)]

/-- a × b. -/
def ceMulR (k : Nat) (t : CeType) (rm : Nat) (a b : Beat) : Beat × FlagSet :=
  mkBeat k (fun i => putLane t rm (laneProd a b t 0 i 0 i))
    (fun p i w => tanLane (nanLane t w) [a.tan p i, b.tan p i] (fun _ => FVal.total 0 (prodTan a b t p i)))

/-- a × b + c, or c − a × b, with one rounding. -/
def ceFmaR (k : Nat) (t : CeType) (rm : Nat) (neg : Bool) (a b c : Beat) : Beat × FlagSet :=
  let sg (v : FVal) : FVal := if neg then v.neg else v
  mkBeat k (fun i => putLane t rm ((sg (laneProd a b t 0 i 0 i)).bind (fun x => Val.add rm x (c.val t 0 i))))
    (fun p i w => tanLane (nanLane t w) [a.tan p i, b.tan p i, c.tan p i]
      (fun _ => FVal.total 0 ((prodTan a b t p i).map sg ++ [(c.tan p i, 0)])))

/-- x lies below y, −0.0 below +0.0 (R282). -/
def Val.below (x y : Val) : Bool := x.lt y || (x.eq y && x.sign && !y.sign)

/-- A lane passed on: its bits where it has no scale, else its value (R277). -/
def Beat.pass (b : Beat) (t : CeType) (p i : Nat) : LaneRes := if b.q p = 0 then (b.lane p i, 0) else putLane t 0 (b.val t p i, 0)

/-- Lesser or greater of a and b (R282). -/
def ceMinR (k : Nat) (t : CeType) (max : Bool) (a b : Beat) : Beat × FlagSet :=
  let takesB (i : Nat) : Bool := let x := a.val t 0 i; let y := b.val t 0 i; if max then x.below y else y.below x
  mkBeat k (fun i => if (a.val t 0 i).isNan ∨ (b.val t 0 i).isNan then ((putLane t 0 (.nan, 0)).1, 0)
      else putLane t 0 (if takesB i then b.val t 0 i else a.val t 0 i, 0))
    (fun p i w => tanLane (nanLane t w) [a.tan p i, b.tan p i] (fun _ => (if takesB i then b.tan p i else a.tan p i, 0)))

/-- Magnitude or negation; the most negative integer saturates (R281). -/
def ceAbsR (k : Nat) (t : CeType) (neg : Bool) (a : Beat) : Beat × FlagSet :=
  let flips (i : Nat) : Bool := neg || (a.val t 0 i).sign
  mkBeat k (fun i =>
      let v := a.val t 0 i
      if intType t ∧ v.toInt = -(2 ^ (intBits t - 1) : Int) then (2 ^ (intBits t - 1) - 1, fSat)
      else putLane t 0 (if flips i then v.neg else v, 0))
    (fun p i w => tanLane (nanLane t w) [a.tan p i] (fun _ => (if flips i then (a.tan p i).neg else a.tan p i, 0)))

/-- RELU. -/
def ceReluR (k : Nat) (t : CeType) (a : Beat) : Beat × FlagSet :=
  let up (i : Nat) : Bool := (Val.zero false).lt (a.val t 0 i)
  mkBeat k (fun i => let v := a.val t 0 i; if v.isNan ∨ up i = true then putLane t 0 (v, 0) else (0, 0))
    (fun p i w => tanLane (nanLane t w) [if up i then a.tan p i else .zero false] (fun _ => (a.tan p i, 0)))

/-- Bitwise operations, on every plane (R221). -/
def ceBitR (k : Nat) (f : BitVec 128 → BitVec 128 → BitVec 128) (a b : Beat) : Beat × FlagSet :=
  let pl (p : Nat) : BitVec 128 := if p ≤ k then f (a.v p) (b.v p) else 0
  ({ Beat.of [] 0 with v0 := pl 0, v1 := pl 1, v2 := pl 2, v3 := pl 3 }, 0)

/-- Shifts: kind 0 left, 1 right logical, 2 right arithmetic; the count from IMM or lane b. -/
def ceShiftR (t : CeType) (kind imm : Nat) (a b : Beat) : Beat × FlagSet :=
  plainBeat (fun i =>
    let w := intBits t
    let n := if bit imm 5 then imm % 32 else b.lane 0 i % 32
    let x := (a.val t 0 i).toInt
    let u := (x % 2 ^ w).toNat
    (match kind with
      | 0 => intLane t (if w ≤ n then 0 else ((u * 2 ^ n : Nat) : Int))
      | 1 => intLane t (if w ≤ n then 0 else ((u / 2 ^ n : Nat) : Int))
      | _ => intLane t (x / 2 ^ n), 0))

/-- Compares: all ones or zero (R282). -/
def ceCmpR (t : CeType) (f : Val → Val → Bool) (a b : Beat) : Beat × FlagSet :=
  plainBeat (fun i => (if f (a.val t 0 i) (b.val t 0 i) then 0xFFFFFFFF else 0, 0))

/-- The tangent of a lane passed on, with the first cases of R217. -/
def Beat.passTan (b : Beat) (nan : Bool) (p i : Nat) : LaneRes := tanLane nan [b.tan p i] (fun _ => (b.tan p i, 0))

/-- SEL: a where lane c is not zero, else b, tangents with it; a NaN is the canonical one (R123, R279). -/
def ceSelR (k : Nat) (t : CeType) (a b c : Beat) : Beat × FlagSet :=
  let pick (i : Nat) : Beat := if c.lane 0 i ≠ 0 then a else b
  mkBeat k (fun i => putLane t 0 ((pick i).val t 0 i, 0))
    (fun p i w => tanLane (nanLane t w) [a.tan p i, b.tan p i] (fun _ => ((pick i).tan p i, 0)))

/-- CVT to target `c`: 0 f32, 1 f16, 2 bf16, 3 i32 (R287). -/
def ceCvtR (k : Nat) (t : CeType) (rm c : Nat) (a : Beat) : Beat × FlagSet :=
  mkBeat k (fun i => let v := a.val t 0 i; if c = 3 then (Fmt.int 32 true).encode rm v else putLane c rm (v, 0))
    (fun p i w => if c = 3 ∨ t = 7 then (0, 0) else a.passTan (nanLane c w) p i)

/-- HSUM (R281). -/
def ceHsumR (k : Nat) (t : CeType) (rm : Nat) (a : Beat) : Beat × FlagSet :=
  let tree (t : CeType) (rm : Nat) (v : Nat → Val) : LaneRes :=
    let rd (w : Nat) : Val := if intType t then Val.ofInt (sint 32 w) else f32 w
    let x := putLane t rm (Val.add rm (v 0) (v 2))
    let y := putLane t rm (Val.add rm (v 1) (v 3))
    let z := putLane t rm (Val.add rm (rd x.1) (rd y.1))
    (z.1, x.2 ||| y.2 ||| z.2)
  mkBeat k (fun i => if i = 0 then tree t rm (a.val t 0) else (0, 0))
    (fun p i w => if i ≠ 0 then (0, 0) else if nanLane t w then (nan32, 0)
      else if (List.range 4).all (fun j => (a.tan p j).isZero) then (0, 0) else tree 0 0 (a.tan p))

/-- HMAX: the lane kept; the lower on ties (R281, R282). -/
def ceHmaxR (k : Nat) (t : CeType) (a : Beat) : Beat × FlagSet :=
  let v := a.val t 0
  let up (i j : Nat) : Nat := if (v i).below (v j) ∨ (i > j ∧ ¬ (v j).below (v i)) then j else i
  let kept := up (up 0 2) (up 1 3)
  let nan := (List.range 4).any (fun i => (v i).isNan)
  mkBeat k (fun i => if i ≠ 0 then (0, 0) else putLane t 0 (if nan then .nan else v kept, 0))
    (fun p i w => if i ≠ 0 then (0, 0) else tanLane (nanLane t w) ((List.range 4).map (a.tan p)) (fun _ => (a.tan p kept, 0)))

/-- A real function with its tangent (R226). -/
def ceFnR (k : Nat) (f : Val → LaneRes) (g : Val → Val → LaneRes) (a : Beat) : Beat × FlagSet :=
  mkBeat k (fun i => f (a.val 0 0 i))
    (fun p i w => tangentLane w [(rne32 (a.tan p i, 0)).1] (fun _ => g (a.val 0 0 i) (a.tan p i)))

/-! ## Complex and log operations (R283, R284) -/

/-- A factor of a complex product: the lane of plane 0, or its tangent in plane `p` (R283, R307, R310). -/
def Beat.factor (b : Beat) (p i : Nat) : Val := if p = 0 then b.raw 6 0 i else b.tanRaw p i
/-- The product of a lane of `a` in plane `p` and a lane of `b` in plane `p'`, with both scales applied once (R277, R283). -/
def partProd (a b : Beat) (p i p' i' : Nat) : FVal := scaled (Val.mul (a.factor p i) (b.factor p' i')) (a.q p + b.q p')

/-- CMUL, or CMAC with an addend (R283). -/
def ceCmulR (k rm : Nat) (a b : Beat) (c : Option Beat) : Beat × FlagSet :=
  let part (i p p' : Nat) : List FVal :=
    let e := i / 2 * 2
    if i % 2 = 0 then [partProd a b p e p' e, (partProd a b p (e + 1) p' (e + 1)).neg]
    else [partProd a b p e p' (e + 1), partProd a b p (e + 1) p' e]
  let add (p i : Nat) : List FVal := match c with
    | some x => [(if p = 0 then x.val 6 0 i else x.tan p i, 0)]
    | none => []
  mkBeat k (fun i => toF32 rm (FVal.total rm (add 0 i ++ part i 0 0)))
    (fun p i w =>
      let e := i / 2 * 2
      tanLane (f32 w).isNan ([a.tan p e, a.tan p (e + 1), b.tan p e, b.tan p (e + 1)] ++ (add p i).map Prod.fst)
        (fun _ => FVal.total 0 (part i p 0 ++ part i 0 p ++ add p i)))

/-- CCONJ. -/
def ceConjR (k : Nat) (a : Beat) : Beat × FlagSet :=
  let sg (i : Nat) (v : Val) : Val := if i % 2 = 1 then v.neg else v
  mkBeat k (fun i => putLane 0 0 (sg i (a.val 6 0 i), 0))
    (fun p i w => tanLane (f32 w).isNan [a.tan p i] (fun _ => (sg i (a.tan p i), 0)))

/-- What is wrong with a pair of lg lanes (R284, R400). -/
def lgFault (x y : Nat) : Option UFault :=
  if bits x 28 21 ≠ 0 then some (9, x, 0, 0)
  else if bits y 28 21 ≠ 0 then some (9, y, 0, 1)
  else if bit x 29 ≠ bit y 29 then some (9, y, b2n (bit x 29), 1)
  else
    let q := sint 21 x + sint 21 y
    if ¬ bit x 30 ∧ ¬ bit y 30 ∧ (q < -(2 ^ 20 : Int) ∨ (2 ^ 20 : Int) - 1 < q) then some (9, x, 0, 0) else none

/-- A raw lane read as lg with reserved bits set (R284, R400). -/
def lgReserved (a : Beat) : Option UFault :=
  if a.decoded ∨ a.mark = 3 then none
  else (List.range 4).findSome? (fun i => if bits (a.lane 0 i) 28 21 ≠ 0 then some (9, a.lane 0 i, 0, 0) else none)

/-- The first fault among the four lane pairs. -/
def lgFaults (a b : Beat) : Option UFault := (List.range 4).findSome? (fun i => lgFault (a.lg b i) (b.lg a i))

/-- The product of two lg lanes as an lg lane. -/
def lgMul (x y : Nat) : Nat :=
  let z := bit x 30 || bit y 30
  if z then 2 ^ 30 + b2n (bit x 29) * 2 ^ 29
  else b2n (bit x 31 != bit y 31) * 2 ^ 31 + b2n (bit x 29) * 2 ^ 29 + ((sint 21 x + sint 21 y) % 2 ^ 21).toNat

/-- The value of the product of two lg lanes: 0 where either is zero. -/
def lgProdVal (x y : Nat) : FVal := (if bit x 30 || bit y 30 then .zero false else lgVal (lgMul x y), 0)

/-- A log operation: format faults freeze the load (R284). -/
def State.lgOp (s : State) (l : List (Nat × Beat)) (lat dmode : Nat) (f : Unit → Beat × FlagSet) : State :=
  if s.el.squash then s
  else match lgFaults s.el.a s.el.b with
    | some x => s.elFault x
    | none => s.ceOp .none l lat dmode f

/-- LMUL. -/
def ceLmulR (a b : Beat) : Beat × FlagSet := plainBeat (fun i => (lgMul (a.lg b i) (b.lg a i), 0))

/-- LMAC: FP32 lanes. -/
def ceLmacR (k rm : Nat) (a b c : Beat) : Beat × FlagSet :=
  mkBeat k (fun i => toF32 rm ((lgProdVal (a.lg b i) (b.lg a i)).bind (fun x => Val.add rm (c.val 0 0 i) x)))
    (fun p i w => tanLane (f32 w).isNan [c.tan p i] (fun _ => (c.tan p i, 0)))

/-- LDOT4: FP32 lane 0. -/
def ceLdotR (k rm : Nat) (a b c : Beat) : Beat × FlagSet :=
  mkBeat k (fun i => if i ≠ 0 then (0, 0)
      else toF32 rm (FVal.total rm ((c.val 0 0 0, 0) :: (List.range 4).map (fun j => lgProdVal (a.lg b j) (b.lg a j)))))
    (fun p i w => if i ≠ 0 then (0, 0) else tanLane (f32 w).isNan [c.tan p 0] (fun _ => (c.tan p 0, 0)))

/-! ## Row-tree merge (R285) -/

/-- The factor of a triple with maximum `x` under the maximum `m`. -/
def mergeFactor (rm : Nat) (x m : Val) : Val × FlagSet :=
  if x.eq m then (.one, 0)
  else if x.isInf ∨ m.isInf then (.zero false, 0)
  else let y := fnExp2 rm (Val.add 0 x m.neg).1; (f32 y.1, y.2)

/-- TMERGE (R285). -/
def ceTmergeR (k rm : Nat) (a b : Beat) : Beat × FlagSet :=
  let va := a.val 0 0
  let vb := b.val 0 0
  if (List.range 4).any (fun i => (va i).isNan || (vb i).isNan) then
    mkBeat k (fun _ => (nan32, 0)) (fun _ _ _ => (nan32, 0))
  else
    let fromB := (va 0).below (vb 0)
    let m := if fromB then vb 0 else va 0
    let t0 (p w : Nat) : LaneRes := tanLane (f32 w).isNan [a.tan p 0, b.tan p 0] (fun _ => (if fromB then b.tan p 0 else a.tan p 0, 0))
    if m = .inf true then
      mkBeat k (fun i => if i = 0 then (0xFF800000, 0) else (0, 0)) (fun p i w => if i = 0 then t0 p w else (0, 0))
    else
      let ea := mergeFactor rm (va 0) m
      let eb := mergeFactor rm (vb 0) m
      let sum (rm : Nat) (x y : Val) : FVal := FVal.total rm [Val.mul x ea.1, Val.mul y eb.1]
      let r := mkBeat k (fun i => if i = 0 then putLane 0 0 (m, 0) else toF32 rm (sum rm (va i) (vb i)))
        (fun p i w => if i = 0 then t0 p w else tanLane (f32 w).isNan [a.tan p i, b.tan p i] (fun _ => sum 0 (a.tan p i) (b.tan p i)))
      (r.1, r.2 ||| ea.2 ||| eb.2)

/-! ## Moves, indices, packets (R286) -/

/-- MOV: a with its mark and scale. -/
def ceMovR (k : Nat) (a : Beat) : Beat × FlagSet :=
  let pl (p : Nat) : BitVec 128 := if p ≤ k then a.v p else 0
  ({ a with v0 := pl 0, v1 := pl 1, v2 := pl 2, v3 := pl 3, fmt := 32, new := true }, 0)

/-- The tile counter chain j0 to j3 of island `n` at iteration `i` (R26, R29, R286). -/
def chainAt (m : Memory) (n i : Nat) : List Nat :=
  let n0 := islN m n 0
  let n1 := islN m n 1
  let n2 := islN m n 2
  [i % n0, i / n0 % n1, i / (n0 * n1) % n2, i / (n0 * n1 * n2)]

/-- IDX: the indices of iteration `i` in an island's counter chain. -/
def ceIdxR (m : Memory) (n i : Nat) : Beat × FlagSet :=
  plainBeat (fun j => ((chainAt m n i).getD j 0 % 2 ^ 32, 0))

/-- HDR: a header beat from a[63:0]; the tangent beats are that header with PLANE = p (R309; log entry 107). -/
def ceHdrR (k : Nat) (a : Beat) : Beat × FlagSet :=
  let h := a.v0.toNat % 2 ^ 64
  let pl (p : Nat) : BitVec 128 := BitVec.ofNat 128 (if p = 0 then h else if p ≤ k then h - bits h 40 39 * 2 ^ 39 + p * 2 ^ 39 else 0)
  ({ Beat.of [] 1 with v0 := pl 0, v1 := pl 1, v2 := pl 2, v3 := pl 3 }, 0)

/-- PAY: a as a payload beat. -/
def cePayR (k : Nat) (a : Beat) : Beat × FlagSet :=
  let x := mkBeat k (fun i => a.pass 0 0 i) (fun p i _ => a.pass 0 p i)
  ({ x.1 with mark := 2 }, x.2)

end Sys2Proof.Machine
end

