-- ==== Sys2Proof/Machine/CeExec.lean ====
section
/-! DEFINITION. Meanings of the compute-element operations (R281 to R287): one step of the element whose ring word acts, its operands
already selected by the tap word. -/

namespace Sys2Proof.Machine

open Sys2Proof

/-- Source number of a token from element `k` (R46). -/
def tokenSrc (k : Nat) : Nat := 32 + 2048 * elDie k + 32 * (elY k / 4) + elX k / 4

/-- A token of time `t`, source number `src` and core `c` to island `i` of region `n`: it arrives at the second edge of the island's clock from now (R37). -/
def State.islandTok (s : State) (n i t src c : Nat) : Tok :=
  ⟨.island n i, t, src, c, match s.active n with
    | some (r, l) => s.cycle (r.clock l i) + 2
    | none => 0⟩

/-- Send a token to the target that a target field names (R37, R289). -/
def State.sendToken (s : State) (n k target : Nat) : State :=
  match s.active n with
  | none => s
  | some (_, l) =>
    let i := bits target 61 56
    let time := s.dieNs (elDie k)
    let tok : Option Tok := match bits target 63 62 with
      | 1 => some (s.islandTok n i time (tokenSrc k) l.core)
      | 2 => some ⟨.port l.team (((s.team? l.team).map (fun t => t.cores.getD (bits target 55 51) 0)).getD 0) (i % 8), time, tokenSrc k, l.core, 0⟩
      | 3 => some ⟨.rv l.team i, time, tokenSrc k, l.core, 0⟩
      | _ => none
    { s with toks := s.toks ++ tok.toList }

/-- The tokens that the CEs of an island were to send in the step that begins (R286). -/
def State.sendToks (s : State) (n : Nat) (l : Load) (ks : List Nat × (Nat → Nat)) : State :=
  (ks.1.filter (fun k => (s.elem k).tok)).foldl (fun (s : State) k =>
    (s.modEl k (fun e => { e with tok := false })).sendToken n k (l.at (ks.2 k) 0x128 8)) s

/-- TEMIT (R286): `c` asks for lane 0 of a; the token leaves in the step after. -/
def State.temit (s : State) (c : Nat) : State :=
  if s.el.squash then s
  else match (if c = 1 then domFault .none s.opA else none) with
    | some x => s.elFault x
    | none =>
      if c = 1 ∧ s.el.a.lane 0 0 = 0 then s
      else s.modEl s.el.pos (fun e => { e with tok := true })

/-- IDX (R286). -/
def State.idx (s : State) (m : Nat) : State :=
  match s.active s.el.reg with
  | some x => s.ceOp .none [] 1 m (fun _ => ceIdxR x.2.img s.el.isl s.el.iter)
  | none => s

/-- CE_NOP: no output (R281). -/
def execCeNop (s : State) : Host.Outcome State Fault Refusal :=
  .next (s)

/-- CE_MOV: a with its mark and scale (R286). -/
def execCeMov (m : Nat) (s : State) : Host.Outcome State Fault Refusal :=
  .next (s.ceOp .both s.opA 1 m (fun _ => ceMovR s.ceK s.el.a))

/-- CE_ADD: a + b (R281). -/
def execCeAdd (t m r : Nat) (s : State) : Host.Outcome State Fault Refusal :=
  .next (s.ceOp .both s.opAB 2 m (fun _ => ceAddR s.ceK t r false s.el.a s.el.b))

/-- CE_SUB: a − b (R281). -/
def execCeSub (t m r : Nat) (s : State) : Host.Outcome State Fault Refusal :=
  .next (s.ceOp .both s.opAB 2 m (fun _ => ceAddR s.ceK t r true s.el.a s.el.b))

/-- CE_MUL: a × b (R281). -/
def execCeMul (t m r : Nat) (s : State) : Host.Outcome State Fault Refusal :=
  .next (s.ceOp .mul s.opAB 3 m (fun _ => ceMulR s.ceK t r s.el.a s.el.b))

/-- CE_FMA: a × b + c with one rounding (R281). -/
def execCeFma (t m r : Nat) (s : State) : Host.Outcome State Fault Refusal :=
  .next (s.ceOp .mul s.opABC 3 m (fun _ => ceFmaR s.ceK t r false s.el.a s.el.b s.el.c))

/-- CE_FMS: c − a × b with one rounding (R281). -/
def execCeFms (t m r : Nat) (s : State) : Host.Outcome State Fault Refusal :=
  .next (s.ceOp .mul s.opABC 3 m (fun _ => ceFmaR s.ceK t r true s.el.a s.el.b s.el.c))

/-- CE_MIN: the lesser (R282). -/
def execCeMin (t m : Nat) (s : State) : Host.Outcome State Fault Refusal :=
  .next (s.ceOp .none s.opAB 2 m (fun _ => ceMinR s.ceK t false s.el.a s.el.b))

/-- CE_MAX: the greater (R282). -/
def execCeMax (t m : Nat) (s : State) : Host.Outcome State Fault Refusal :=
  .next (s.ceOp .none s.opAB 2 m (fun _ => ceMinR s.ceK t true s.el.a s.el.b))

/-- CE_ABS: the magnitude (R281). -/
def execCeAbs (t m : Nat) (s : State) : Host.Outcome State Fault Refusal :=
  .next (s.ceOp .none s.opA 1 m (fun _ => ceAbsR s.ceK t false s.el.a))

/-- CE_NEG: the negation (R281). -/
def execCeNeg (t m : Nat) (s : State) : Host.Outcome State Fault Refusal :=
  .next (s.ceOp .none s.opA 1 m (fun _ => ceAbsR s.ceK t true s.el.a))

/-- CE_RELU: a where positive (R281). -/
def execCeRelu (t m : Nat) (s : State) : Host.Outcome State Fault Refusal :=
  .next (s.ceOp .none s.opA 1 m (fun _ => ceReluR s.ceK t s.el.a))

/-- CE_AND: bitwise and (R281). -/
def execCeAnd (m : Nat) (s : State) : Host.Outcome State Fault Refusal :=
  .next (s.ceOp .none s.opAB 1 m (fun _ => ceBitR s.ceK (· &&& ·) s.el.a s.el.b))

/-- CE_OR: bitwise or (R281). -/
def execCeOr (m : Nat) (s : State) : Host.Outcome State Fault Refusal :=
  .next (s.ceOp .none s.opAB 1 m (fun _ => ceBitR s.ceK (· ||| ·) s.el.a s.el.b))

/-- CE_XOR: bitwise exclusive or (R281). -/
def execCeXor (m : Nat) (s : State) : Host.Outcome State Fault Refusal :=
  .next (s.ceOp .none s.opAB 1 m (fun _ => ceBitR s.ceK (· ^^^ ·) s.el.a s.el.b))

/-- CE_SHL: shift left (R281). -/
def execCeShl (t m i : Nat) (s : State) : Host.Outcome State Fault Refusal :=
  .next (s.ceOp .none (s.opShift i) 1 m (fun _ => ceShiftR t 0 i s.el.a s.el.b))

/-- CE_SHR: logical shift right (R281). -/
def execCeShr (t m i : Nat) (s : State) : Host.Outcome State Fault Refusal :=
  .next (s.ceOp .none (s.opShift i) 1 m (fun _ => ceShiftR t 1 i s.el.a s.el.b))

/-- CE_SRA: arithmetic shift right (R281). -/
def execCeSra (t m i : Nat) (s : State) : Host.Outcome State Fault Refusal :=
  .next (s.ceOp .none (s.opShift i) 1 m (fun _ => ceShiftR t 2 i s.el.a s.el.b))

/-- CE_CMPEQ: a = b (R281, R282). -/
def execCeCmpeq (t m : Nat) (s : State) : Host.Outcome State Fault Refusal :=
  .next (s.ceOp .none s.opAB 1 m (fun _ => ceCmpR t Val.eq s.el.a s.el.b))

/-- CE_CMPLT: a < b (R281, R282). -/
def execCeCmplt (t m : Nat) (s : State) : Host.Outcome State Fault Refusal :=
  .next (s.ceOp .none s.opAB 1 m (fun _ => ceCmpR t Val.lt s.el.a s.el.b))

/-- CE_CMPLE: a ≤ b (R281, R282). -/
def execCeCmple (t m : Nat) (s : State) : Host.Outcome State Fault Refusal :=
  .next (s.ceOp .none s.opAB 1 m (fun _ => ceCmpR t (fun x y => x.lt y || x.eq y) s.el.a s.el.b))

/-- CE_SEL: a or b by lane c (R281). -/
def execCeSel (t m : Nat) (s : State) : Host.Outcome State Fault Refusal :=
  .next (s.ceOp .none s.opABC 1 m (fun _ => ceSelR s.ceK t s.el.a s.el.b s.el.c))

/-- CE_CVT: conversion (R287). -/
def execCeCvt (t m r c : Nat) (s : State) : Host.Outcome State Fault Refusal :=
  .next (match if t = 7 ∧ s.el.squash = false then lgReserved s.el.a else none with
    | some x => s.elFault x
    | none => s.ceOp .none s.opA 3 m (fun _ => ceCvtR s.ceK t r c s.el.a))

/-- CE_HSUM: horizontal sum (R281). -/
def execCeHsum (t m r : Nat) (s : State) : Host.Outcome State Fault Refusal :=
  .next (s.ceOp .none s.opA 4 m (fun _ => ceHsumR s.ceK t r s.el.a))

/-- CE_HMAX: horizontal maximum (R281). -/
def execCeHmax (t m : Nat) (s : State) : Host.Outcome State Fault Refusal :=
  .next (s.ceOp .none s.opA 4 m (fun _ => ceHmaxR s.ceK t s.el.a))

/-- CE_EXP2: 2^a (R281, R226). -/
def execCeExp2 (m r : Nat) (s : State) : Host.Outcome State Fault Refusal :=
  .next (s.ceOp .none s.opA 8 m (fun _ => ceFnR s.ceK (fnExp2 r) tanExp2 s.el.a))

/-- CE_LOG2: log2 a (R281, R226). -/
def execCeLog2 (m r : Nat) (s : State) : Host.Outcome State Fault Refusal :=
  .next (s.ceOp .none s.opA 8 m (fun _ => ceFnR s.ceK (fnLog2 r) tanLog2 s.el.a))

/-- CE_RCP: 1 / a (R281, R226). -/
def execCeRcp (m r : Nat) (s : State) : Host.Outcome State Fault Refusal :=
  .next (s.ceOp .none s.opA 8 m (fun _ => ceFnR s.ceK (fnRcp r) tanRcp s.el.a))

/-- CE_RSQRT: 1 / √a (R281, R226). -/
def execCeRsqrt (m r : Nat) (s : State) : Host.Outcome State Fault Refusal :=
  .next (s.ceOp .none s.opA 8 m (fun _ => ceFnR s.ceK (fnRsqrt r) tanRsqrt s.el.a))

/-- CE_TANH: tanh a (R281, R226). -/
def execCeTanh (m r : Nat) (s : State) : Host.Outcome State Fault Refusal :=
  .next (s.ceOp .none s.opA 8 m (fun _ => ceFnR s.ceK (fnTanh r) tanTanh s.el.a))

/-- CE_SIGM: 1 / (1 + e^−a) (R281, R226). -/
def execCeSigm (m r : Nat) (s : State) : Host.Outcome State Fault Refusal :=
  .next (s.ceOp .none s.opA 8 m (fun _ => ceFnR s.ceK (fnSigm r) tanSigm s.el.a))

/-- CE_CMUL: complex product (R283). -/
def execCeCmul (m r : Nat) (s : State) : Host.Outcome State Fault Refusal :=
  .next (s.ceOp .freq s.opAB 4 m (fun _ => ceCmulR s.ceK r s.el.a s.el.b none))

/-- CE_CMAC: complex product plus c (R283). -/
def execCeCmac (m r : Nat) (s : State) : Host.Outcome State Fault Refusal :=
  .next (s.ceOp .freq s.opABC 4 m (fun _ => ceCmulR s.ceK r s.el.a s.el.b (some s.el.c)))

/-- CE_CCONJ: complex conjugate (R281). -/
def execCeCconj (m : Nat) (s : State) : Host.Outcome State Fault Refusal :=
  .next (s.ceOp .both s.opA 1 m (fun _ => ceConjR s.ceK s.el.a))

/-- CE_LMUL: product of lg lanes (R284). -/
def execCeLmul (m : Nat) (s : State) : Host.Outcome State Fault Refusal :=
  .next (s.lgOp s.opAB 3 m (fun _ => ceLmulR s.el.a s.el.b))

/-- CE_LMAC: c plus a product of lg lanes (R284). -/
def execCeLmac (m r : Nat) (s : State) : Host.Outcome State Fault Refusal :=
  .next (s.lgOp s.opABC 4 m (fun _ => ceLmacR s.ceK r s.el.a s.el.b s.el.c))

/-- CE_LDOT4: four products of lg lanes into lane 0 (R284). -/
def execCeLdot4 (m r : Nat) (s : State) : Host.Outcome State Fault Refusal :=
  .next (s.lgOp s.opABC 4 m (fun _ => ceLdotR s.ceK r s.el.a s.el.b s.el.c))

/-- CE_TMERGE: merges two attention triples (R285). -/
def execCeTmerge (m r : Nat) (s : State) : Host.Outcome State Fault Refusal :=
  .next (s.ceOp .none s.opAB 10 m (fun _ => ceTmergeR s.ceK r s.el.a s.el.b))

/-- CE_TEMIT: sends a token (R286). -/
def execCeTemit (c : Nat) (s : State) : Host.Outcome State Fault Refusal :=
  .next (s.temit c)

/-- CE_IDX: indices of the slot (R286). -/
def execCeIdx (m : Nat) (s : State) : Host.Outcome State Fault Refusal :=
  .next (s.idx m)

/-- CE_HDR: a header beat (R286). -/
def execCeHdr (m : Nat) (s : State) : Host.Outcome State Fault Refusal :=
  .next (s.ceOp .none s.opA 1 m (fun _ => ceHdrR s.ceK s.el.a))

/-- CE_PAY: a payload beat (R286). -/
def execCePay (m : Nat) (s : State) : Host.Outcome State Fault Refusal :=
  .next (s.ceOp .both s.opA 1 m (fun _ => cePayR s.ceK s.el.a))

end Sys2Proof.Machine
end

