-- ==== Sys2Proof/Machine/CoxInt.lean ====
section
/-! DEFINITION. Meanings of the S-slot arithmetic, compare and bit-field instructions (R193 to R197). -/

namespace Sys2Proof.Machine

open Sys2Proof

/-- The primal value of xn. -/
def State.x (s : State) (n : Nat) : DWord := s.me.rx 0 n

/-- Signed minimum. -/
def sminW (a b : DWord) : DWord := if a.toInt ≤ b.toInt then a else b
/-- Signed maximum. -/
def smaxW (a b : DWord) : DWord := if a.toInt ≤ b.toInt then b else a
/-- Unsigned minimum. -/
def uminW (a b : DWord) : DWord := if a.toNat ≤ b.toNat then a else b
/-- Unsigned maximum. -/
def umaxW (a b : DWord) : DWord := if a.toNat ≤ b.toNat then b else a

/-- The flags of a divide form (R194). -/
def divFlags (b : DWord) : FlagSet := if b = 0 then fDivzero else 0
/-- Signed quotient rounded toward zero; all ones for a divisor of zero (R194). -/
def quotS (a b : DWord) : DWord := if b = 0 then BitVec.allOnes 64 else BitVec.ofInt 64 (Int.tdiv a.toInt b.toInt)
/-- Unsigned quotient; all ones for a divisor of zero (R194). -/
def quotU (a b : DWord) : DWord := if b = 0 then BitVec.allOnes 64 else BitVec.ofNat 64 (a.toNat / b.toNat)
/-- Signed remainder, with the sign of the dividend; the dividend for a divisor of zero (R194). -/
def remS (a b : DWord) : DWord := if b = 0 then a else BitVec.ofInt 64 (Int.tmod a.toInt b.toInt)
/-- Unsigned remainder; the dividend for a divisor of zero (R194). -/
def remU (a b : DWord) : DWord := if b = 0 then a else BitVec.ofNat 64 (a.toNat % b.toNat)

/-- The comparisons cc of R195: 0 EQ, 1 NE, 2 LT, 3 GE, 4 LTU, 5 GEU. -/
def compareX (cc : Nat) (a b : DWord) : Bool :=
  match cc with
  | 0 => decide (a = b)
  | 1 => decide (a ≠ b)
  | 2 => decide (a.toInt < b.toInt)
  | 3 => decide (b.toInt ≤ a.toInt)
  | 4 => decide (a.toNat < b.toNat)
  | _ => decide (b.toNat ≤ a.toNat)

/-- A predicate of all ones or all zeros (R195). -/
def predOf (b : Bool) : BitVec 16 := if b then 0xFFFF else 0

/-- Position of the field of R196. -/
def fieldPos (b : DWord) : Nat := bits b.toNat 5 0
/-- Length of the field of R196. -/
def fieldLen (b : DWord) : Nat := bits b.toNat 13 8 + 1
/-- The field, zero-extended; bits above bit 63 are zero (R196). -/
def extractU (a b : DWord) : DWord := BitVec.ofNat 64 (a.toNat / 2 ^ fieldPos b % 2 ^ fieldLen b)
/-- The field, sign-extended from its top bit (R196). -/
def extractS (a b : DWord) : DWord := sext (fieldLen b) (a.toNat / 2 ^ fieldPos b % 2 ^ fieldLen b)
/-- `d` with the field replaced by the low bits of `a`; bits above bit 63 are dropped (R196). -/
def insertField (d a b : DWord) : DWord :=
  let m := BitVec.ofNat 64 ((2 ^ fieldLen b - 1) * 2 ^ fieldPos b)
  (d &&& ~~~m) ||| (BitVec.ofNat 64 (a.toNat % 2 ^ fieldLen b * 2 ^ fieldPos b) &&& m)
/-- Leading zero bits (R196). -/
def countLz (a : DWord) : Nat := ((List.range 64).find? (fun i => a.getLsbD (63 - i))).getD 64
/-- Trailing zero bits (R196). -/
def countTz (a : DWord) : Nat := ((List.range 64).find? (fun i => a.getLsbD i)).getD 64
/-- One bits (R196). -/
def countOnes (a : DWord) : Nat := ((List.range 64).filter (fun i => a.getLsbD i)).length

/-- ADD: the sum, at +1 (R193). -/
def execAdd (d a b : Nat) (s : State) : Host.Outcome State Fault Refusal :=
  coxIssue (.add d a b) (fun s => s.putX 1 d (s.x a + s.x b)) s

/-- SUB: the difference, at +1 (R193). -/
def execSub (d a b : Nat) (s : State) : Host.Outcome State Fault Refusal :=
  coxIssue (.sub d a b) (fun s => s.putX 1 d (s.x a - s.x b)) s

/-- AND, at +1 (R193). -/
def execAnd (d a b : Nat) (s : State) : Host.Outcome State Fault Refusal :=
  coxIssue (.and d a b) (fun s => s.putX 1 d (s.x a &&& s.x b)) s

/-- OR, at +1 (R193). -/
def execOr (d a b : Nat) (s : State) : Host.Outcome State Fault Refusal :=
  coxIssue (.or d a b) (fun s => s.putX 1 d (s.x a ||| s.x b)) s

/-- XOR, at +1 (R193). -/
def execXor (d a b : Nat) (s : State) : Host.Outcome State Fault Refusal :=
  coxIssue (.xor d a b) (fun s => s.putX 1 d (s.x a ^^^ s.x b)) s

/-- SLL by xb[5:0], at +1 (R193). -/
def execSll (d a b : Nat) (s : State) : Host.Outcome State Fault Refusal :=
  coxIssue (.sll d a b) (fun s => s.putX 1 d (s.x a <<< bits (s.x b).toNat 5 0)) s

/-- SRL by xb[5:0], at +1 (R193). -/
def execSrl (d a b : Nat) (s : State) : Host.Outcome State Fault Refusal :=
  coxIssue (.srl d a b) (fun s => s.putX 1 d (s.x a >>> bits (s.x b).toNat 5 0)) s

/-- SRA by xb[5:0], at +1 (R193). -/
def execSra (d a b : Nat) (s : State) : Host.Outcome State Fault Refusal :=
  coxIssue (.sra d a b) (fun s => s.putX 1 d ((s.x a).sshiftRight (bits (s.x b).toNat 5 0))) s

/-- MIN: signed minimum, at +1 (R193). -/
def execMin (d a b : Nat) (s : State) : Host.Outcome State Fault Refusal :=
  coxIssue (.min d a b) (fun s => s.putX 1 d (sminW (s.x a) (s.x b))) s

/-- MAX: signed maximum, at +1 (R193). -/
def execMax (d a b : Nat) (s : State) : Host.Outcome State Fault Refusal :=
  coxIssue (.max d a b) (fun s => s.putX 1 d (smaxW (s.x a) (s.x b))) s

/-- MINU: unsigned minimum, at +1 (R193). -/
def execMinu (d a b : Nat) (s : State) : Host.Outcome State Fault Refusal :=
  coxIssue (.minu d a b) (fun s => s.putX 1 d (uminW (s.x a) (s.x b))) s

/-- MAXU: unsigned maximum, at +1 (R193). -/
def execMaxu (d a b : Nat) (s : State) : Host.Outcome State Fault Refusal :=
  coxIssue (.maxu d a b) (fun s => s.putX 1 d (umaxW (s.x a) (s.x b))) s

/-- MUL: the low 64 bits of the product, at +3 (R194). -/
def execMul (d a b : Nat) (s : State) : Host.Outcome State Fault Refusal :=
  coxIssue (.mul d a b) (fun s => s.putX 3 d (s.x a * s.x b)) s

/-- MULH: the high 64 bits of the signed product, at +3 (R194). -/
def execMulh (d a b : Nat) (s : State) : Host.Outcome State Fault Refusal :=
  coxIssue (.mulh d a b) (fun s => s.putX 3 d (BitVec.ofInt 64 ((s.x a).toInt * (s.x b).toInt / 2 ^ 64))) s

/-- MULHU: the high 64 bits of the unsigned product, at +3 (R194). -/
def execMulhu (d a b : Nat) (s : State) : Host.Outcome State Fault Refusal :=
  coxIssue (.mulhu d a b) (fun s => s.putX 3 d (BitVec.ofNat 64 ((s.x a).toNat * (s.x b).toNat / 2 ^ 64))) s

/-- DIV, at +12, with DIVZERO for a divisor of zero (R194). -/
def execDiv (d a b : Nat) (s : State) : Host.Outcome State Fault Refusal :=
  coxIssue (.div d a b) (fun s => s.putDiv d (quotS (s.x a) (s.x b)) (divFlags (s.x b))) s

/-- DIVU, at +12, with DIVZERO for a divisor of zero (R194). -/
def execDivu (d a b : Nat) (s : State) : Host.Outcome State Fault Refusal :=
  coxIssue (.divu d a b) (fun s => s.putDiv d (quotU (s.x a) (s.x b)) (divFlags (s.x b))) s

/-- REM, at +12, with DIVZERO for a divisor of zero (R194). -/
def execRem (d a b : Nat) (s : State) : Host.Outcome State Fault Refusal :=
  coxIssue (.rem d a b) (fun s => s.putDiv d (remS (s.x a) (s.x b)) (divFlags (s.x b))) s

/-- REMU, at +12, with DIVZERO for a divisor of zero (R194). -/
def execRemu (d a b : Nat) (s : State) : Host.Outcome State Fault Refusal :=
  coxIssue (.remu d a b) (fun s => s.putDiv d (remU (s.x a) (s.x b)) (divFlags (s.x b))) s

/-- CMP.EQ into pd, at +1 (R195). -/
def execCmpEq (d a b : Nat) (s : State) : Host.Outcome State Fault Refusal :=
  coxIssue (.cmpEq d a b) (fun s => s.putP 1 d (predOf (compareX 0 (s.x a) (s.x b)))) s

/-- CMP.NE into pd, at +1 (R195). -/
def execCmpNe (d a b : Nat) (s : State) : Host.Outcome State Fault Refusal :=
  coxIssue (.cmpNe d a b) (fun s => s.putP 1 d (predOf (compareX 1 (s.x a) (s.x b)))) s

/-- CMP.LT into pd, at +1 (R195). -/
def execCmpLt (d a b : Nat) (s : State) : Host.Outcome State Fault Refusal :=
  coxIssue (.cmpLt d a b) (fun s => s.putP 1 d (predOf (compareX 2 (s.x a) (s.x b)))) s

/-- CMP.GE into pd, at +1 (R195). -/
def execCmpGe (d a b : Nat) (s : State) : Host.Outcome State Fault Refusal :=
  coxIssue (.cmpGe d a b) (fun s => s.putP 1 d (predOf (compareX 3 (s.x a) (s.x b)))) s

/-- CMP.LTU into pd, at +1 (R195). -/
def execCmpLtu (d a b : Nat) (s : State) : Host.Outcome State Fault Refusal :=
  coxIssue (.cmpLtu d a b) (fun s => s.putP 1 d (predOf (compareX 4 (s.x a) (s.x b)))) s

/-- CMP.GEU into pd, at +1 (R195). -/
def execCmpGeu (d a b : Nat) (s : State) : Host.Outcome State Fault Refusal :=
  coxIssue (.cmpGeu d a b) (fun s => s.putP 1 d (predOf (compareX 5 (s.x a) (s.x b)))) s

/-- PAND of predicates, at +1 (R195). -/
def execPand (d a b : Nat) (s : State) : Host.Outcome State Fault Refusal :=
  coxIssue (.pand d a b) (fun s => s.putP 1 d (s.me.rp a &&& s.me.rp b)) s

/-- POR of predicates, at +1 (R195). -/
def execPor (d a b : Nat) (s : State) : Host.Outcome State Fault Refusal :=
  coxIssue (.por d a b) (fun s => s.putP 1 d (s.me.rp a ||| s.me.rp b)) s

/-- PXOR of predicates, at +1 (R195). -/
def execPxor (d a b : Nat) (s : State) : Host.Outcome State Fault Refusal :=
  coxIssue (.pxor d a b) (fun s => s.putP 1 d (s.me.rp a ^^^ s.me.rp b)) s

/-- PANDN of predicates, at +1 (R195). -/
def execPandn (d a b : Nat) (s : State) : Host.Outcome State Fault Refusal :=
  coxIssue (.pandn d a b) (fun s => s.putP 1 d (s.me.rp a &&& ~~~(s.me.rp b))) s

/-- PMOV: xd takes pa, zero-extended, at +1 (R195). -/
def execPmov (d a : Nat) (s : State) : Host.Outcome State Fault Refusal :=
  coxIssue (.pmov d a) (fun s => s.putX 1 d ((s.me.rp a).setWidth 64)) s

/-- PSET: pd takes xa[15:0], at +1 (R195). -/
def execPset (d a : Nat) (s : State) : Host.Outcome State Fault Refusal :=
  coxIssue (.pset d a) (fun s => s.putP 1 d ((s.x a).setWidth 16)) s

/-- EXTU: a bit field, zero-extended, at +1 (R196). -/
def execExtu (d a b : Nat) (s : State) : Host.Outcome State Fault Refusal :=
  coxIssue (.extu d a b) (fun s => s.putX 1 d (extractU (s.x a) (s.x b))) s

/-- EXTS: a bit field, sign-extended, at +1 (R196). -/
def execExts (d a b : Nat) (s : State) : Host.Outcome State Fault Refusal :=
  coxIssue (.exts d a b) (fun s => s.putX 1 d (extractS (s.x a) (s.x b))) s

/-- INS: xd with a bit field replaced, at +1; xd is read at issue (R196). -/
def execIns (d a b : Nat) (s : State) : Host.Outcome State Fault Refusal :=
  coxIssue (.ins d a b) (fun s => s.putX 1 d (insertField (s.x d) (s.x a) (s.x b))) s

/-- CLZ, at +1 (R196). -/
def execClz (d a : Nat) (s : State) : Host.Outcome State Fault Refusal :=
  coxIssue (.clz d a) (fun s => s.putX 1 d (BitVec.ofNat 64 (countLz (s.x a)))) s

/-- CTZ, at +1 (R196). -/
def execCtz (d a : Nat) (s : State) : Host.Outcome State Fault Refusal :=
  coxIssue (.ctz d a) (fun s => s.putX 1 d (BitVec.ofNat 64 (countTz (s.x a)))) s

/-- POPC, at +1 (R196). -/
def execPopc (d a : Nat) (s : State) : Host.Outcome State Fault Refusal :=
  coxIssue (.popc d a) (fun s => s.putX 1 d (BitVec.ofNat 64 (countOnes (s.x a)))) s

/-- ADDI with a sign-extended 12-bit immediate, at +1 (R197). -/
def execAddi (d a i : Nat) (s : State) : Host.Outcome State Fault Refusal :=
  coxIssue (.addi d a i) (fun s => s.putX 1 d (s.x a + sext 12 i)) s

/-- ANDI with a sign-extended 12-bit immediate, at +1 (R197). -/
def execAndi (d a i : Nat) (s : State) : Host.Outcome State Fault Refusal :=
  coxIssue (.andi d a i) (fun s => s.putX 1 d (s.x a &&& sext 12 i)) s

/-- ORI with a sign-extended 12-bit immediate, at +1 (R197). -/
def execOri (d a i : Nat) (s : State) : Host.Outcome State Fault Refusal :=
  coxIssue (.ori d a i) (fun s => s.putX 1 d (s.x a ||| sext 12 i)) s

/-- XORI with a sign-extended 12-bit immediate, at +1 (R197). -/
def execXori (d a i : Nat) (s : State) : Host.Outcome State Fault Refusal :=
  coxIssue (.xori d a i) (fun s => s.putX 1 d (s.x a ^^^ sext 12 i)) s

/-- SLLI, at +1 (R197). -/
def execSlli (d a n : Nat) (s : State) : Host.Outcome State Fault Refusal :=
  coxIssue (.slli d a n) (fun s => s.putX 1 d (s.x a <<< n)) s

/-- SRLI, at +1 (R197). -/
def execSrli (d a n : Nat) (s : State) : Host.Outcome State Fault Refusal :=
  coxIssue (.srli d a n) (fun s => s.putX 1 d (s.x a >>> n)) s

/-- SRAI, at +1 (R197). -/
def execSrai (d a n : Nat) (s : State) : Host.Outcome State Fault Refusal :=
  coxIssue (.srai d a n) (fun s => s.putX 1 d ((s.x a).sshiftRight n)) s

/-- CMPI.EQ with a sign-extended 9-bit immediate, at +1 (R197). -/
def execCmpiEq (d a i : Nat) (s : State) : Host.Outcome State Fault Refusal :=
  coxIssue (.cmpiEq d a i) (fun s => s.putP 1 d (predOf (compareX 0 (s.x a) (sext 9 i)))) s

/-- CMPI.NE with a sign-extended 9-bit immediate, at +1 (R197). -/
def execCmpiNe (d a i : Nat) (s : State) : Host.Outcome State Fault Refusal :=
  coxIssue (.cmpiNe d a i) (fun s => s.putP 1 d (predOf (compareX 1 (s.x a) (sext 9 i)))) s

/-- CMPI.LT with a sign-extended 9-bit immediate, at +1 (R197). -/
def execCmpiLt (d a i : Nat) (s : State) : Host.Outcome State Fault Refusal :=
  coxIssue (.cmpiLt d a i) (fun s => s.putP 1 d (predOf (compareX 2 (s.x a) (sext 9 i)))) s

/-- CMPI.GE with a sign-extended 9-bit immediate, at +1 (R197). -/
def execCmpiGe (d a i : Nat) (s : State) : Host.Outcome State Fault Refusal :=
  coxIssue (.cmpiGe d a i) (fun s => s.putP 1 d (predOf (compareX 3 (s.x a) (sext 9 i)))) s

/-- CMPI.LTU with a sign-extended 9-bit immediate, at +1 (R197). -/
def execCmpiLtu (d a i : Nat) (s : State) : Host.Outcome State Fault Refusal :=
  coxIssue (.cmpiLtu d a i) (fun s => s.putP 1 d (predOf (compareX 4 (s.x a) (sext 9 i)))) s

/-- CMPI.GEU with a sign-extended 9-bit immediate, at +1 (R197). -/
def execCmpiGeu (d a i : Nat) (s : State) : Host.Outcome State Fault Refusal :=
  coxIssue (.cmpiGeu d a i) (fun s => s.putP 1 d (predOf (compareX 5 (s.x a) (sext 9 i)))) s

/-- LUI: the sign-extended 19-bit immediate times 4,096, at +1 (R197). -/
def execLui (d i : Nat) (s : State) : Host.Outcome State Fault Refusal :=
  coxIssue (.lui d i) (fun s => s.putX 1 d (sext 19 i * 4096)) s

end Sys2Proof.Machine
end

