-- ==== Sys2Proof/Machine/CoxSys.lean ====
section
/-! DEFINITION. Meanings of the CSR, tangent, replay and allotment instructions, and of TKTAKE (R207, R208, R211, R213, R301, R305,
R306). -/

namespace Sys2Proof.Machine

open Sys2Proof

/-- A CSR of R208 as it stands at issue. -/
def State.csr (s : State) (n : Nat) : DWord :=
  s.me.getCsr n (s.dieNs (s.cur / 8)) s.cur (((s.teamOf s.cur).map (fun t => t.cores.length)).getD 0)

/-- The bytes of a replay register (R210), as a number. -/
def Ry.toNat (y : Ry) : Nat :=
  y.hdr.toNat + 2 ^ 512 * y.p0.toNat + 2 ^ 1024 * y.p1.toNat + 2 ^ 1536 * y.p2.toNat + 2 ^ 2048 * y.p3.toNat

/-- RYSAVE (R211): ry0 to ry31 at offset `off` of the cox store, in the issue step. -/
def State.saveRy (s : State) (off : Nat) : State :=
  s.modMe (fun c => { c with stores := c.stores ++ (List.range 32).map (fun n =>
    (coxBase s.cur + off + 512 * n, 512, (Tab.get Ry.empty c.ry n).toNat)) })

/-- RYLOAD (R211): ry0 to ry31 from offset `off` of the cox store, at +4; reserved bits are not kept (R210). -/
def State.loadRy (s : State) (off : Nat) : State :=
  (List.range 32).foldl (fun t n =>
    let v := s.coxRead s.cur (off + 512 * n) 512
    t.putW 4 (.ry n) [BitVec.ofNat 512 (v / 2 ^ 512), BitVec.ofNat 512 (v / 2 ^ 1024), BitVec.ofNat 512 (v / 2 ^ 1536),
      BitVec.ofNat 512 (v / 2 ^ 2048)] (v % 2 ^ 64 / 2 ^ 19 * 2 ^ 19) 0 0) s

/-- TKTAKE (R207): the count before, at +2; the count falls by one. -/
def State.takeToken (s : State) (d n : Nat) : State :=
  let c := Tab.get 0 s.me.ports n
  (s.modMe (fun k => { k with ports := Tab.set 0 k.ports n (if c = 0 then 0 else c - 1) })).putX 2 d (c.setWidth 64)

/-- A write of plane `t` alone (R305). -/
def State.putPlane (s : State) (lat : Nat) (d : Dst) (t : Nat) (v : BitVec 512) : State :=
  s.putW lat d ((List.replicate t 0) ++ [v]) 0xFFFF (2 ^ t) 0

/-- TKTAKE (R207). -/
def execTktake (d n : Nat) (s : State) : Host.Outcome State Fault Refusal :=
  coxIssue (.tktake d n) (fun s => s.takeToken d n) s

/-- CSRR: the CSR as it stands at issue, at +2 (R208). -/
def execCsrr (d c : Nat) (s : State) : Host.Outcome State Fault Refusal :=
  coxIssue (.csrr d c) (fun s => s.putX 2 d (s.csr c)) s

/-- CSRW: the CSR takes xa at +1 (R208). -/
def execCsrw (a c : Nat) (s : State) : Host.Outcome State Fault Refusal :=
  coxIssue (.csrw a c) (fun s => s.putCsr 1 c (s.x a)) s

/-- CSRS: sets the bits of xa at +1 (R208). -/
def execCsrs (a c : Nat) (s : State) : Host.Outcome State Fault Refusal :=
  coxIssue (.csrs a c) (fun s => s.putCsr 2 c (s.x a)) s

/-- CSRC: clears the bits of xa at +1 (R208). -/
def execCsrc (a c : Nat) (s : State) : Host.Outcome State Fault Refusal :=
  coxIssue (.csrc a c) (fun s => s.putCsr 3 c (s.x a)) s

/-- DUAL k: tangent mode from the next step, planes 1 to k zeroed (R301). -/
def execDual (k : Nat) (s : State) : Host.Outcome State Fault Refusal :=
  coxIssue (.dual k) (fun s => s.putW 1 (.dual k) [] 0 0 0) s

/-- DUALEND: k is 0 from the next step; the planes keep their contents (R301). -/
def execDualend (s : State) : Host.Outcome State Fault Refusal :=
  coxIssue .dualend (fun s => s.putW 1 (.dual 0) [] 0 0 0) s

/-- TGET: plane 0 takes plane t of the source, planes 1 to k zero bits, at +1 (R305). -/
def execTget (d a t : Nat) (s : State) : Host.Outcome State Fault Refusal :=
  coxIssue (.tget d a t) (fun s => s.putX 1 d (s.me.rx t a)) s

/-- TGET.v: as TGET for vector registers, at +3 (R305). -/
def execTgetV (d a t : Nat) (s : State) : Host.Outcome State Fault Refusal :=
  coxIssue (.tgetV d a t) (fun s => s.putV 3 d 0xFFFF [s.me.rv t a]) s

/-- TSET: plane t alone takes plane 0 of the source, at +1 (R305). -/
def execTset (d a t : Nat) (s : State) : Host.Outcome State Fault Refusal :=
  coxIssue (.tset d a t) (fun s => if d = 0 then s else s.putPlane 1 (.x d) t ((s.x a).setWidth 512)) s

/-- TSET.v: as TSET for vector registers, at +3 (R305). -/
def execTsetV (d a t : Nat) (s : State) : Host.Outcome State Fault Refusal :=
  coxIssue (.tsetV d a t) (fun s => s.putPlane 3 (.v d) t (s.me.rv 0 a)) s

/-- TPLANE: declares memory tangent plane p at +1 (R306). -/
def execTplane (p a b : Nat) (s : State) : Host.Outcome State Fault Refusal :=
  coxIssue (.tplane p a b) (fun s => s.putW 1 (.tplane p) [(s.x a).setWidth 512, (s.x b).setWidth 512] 0 0 0) s

/-- RYSAVE (R211). -/
def execRysave (a : Nat) (s : State) : Host.Outcome State Fault Refusal :=
  coxIssue (.rysave a) (fun s => s.saveRy (bits (s.xval a) 19 0)) s

/-- RYLOAD (R211). -/
def execRyload (a : Nat) (s : State) : Host.Outcome State Fault Refusal :=
  coxIssue (.ryload a) (fun s => s.loadRy (bits (s.xval a) 19 0)) s

/-- REGSHRINK.x to 8 m registers from the next step (R213). -/
def execRegshrinkX (m : Nat) (s : State) : Host.Outcome State Fault Refusal :=
  coxIssue (.regshrinkX m) (fun s => s.putW 1 (.allotX (8 * m) false) [] 0 0 0) s

/-- REGSHRINK.v to 8 m registers from the next step (R213). -/
def execRegshrinkV (m : Nat) (s : State) : Host.Outcome State Fault Refusal :=
  coxIssue (.regshrinkV m) (fun s => s.putW 1 (.allotV (8 * m) false) [] 0 0 0) s

/-- REGGROW.x to 8 m registers, at most the launch allotment, from the next step (R213). -/
def execReggrowX (m : Nat) (s : State) : Host.Outcome State Fault Refusal :=
  coxIssue (.reggrowX m) (fun s => s.putW 1 (.allotX (8 * m) true) [] 0 0 0) s

/-- REGGROW.v to 8 m registers, at most the launch allotment, from the next step (R213). -/
def execReggrowV (m : Nat) (s : State) : Host.Outcome State Fault Refusal :=
  coxIssue (.reggrowV m) (fun s => s.putW 1 (.allotV (8 * m) true) [] 0 0 0) s

end Sys2Proof.Machine
end

