-- ==== Sys2Proof/Machine/Results.lean ====
section
/-! DEFINITION. What a rider delivers when its last part has finished (R82, R115, R116, R146, R258 to R273). -/

namespace Sys2Proof.Machine

/-- Bytes of words, little-endian (R2). -/
def wordBytes (l : List Nat) : List Byte :=
  l.flatMap (fun w => (List.range 4).map (fun i => BitVec.ofNat 8 (w / 2 ^ (8 * i))))

/-- The observed word `i` of a rider's span. -/
def Rider.word (r : Rider) (i : Nat) : Nat := (Tab.get 0 r.seen i).toNat
/-- The observed words of a span in span order. -/
def Rider.words (r : Rider) : List Nat := (List.range r.n).map r.word

/-- Write words from local address `la` upward, each whole (R116); one redirection for a member that is switched out (R120). -/
def State.deliverWords (s : State) (t : Option Nat) (c la : Nat) (ws : List Nat) : State :=
  if bit la 31 = false ∧ s.present t c = false then s.deliver t c la (4 * ws.length) (packCodes 32 ws)
  else ((List.range ws.length).zip ws).foldl (fun s p => s.deliver t c (la + 4 * p.1) 4 p.2) s

/-! ## Buffers that a delivery fills -/

/-- Bytes of a buffer of a node of depth `d` (R100). -/
def bufBytes (d : Nat) : Nat := 64 * (128 / Nat.max 1 d)

/-- The buffers of node `key` that `n` bytes from `off` touch, where the node streams (R100, R146). -/
def Node.bufs (nd : Node) (off n : Nat) : List Nat :=
  if nd.mode = 1 then []
  else (List.range nd.depth).filter (fun b => decide (b * bufBytes nd.depth < off + n ∧ off < (b + 1) * bufBytes nd.depth))

/-- The delivery of `n` bytes at local address `la` may begin: every streaming or ordered-update buffer it fills is empty (R146,
R258). -/
def State.mayFill (s : State) (la n : Nat) : Bool :=
  !bit la 31 || ((s.node (keyOf la)).bufs (bits la 12 0) n).all (fun b => !bit (s.node (keyOf la)).f b)

/-- The buffers that a delivery has filled become full (R101, R146). -/
def State.setFull (s : State) (la n : Nat) : State :=
  if bit la 31 then
    s.modNode (keyOf la) (fun nd => { nd with f := ((nd.bufs (bits la 12 0) n).filter (fun b => !bit nd.f b)).foldl (fun f b => f + 2 ^ b) nd.f })
  else s

/-! ## Results by kind -/

/-- A compare of RDSIEVE (R261). -/
def sieveHit (cmp v x : Nat) : Bool :=
  match cmp with
  | 0 => decide (v = x)
  | 1 => decide (v ≠ x)
  | 2 => decide (sint 32 v < sint 32 x)
  | 3 => decide (sint 32 x ≤ sint 32 v)
  | 4 => decide (v < x)
  | 5 => decide (x ≤ v)
  | 6 => lt32 v x
  | _ => le32 x v

/-- The span indices of a rider in sieve order: cursor order within a part, span order between parts (R261). -/
def Rider.sieveOrder (r : Rider) : List Nat :=
  r.parts.flatMap (fun p => r.order.reverse.filter (fun i => p.runs.any (fun z => decide (z.base ≤ i ∧ i < z.base + z.len))))

/-- RDSIEVE (R261): the result area as words, and the bits FEWER and MORE of the stamp. -/
def Rider.sieve (r : Rider) : List Nat × Nat :=
  let hits := r.sieveOrder.filter (fun i => sieveHit (r.f 239 236) ((BitVec.ofNat 32 (r.word i) &&& BitVec.ofNat 32 (r.f 191 160)).toNat) (r.f 159 128))
  let nmax := r.f 255 240
  let t := hits.length
  let kept := hits.take nmax
  let slot (i : Nat) : List Nat := match r.f 235 234 with
    | 0 => [r.word i]
    | 1 => [i]
    | _ => [i, r.word i]
  ([Nat.min t 65535 + 65536 * kept.length, 0] ++ kept.flatMap slot, if t < nmax then 0x10 else if nmax < t then 0x20 else 0)

/-- The exact sum of FP32 words, rounded once (R262). -/
def foldSumF (ws : List Nat) : LaneRes :=
  let vs := ws.map f32
  let pos := vs.any (fun v => v.isInf && !v.sign)
  let neg := vs.any (fun v => v.isInf && v.sign)
  if pos ∧ neg then (nan32, fInvalid)
  else if vs.any Val.isNan then (nan32, 0)
  else if pos then (0x7F800000, 0)
  else if neg then (0xFF800000, 0)
  else
    let num (v : Val) : Int := match v with
      | .fin sg n d e => let m : Int := ((n * 2 ^ (e + 149).toNat / d : Nat) : Int); if sg then -m else m
      | _ => 0
    let t := (vs.map num).sum
    if t = 0 then (if vs.all (fun v => v.isZero && v.sign) then 0x80000000 else 0, 0)
    else rne32 (.fin (decide (t < 0)) t.natAbs 1 (-149), 0)

/-- RDFOLD (R262): the 64-bit result and its flags. -/
def foldWords (fop val mask : Nat) (ws : List Nat) : Nat × FlagSet :=
  let h := ws.headD 0
  let s64 (i : Int) : Nat := (i % 2 ^ 64).toNat
  match fop with
  | 0 => (s64 (ws.map (sint 32)).sum, 0)
  | 1 => (ws.sum, 0)
  | 2 => foldSumF ws
  | 3 => (s64 ((ws.map (sint 32)).foldl (fun a b => if b < a then b else a) (sint 32 h)), 0)
  | 4 => (s64 ((ws.map (sint 32)).foldl (fun a b => if a < b then b else a) (sint 32 h)), 0)
  | 5 => (ws.foldl Nat.min h, 0)
  | 6 => (ws.foldl Nat.max h, 0)
  | 7 => ((ws.drop 1).foldl min32 (if (f32 h).isNan then nan32 else h), 0)
  | 8 => ((ws.drop 1).foldl max32 (if (f32 h).isNan then nan32 else h), 0)
  | 9 => ((ws.filter (fun w => decide ((BitVec.ofNat 32 w &&& BitVec.ofNat 32 mask).toNat = val))).length, 0)
  | _ => (ws.foldl nxor 0, 0)

/-- RDCMP (R266): the two words of the result, FIRST first. -/
def Rider.compared (r : Rider) : List Nat :=
  let d := (List.range r.n).filter (fun i => decide (Tab.get 0 r.seen i ≠ Tab.get 0 r.seenB i))
  [d.headD 0xFFFFFFFF, Nat.min d.length 0xFFFFFFFF]

/-- Fingerprints of the 4 KiB pages of a list of words, as words in memory order (R265, R268). -/
def pagePrints (n : Nat) (ws : List Nat) : List Nat :=
  (List.range (n / 1024)).flatMap (fun p =>
    let x := fingerprint (wordBytes ((ws.drop (1024 * p)).take 1024))
    [x % 2 ^ 32, x / 2 ^ 32])

/-- RDMAT's partial vectors (R85, R264). -/
def Rider.matVectors (r : Rider) : List Nat :=
  let m := r.f 135 128 + 1
  (List.range 16).flatMap (fun b => (List.range m).map (fun i => (Tab.get 0 r.acc (256 * b + i)).toNat))

/-- The local address and the words that a rider delivers, with the extra bits of its STATUS (R258); none for a delivery that
goes elsewhere. -/
def Rider.results (r : Rider) : Option (Nat × List Nat) × Nat × FlagSet :=
  let dest := r.f 127 64
  match r.kind with
  | .rdstr => (if r.f 255 252 < 2 then some (dest, r.words) else none, 0, 0)
  | .rdsieve => let x := r.sieve; (some (dest, x.1), x.2, 0)
  | .rdfold =>
    let x := foldWords (r.f 255 252) (r.f 159 128) (r.f 191 160) r.words
    (some (dest, [x.1 % 2 ^ 32, x.1 / 2 ^ 32]), 0, x.2)
  | .rdmat => (some (dest, r.matVectors), 0, 0)
  | .rdfp => (some (dest, pagePrints r.n r.words), 0, 0)
  | .rdcmp => (some (dest, r.compared), 0, 0)
  | .dep => (if r.f 222 222 = 1 then some (r.stamp + 8, pagePrints r.n (r.src.map BitVec.toNat)) else none, 0, 0)
  | .cursor => (some (dest, (List.range 4).map (fun i => r.note / 2 ^ (32 * i) % 2 ^ 32)), 0, 0)
  | _ => (none, 0, 0)

/-- OR flags into the FLAGS of team `t`'s member on core `c`, switched out or not (R136); while the clock of its quadrant island pauses they wait in
the retiming FIFO, as an entry of no bytes (R22, R24). -/
def State.teamFlags (s : State) (t : Option Nat) (c : Nat) (fl : FlagSet) : State :=
  if fl = 0 then s
  else if s.paused (coreIsl c) then { s with retime := s.retime ++ [(t, c, 0, 0, fl.toNat)] }
  else s.modContext t c (fun k => k.orFlags fl)

/-- Write a rider's stamp, and free what it held (R75, R82). -/
def State.stampRider (s : State) (r : Rider) (status time : Nat) : State :=
  ((s.deliver r.team r.acct r.stamp 8 (stampWord status r.sq time)).dropRider r.id).noteRan r.team r.rcd.toNat r.xa

/-- The X operand buffer of an RDSTR with DK 2: tile, buffer, memory address of the first byte (R115, R260). -/
def Rider.xbuf (r : Rider) : Nat × Nat × Nat :=
  let u := tileNo r.acct (r.f 132 128)
  (u, r.f 134 133, bufBase u (r.f 134 133) + 128 * r.f 141 135)

/-- The tile of a DK 2 rider takes no delivery (R260). -/
def State.xRefusesDelivery (s : State) (r : Rider) : Bool :=
  let u := r.xbuf.1
  !s.coxDriven u || (match (s.xtile u).away with
    | some t => decide (some t ≠ r.team)
    | none => false)

/-- The node belongs to a permissive load (R149). -/
def State.permissive (s : State) (key : Nat) : Bool := ((s.node key).owner.bind s.active).any (fun x => decide (hd x.2.img 11 11 = 1))
/-- Word `off` of a node as a wide access of an engine other than `eng` met it before it wrote it in this instant (R149). -/
def State.wordWas (s : State) (key off eng : Nat) : Option Nat :=
  ((s.node key).recent.find? (fun x => decide (x.1 = s.now ∧ x.2.1 = off ∧ x.2.2.2 ≠ eng))).map (fun x => x.2.2.1)
/-- What `n` bytes from `off` of a permissive load's node hold before a wide write of engine `eng` (R149): 1 for the node's write view, 2 + u for the
drains of X tile u. -/
def State.keepWords (s : State) (key off n eng : Nat) : State :=
  if s.permissive key then
    let words := (List.range (n / 4)).map (fun i => (s.now, off + 4 * i, s.mem.readN (nodeBase key + off + 4 * i) 4, eng))
    s.modNode key (fun nd => { nd with recent := nd.recent.filter (fun x => decide (x.1 = s.now)) ++ words })
  else s
/-- What engine `eng` has written of a node comes before every access that follows an F handoff from it (R147). -/
def Node.handOver (nd : Node) (eng : Nat) : Node := { nd with recent := nd.recent.filter (fun x => decide (x.2.2.2 ≠ eng)) }
/-- A read of 16 bytes by a read view (R149): in a permissive load each of its words may come before a wide write of the same instant (log entry 94). -/
def State.readWide (s : State) (key off : Nat) : Nat :=
  packCodes 32 ((List.range 4).map (fun i =>
    let w := s.mem.readN (nodeBase key + off + 4 * i) 4
    match s.wordWas key (off + 4 * i) 0 with
    | some v => if Config.wordBefore s.now (nodeBase key + off + 4 * i) then v else w
    | none => w))
/-- A write of 16 bytes by a write view (R149): in a permissive load each of its words may come before another engine's wide write of the same instant,
and is then overwritten by it (log entry 94). -/
def State.writeWide (s : State) (key off v : Nat) : State :=
  let m := (List.range 4).foldl (fun (m : Memory) i =>
    if (s.wordWas key (off + 4 * i) 1).isSome ∧ Config.wordBefore s.now (nodeBase key + off + 4 * i + 1) = true then m
    else m.writeN (nodeBase key + off + 4 * i) 4 (v / 2 ^ (32 * i) % 2 ^ 32)) s.mem
  { s.keepWords key off 16 1 with mem := m }

/-- Change X tile `u`. -/
def State.modTile (s : State) (u : Nat) (f : XTile → XTile) : State :=
  { s with xtiles := Tab.mod XTile.empty s.xtiles u f }
/-- A tile that is filled for core `c` of a team is that team's, to be emptied when it ends (R214), unless one that lives has driven or filled it. -/
def State.claimTile (s : State) (u c : Nat) (team : Option Nat) : State :=
  s.modTile u (fun t =>
    match t.user with
    | some (_, some n) => if (s.team? n).any (fun tm => decide (tm.st ≠ .ended)) then t else { t with user := some (c, team) }
    | _ => { t with user := some (c, team) })

/-- The buffer of a streaming or ordered-update node that byte `off` lies in. -/
def Node.bufAt (nd : Node) (off : Nat) : Option Nat :=
  if nd.mode = 1 ∨ nd.depth * bufBytes nd.depth ≤ off then none else some (off / bufBytes nd.depth)

/-- A DELIVERY, from word `k` on and `cap` words at most (R116, R146, R258): buffer by buffer, as a write view fills them; it waits at one that is
full, and one that it has filled becomes full. The state after it, and the words delivered. -/
def State.deliverFrom (s : State) (t : Option Nat) (c la : Nat) (ws : List Nat) (k cap : Nat) : Nat → State × Nat
  | 0 => (s, k)
  | fuel + 1 =>
    let rest := ws.length - k
    if rest = 0 ∨ cap = 0 then (s, k)
    else match (if bit la 31 then (s.node (keyOf la)).bufAt (bits la 12 0 + 4 * k) else none) with
      | none => (s.deliverWords t c (la + 4 * k) ((ws.drop k).take cap), k + Nat.min rest cap)
      | some b =>
        let nd := s.node (keyOf la)
        let m := Nat.min rest (((b + 1) * bufBytes nd.depth - (bits la 12 0 + 4 * k)) / 4)
        let j := Nat.min m cap
        if bit nd.f b ∨ j = 0 then (s, k)
        else
          let s := s.deliverWords t c (la + 4 * k) ((ws.drop k).take j)
          if j < m then (s, k + j)
          else (s.modNode (keyOf la) (fun nd => { nd with f := nd.f + 2 ^ b })).deliverFrom t c la ws (k + j) (cap - j) fuel

/-- A rider that a cox core issued delivers its results, up to `cap` words of them at this event, and writes its stamp after the last (R115, R146,
R258); `sent` counts the words delivered. -/
def State.deliverRider (s : State) (r : Rider) (cap : Nat) : State :=
  let x := r.results
  let fl := r.flags ||| x.2.2
  if r.kind = .rdstr ∧ r.f 255 252 = 2 then
    let b := r.xbuf
    if s.xRefusesDelivery r then
      let p := (r.parts.head?).getD Part.empty
      let s := s.queueRec (riderRec r (s.pcNs p.pc) ⟨0x0E, 0x2D, 0, r.xa, wordLoc p.crs (s.partPa p p.first)⟩)
      s.stampRider r 0x04 r.fin
    else if bit (s.tileNow b.1).f b.2.1 then s
    else
      let s := { s with mem := s.mem.putBytes b.2.2 (wordBytes r.words) }
      let s := (s.modTile b.1 (fun t => (t.settle (s.tileCycle b.1)).putF b.2.1 true)).claimTile b.1 r.acct r.team
      s.stampRider r 0x01 r.fin
  else
    match x.1 with
    | some (la, ws) =>
      let d := s.deliverFrom r.team r.acct la ws r.sent cap 129
      if d.2 < ws.length then d.1.modRider r.id (fun q => { q with sent := d.2 })
      else (d.1.teamFlags r.team r.acct fl).stampRider r (x.2.1 + 0x01) r.fin
    | none => (s.teamFlags r.team r.acct fl).stampRider r 0x01 r.fin

end Sys2Proof.Machine
end

