-- ==== Sys2Proof/Machine/FabNode.lean ====
section
/-! DEFINITION. Node, generator and converter ring entries (R98 to R106, R112, R113, R290 to R298, R309, R390, R397 to R400). -/

namespace Sys2Proof.Machine

open Sys2Proof

/-! ## Views of a node (R100 to R105) -/

/-- A width code (R181). -/
def widthOf (c : Nat) : Nat := match c % 4 with | 0 => 1 | 1 => 2 | 2 => 4 | _ => 16
/-- Width of the read or write view of a node record. -/
def Load.viewWidth (l : Load) (b : Nat) (read : Bool) : Nat := widthOf (if read then l.at b 0x045 1 / 4 else l.at b 0x045 1)
/-- XF of a node record. -/
def Load.xf (l : Load) (b : Nat) : Nat := l.at b 0x043 1 / 64
/-- Offset of a view's pattern in a node record. -/
def patAt (read : Bool) : Nat := if read then 0x058 else 0x048
/-- Count `j` of a pattern. The field holds 16 bits; the manual gives counts up to 4,096 and neither refuses nor explains a larger one, which counts as
it stands (DESIGN CHOICE, log entry 100). -/
def Load.patCount (l : Load) (b p j : Nat) : Nat := l.at b (p + 2 + 2 * j) 2 + 1
/-- Accesses of a pattern (R104). -/
def Load.patTotal (l : Load) (b p : Nat) : Nat := l.patCount b p 0 * l.patCount b p 1 * l.patCount b p 2
/-- The offset of access `c` of a pattern, within the buffer (R104). -/
def Load.patOff (l : Load) (b p c : Nat) : Int :=
  let n0 := l.patCount b p 0
  let n1 := l.patCount b p 1
  let st (j : Nat) : Int := sint 16 (l.at b (p + 8 + 2 * j) 2)
  (l.at b p 2 : Int) + (c % n0 : Nat) * st 0 + (c / n0 % n1 : Nat) * st 1 + (c / (n0 * n1) : Nat) * st 2

/-- A generator of the region feeds the read or write view of a node: its tile's elements (R293). -/
def Region.feeder (r : Region) (l : Load) (key : Nat) (read : Bool) : Option Nat :=
  (r.tiles.flatMap (fun t =>
    let k := r.key t.1 t.2 0
    if elKind k = .gen ∧ (List.range 8).any (fun p =>
        let b := r.binding l k p
        decide (bits b 31 30 = (if read then 2 else 1) ∧ r.bindNode b = key)) then [k] else [])).head?

/-- The offset of a view's next access (R104, R291), and the generator whose address it is. -/
def State.viewOff (s : State) (r : Region) (l : Load) (k : Nat) (read : Bool) : Int × Option Nat :=
  let b := r.elAt l k
  let nd := s.node (elNode k)
  if nd.mode = 1 then
    match r.feeder l (elNode k) read with
    | some g => (if read then nd.gr else nd.gw, some g)
    | none => (l.patOff b (patAt read) (if read then nd.rcnt else nd.wcnt), none)
  else
    let n := if read then nd.rbuf else nd.wbuf
    ((n * bufBytes nd.depth : Nat) + l.patOff b (patAt read) (if read then nd.rcnt else nd.wcnt), none)

/-- An access of `w` bytes at an offset is not in the node (R398): the fault. -/
def rangeFault (a : Int) (w : Nat) (g : Option Nat) : Option UFault :=
  if a < 0 ∨ 8192 < a + w ∨ a % w ≠ 0 then some (5, (a % 2 ^ 64).toNat, g.getD 0, 0) else none

/-- A view has made one access: its counters, and at the pattern's end its buffer index and the count of its patterns (R101, R104). -/
def Node.advance (nd : Node) (read : Bool) (total : Nat) : Node :=
  if read then
    if nd.rcnt + 1 < total then { nd with rcnt := nd.rcnt + 1 } else { nd with rcnt := 0, rbuf := (nd.rbuf + 1) % Nat.max 1 nd.depth, rend := nd.rend + 1 }
  else if nd.wcnt + 1 < total then { nd with wcnt := nd.wcnt + 1 }
  else { nd with wcnt := 0, wbuf := (nd.wbuf + 1) % Nat.max 1 nd.depth, wend := nd.wend + 1 }

/-- F bit `n` of a node set to `v`. -/
def Node.putF (nd : Node) (n : Nat) (v : Bool) : Node := { nd with f := nd.f - b2n (bit nd.f n) * 2 ^ n + b2n v * 2 ^ n }

/-- The access that ends a pattern on buffer `n` is still to be performed, and F to change with it (R101, R103). -/
def Node.closing (nd : Node) (read : Bool) (n : Nat) : Bool :=
  nd.queue.any (fun q => decide (q.src = 32 ∧ q.mask = n + 1) && (decide (q.op = 16) == read))
/-- The view may make its next access (R31, R101, R102). -/
def Node.ready (nd : Node) (read : Bool) : Bool :=
  decide (nd.mode = 1) ||
    (if read then (decide (nd.mode = 0) && !nd.ahead.isEmpty) || decide (nd.rcnt ≠ 0) || (bit nd.f nd.rbuf && !nd.closing true nd.rbuf)
     else decide (nd.wcnt ≠ 0) || (!bit nd.f nd.wbuf && !nd.closing false nd.wbuf))

/-- Number of the X tile whose element 0 is `k`. -/
def xtOf (k : Nat) : Nat :=
  let tx := elX k / 4
  let ty := elY k / 4
  32 * coreOfTile (elDie k) tx ty + 2 * (ty % 16) + tx % 16 / 8
/-- The unit (24 × core + node) of the transform node at element `k`. -/
def xformUnit (k : Nat) : Nat :=
  24 * coreOfTile (elDie k) (elX k / 4) (elY k / 4) + (4 * (3 * (elX k / 4 % 16 / 8) + (elY k / 4 % 16 - 12)) + (elIdx k - 12))

/-- The engine of element `a`, its reads or its other accesses, has ended more than `m` patterns (R147): a view by its count, an ordered-update
node once no access of the fabric waits; a transform node once its command is over, an X tile once nothing is held there. -/
def State.pastPattern (s : State) (a : Nat) (read : Bool) (m : Nat) : Bool :=
  match elKind a with
  | .node =>
    let nd := s.node (elNode a)
    decide (m < (if read then nd.rend else nd.wend)) && nd.queue.all (fun q => decide (q.src ≠ 32))
  | .xform => (Tab.get [] s.xforms (xformUnit a)).all (fun x => x.load.isNone)
  | .xt => (s.xtile (xtOf a)).queue.isEmpty && (s.xtile (xtOf a)).drains.isEmpty
  | _ => true

/-- Element `k`, its reads or its other accesses, stands at the beginning of a pattern that an edge declared within its island holds back (R147): the
n-th pattern behind such an edge begins once the n-th of the engine before it has ended, as after an F handoff (DEDUCED, log entry 101). -/
def State.edgeBehind (s : State) (r : Region) (l : Load) (k : Nat) (read : Bool) : Bool :=
  let nd := s.node (elNode k)
  let x : Bool × Nat := match elKind k with
    | .node => if read then (decide (nd.rcnt = 0), nd.rend) else (decide (nd.wcnt = 0), nd.wend)
    | _ => (true, 0)
  x.1 && l.inner.any (fun g => decide (g.1 = r.engine k ∧ (g.2.1 = read ∨ elKind k ≠ .node)) && !s.pastPattern (r.engineEl g.2.2.1) g.2.2.2 x.2)

/-- Words of a stream port that one access of a write view takes (R260): a whole beat's, or one (DEDUCED, log entry 99). -/
def viewWords (w : Nat) : Nat := if w = 16 then 4 else 1
/-- Words of a stream port that an atomic's operand takes. -/
def atomicWords (o : Nat) : Nat := if o = 1 ∨ o = 14 then 2 else 1
/-- The stream port that feeds the write view of node element `k`, if one does, has delivered `n` words (R31, R260). -/
def State.portHas (s : State) (r : Region) (l : Load) (k n : Nat) : Bool :=
  match r.portOf l k 0 with
  | none => true
  | some x => decide (n ≤ (Tab.get [] s.portWords (portKey (some l.team) x.1 x.2)).length)
/-- The value at the write port of node element `k` (R280, R291), or the next `n` words of the stream port that feeds its write view (R260). -/
def State.portValue (s : State) (r : Region) (l : Load) (k n : Nat) : Beat × State :=
  match r.portOf l k 0 with
  | none => ((s.node (elNode k)).wport, s)
  | some x =>
    let key := portKey (some l.team) x.1 x.2
    let ws := Tab.get [] s.portWords key
    (Beat.of [(ws.take n).map BitVec.toNat] 0, { s with portWords := Tab.set [] s.portWords key (ws.drop n) })

/-! ## Transforming reads (R105) -/

/-- The elements of a buffer of `n` bytes, as 128-byte rows of `w`-byte elements, in column-major order: the offset of each. The manual does not say
what a last row that is not whole gives; the elements that it lacks are left out (DESIGN CHOICE, log entry 100). -/
def transposeAt (n w : Nat) : List Nat :=
  (List.range (128 / w)).flatMap (fun c => (List.range ((n + 127) / 128)).filterMap (fun r =>
    if r * 128 + c * w + w ≤ n then some (r * 128 + c * w) else none))
/-- The transpose of a buffer (R105). -/
def transpose (bs : List Byte) (w : Nat) : List Byte := (transposeAt bs.length w).flatMap (fun o => (bs.drop o).take w)

/-- Bytes as a number, little-endian. -/
def ofBytes : List Byte → Nat
  | [] => 0
  | b :: t => b.toNat + 256 * ofBytes t

/-- The FP32 lanes of the block packets from the start of a buffer, as bytes, up to the first packet that is not one; and that
packet's header with what is wrong with it. A decode that rounds raises no flag: R136 does not name a read view among the units whose flags a load
collects, and R137 does not say where they would go (DESIGN CHOICE, log entry 100). -/
def decodeRun : Nat → List Byte → List Byte × Option UFault
  | 0, _ => ([], none)
  | fuel + 1, bs =>
    if bs.length < 16 then ([], none)
    else
      let h := ofBytes (bs.take 8)
      let f := bits h 4 0
      let n := bits h 38 33
      match headerFault 16 3 h with
      | some x => ([], some x)
      | none =>
        if ¬ isBlockFmt f then ([], some (9, h, 0, 16))
        else
          let nb := 16 * payBeats f n
          let cs := unpackCodes (fmtWidth f) (ofBytes ((bs.drop 16).take nb)) n
          let r := decodeRun fuel (bs.drop (16 + nb))
          (wordBytes (cs.map (fun c => (Fmt.fp32.encode 0 (decodeScaled f (bits h 16 7) c)).1)) ++ r.1, r.2)

/-- First byte and size of the buffer that holds offset `off`; all of the node in random mode (R100). -/
def Node.bufOf (nd : Node) (off : Nat) : Nat × Nat :=
  if nd.mode = 1 then (0, 8192) else (off / Nat.max 1 (bufBytes nd.depth) * bufBytes nd.depth, bufBytes nd.depth)

/-- What a read view keeps at the beginning of a pattern of the buffer that holds offset `off` (R105). -/
def State.snapOf (s : State) (l : Load) (b key off : Nat) : List Byte :=
  let z := (s.node key).bufOf off
  let bs := s.mem.bytes (nodeBase key + z.1) z.2
  match l.xf b with
  | 1 => transpose bs (l.viewWidth b true)
  | 2 => (decodeRun 512 bs).1
  | _ => []

/-- What a block-decoding view meets beyond the packets that it could decode. -/
def State.snapFault (s : State) (key off : Nat) : UFault :=
  let z := (s.node key).bufOf off
  ((decodeRun 512 (s.mem.bytes (nodeBase key + z.1) z.2)).2).getD (9, 0, 0, 16)

/-! ## Tangents of a fabric access (R307, R309) -/

/-- The present planes of an access of `w` bytes at offset `off`: plane, offset of the first word's tangent, PFMT. -/
def Load.tansAt (l : Load) (w off : Nat) : List (Nat × Nat × Nat) :=
  if w = 4 ∨ w = 16 then
    ((List.range l.k).map (fun p => (p + 1, l.tp.getD (p + 1) TPlane.absent))).filterMap (fun x =>
      if x.2.pres then some (x.1, x.2.at true off, x.2.pfmt) else none)
  else []

/-- Tangent lanes of plane `p` of a read. -/
def State.tanLanes (s : State) (key : Nat) (ts : List (Nat × Nat × Nat)) (w p : Nat) : List Nat :=
  match ts.find? (fun t => decide (t.1 = p)) with
  | none => []
  | some t => (List.range (w / 4)).map (fun i => tanLoad t.2.2 (s.mem.readN (nodeBase key + t.2.1 + i * pfmtBytes t.2.2) (pfmtBytes t.2.2)))

/-- The beat that a read of `w` bytes gives: lanes of plane 0 from `v`. -/
def State.readBeat (s : State) (l : Load) (key off w v : Nat) : Beat :=
  let ts := l.tansAt w off
  { Beat.of [] 0 with
    v0 := BitVec.ofNat 128 v, v1 := ofQuad (s.tanLanes key ts w 1), v2 := ofQuad (s.tanLanes key ts w 2), v3 := ofQuad (s.tanLanes key ts w 3) }

/-- Store a beat's tangents of `w` bytes at `off`, rounded to PFMT (R307): the memory and the flags. -/
def storeBeatTans (m : Memory) (l : Load) (key off w : Nat) (v : Beat) : Memory × FlagSet :=
  (l.tansAt w off).foldl (fun (a : Memory × FlagSet) t =>
    (List.range (w / 4)).foldl (fun (a : Memory × FlagSet) i =>
      let x := tanStore t.2.2 (v.lane t.1 i)
      (a.1.writeN (nodeBase key + t.2.1 + i * pfmtBytes t.2.2) (pfmtBytes t.2.2) x.1, a.2 ||| x.2)) a) (m, 0)

/-! ## Reads -/

/-- The tangent run of an access leaves the node (R307, R398). -/
def Load.tansOut (l : Load) (w off : Nat) : Bool := (l.tansAt w off).any (fun t => decide (8192 < t.2.1 + w / 4 * pfmtBytes t.2.2))
/-- An access of `w` bytes at an offset, with its tangents, is not in the node (R398): the fault. -/
def Load.accessFault (l : Load) (a : Int) (w : Nat) (g : Option Nat) : Option UFault :=
  (rangeFault a w g).or (if l.tansOut w a.toNat then some (5, a.toNat, g.getD 0, 0) else none)

/-- The value that a read view delivers for offset `off` of node `key`, its record at `b` (R105, R390), and the node with the snapshot that the first
access of a pattern takes; or a fault. The tangents of a transposed word are those of the word delivered; those of a decoded word lie at the pattern's
offset (DESIGN CHOICE, log entry 100). -/
def State.viewData (s : State) (l : Load) (b key off : Nat) (first : Bool) (g : Option Nat) : Sum UFault (Beat × State) :=
  let w := l.viewWidth b true
  let xf := l.xf b
  let z := (s.node key).bufOf off
  let src := if xf = 1 then z.1 + (transposeAt z.2 w).getD ((off - z.1) / w) 0 else off
  let s := if xf ≠ 0 ∧ first = true then s.modNode key (fun nd => { nd with snap := s.snapOf l b key off }) else s
  let snap := (s.node key).snap
  let runs := tanRuns (nodeBase key) (w / 4) (l.tansAt w src)
  if xf ≠ 2 ∧ s.wordsBad (nodeBase key + src) w = true then .inl (0x14, 2 ^ 31 + key * 8192 + src, 0, 0)
  else if xf = 2 ∧ first = true ∧ s.wordsBad (nodeBase key + z.1) z.2 = true then .inl (0x14, 2 ^ 31 + key * 8192 + z.1, 0, 0)
  else if xf = 2 ∧ snap.length < off - z.1 + w then .inl (s.snapFault key off)
  else if l.tansOut w src then .inl (5, off, g.getD 0, 0)
  else if runs.any (fun x => s.wordsBad x.1 x.2) then .inl (0x14, 2 ^ 31 + key * 8192 + src, 0, 0)
  else
    let v := if xf = 0 then (if w = 16 then s.readWide key off else s.mem.readN (nodeBase key + off) w) else ofBytes ((snap.drop (off - z.1)).take w)
    let fixed := if xf ≠ 2 then s.wordsFixed (nodeBase key + src) w else if first then s.wordsFixed (nodeBase key + z.1) z.2 else s
    .inr (s.readBeat l key src w v, runs.foldl (fun (s : State) x => s.wordsFixed x.1 x.2) fixed)

/-- The next value of a node's read view, with the node advanced; or a fault (R104, R105, R390, R398). -/
def State.viewRead (s : State) (r : Region) (l : Load) (k : Nat) : Sum UFault (Beat × State) :=
  let key := elNode k
  let b := r.elAt l k
  let o := s.viewOff r l k true
  match rangeFault o.1 (l.viewWidth b true) o.2 with
  | some f => .inl f
  | none => match s.viewData l b key o.1.toNat (decide ((s.node key).rcnt = 0)) o.2 with
    | .inl f => .inl f
    | .inr x =>
      let nd := s.node key
      let total := l.patTotal b (patAt true)
      .inr (x.1, x.2.modNode key (fun q =>
        let q := q.advance true total
        if total ≤ nd.rcnt + 1 ∧ nd.mode ≠ 1 then q.putF nd.rbuf false else q))

/-- The value reaches the read port `lat` steps later (R291). -/
def State.portIn (s : State) (k lat : Nat) (v : Beat) : State := s.modEl k (fun e => { e with res := e.res ++ [⟨lat, 0, v⟩] })

/-- READ_AHEAD (R102): a streaming read view puts its next value into its port queue. -/
def State.readAhead (s : State) (key : Nat) : State :=
  let nd := s.node key
  match nd.owner.bind s.active, nd.owner with
  | some (r, l), some n =>
    let k := nodeEl key
    let i := (r.isl l k).getD 0
    if nd.mode = 0 ∧ nd.ahead.length < 8 ∧ s.edgeBehind r l k true = false ∧ s.paused (coreIsl (keyCore key)) = false ∧ (decide (nd.rcnt ≠ 0) || bit nd.f nd.rbuf) = true ∧ (l.isl.getD i Isl.idle).started = true
        ∧ (l.isl.getD i Isl.idle).frozen = false ∧ l.discarded = false then
      match s.viewRead r l k with
      | .inl f => s.freezeFault n i k f.1 f.2.1 f.2.2.1 f.2.2.2
      | .inr x => x.2.modNode key (fun nd => { nd with ahead := nd.ahead ++ [x.1] })
    else s
  | _, _ => s

/-- A fabric request to an ordered-update node: source 32 (R103); the tangents of a write are rounded to PFMT (R309). `mask` names the buffer whose pattern it ends, plus one; `expv` of a read is 1 where
it begins a pattern. -/
def State.fabRequest (s : State) (l : Load) (k op off w : Nat) (v : Beat) (last : Nat) : State :=
  let ts := if op < 16 then [] else l.tansAt w off
  let code (p i : Nat) : Nat × FlagSet := tanStore (((ts.find? (fun t => decide (t.1 = p))).map (fun t => t.2.2)).getD 0) (v.lane p i)
  let fl := if op = 17 then orAll (ts.flatMap (fun t => (List.range (w / 4)).map (fun i => (code t.1 i).2))) else 0
  let r : NodeReq :=
    { id := s.nextId, time := s.dieNs (elDie k), src := 32, op := op, off := off, bytes := w, val := v.v0.setWidth 512, expv := v.lane 0 1,
      mask := last, signed := false, k := l.k, planes := [1, 2, 3].map (fun p => ofLanes ((List.range (w / 4)).map (fun i => (code p i).1))),
      tans := ts, fl := fl, load := some s.el.reg, due := s.holdEnd (elNode k), loc := 0 }
  { s.modNode (elNode k) (fun n => { n with queue := n.queue ++ [r] }) with nextId := s.nextId + 1 }

/-- NR (R291): the next read of the node's read view. -/
def State.nodeRead (s : State) : State :=
  match s.active s.el.reg with
  | none => s
  | some (r, l) =>
    let k := s.el.pos
    let key := elNode k
    let nd := s.node key
    if ¬ nd.ready true then s
    else if nd.mode = 0 then
      let s := if nd.ahead.isEmpty then s.readAhead key else s
      match (s.node key).ahead with
      | [] => s
      | v :: t => (s.modNode key (fun nd => { nd with ahead := t })).portIn k 1 v
    else if nd.mode = 1 then
      match s.viewRead r l k with
      | .inl f => s.elFault f
      | .inr x => x.2.portIn k 2 x.1
    else
      let w := l.viewWidth (r.elAt l k) true
      let o := s.viewOff r l k true
      match rangeFault o.1 w o.2 with
      | some f => s.elFault f
      | none =>
        let total := l.patTotal (r.elAt l k) (patAt true)
        let last := if total ≤ nd.rcnt + 1 then nd.rbuf + 1 else 0
        (s.fabRequest l k 16 o.1.toNat w (if nd.rcnt = 0 then Beat.of [[0, 1, 0, 0]] 0 else Beat.zero) last).modNode key (fun nd => nd.advance true total)

/-! ## Writes -/

/-- A beat reaches a write view (R112, R113, R399, R400): the view's decoder and expected tag, or a fault. -/
def writeCheck (d : Dec) (tag k : Nat) (v : Beat) : Sum UFault (Dec × Nat) :=
  if v.mark = 1 then
    match headerForm 16 k (v.v0.toNat % 2 ^ 64) with
    | some f => .inl f
    | none => .inr ({ Dec.empty with hdr := some (v.v0.setWidth 64) }, tag)
  else if v.mark = 2 then
    match d.hdr with
    | none => .inr (d, tag)
    | some h =>
      let n := payBeats (bits h.toNat 4 0) (bits h.toNat 38 33)
      if d.group = 0 ∧ bits h.toNat 28 17 ≠ tag then .inl (7, h.toNat, tag, 16)
      else if d.group + 1 = n then .inr (Dec.empty, (tag + 1) % 4096)
      else .inr ({ d with group := d.group + 1 }, tag)
  else .inr (d, tag)

/-- NW (R291): the next write of the node's write view; 16 bytes are four word accesses (R149). -/
def State.nodeWrite (s : State) : State :=
  match s.active s.el.reg with
  | none => s
  | some (r, l) =>
    let k := s.el.pos
    let key := elNode k
    let nd := s.node key
    let b := r.elAt l k
    let w := l.viewWidth b false
    if ¬ nd.ready false ∨ s.portHas r l k (viewWords w) = false then s
    else
      let o := s.viewOff r l k false
      let v := s.portValue r l k (viewWords w)
      match l.accessFault o.1 w o.2 with
      | some f => s.elFault f
      | none => match writeCheck (s.elem k).da nd.wtag l.k v.1 with
        | .inl f => s.elFault f
        | .inr c =>
          let off := o.1.toNat
          let s := v.2
          let total := l.patTotal b (patAt false)
          let n := nd.wbuf
          let last := decide (total ≤ nd.wcnt + 1)
          let s := (s.modEl k (fun e => { e with da := c.1 })).modNode key (fun nd => { nd.advance false total with wtag := c.2 })
          if nd.mode = 2 then s.fabRequest l k 17 off w v.1 (if last then n + 1 else 0)
          else
            let s := if w = 16 then s.writeWide key off v.1.v0.toNat else { s with mem := s.mem.writeN (nodeBase key + off) w v.1.v0.toNat }
            let t := storeBeatTans s.mem l key off w v.1
            let s := ({ s with mem := t.1 }).loadFlags s.el.reg t.2
            if last ∧ nd.mode = 0 then s.modNode key (fun nd => (nd.putF n true).handOver 1) else s

/-- Two scheduled requests of a random-mode node that meet in one bank (R397): the fault, of accesses that are in range and aligned (R398). Plane p of both accesses is served in cycle p of the
step (R309). -/
def State.bankFault (s : State) : Option UFault :=
  match s.active s.el.reg with
  | none => none
  | some (r, l) =>
    let k := s.el.pos
    let b := r.elAt l k
    let wo := s.viewOff r l k false
    let qo := s.viewOff r l k true
    let w := wo.1
    let q := qo.1
    if (s.node (elNode k)).mode = 1 ∧ rangeFault w (l.viewWidth b false) wo.2 = none ∧ rangeFault q (l.viewWidth b true) qo.2 = none then
      let tq := l.tansAt (l.viewWidth b true) q.toNat
      let pairs := (w.toNat, q.toNat) :: (l.tansAt (l.viewWidth b false) w.toNat).filterMap (fun t =>
        (tq.find? (fun u => decide (u.1 = t.1))).map (fun u => (t.2.1, u.2.1)))
      (pairs.find? (fun x => decide (x.1 / 16 % 8 = x.2 / 16 % 8))).map (fun x =>
        (6, x.1 / 16 % 8 + x.1 % 65536 * 2 ^ 16 + x.2 % 65536 * 2 ^ 32, 0, 1))
    else none

/-- NAT (R292): an atomic from the fabric port. -/
def State.nodeAtomic (s : State) (op : Nat) : State :=
  match s.active s.el.reg with
  | none => s
  | some (r, l) =>
    let k := s.el.pos
    let key := elNode k
    let nd := s.node key
    let b := r.elAt l k
    let w := atomicBytes op
    if ¬ nd.ready false ∨ nd.mode = 0 ∨ s.portHas r l k (atomicWords op) = false then s
    else
      let o := s.viewOff r l k false
      let v := s.portValue r l k (atomicWords op)
      match rangeFault o.1 w o.2 with
      | some f => s.elFault f
      | none =>
        let off := o.1.toNat
        let total := l.patTotal b (patAt false)
        let n := nd.wbuf
        let last := decide (total ≤ nd.wcnt + 1)
        if nd.mode = 2 then
          (v.2.fabRequest l k op off w v.1 (if last then n + 1 else 0)).modNode key (fun nd => nd.advance false total)
        else if s.wordsBad (nodeBase key + off) w then s.elFault (0x14, 2 ^ 31 + key * 8192 + off, 0, 0)
        else
          let s := v.2
          let old := s.mem.readN (nodeBase key + off) w
          let x := atomicNew op old (v.1.v0.toNat % 2 ^ 64) (v.1.lane 0 1)
          let s := ({ s with mem := s.mem.writeN (nodeBase key + off) w x.1 }).loadFlags s.el.reg x.2
          ((s.wordsFixed (nodeBase key + off) w).modNode key (fun nd => nd.advance false total)).portIn k 2
            { Beat.of [] 0 with v0 := BitVec.ofNat 128 old }

/-- NNOP: no access (R290). -/
def execNnop (s : State) : Host.Outcome State Fault Refusal := .next s

/-- NW (R291). -/
def execNw (s : State) : Host.Outcome State Fault Refusal := .next (if s.el.squash then s else s.nodeWrite)

/-- NR (R291). -/
def execNr (s : State) : Host.Outcome State Fault Refusal := .next (if s.el.squash then s else s.nodeRead)

/-- NWR: both views, or neither in a bank conflict (R291, R397). -/
def execNwr (s : State) : Host.Outcome State Fault Refusal :=
  .next (if s.el.squash then s else match s.bankFault with
    | some f => s.elFault f
    | none => s.nodeRead.nodeWrite)

/-- NAT (R292). -/
def execNat (o : Nat) (s : State) : Host.Outcome State Fault Refusal := .next (if s.el.squash then s else s.nodeAtomic o)

/-! ## Ordered-update execution (R103) -/

/-- The end of a pattern sets or clears F when its last access is performed (R101). -/
def Node.closes (nd : Node) (q : NodeReq) : Node :=
  if q.src ≠ 32 ∨ q.mask = 0 then nd else nd.putF (q.mask - 1) (decide (q.op ≠ 16))

/-- A request of a load whose island is frozen holds with its island (R359). -/
def State.reqHeld (s : State) (key : Nat) (q : NodeReq) : Bool :=
  match q.load.bind s.active with
  | some (r, l) => (l.isl.getD ((r.isl l (nodeEl key)).getD 0) Isl.idle).frozen
  | none => false
/-- Cycles of the node that a request takes (R103, R307, R309). -/
def NodeReq.cycles (q : NodeReq) : Nat := if q.op = 18 ∨ q.op = 19 then 4 * (1 + q.k) else if q.src = 32 then 1 + q.k else 1

/-- A fabric request is performed (R103, R105, R136, R390, R398): `p` what it did to the node, `lost` whether its word was. -/
def State.fabPerformed (s : State) (key n : Nat) (r : Region) (l : Load) (q : NodeReq) (p : NodeRes) (lost : Bool) : State :=
  let k := nodeEl key
  let i := (r.isl l k).getD 0
  if q.op = 16 then
    match s.viewData l (r.elAt l k) key q.off (decide (q.expv = 1)) none with
    | .inl f => s.freezeFault n i k f.1 f.2.1 f.2.2.1 f.2.2.2
    | .inr x => x.2.modNode key (fun nd => { nd with port := { x.1 with new := true } })
  else
    let s := s.loadFlags n p.fl
    if lost then s.freezeFault n i k 0x14 (2 ^ 31 + key * 8192 + q.off) 0 0
    else if q.op = 17 then s
    else s.modNode key (fun nd => { nd with port := { Beat.of [] 0 with v0 := BitVec.ofNat 128 ((p.planes.headD 0).toNat % 2 ^ (8 * q.bytes)) } })

/-- ORDERED_UPDATE_EXECUTE (R103): the earliest request is performed once it has been held for 8 node cycles and the node is free. -/
def State.orderedExecute (s : State) (key : Nat) : State :=
  let nd := s.node key
  match Node.first { nd with queue := nd.queue.filter (fun q => !s.reqHeld key q) } with
  | none => s
  | some q =>
    let t := Nat.max q.due nd.next
    if s.cycle (coreIsl (keyCore key)) < t ∨ s.paused (coreIsl (keyCore key)) = true then s
    else
      let a := nodeBase key + q.off
      let next := s.goOn (keyCore key) t + q.cycles
      let s := s.modNode key (fun nd => { nd with queue := nd.queue.erase q, next := next }.closes q)
      let p := performReq s.mem (nodeBase key) q
      let runs := (a, q.bytes) :: tanRuns (nodeBase key) (q.bytes / 4) q.tans
      let lost := q.reads && runs.any (fun x => s.wordsBad x.1 x.2)
      let s := if q.reads then runs.foldl (fun (s : State) x => s.wordsFixed x.1 x.2) s else s
      let s := { s with mem := p.mem }
      if q.src = 32 then
        match q.load.bind s.active, q.load with
        | some (r, l), some n => s.fabPerformed key n r l q p lost
        | _, _ => s
      else
        let s := s.fillWait q.src q.id p.planes p.fl lost
        if lost then s.eccTrap q.src q.loc (2 ^ 31 + key * 8192 + q.off) else s

/-- ORDERED_UPDATE_EXECUTE (R103). -/
def execOrderedUpdateExecute (s : State) : Host.Outcome State Fault Refusal := .next (s.orderedExecute (s.arg 0))

/-- READ_AHEAD (R102). -/
def execReadAhead (s : State) : Host.Outcome State Fault Refusal := .next (s.readAhead (s.arg 0))

/-! ## Address generators (R294, R295) -/

/-- The declared rider of stream port `p` (R295). -/
def Load.portRider (l : Load) (p : Nat) : Option (Nat × Nat × Nat × Nat) :=
  ((List.range (hd l.img 63 56)).map (imgRider l.img)).find? (fun e =>
    decide (e.2.2.1 = 1 ∧ e.2.2.2 = 0 ∧ bits e.1 255 252 = 3 ∧ bits e.1 66 64 = p))

/-- One emission that a generator asks of the stream dispatcher, behind those of its port that wait (R295). -/
def State.askEmission (s : State) (n k p : Nat) (addr : Int) : State :=
  match s.active n with
  | none => s
  | some (_, l) => match l.portRider p with
    | none => s
    | some e =>
      let c := coreOfTile (elDie k) (elX k / 4) (elY k / 4)
      let va := ((e.2.1 : Int) + 4 * addr).toNat
      let q := Rider.ask .stream (.load n) c l.func l.asid (some l.team) (mkRecord (bits e.1 63 32) p 0 0 0) va 0
      if s.waiting.any (fun x => x.samePort q) then { s with waiting := s.waiting ++ [q] } else s.admitOrWait q (c / 8) (eTile (c / 8) (c % 8) va)

/-- The counters of a generator after an emission, and whether the outermost wrapped (R294). -/
def genNext (cnt : Nat → Nat) (j : List Nat) : List Nat × Bool :=
  let j0 := j.getD 0 0 + 1
  let w0 := decide (cnt 0 < j0)
  let j1 := j.getD 1 0 + b2n w0
  let w1 := decide (cnt 1 < j1)
  let j2 := j.getD 2 0 + b2n w1
  let w2 := decide (cnt 2 < j2)
  let j3 := j.getD 3 0 + b2n w2
  let w3 := decide (cnt 3 < j3)
  ([if w0 then 0 else j0, if w1 then 0 else j1, if w2 then 0 else j2, if w3 then 0 else j3], w3)

/-- GEMIT (R294): the current address goes to a port; the counters advance. -/
def State.genEmit (s : State) (p : Nat) : State :=
  match s.active s.el.reg with
  | none => s
  | some (r, l) =>
    let k := s.el.pos
    let b := s.el.base
    let j := (s.elem k).j
    let st (i : Nat) : Int := sint 32 (l.at b (0x050 + 4 * i) 4)
    let addr : Int := sint 32 (l.at b 0x044 4) + (j.getD 0 0 : Nat) * st 0 + (j.getD 1 0 : Nat) * st 1 + (j.getD 2 0 : Nat) * st 2
      + (j.getD 3 0 : Nat) * st 3
    let bd := r.binding l k p
    let s := match bits bd 31 30 with
      | 1 => s.modNode (r.bindNode bd) (fun nd => { nd with gw := addr })
      | 2 => s.modNode (r.bindNode bd) (fun nd => { nd with gr := addr })
      | 3 => s.askEmission s.el.reg k (bits bd 2 0) addr
      | _ => s
    let x := genNext (fun i => l.at b (0x048 + 2 * i) 2) j
    let s := s.modEl k (fun e => { e with j := x.1 })
    if x.2 ∧ bit (l.at b 0x043 1) 0 then s.sendToken s.el.reg k (l.at b 0x060 8) else s

/-- GNOP: nothing (R295). -/
def execGnop (s : State) : Host.Outcome State Fault Refusal := .next s

/-- GEMIT (R294). -/
def execGemit (p : Nat) (s : State) : Host.Outcome State Fault Refusal := .next (if s.el.squash then s else s.genEmit p)

/-! ## Converter nodes (R297, R298) -/

/-- The elements of plane `p` that a beat brings to a converter of format `f`: values, or pairs of values. -/
def convElems (f p : Nat) (v : Beat) : List (List Val) :=
  if f = 18 ∨ f = 19 then
    [[v.val 6 0 0, v.val 6 0 1], [v.val 6 0 2, v.val 6 0 3]].mapIdx (fun i l =>
      if p = 0 then l else [v.tan p (2 * i), v.tan p (2 * i + 1)])
  else (List.range 4).map (fun i =>
    [if p ≠ 0 then v.tan p i else v.val (if f ∈ [10, 11, 12, 13] then 3 else 0) 0 i])

/-- A closed block as the beats of its packets (R297, R310), with its flags. -/
def convPacket (l : Load) (b tag : Nat) (blk : List Beat) : List Beat × FlagSet :=
  let f := l.at b 0x044 1 % 32
  let cfg := l.at b 0x045 1
  let rm := cfg % 4
  let count := l.at b 0x048 1 + 1
  let x := l.at b 0x049 1
  let els (p : Nat) : List (List Val) := (blk.flatMap (convElems f p)).take count
  let prim := els 0
  let code := if isBlockFmt f then (if bit cfg 2 then l.at b 0x046 2 else blockScale f (prim.map (fun v => v.headD .nan))) else 0x1FC
  let enc (p : Nat) (v : Val) : LaneRes :=
    let r := if p = 0 then rm else 0
    if isBlockFmt f then encodeScaled f code r v
    else match Fmt.ofCode (if f = 18 then 1 else if f = 19 then 2 else f) with
      | some g => g.encode r v
      | none => (0, 0)
  let plane (p : Nat) : List Nat × FlagSet :=
    let rs := (els p).map (fun vs => vs.map (enc p))
    (packetBeats (mkHeader f (bits x 1 0) code tag (bits x 7 4) prim.length (if p = 0 then bits x 3 2 else p)) f
      (rs.map (fun ws => packCodes (if f = 18 ∨ f = 19 then 16 else fmtWidth f) (ws.map Prod.fst))), orAll ((rs.flatMap id).map Prod.snd))
  let ps := (List.range (l.k + 1)).map plane
  let beat (i : Nat) : Beat :=
    let v (p : Nat) : BitVec 128 := BitVec.ofNat 128 ((ps.getD p ([], 0)).1.getD i 0)
    { Beat.of [] (if i = 0 then 1 else 2) with v0 := v 0, v1 := v 1, v2 := v 2, v3 := v 3 }
  ((List.range ((ps.getD 0 ([], 0)).1.length)).map beat, orAll (ps.map Prod.snd))

/-- Elements gathered by a converter. -/
def convHeld (f : Nat) (blk : List Beat) : Nat := (blk.flatMap (convElems f 0)).length

/-- An entry would close a third block (R298): its step stalls. DESIGN CHOICE: also where the OUT of the same step emits the last beat of the oldest
packet; it frees its place for the next step (log entry 133). -/
def Load.convStalls (l : Load) (b w : Nat) (e : El) (src : Beat) : Bool :=
  let f := l.at b 0x044 1 % 32
  let blk := if bit w 15 ∧ src.new = true then e.blk ++ [src] else e.blk
  let n := convHeld f blk
  decide (2 ≤ e.packs.length) && (decide (l.at b 0x048 1 + 1 ≤ n) || (bit w 13 && decide (n ≠ 0)))

/-- A converter ring entry (R297, R298): OUT, IN, CLOSE. -/
def State.convert (s : State) (inn out close : Bool) : State :=
  match s.active s.el.reg with
  | none => s
  | some (_, l) =>
    let k := s.el.pos
    let b := s.el.base
    if bit (l.at b 0x045 1) 3 ∨ l.convStalls b (b2n inn * 2 ^ 15 + b2n close * 2 ^ 13) (s.elem k) s.el.a then s
    else
      let s := if out then
          match (s.elem k).packs with
          | p :: t => match p.left, p.beats with
            | 0, v :: r => s.modEl k (fun e => { e with res := e.res ++ [⟨1, 0, v⟩], packs := if r.isEmpty then t else { p with beats := r } :: t })
            | _, _ => s
          | [] => s
        else s
      let f := l.at b 0x044 1 % 32
      let s := if inn ∧ s.el.a.new = true then s.modEl k (fun e => { e with blk := e.blk ++ [s.el.a] }) else s
      let e := s.elem k
      let n := convHeld f e.blk
      if l.at b 0x048 1 + 1 ≤ n ∨ (close = true ∧ n ≠ 0) then
        let x := convPacket l b e.ctag e.blk
        (s.loadFlags s.el.reg x.2).modEl k (fun e => { e with blk := [], packs := e.packs ++ [⟨4, x.1⟩], ctag := (e.ctag + 1) % 4096 })
      else s

/-- CNOP: nothing (R298). -/
def execCnop (s : State) : Host.Outcome State Fault Refusal := .next s
/-- CIN: takes a new source value (R298). -/
def execCin (s : State) : Host.Outcome State Fault Refusal := .next (if s.el.squash then s else s.convert true false false)
/-- COUT: presents the next beat of the oldest ready packet (R298). -/
def execCout (s : State) : Host.Outcome State Fault Refusal := .next (if s.el.squash then s else s.convert false true false)
/-- CIN and COUT (R298). -/
def execCinCout (s : State) : Host.Outcome State Fault Refusal := .next (if s.el.squash then s else s.convert true true false)
/-- CCLOSE: closes the block (R298). -/
def execCclose (s : State) : Host.Outcome State Fault Refusal := .next (if s.el.squash then s else s.convert false false true)
/-- CIN and CCLOSE (R298). -/
def execCinCclose (s : State) : Host.Outcome State Fault Refusal := .next (if s.el.squash then s else s.convert true false true)
/-- COUT and CCLOSE (R298). -/
def execCoutCclose (s : State) : Host.Outcome State Fault Refusal := .next (if s.el.squash then s else s.convert false true true)
/-- CIN, COUT and CCLOSE (R298). -/
def execCinCoutCclose (s : State) : Host.Outcome State Fault Refusal := .next (if s.el.squash then s else s.convert true true true)

end Sys2Proof.Machine
end

