-- ==== Sys2Proof/Machine/FabStep.lean ====
section
/-! DEFINITION. One cycle of a timing island (R28 to R37, R274 to R278, R297): what a step needs, the operand lines, the turns of its
elements, and the latches at its end. -/

namespace Sys2Proof.Machine

open Sys2Proof

/-! ## Values between elements (R32, R36, R278) -/

/-- What element `k` presents toward direction `d`: a bypass element the value it passes on, any other its output. -/
def State.presents (s : State) (k d : Nat) : Beat :=
  let e := s.elem k
  if (elKind k).passes then e.by_.getD d Beat.zero else e.out

/-- The oldest entry of the FIFO on a link. -/
def State.fifoHead (s : State) (key : Nat) : Option (Nat × Beat × Word) :=
  (s.fifos.find? (fun f => decide (f.key = key))).bind (fun f => f.q.head?)
/-- The head may be read: two edges of the consumer have passed (R32). -/
def State.linkReady (s : State) (key : Nat) : Bool := match s.fifoHead key with | some x => decide (2 ≤ x.1 % 4) | none => false
/-- Take the head of a FIFO. -/
def State.fifoPop (s : State) (key : Nat) : State :=
  { s with fifos := s.fifos.map (fun f => if f.key = key then { f with q := f.q.drop 1 } else f) }
/-- Entries of a FIFO. -/
def State.fifoLen (s : State) (key : Nat) : Nat := ((s.fifos.find? (fun f => decide (f.key = key))).map (fun f => f.q.length)).getD 0

/-- The link between islands that source direction `d` of element `k` names. -/
def Region.linkOf (r : Region) (l : Load) (k d : Nat) : Option Nat :=
  match r.neighbour k d 1 with
  | some j => if r.isl l j ≠ r.isl l k then some (linkKey j (opposite d)) else none
  | none => none

/-- The value that neighbour direction `d` of element `k` gives. -/
def State.fromSide (s : State) (r : Region) (l : Load) (k d : Nat) : Beat :=
  match r.neighbour k d 1 with
  | none => Beat.zero
  | some j => match r.linkOf l k d with
    | none => s.presents j (opposite d)
    | some key => match s.fifoHead key with
      | some x => { x.2.1 with new := true }
      | none => Beat.zero

/-- The control word that element `k` gives: a CE its control output, any other none. -/
def State.ctlOut (s : State) (k : Nat) : Word := if elKind k = .ce then (s.elem k).ctl else 0
/-- The control-plane input of a CE (R173): zero, N, W or its own control output; across an island edge, the control word of the FIFO's head (R32). -/
def State.ctlIn (s : State) (r : Region) (l : Load) (k code : Nat) : Word :=
  let side (d : Nat) : Word := match r.linkOf l k d with
    | some key => ((s.fifoHead key).map (fun x => x.2.2)).getD 0
    | none => ((r.neighbour k d 1).map s.ctlOut).getD 0
  match code with
  | 0 => 0
  | 1 => side 0
  | 2 => side 3
  | _ => (s.elem k).ctl

/-- A 32-bit value in all four lanes, plain and not new. -/
def splat (w : Nat) : Beat := { Beat.of [[w, w, w, w]] 0 with new := false }

/-- The value that source code `c` names at element `k` (R173, R174), for a route word and a tap word. -/
def State.sourceValue (s : State) (r : Region) (l : Load) (k c route tap : Nat) : Beat :=
  let b := r.elAt l k
  if c < 4 then s.fromSide r l k c
  else if c < 8 then (match r.neighbour k (c - 4) 4 with
    | some j => (s.elem j).by_.headD Beat.zero
    | none => Beat.zero)
  else if c = 8 then (s.elem k).out
  else if c = 9 then splat (s.ctlIn r l k (bits route 3 2)).toNat
  else if c = 10 then splat (l.at b (0x0E0 + 4 * (tap % 16)) 4)
  else match r.portNode (l.at b 0x130 4) with
    | some key => (s.node key).port
    | none => Beat.zero

/-! ## Steps, iterations, readiness (R28 to R31) -/

/-- The iteration of a slot of stage `g` at step `s` (R30). -/
def slotIter (l : Load) (i g s : Nat) : Int := (s / islII l.img i : Nat) - (g : Int)
/-- Iterations that the island runs: T, or the fold point that it drains to (R44). -/
def Load.bound (l : Load) (i : Nat) : Nat :=
  match (l.isl.getD i Isl.idle).fold with
  | some f => Nat.min (islT l.img i) f
  | none => islT l.img i
/-- Steps that the island runs (R29). -/
def Load.total (l : Load) (i : Nat) : Nat := (l.bound i + islG l.img i) * islII l.img i
/-- The slot of element `k` is squashed at step `s` (R30, R44). -/
def Load.squashed (l : Load) (i g s : Nat) : Bool :=
  let n := slotIter l i g s
  decide (n < ((l.isl.getD i Isl.idle).from? : Int) ∨ (l.bound i : Int) ≤ n)

/-- Links that leave island `i`. -/
def Region.linksOut (r : Region) (l : Load) (i : Nat) : List Nat :=
  (r.links l).filter (fun key => decide (r.isl l (key / 4) = some i))

/-- The link that bypass element `k` reads for what it presents toward `d`, if it carries a FIFO. -/
def Region.bypassLink (r : Region) (l : Load) (k d : Nat) : Option Nat :=
  match r.linkOf l k (opposite d) with
  | some key => if key ∈ r.links l then some key else none
  | none => none

/-- Whether an ordered-update node owes the fabric a value (R103). -/
def Node.owes (nd : Node) : Bool := nd.queue.any (fun q => decide (q.src = 32 ∧ q.op ≠ 17))

/-- Words of a stream port that a node's ring entry takes. -/
def Load.portNeed (l : Load) (b w : Nat) : Nat := if bit w 13 then atomicWords (bits w 12 9) else viewWords (l.viewWidth b false)

/-- Element `k` has what step `t` needs (R31). -/
def State.elReady (s : State) (r : Region) (l : Load) (i t k : Nat) : Bool :=
  let b := r.elAt l k
  let w := l.ringWord (elKind k) b t
  let dead := l.squashed i (l.stage (elKind k) b) t
  let side (d : Nat) : Bool := match r.linkOf l k d with
    | some key => s.linkReady key
    | none => true
  let pass := (List.range 4).all (fun d => match r.bypassLink l k d with
    | some key => s.linkReady key
    | none => true)
  match elKind k with
  | .ce =>
    let rt := l.route b t
    bit rt 0 || ((routeDirs rt).all side && (!(routeCodes rt).contains 11 || (match r.portNode (l.at b 0x130 4) with
      | some key => !(s.node key).owes
      | none => true)))
  | .node =>
    let nd := s.node (elNode k)
    pass && (dead || ((!bit w 14 || (nd.ready true && ((decide (nd.mode = 0) && !nd.ahead.isEmpty) || !s.edgeBehind r l k true)))
      && (!(bit w 15 || bit w 13) || (nd.ready false && !s.edgeBehind r l k false && s.portHas r l k (l.portNeed b w)))))
  | .conv =>
    let c := l.at b 0x043 1 % 16
    let v := s.sourceValue r l k c 0 0
    if bit (l.at b 0x045 1) 3 then decide (4 ≤ c) || side c
    else dead || ((!bit w 15 || decide (4 ≤ c) || side c) && !l.convStalls b w (s.elem k) v)
  | _ => pass

/-- Everything that the coming step of island `i` needs is ready (R31). -/
def State.stepReady (s : State) (r : Region) (l : Load) (i t : Nat) : Bool :=
  (r.islEls l.img i).all (s.elReady r l i t)
    && (r.linksOut l i).all (fun key => !(s.presents (key / 4) (key % 4)).new || decide (s.fifoLen key < 16))

/-! ## The beginning of a step: pushes, operand lines, ports -/

/-- New values enter the FIFOs that leave the island (R32, R274); in the cycles after the last step, those of results only. -/
def State.pushLinks (s : State) (r : Region) (l : Load) (i : Nat) (after : Bool) : State :=
  (r.linksOut l i).foldl (fun (s : State) key =>
    let v := s.presents (key / 4) (key % 4)
    if v.new ∧ ¬ (after = true ∧ (elKind (key / 4)).passes = true) then
      { s with fifos := s.fifos.map (fun f => if f.key = key then { f with q := f.q ++ [(4 * s.now, v, s.ctlOut (key / 4))] } else f) }
    else s) s

/-- One of the lines of a CE takes its value (R30, R276): the line, its decoder, a fault. -/
def lineTake (decodes : Bool) (site k : Nat) (line : List Beat) (d : Dec) (v : Beat) : List Beat × Dec × Option UFault :=
  if decodes then
    let x := d.step site k v
    match x.2.2 with
    | some f => (line, d, some f)
    | none => match x.2.1 with
      | some e => ((e :: line).take 16, x.1, none)
      | none => (line, x.1, none)
  else ((v :: line).take 16, d, none)

/-- The lines of CE `k` shift at step `t` (R30). -/
def State.shiftLines (s : State) (n : Nat) (r : Region) (l : Load) (i t k : Nat) : State :=
  let b := r.elAt l k
  let rt := l.route b t
  if bit rt 0 then s
  else
    let tp := l.tap b t
    let fl := l.at b 0x124 1
    let e := s.elem k
    let v (j : Nat) : Beat := s.sourceValue r l k ((routeCodes rt).getD j 0) rt tp
    let x := lineTake (bit fl 1) 0 l.k e.a e.da (v 0)
    let y := lineTake (bit fl 2) 1 l.k e.b e.db (v 1)
    let z := lineTake (bit fl 3) 2 l.k e.c e.dc (v 2)
    let s := s.modEl k (fun e => { e with a := x.1, da := x.2.1, b := y.1, db := y.2.1, c := z.1, dc := z.2.1 })
    match (x.2.2.or y.2.2).or z.2.2 with
    | some f => s.freezeFault n i k f.1 f.2.1 f.2.2.1 f.2.2.2
    | none => s

/-- The links whose heads the CEs and converters of the island read at step `t`. -/
def Region.popped (r : Region) (l : Load) (i t : Nat) : List Nat :=
  ((r.islEls l.img i).flatMap (fun k =>
    let b := r.elAt l k
    match elKind k with
    | .ce =>
      let rt := l.route b t
      if bit rt 0 then [] else (routeDirs rt).filterMap (r.linkOf l k)
    | .conv =>
      let c := l.at b 0x043 1 % 16
      if c < 4 ∧ (bit (l.at b 0x045 1) 3 = true ∨ (l.squashed i (l.stage .conv b) t = false ∧ bit (l.ringWord .conv b t) 15 = true)) then
        (r.linkOf l k c).toList else []
    | _ => [])).eraseDups

/-- The position of an X tile at which an operand port whose source is edge `d` stands, as an element key (R251). -/
def portPos (k d : Nat) : Nat := match d with | 1 => k + 3 * 2 ^ 8 | 2 => k + 3 | _ => k

/-- One operand port of X tile `k` takes a new header or payload beat from its edge (R240, R251). Across an island edge that is the head of the
link's FIFO, which the bypass element at the edge passes on and takes off at the end of the step (R32, R278). -/
def State.portTake (s : State) (r : Region) (l : Load) (k d : Nat) (a : Bool) : State :=
  let v := s.fromSide r l (portPos k d) d
  if v.new ∧ (v.mark = 1 ∨ v.mark = 2) then
    s.modTile (xtOf k) (fun t => if a then { t with aq := t.aq ++ [v] } else { t with bq := t.bq ++ [v] })
  else s

/-- The ports of the X tiles of an island (R251). -/
def State.tilePorts (s : State) (r : Region) (l : Load) (i : Nat) : State :=
  ((r.islEls l.img i).filter (fun k => decide (elKind k = .xt ∧ elIdx k = 0))).foldl (fun s k =>
    let b := r.elAt l k
    if l.at b 0 1 = 1 then (s.portTake r l k (l.at b 6 1 % 4) true).portTake r l k (l.at b 7 1 % 4) false else s) s

/-- Order of the turns within a step: nodes, CEs, converters, generators. -/
def elOrder (l : List Nat) : List Nat :=
  l.filter (fun k => decide (elKind k = .node)) ++ l.filter (fun k => decide (elKind k = .ce))
    ++ l.filter (fun k => decide (elKind k = .conv)) ++ l.filter (fun k => decide (elKind k = .gen))

/-- The turns of a step: every element with a ring, then the latches. -/
def stepTurns (n : Nat) (r : Region) (l : Load) (i t : Nat) : List Go :=
  (elOrder (r.islEls l.img i)).map (fun k => ⟨0, .element n i k (elKind k).place (l.ringWord (elKind k) (r.elAt l k) t)⟩)
    ++ [⟨0, .latch n i⟩]

/-! ## A cycle -/

/-- An edge of the consumer's clock passes for every FIFO that leads into island `i` (R32). -/
def State.ageLinks (s : State) (r : Region) (l : Load) (i : Nat) : State :=
  { s with fifos := s.fifos.map (fun f =>
    if (match r.reader f.key with
        | some k => decide (r.isl l k = some i)
        | none => false) then { f with q := f.q.map (fun x => if x.1 / 4 < s.now ∧ x.1 % 4 < 2 then (x.1 + 1, x.2) else x) }
    else f) }

/-- The clocks of a region's tiles run (R42). -/
def Phase.clocked (p : Phase) : Bool := match p with | .token => false | .fill => false | .empty => false | _ => true

/-- The transform commands of an island begin to wait at their nodes (R299). -/
def State.startTransforms (s : State) (n : Nat) (r : Region) (l : Load) (i : Nat) : State :=
  ((r.islEls l.img i).filter (fun k => decide (elKind k = .xform))).foldl (fun (s : State) k =>
    let b := r.elAt l k
    if l.zeros b 512 then s
    else
      let d := l.at b 0x020 1
      let x : Xform := { rcd := BitVec.ofNat 256 (l.at b 0 32), inv := bit d 0, s := bits d 4 1, core := l.core, team := some l.team, load := some n,
                         begun := false, out := [], fl := 0, bad := none, due := 0 }
      { s with xforms := Tab.mod [] s.xforms (xformUnit k) (· ++ [x]) }) s

/-- What an AFTER field names has ended its patterns (R147): an element of another island with its island, a declared rider with its stamp, written since
the load's image was fetched. -/
def Load.ended (l : Load) (r : Region) (i : Option Nat) (after : Nat) : Bool :=
  if after < r.engines then (match r.isl l (r.engineEl after) with
    | some j => decide (some j = i) || (l.isl.getD j Isl.idle).ended
    | none => true)
  else l.ran.contains (after - r.engines)

/-- The declared edges into island `i` are open (R147): each engine that an AFTER field of one of its elements' ranges names has ended its patterns.
The loader realises such an edge as a token route to the start endpoint; that the island's start waits for it is the model's reading. An edge within
one island holds back the patterns behind it, not the start (`State.edgeBehind`) (DEDUCED, log entry 101). -/
def Load.edgesOpen (l : Load) (r : Region) (i : Nat) : Bool :=
  (List.range (hd l.img 55 48)).all (fun n =>
    let g := imgRange l.img n
    decide (g.after = 0xFFFF ∨ r.engines ≤ g.eng ∨ r.isl l (r.engineEl g.eng) ≠ some i) || l.ended r (some i) g.after)

/-- An edge declared into rider `q` of a resident load is not open yet: what it delivers waits (R147, log entry 101). -/
def State.riderBehind (s : State) (q : Rider) : Bool :=
  decide (q.owner = .core) && s.regions.any (fun r => r.active.any (fun l => decide (q.team = some l.team) && !l.discarded
    && (List.range (hd l.img 55 48)).any (fun n =>
      let g := imgRange l.img n
      let e := imgRider l.img (g.eng - r.engines)
      decide (g.after ≠ 0xFFFF ∧ r.engines ≤ g.eng ∧ e.1 = q.rcd.toNat ∧ e.2.1 = q.xa) && !l.ended r none g.after)))

/-- An island accepts its start token (R29): s := 0, or the step of the fold point from which it resumes (R65); its generators' counters are
zero (R294), its transform nodes take their commands (R299), and what engines wrote before it comes before its accesses (R147). DESIGN CHOICE: R299 has a node run its command once, on the start token, and R65 does
not say whether a variant that resumes at a fold point runs it again; every island of the variant that takes its start token does (log entry 121). -/
def State.startIsland (s : State) (n i : Nat) : State :=
  match s.active n with
  | none => s
  | some (r, l) =>
    let s := s.modIsl n i (fun x => { x with started := true, startPend := false, s := x.from? * islII l.img i, cyc := 0 })
    let s := ((r.islEls l.img i).filter (fun k => decide (elKind k = .gen))).foldl (fun (s : State) k => s.modEl k (fun e => { e with j := [0, 0, 0, 0] })) s
    ({ s with nodes := s.nodes.map (fun x => if x.2.owner = some n then (x.1, { x.2 with recent := [] }) else x) } : State).startTransforms n r l i

/-- Every island of a load is frozen: a load that froze under FRZHOLD is held (R361). -/
def State.heldNow (s : State) (n : Nat) : State :=
  s.modActive n (fun l => if l.isFrozen then { l with held := bit s.frzctl.toNat 0 } else l)

/-- ISLAND_FREEZE (R358): the clock of an island is gated. -/
def State.islandFreeze (s : State) (n i : Nat) : State :=
  match s.active n with
  | some (_, l) =>
    let il := l.isl.getD i Isl.idle
    if il.freezeIn = some 0 ∧ il.frozen = false then
      let s := (s.modIsl n i (fun x => { x with frozen := true })).heldNow n
      s.post .faultEdge [n]
    else s
  | none => s

/-- An operand port of X tile element `k` waits for a packet of the stream port that feeds it (R240, R260). -/
def State.tileStarved (s : State) (k a : Nat) : Bool :=
  let t := s.xtile (xtOf k)
  match t.queue with
  | e :: _ => e.begun && decide ((e.kind = .step ∨ e.kind = .pair) ∧ ¬ t.busy ∧ t.k < e.steps)
      && (if a = 1 then decide (e.f 10 9 = 2) && (takePackets 8 (e.f 15 11) (e.count t.k) (e.f 38 37) e.m t.atag t.aq).isNone
        else decide (e.f 26 25 = 2) && (takePackets 9 (e.f 31 27) (e.count t.k) (e.f 38 37) e.n t.btag t.bq).isNone)
  | [] => false

/-- A stream port at which a failing cell has stopped the words feeds place `a` of element `k` (R389). -/
def State.portStopped (s : State) (r : Region) (l : Load) (k a : Nat) : Bool :=
  match r.portOf l k a with
  | some x => Tab.get false s.portStop (portKey (some l.team) x.1 x.2)
  | none => false

/-- The element of island `i` that waits in this cycle for a word which a failing cell keeps from it (R389): a node's write view in a step that
stalls, or an operand port. -/
def State.deadPort (s : State) (r : Region) (l : Load) (i t : Nat) : Option Nat :=
  (r.islEls l.img i).find? (fun k =>
    let b := r.elAt l k
    let w := l.ringWord (elKind k) b t
    match elKind k with
    | .node => !l.squashed i (l.stage .node b) t && (bit w 15 || bit w 13) && !s.portHas r l k (l.portNeed b w) && s.portStopped r l k 0
    | .xt => decide (elIdx k = 0 ∧ l.at b 0 1 = 1) && ((s.portStopped r l k 1 && s.tileStarved k 1) || (s.portStopped r l k 2 && s.tileStarved k 2))
    | _ => false)

/-- A stall on a port that a failing cell has stopped freezes the load in the stall's first cycle (R358, R389). -/
def State.portFreeze (s : State) (n i : Nat) (r : Region) (l : Load) (t : Nat) : State :=
  match s.deadPort r l i t with
  | some k => s.freezeFault n i k 0x14 0 0 0
  | none => s

/-- ISLAND_STEP: one cycle of the clock of island `i` of region `n` (R29 to R31); none while the clock pauses (R24). The first cycle that begins 20 ns
or more after a freeze elsewhere in the load is its last (R358). -/
def State.islandCycle (s : State) (n i : Nat) : State :=
  match s.active n with
  | none => s
  | some (r, l) =>
    let il := l.isl.getD i Isl.idle
    let last := il.freezeIn.isNone && l.spread.any (fun t => decide (t ≤ s.ns))
    if ¬ r.phase.clocked ∨ l.discarded = true ∨ il.frozen = true ∨ s.paused (r.clock l i) = true then s
    else if il.freezeIn = some 0 then s.islandFreeze n i
    else
      let s := (s.modIsl n i (fun x => { x with freezeIn := if last then some 0 else x.freezeIn.map (· - 1) })).ageLinks r l i
      if ¬ il.started then (if il.startPend ∧ il.fold.isNone = true ∧ l.edgesOpen r i = true then s.startIsland n i else s)
      else if il.ended ∨ il.atFold = true then s
      else if l.total i ≤ il.s then
        if (r.linksOut l i).all (fun key => (elKind (key / 4)).passes || !(s.presents (key / 4) (key % 4)).new || decide (s.fifoLen key < 16)) then
          let s := (s.pushLinks r l i true).sendToks n l (r.islEls l.img i, r.elAt l)
          { s with turns := ⟨0, .latch n i⟩ :: s.turns }
        else s
      else if il.cyc < l.k then s.modIsl n i (fun x => { x with cyc := x.cyc + 1 })
      else if ¬ s.stepReady r l i il.s then (s.portFreeze n i r l il.s).modIsl n i (fun x => { x with cyc := x.cyc + 1 })
      else
        let s := s.portFreeze n i r l il.s
        let s := (s.pushLinks r l i false).sendToks n l (r.islEls l.img i, r.elAt l)
        let s := ((r.islEls l.img i).filter (fun k => decide (elKind k = .ce))).foldl (fun s k => s.shiftLines n r l i il.s k) s
        let s := s.tilePorts r l i
        let src := (r.islEls l.img i).filterMap (fun k =>
          if elKind k = .conv then some (k, s.sourceValue r l k (l.at (r.elAt l k) 0x043 1 % 16) 0 0) else none)
        let s := src.foldl (fun (s : State) x => s.modEl x.1 (fun e => { e with a := [x.2] })) s
        let s := (r.popped l i il.s).foldl State.fifoPop s
        { s with turns := stepTurns n r l i il.s ++ s.turns }

/-- The context of an element's turn (R30): its iteration, and the operands that its tap word selects. -/
def State.enterElement (s : State) (n i k : Nat) : State :=
  match s.active n with
  | none => { s with el := ElCtx.none }
  | some (r, l) =>
    let b := r.elAt l k
    let t := (l.isl.getD i Isl.idle).s
    let g := l.stage (elKind k) b
    let e := s.elem k
    let ce := decide (elKind k = .ce)
    let tp := if ce then l.tap b t else 0
    let pick (l : List Beat) (a : Nat) : Beat := l.getD a Beat.zero
    { s with el :=
      { reg := n, isl := i, pos := k, a := pick e.a (bits tp 15 12), b := pick e.b (bits tp 11 8), c := pick e.c (bits tp 7 4),
        iter := (slotIter l i g t).toNat, base := b, squash := l.squashed i g t } }

/-! ## The end of a step -/

/-- The results of an element after one step: those that land, in issue order, and those still in flight (R30, R280). -/
def ageRes (l : List Res) : List Res × List Res :=
  let q := l.map (fun (x : Res) => { x with left := x.left - 1 })
  (q.filter (fun x => decide (x.left = 0)), q.filter (fun x => decide (x.left ≠ 0)))

/-- The latches of CE `k` at the end of a step (R36, R280). -/
def State.latchCe (s : State) (r : Region) (l : Load) (k : Nat) : State :=
  let e := s.elem k
  let x := ageRes e.res
  let data := (x.1.filter (fun q => decide (q.dmode = 0 ∨ q.dmode = 2))).getLast?
  let ctl := (x.1.filter (fun q => decide (q.dmode = 1))).getLast?
  let node := (x.1.filter (fun q => decide (q.dmode = 2))).getLast?
  let s := match node, r.portNode (l.at (r.elAt l k) 0x134 4) with
    | some q, some key => s.modNode key (fun nd => { nd with wport := q.beat })
    | _, _ => s
  s.modEl k (fun e => { e with
    res := x.2, by_ := [e.out]
    out := match data with
      | some q => { q.beat with new := true }
      | none => { e.out with new := false }
    ctl := match ctl with
      | some q => q.beat.v0.setWidth 32
      | none => e.ctl })

/-- The read port of node element `k` (R274, R291). -/
def State.latchNode (s : State) (k : Nat) : State :=
  let x := ageRes (s.elem k).res
  let s := s.modNode (elNode k) (fun nd => { nd with port := match x.1.getLast? with
    | some q => { q.beat with new := true }
    | none => { nd.port with new := false } })
  s.modEl k (fun e => { e with res := x.2 })

/-- The latches of converter `k` (R297, R298). -/
def State.latchConv (s : State) (l : Load) (b k : Nat) : State :=
  let e := s.elem k
  let x := ageRes e.res
  let pass := bit (l.at b 0x045 1) 3
  s.modEl k (fun e => { e with
    res := x.2, by_ := [e.out]
    out := if pass then { e.a.headD Beat.zero with new := true } else match x.1.getLast? with
      | some q => { q.beat with new := true }
      | none => { e.out with new := false }
    packs := e.packs.map (fun p => { p with left := p.left - 1 }) })

/-- What bypass element `k` presents after this step (R278). -/
def State.passOn (s : State) (r : Region) (l : Load) (k : Nat) : List Beat :=
  (List.range 4).map (fun d => { (s.fromSide r l k (opposite d)) with new := true })

/-- THE END OF A STEP: every latch of the island takes its new value, and the counter advances (R29, R30). In the cycles after
the last step results land and nothing else moves. -/
def State.latchIsland (s : State) (n i : Nat) : State :=
  match s.active n with
  | none => s
  | some (r, l) =>
    let il := l.isl.getD i Isl.idle
    let els := r.islEls l.img i
    let after := decide (l.total i ≤ il.s)
    let moves := if after then [] else (els.filter (fun k => (elKind k).passes)).map (fun k => (k, s.passOn r l k))
    let pops := if after then [] else (els.filter (fun k => (elKind k).passes)).flatMap (fun k => (List.range 4).filterMap (r.bypassLink l k))
    let s := els.foldl (fun s k => match elKind k with
      | .ce => s.latchCe r l k
      | .node => s.latchNode k
      | .conv =>
        if after ∧ bit (l.at (r.elAt l k) 0x045 1) 3 = true then s.modEl k (fun e => { e with out := { e.out with new := false } })
        else s.latchConv l (r.elAt l k) k
      | _ => s) s
    let s := moves.foldl (fun (s : State) x => s.modEl x.1 (fun e => { e with by_ := x.2 })) s
    let s := pops.eraseDups.foldl State.fifoPop s
    let s := if after then s else s.modIsl n i (fun x => { x with s := x.s + 1, cyc := 0 })
    match il.fold with
    | some _ => if l.total i ≤ il.s + 1 then s.post .foldPointReached [n, i] else s
    | none => if l.total i ≤ il.s + 1 then s.post .finishToken [n, i] else s

/-- A stamp at local address `la` of core `c` is still on its way: in the retiming FIFO of the core's quadrant (R22), or to the saved image of a
member that is switched out (R120). -/
def State.onTheWay (s : State) (t c la : Nat) : Bool :=
  let mine (q : Rider) : Bool := decide (q.owner = .redirect t c)
  s.retime.any (fun x => decide (x.1 = some t ∧ x.2.1 = c ∧ x.2.2.1 = la))
    || (!bit la 31 && (s.riders.any mine || s.waiting.any mine || ((s.teams[t]?).map Team.late).any (fun l => l.any (fun x => decide (x.1 = c ∧ x.2.1 = bits la 19 0)))))

/-- The command of the transform node at element `k` is over and its stamp is written (R299). -/
def State.xformQuiet (s : State) (n : Nat) (r : Region) (l : Load) (k : Nat) : Bool :=
  (Tab.get [] s.xforms (xformUnit k)).all (fun x => decide (x.load ≠ some n)) && !s.onTheWay l.team l.core (l.at (r.elAt l k + 20) 0 4)

/-- Nothing of island `i` is in flight any more (R29, R38): results, values to be pushed, ordered requests, transforms and their stamps. -/
def State.islandQuiet (s : State) (n : Nat) (r : Region) (l : Load) (i : Nat) : Bool :=
  (r.islEls l.img i).all (fun k =>
      (match elKind k with
      | .node => (s.elem k).res.isEmpty && (s.node (elNode k)).queue.all (fun q => decide (q.src ≠ 32))
      | .xform => s.xformQuiet n r l k
      | .conv => (s.elem k).res.isEmpty
      | .ce => (s.elem k).res.isEmpty && !(s.elem k).tok
      | _ => (s.elem k).res.isEmpty))
    && (r.linksOut l i).all (fun key => (elKind (key / 4)).passes || !(s.presents (key / 4) (key % 4)).new)

/-- FOLD_POINT_REACHED (R44): the island has drained to its fold point; it waits there for the refolding. -/
def State.foldReached (s : State) (n i : Nat) : State :=
  match s.active n with
  | none => s
  | some (r, l) =>
    let il := l.isl.getD i Isl.idle
    if il.started ∧ il.fold.isSome ∧ l.total i ≤ il.s ∧ s.islandQuiet n r l i then
      s.modIsl n i (fun x => { x with atFold := true })
    else s

/-- ISLAND_STEP (R29 to R31). -/
def execIslandStep (s : State) : Host.Outcome State Fault Refusal := .next (s.islandCycle (s.arg 0) (s.arg 1))
/-- ISLAND_FREEZE (R358). -/
def execIslandFreeze (s : State) : Host.Outcome State Fault Refusal := .next (s.islandFreeze (s.arg 0) (s.arg 1))

/-- FREEZE_SPREAD (R358): from 20 ns after the record on, every other island stops at the end of its next cycle. -/
def State.freezeSpread (s : State) (n : Nat) : State :=
  match s.active n with
  | some (_, l) => match l.spread with
    | some t => if t ≤ s.ns then
        s.modActive n (fun l => { l with spread := none, isl := l.isl.map (fun x => if x.freezeIn.isNone then { x with freezeIn := some 1 } else x) })
      else s
    | none => s
  | none => s
/-- FREEZE_SPREAD (R358). -/
def execFreezeSpread (s : State) : Host.Outcome State Fault Refusal := .next (s.freezeSpread (s.arg 0))

end Sys2Proof.Machine
end

