-- ==== Sys2Proof/Machine/LoadCheck.lean ====
section
/-! DEFINITION. What the configuration loader checks of an image (R27, R28, R106, R148, R179 to R184, R278, R289, R290, R293, R296, R299,
R384, R403, R404). -/

namespace Sys2Proof.Machine

open Sys2Proof

/-- A refusal of the loader (R384, R403): reason (OP3), OP0, record kind and entry index (OP1), byte offset (OP2), LOC; `fetch` for
CFG_FETCH. -/
structure Rej where
  reason : Nat := 0
  op0 : Nat := 0
  kind : Nat := 6
  idx : Nat := 0
  off : Nat := 0
  loc : Nat := 0
  fetch : Bool := false
  /-- a refusal of R403 that R384 names too, so its record names the word of the image -/
  word : Bool := false
deriving DecidableEq, Repr

/-- A refusal where a condition fails. -/
def rejIf (b : Bool) (r : Rej) : Option Rej := if b then some r else none
/-- The first refusal of a list. -/
def firstRej (l : List (Option Rej)) : Option Rej := l.findSome? id

/-! ## The image as a whole (R179 to R184) -/

/-- Bytes of the tile records of a region of the given origin (R181). -/
def tileBytes (x y w h : Nat) : Nat :=
  (List.range (w * h)).foldl (fun n t => n + (if tileKind (x + t % w) (y + t / w) = .X then 512 else 8192)) 0

/-- The header alone against LEN (R179). The tile pattern repeats every 16 tiles, so ORGX and ORGY give the kinds of the region's tiles. -/
def headerBad (m : Memory) : Option Rej :=
  let len := hd m 511 480
  let word (o : Nat) : Nat := m.readN o 8
  firstRej
    [rejIf (decide (len < 128 ∨ 2 ^ 26 < len)) { op0 := word 56, off := 60 },
     rejIf (decide (hd m 351 320 < 128 ∨ len < hd m 351 320 + 32 * imgIsl m)) { op0 := word 40, off := 40 },
     rejIf (decide (hd m 383 352 < 128 ∨ len < hd m 383 352 + tileBytes (hd m 19 16) (hd m 23 20) (imgW m) (imgH m))) { op0 := word 40, off := 44 },
     rejIf (decide (hd m 415 384 < 128 ∨ len < hd m 415 384 + 16 * hd m 55 48)) { op0 := word 48, off := 48 },
     rejIf (decide (hd m 447 416 < 128 ∨ len < hd m 447 416 + 48 * hd m 63 56)) { op0 := word 48, off := 52 },
     rejIf (decide (hd m 479 448 < 128 ∨ len ≤ hd m 479 448)) { op0 := word 56, off := 56 }]

/-- Reserved bits and the version of the header (R384). -/
def headerRes (m : Memory) : Option Rej :=
  let word (o : Nat) : Nat := m.readN o 8
  let zero (hi lo : Nat) : Option Rej := rejIf (decide (hd m hi lo ≠ 0)) { op0 := word (lo / 64 * 8), off := lo / 8 }
  firstRej
    [rejIf (decide (hd m 7 0 ≠ 1)) { op0 := word 0 }, zero 15 12, zero 31 30, zero 39 38, zero 47 46, zero 78 72,
     rejIf (hd m 79 79 = 1 ∧ hd m 71 64 ≠ 0) { op0 := word 8, off := 8 }, zero 127 80]
    |>.or (firstRej ((List.range 8).map (fun i => zero (575 + 64 * i) (512 + 64 * i))))

/-- The digest of an image with the FSUM field taken as zero (R179). -/
def imgSum (m : Memory) : Nat :=
  let len := hd m 511 480
  fingerprint ((m.bytes 0 16) ++ List.replicate 8 0 ++ m.bytes 24 (len - 24))

/-- The blocks of initial contents from offset `o`, up to one that reaches past LEN (R179, R184); `w` is the word of the image that says where the block
begins, and so the offending one where the head itself reaches past LEN: that of OINI, or the head of the block before. -/
def initsPast (m : Memory) : Nat → Nat → Nat → Option Rej
  | 0, _, _ => none
  | fuel + 1, w, o =>
    let n := m.readN (o + 6) 2
    if hd m 511 480 < o + 16 then some { op0 := m.readN w 8, off := w }
    else if n = 0 then none
    else if hd m 511 480 < o + 16 + (n + 15) / 16 * 16 then some { op0 := m.readN o 8, off := o }
    else initsPast m fuel o (o + 16 + (n + 15) / 16 * 16)

/-- Carry lists and initial contents against LEN, before FSUM is compared (R179, R384). -/
def listsPast (m : Memory) : Option Rej :=
  firstRej ((List.range (imgIsl m)).map (fun n =>
    let v := islRec m n
    let o := hd m 351 320 + 32 * n + 16
    rejIf (decide (bits v 152 148 ≠ 0 ∧ hd m 511 480 < bits v 191 160 + 8 * bits v 152 148)) { op0 := m.readN o 8, idx := n, off := o })
    ++ [initsPast m 4194304 56 (hd m 479 448)])

/-- A carry entry has a bit outside its layout (R180). -/
def carryBad (c : Nat) : Bool := if bit c 63 then decide (c % 2 ^ 35 ≠ 0 ∨ bits c 36 35 ≠ 0) else decide (c % 2 ^ 42 ≠ 0 ∨ bits c 47 46 = 3)

/-- Island records (R28, R180): reserved bits, step count, carry list, one quadrant, a partition of the region. Of a tile that no rectangle covers the
offending word is that of the last record, after which it is still uncovered. -/
def islandsBad (m : Memory) (r : Region) : Option Rej :=
  let o := hd m 351 320
  let one (n : Nat) : Option Rej :=
    let v := islRec m n
    let q := islRect m n
    let car := bits v 152 148
    let at8 (b : Nat) : Rej := { op0 := m.readN (o + 32 * n + b) 8, idx := n, off := o + 32 * n + b }
    let top := r.y + q.2.1
    firstRej
      [rejIf (decide (bits v 15 12 ≠ 0 ∨ bits v 39 38 ≠ 0)) (at8 0), rejIf (decide (bits v 147 145 ≠ 0 ∨ bits v 159 153 ≠ 0 ∨ 16 < car)) (at8 16),
       rejIf (decide (bits v 255 192 ≠ 0)) (at8 24), rejIf (decide (2 ^ 48 < (islT m n + islG m n) * islII m n)) (at8 0),
       rejIf (decide (r.w < q.1 + q.2.2.1 ∨ r.h < q.2.1 + q.2.2.2 ∨ top / 16 ≠ (top + q.2.2.2 - 1) / 16)) (at8 0),
       rejIf ((List.range n).any (fun k =>
         let p := islRect m k
         decide (p.1 < q.1 + q.2.2.1 ∧ q.1 < p.1 + p.2.2.1 ∧ p.2.1 < q.2.1 + q.2.2.2 ∧ q.2.1 < p.2.1 + p.2.2.2))) (at8 0),
       ((islCarry m n).findIdx? carryBad).map (fun i =>
         { op0 := (islCarry m n).getD i 0, idx := n, off := bits v 191 160 + 8 * i })]
  firstRej ((List.range (imgIsl m)).map one ++
    [rejIf (r.tiles.any (fun t => (imgIsland m t.1 t.2).isNone))
      { op0 := m.readN (o + 32 * (imgIsl m - 1)) 8, idx := imgIsl m - 1, off := o + 32 * (imgIsl m - 1) }])

/-- LOC of SK 5 of element `k` (R355). -/
def loaderLoc (k : Nat) : Nat := elIdx k * 2 ^ 17 + k

/-! ## Element records -/

/-- What the records of every kind have in common: island, stage, ring lengths (R28, R384). -/
def Load.common (l : Load) (r : Region) (k kind off isl stage : Nat) (rings : List Nat) : Option Rej :=
  let b := r.elAt l k
  let i := (r.isl l k).getD 0
  rejIf (decide (isl ≠ i ∨ islG l.img i < stage) || rings.any (fun n => decide (32 < n ∨ islII l.img i % n ≠ 0)))
    { op0 := l.at b off 8, kind := kind, idx := elIdx k, off := off, loc := loaderLoc k }

/-- A token target of R289. An island number is one of this load or of a later one in the region (R37). -/
def tokenBad (members tok : Nat) : Bool :=
  let n := bits tok 61 56
  decide (tok % 2 ^ 51 ≠ 0) ||
    (match bits tok 63 62 with
    | 0 => decide (tok ≠ 0)
    | 1 => decide (bits tok 55 51 ≠ 0)
    | 2 => decide (7 < n ∨ members ≤ bits tok 55 51)
    | _ => decide (23 < n ∨ bits tok 55 51 ≠ 0))

/-- The tile of a region at relative (x, y) is of kind `d`. -/
def Region.isKind (r : Region) (x y : Nat) (d : TileKind) : Bool := decide (x < r.w ∧ y < r.h ∧ tileKind (r.x + x) (r.y + y) = d)

/-- A node that element `k` names lies in another timing island: a value between islands passes over a link of adjacent tiles and its FIFO (R22, R32), and
no such link leads to a port, so the loader refuses it (DEDUCED, log entry 104). -/
def Region.apart (r : Region) (l : Load) (k n : Nat) : Bool := decide (r.isl l (nodeEl n) ≠ r.isl l k)

/-- A port field of the record of CE `k` (R289). -/
def Region.portBad (r : Region) (l : Load) (k p : Nat) : Bool :=
  decide (bits p 15 0 ≠ 0) || (bit p 16 && (!r.isKind (bits p 31 27) (bits p 26 21) .M || (r.portNode p).any (r.apart l k)))

/-- A source code 0 to 7 that the loader refuses at element `k` (R278). -/
def Region.sideBad (r : Region) (l : Load) (k c : Nat) : Bool :=
  match r.neighbour k (c % 4) (if c < 4 then 1 else 4) with
  | none => true
  | some j => decide (4 ≤ c) && (decide (r.isl l j ≠ r.isl l k) || (elKind j).passes)

/-- A compute element's record. -/
def Load.ceBad (l : Load) (r : Region) (members k : Nat) : Option Rej :=
  let b := r.elAt l k
  let rej (off idx : Nat) : Rej := { op0 := l.at b off 8, kind := 0, idx := idx, off := off, loc := loaderLoc k }
  let rings := [l.at b 0x120 1 + 1, l.at b 0x121 1 + 1, l.at b 0x122 1 + 1]
  let fl := l.at b 0x124 1
  let tok := l.at b 0x128 8
  let rp := l.at b 0x130 4
  let wp := l.at b 0x134 4
  let op (n : Nat) : Option Rej :=
    let w := l.at b (3 * n) 3
    rejIf ((decodeCe w).isNone || (decide (bits w 23 18 = 0x2C ∧ bits tok 63 62 = 0)) || (decide (bits w 14 13 = 2) && !bit wp 16))
      { op0 := w, kind := 0, idx := n, off := 3 * n, loc := loaderLoc k }
  let route (n : Nat) : Option Rej :=
    let w := l.at b (0x060 + 2 * n) 2
    rejIf ((bit w 1 && !bit fl 0) || (routeCodes w).any (fun c =>
        decide (12 ≤ c) || (decide (c = 9) && !bit w 1) || (decide (c = 11) && !bit rp 16) || (decide (c < 8) && r.sideBad l k c)))
      { op0 := w, kind := 0, idx := n, off := 0x060 + 2 * n, loc := loaderLoc k }
  firstRej ([rejIf (decide (16 ≤ fl)) (rej 0x120 (elIdx k)), rejIf (!l.zeros (b + 0x138) 200) (rej 0x138 (elIdx k)),
      l.common r k 0 0x120 (l.at b 0x125 1) (l.at b 0x123 1) rings,
      rejIf (tokenBad members tok) { rej 0x128 (elIdx k) with op0 := tok }, rejIf (r.portBad l k rp) (rej 0x130 (elIdx k)),
      rejIf (r.portBad l k wp) (rej 0x134 (elIdx k))]
    ++ (List.range (rings.getD 0 1)).map op ++ (List.range (rings.getD 1 1)).map route)

/-- MODE that a node has: a cox-shared node is an ordered-update node (R151). -/
def Load.nodeMode (l : Load) (b : Nat) : Nat := if bit (l.at b 0x043 1) 5 then 2 else l.at b 0x043 1 % 4
/-- D of a node record. -/
def Load.nodeDepth (l : Load) (b : Nat) : Nat := bits (l.at b 0x043 1) 4 2 + 1

/-- A pattern leaves its buffer (R104). -/
def Load.patBad (l : Load) (b p w lim : Nat) : Bool :=
  let st (j : Nat) : Int := sint 16 (l.at b (p + 8 + 2 * j) 2)
  let ext (j : Nat) : Int := ((l.patCount b p j : Nat) - 1 : Int) * st j
  let lo : Int := (l.at b p 2 : Int) + ((List.range 3).map (fun j => min 0 (ext j))).sum
  let hi : Int := (l.at b p 2 : Int) + ((List.range 3).map (fun j => max 0 (ext j))).sum
  decide (lo < 0 ∨ (lim : Int) < hi + w) || decide (l.at b (p + 14) 2 ≠ 0)

/-- A node's record. -/
def Load.nodeBad (l : Load) (r : Region) (k : Nat) : Option Rej :=
  let b := r.elAt l k
  let rej (off : Nat) : Rej := { op0 := l.at b (off / 8 * 8) 8, kind := 1, idx := elIdx k, off := off, loc := loaderLoc k }
  let n := l.at b 0x040 1 + 1
  let mode := l.nodeMode b
  let lim := if mode = 1 then 8192 else bufBytes (l.nodeDepth b)
  let word (i : Nat) : Option Rej :=
    let w := l.at b (2 * i) 2
    rejIf ((decodeNode w).isNone || (bit w 13 && decide (mode = 0))) { op0 := w, kind := 1, idx := i, off := 2 * i, loc := loaderLoc k }
  firstRej ([rejIf (decide (l.at b 0x043 1 % 4 = 3 ∨ l.xf b = 3)) (rej 0x043), rejIf (decide (16 ≤ l.at b 0x045 1)) (rej 0x045),
      rejIf (!l.zeros (b + 0x068) 408) (rej 0x068), l.common r k 1 0x040 (l.at b 0x042 1) (l.at b 0x041 1) [n],
      rejIf (l.patBad b 0x048 (l.viewWidth b false) lim) (rej 0x048), rejIf (l.patBad b 0x058 (l.viewWidth b true) lim) (rej 0x058)]
    ++ (List.range n).map word
    ++ [rejIf (decide (l.xf b ≠ 0 ∧ mode = 1) && (List.range n).any (fun i => bit (l.at b (2 * i) 2) 15))
         { reason := 6, op0 := 16 * ((r.rel k).2 * r.w + (r.rel k).1) + elIdx k, loc := loaderLoc k }])

/-- A generator's record (R293). As for a node port, a bound node lies in the generator's timing island (log entry 104). -/
def Load.genBad (l : Load) (r : Region) (members k : Nat) : Option Rej :=
  let b := r.elAt l k
  let rej (off : Nat) : Rej := { op0 := l.at b (off / 8 * 8) 8, kind := 2, idx := elIdx k, off := off, loc := loaderLoc k }
  let n := l.at b 0x040 1 + 1
  let word (i : Nat) : Option Rej :=
    let w := l.at b (2 * i) 2
    rejIf ((decodeGen w).isNone || (bit w 15 && decide (bits (r.binding l k (bits w 14 12)) 31 30 = 0)))
      { op0 := w, kind := 2, idx := i, off := 2 * i, loc := loaderLoc k }
  let bind (p : Nat) : Option Rej :=
    let v := r.binding l k p
    let kind := bits v 31 30
    let node := kind = 1 ∨ kind = 2
    firstRej
      [rejIf (decide (bits v 14 3 ≠ 0) || (decide node && (!r.isKind (bits v 29 25) (bits v 24 19) .M
          || r.apart l k (r.bindNode v) || decide (l.nodeMode (r.elAt l (nodeEl (r.bindNode v))) ≠ 1))))
        { op0 := v, kind := 2, idx := elIdx k, off := 0x068 + 4 * p, loc := loaderLoc k },
       rejIf (decide (kind = 3) && (l.portRider (bits v 2 0)).isNone) { reason := 0x0A, op0 := v, kind := 2, idx := elIdx k, off := 0x068 + 4 * p, loc := loaderLoc k }]
  firstRej ([rejIf (decide (2 ≤ l.at b 0x043 1)) (rej 0x043), rejIf (!l.zeros (b + 0x088) 376) (rej 0x088),
      rejIf (decide (elIdx k ≠ 0) && !l.zeros (b + 0x068) 32) (rej 0x068), l.common r k 2 0x040 (l.at b 0x042 1) (l.at b 0x041 1) [n],
      rejIf (tokenBad members (l.at b 0x060 8)) (rej 0x060)]
    ++ (if elIdx k = 0 then (List.range 8).map bind else []) ++ (List.range n).map word)

/-- A least common multiple that is not zero. -/
def lcm1 (a b : Nat) : Nat := Nat.max 1 (Nat.lcm a b)

/-- Two generators of one tile emit to one port at the same step (R293). -/
def Load.portClash (l : Load) (r : Region) (k k' : Nat) : Option Rej :=
  let b := r.elAt l k
  let b' := r.elAt l k'
  let p := lcm1 (l.at b 0x040 1 + 1) (l.at b' 0x040 1 + 1)
  rejIf ((List.range p).any (fun s =>
      let w := l.ringWord .gen b s
      let w' := l.ringWord .gen b' s
      bit w 15 && bit w' 15 && decide (bits w 14 12 = bits w' 14 12)))
    { op0 := l.at b' 0 8, kind := 2, idx := elIdx k', loc := loaderLoc k' }

/-- A converter node's record (R296, R298). -/
def Load.convBad (l : Load) (r : Region) (k : Nat) : Option Rej :=
  let b := r.elAt l k
  let rej (off : Nat) : Rej := { op0 := l.at b (off / 8 * 8) 8, kind := 3, idx := elIdx k, off := off, loc := loaderLoc k }
  let n := l.at b 0x040 1 + 1
  let src := l.at b 0x043 1
  let word (i : Nat) : Option Rej :=
    let w := l.at b (2 * i) 2
    rejIf (decodeConv w).isNone { op0 := w, kind := 3, idx := i, off := 2 * i, loc := loaderLoc k }
  let used := bit (l.at b 0x045 1) 3 || (List.range n).any (fun i => bit (l.at b (2 * i) 2) 15)
  firstRej ([rejIf (decide (8 ≤ src)) (rej 0x043), rejIf (used && r.sideBad l k (src % 8)) (rej 0x043),
      rejIf (decide (0x14 ≤ l.at b 0x044 1)) (rej 0x044), rejIf (decide (16 ≤ l.at b 0x045 1)) (rej 0x045),
      rejIf (decide (1024 ≤ l.at b 0x046 2) || (bit (l.at b 0x045 1) 2 && decide (l.at b 0x046 2 = 0x3FF))) (rej 0x046),
      rejIf (decide (32 ≤ l.at b 0x048 1)) (rej 0x048), rejIf (decide (l.at b 0x049 1 % 4 = 3)) (rej 0x049),
      rejIf (!l.zeros (b + 0x04C) 436) (rej 0x04C),
      l.common r k 3 0x040 (l.at b 0x042 1) (l.at b 0x041 1) [n]]
    ++ (List.range n).map word)

/-- A transform node's record (R299); one that is all zero names no command. -/
def Load.xformRecBad (l : Load) (r : Region) (k : Nat) : Option Rej :=
  let b := r.elAt l k
  let rej (off : Nat) : Rej := { op0 := l.at b (off / 8 * 8) 8, kind := 4, idx := elIdx k, off := off, loc := loaderLoc k }
  if l.zeros b 512 then none
  else
    let d := l.at b 0x020 1
    firstRej [(xformBad (bit d 0) (l.at b 0 32)).map (fun x => rej (x / 8)),
      rejIf (decide (32 ≤ d)) (rej 0x020), rejIf (!l.zeros (b + 0x021) 479) (rej 0x021)]

/-- An X tile's record (R251). Its expected tags are not checked: of each the low 12 bits count (log entry 120). -/
def Load.xtBad (l : Load) (r : Region) (k : Nat) : Option Rej :=
  let b := r.elAt l k
  let rej (off : Nat) : Rej := { op0 := l.at b (off / 8 * 8) 8, kind := 5, idx := 0, off := off, loc := loaderLoc k }
  firstRej [rejIf (decide (2 ≤ l.at b 0 1)) (rej 0), rejIf (decide (16 ≤ l.at b 1 1)) (rej 1),
    rejIf (decide (4 ≤ l.at b 6 1)) (rej 6),
    rejIf (decide (4 ≤ l.at b 7 1)) (rej 7), rejIf (decide (l.at b 0 1 = 1 ∧ some (l.at b 8 1) ≠ r.isl l k)) (rej 8),
    rejIf (!l.zeros (b + 9) 503) (rej 9)]

/-- The record of element `k`. -/
def Load.elBad (l : Load) (r : Region) (members k : Nat) : Option Rej :=
  match elKind k with
  | .ce => l.ceBad r members k
  | .node => l.nodeBad r k
  | .gen => l.genBad r members k
  | .conv => l.convBad r k
  | .xform => l.xformRecBad r k
  | .xt => if elIdx k = 0 then l.xtBad r k else none

/-- A node port named by more than one element (R289). -/
def Load.portTwice (l : Load) (r : Region) (off : Nat) (ces : List Nat) : Option Rej :=
  let named := ces.filterMap (fun k => (r.portNode (l.at (r.elAt l k) off 4)).map (fun n => (k, n)))
  named.findSome? (fun x =>
    if named.any (fun y => decide (y.2 = x.2 ∧ y.1 < x.1)) then
      some { op0 := l.at (r.elAt l x.1) off 4, kind := 0, idx := elIdx x.1, off := off, loc := loaderLoc x.1 }
    else none)

/-! ## Tables -/

/-- The range table (R182). -/
def Load.rangesBad (l : Load) (r : Region) : Option Rej :=
  let o := hd l.img 415 384
  firstRej ((List.range (hd l.img 55 48)).map (fun n =>
    let v := l.img.readN (o + 16 * n) 16
    let g := imgRange l.img n
    let at8 (b : Nat) : Rej := { op0 := l.img.readN (o + 16 * n + b) 8, idx := n, off := o + 16 * n + b }
    firstRej
      [rejIf (decide (bits v 63 45 ≠ 0 ∨ bits v 15 0 ≠ 0 ∨ g.last < g.first)) (at8 0),
       rejIf (decide (bits v 109 95 ≠ 0 ∨ bits v 79 77 ≠ 0 ∨ g.kind = 3) || !r.isKind g.tx g.ty .M) (at8 8)]))

/-- The rider table (R183). -/
def Load.ridersBad (l : Load) : Option Rej :=
  let o := hd l.img 447 416
  firstRej ((List.range (hd l.img 63 56)).map (fun n =>
    let a := o + 48 * n
    (rejIf (decide (bits (l.img.readN a 32) 30 28 ≠ 0)) { op0 := l.img.readN a 8, idx := n, off := a }).or
      (rejIf (decide (64 ≤ l.img.readN (a + 40) 1 ∨ 32 ≤ l.img.readN (a + 41) 1 ∨ l.img.readN (a + 42) 6 ≠ 0))
        { op0 := l.img.readN (a + 40) 8, idx := n, off := a + 40 })))

/-- The blocks of initial contents (R184), none of which reaches past LEN: each in a node of the region. -/
def Load.initsBad (l : Load) (r : Region) : Nat → Nat → Option Rej
  | 0, _ => none
  | fuel + 1, o =>
    let m := l.img
    let n := m.readN (o + 6) 2
    if n = 0 then none
    else if m.readN (o + 3) 1 ≠ 0 ∨ ¬ r.isKind (m.readN o 1) (m.readN (o + 1) 1) .M ∨ 15 < m.readN (o + 2) 1 ∨ 8192 < m.readN (o + 4) 2 + n then
      some { op0 := m.readN o 8, off := o }
    else if m.readN (o + 8) 8 ≠ 0 then some { op0 := m.readN (o + 8) 8, off := o + 8 }
    else l.initsBad r fuel (o + 16 + (n + 15) / 16 * 16)

/-! ## Ordering of ranges (R106, R147, R148) -/

/-- The node element of a range. -/
def Region.rangeNode (r : Region) (g : Rng) : Nat := r.key g.tx g.ty g.node
/-- A range is one of the node's own element: of its write view where it is written or updated, of its read view where it is read. -/
def Region.ownRange (r : Region) (g : Rng) : Bool := decide (g.eng = r.engine (r.rangeNode g))
/-- The engine of a range (R146, R147). The two views of a node are engines of their own under one engine number: 2 × the number, plus 1 for
the read view. -/
def Region.rangeEng (r : Region) (g : Rng) : Nat := 2 * g.eng + b2n (r.ownRange g && decide (g.kind = 0))

/-- A range's engine sets F of the buffers that it writes (R101, R115, R146): the write view, a rider that delivers, an X tile's drain. -/
def Load.setsF (l : Load) (r : Region) (g : Rng) : Bool :=
  decide (l.nodeMode (r.elAt l (r.rangeNode g)) ≠ 1) && decide (g.kind ≠ 0)
    && (r.ownRange g || decide (r.engines ≤ g.eng) || decide (elKind (r.engineEl g.eng) = .xt))
/-- A range's engine begins its patterns on F = 1: the read view. -/
def Load.takesF (l : Load) (r : Region) (g : Rng) : Bool :=
  decide (l.nodeMode (r.elAt l (r.rangeNode g)) ≠ 1) && decide (g.kind = 0) && r.ownRange g
/-- The F handoff of one buffer orders two ranges of a node (R147). -/
def Load.handoff (l : Load) (r : Region) (a b : Rng) : Bool :=
  let n := Nat.max 1 (bufBytes (l.nodeDepth (r.elAt l (r.rangeNode a))))
  decide ((a.tx, a.ty, a.node) = (b.tx, b.ty, b.node) ∧ a.first / n ≤ b.last / n ∧ b.first / n ≤ a.last / n)
    && ((l.setsF r a && l.takesF r b) || (l.takesF r a && l.setsF r b))

/-- Edges by which a chain cannot leave an engine as it came to it: an engine above 2^30 has been reached from one that fills the same buffers. -/
def twin (e : Nat) : Nat := e % 2 ^ 30 + 2 ^ 30

/-- The ordering edges of a load (R147), between the engines of its declared ranges and the starts of its islands, island `i` as 2^20 + i: declared
ones; those of control tokens, from every engine of the sender's tile, and from the start of the sender's island, to the start of the target; and the
F handoffs of buffers. The handoff to a read view and the one back from it do not by themselves order two engines that fill the buffer, for both may
begin on F = 0: from a view that the fillers of a node lead to, no handoff leads on to a filler of that node. -/
def Load.edges (l : Load) (r : Region) (gs : List Rng) : List (Nat × Nat) :=
  let tile (g : Rng) : Option (Nat × Nat) := if g.eng < r.engines then some (r.rel (r.engineEl g.eng)) else none
  let plain := (gs.flatMap (fun g => if g.after = 0xFFFF then [] else (gs.filter (fun h => decide (h.eng = g.after))).map (fun h => (r.rangeEng h, r.rangeEng g))))
    ++ (r.elsOf r.tiles).flatMap (fun k =>
      let b := r.elAt l k
      let tok := match elKind k with
        | .ce => l.at b 0x128 8
        | .gen => l.at b 0x060 8
        | _ => 0
      if bits tok 63 62 = 1 then
        (2 ^ 20 + (r.isl l k).getD 0, 2 ^ 20 + bits tok 61 56)
          :: (gs.filter (fun g => decide (tile g = some (r.rel k)))).map (fun g => (r.rangeEng g, 2 ^ 20 + bits tok 61 56))
      else [])
    ++ gs.filterMap (fun g => (tile g).bind (fun t => (imgIsland l.img t.1 t.2).map (fun i => (2 ^ 20 + i, r.rangeEng g))))
  let fills := gs.flatMap (fun g => (gs.filter (fun h => l.setsF r g && l.takesF r h && l.handoff r g h)).map (fun h => (r.rangeEng g, r.rangeEng h)))
  plain ++ plain.map (fun e => (twin e.1, e.2)) ++ fills.map (fun e => (e.1, twin e.2)) ++ fills.map (fun e => (e.2, e.1))

/-- The engines that a set leads to through `n` edges or fewer. -/
def reached (edges : List (Nat × Nat)) : Nat → List Nat → List Nat
  | 0, l => l
  | n + 1, l => reached edges n ((l ++ (edges.filter (fun e => l.contains e.1)).map Prod.snd).eraseDups)
/-- What lies behind engine `a`. -/
def behindEng (edges : List (Nat × Nat)) (a : Nat) : List Nat := reached edges edges.length ((edges.filter (fun e => decide (e.1 = a))).map Prod.snd)
/-- Engine `a` is ordered before or after engine `b`. -/
def ordered (edges : List (Nat × Nat)) (a b : Nat) : Bool :=
  [b, twin b].any (behindEng edges a).contains || [a, twin a].any (behindEng edges b).contains

/-- Two ranges conflict (R148). -/
def Load.conflict (l : Load) (r : Region) (gs : List Rng) (a b : Rng) : Bool :=
  decide (r.rangeEng a ≠ r.rangeEng b ∧ (a.tx, a.ty, a.node) = (b.tx, b.ty, b.node) ∧ (a.kind = 1 ∨ b.kind = 1) ∧ a.first ≤ b.last ∧ b.first ≤ a.last)
    && !l.handoff r a b && !ordered (l.edges r gs) (r.rangeEng a) (r.rangeEng b)

/-- The conflicting pairs of declared ranges. -/
def Load.conflicts (l : Load) (r : Region) : List (Rng × Rng) :=
  let gs := (List.range (hd l.img 55 48)).map (imgRange l.img)
  (List.range gs.length).flatMap (fun i => (gs.drop (i + 1)).filterMap (fun b =>
    match gs[i]? with
    | some a => if l.conflict r gs a b then some (a, b) else none
    | none => none))

/-- A conflict whose read is that of a transforming view (R106). -/
def Load.underXf (l : Load) (r : Region) (p : Rng × Rng) : Bool :=
  let k := r.rangeNode p.1
  decide (l.xf (r.elAt l k) ≠ 0) && ([p.1, p.2].any (fun g => decide (g.eng = r.engine k ∧ g.kind = 0)))

/-- Unordered ranges (R106, R148, R149): a permissive load is refused only for a write under a transforming read. -/
def Load.orderBad (l : Load) (r : Region) : Option Rej :=
  (l.conflicts r).findSome? (fun p =>
    let v := p.1.eng * 2 ^ 16 + p.2.eng
    if l.underXf r p then some { reason := 6, op0 := v } else if hd l.img 11 11 = 1 then none else some { reason := 5, op0 := v })

/-- A chain of links between islands leads back to where it began (R32): the links of one load form an acyclic graph. The spec names no refusal for
it; the model refuses the load as it does a bad island record (DESIGN CHOICE, log entry 102). -/
def Load.linksBad (l : Load) (r : Region) : Option Rej :=
  let e := ((r.links l).filterMap (fun key => match r.isl l (key / 4), (r.reader key).bind (r.isl l) with
    | some a, some b => some (a, b)
    | _, _ => none)).eraseDups
  let o := hd l.img 351 320
  ((List.range (imgIsl l.img)).find? (fun i => (behindEng e i).contains i)).map (fun i => { op0 := l.img.readN (o + 32 * i) 8, idx := i, off := o + 32 * i })

/-! ## Converter paths (R404) -/

/-- Latency of an op word (R281 to R287). -/
def opLat (w : Nat) : Nat :=
  let o := bits w 23 18
  if o ∈ [2, 3, 7, 8] then 2
  else if o ∈ [4, 5, 6, 22, 36] then 3
  else if o ∈ [23, 24, 32, 33, 37, 38] then 4
  else if 25 ≤ o ∧ o ≤ 30 then 8
  else if o = 40 then 10
  else 1

/-- The op word of CE `k` whose result its output shows at step `s`: the last to land before it, the later issued on a tie (R280),
and the step in which it issued. Steps are counted from a multiple of every ring length. -/
def Load.shownOp (l : Load) (b s : Nat) : Option (Nat × Nat) :=
  ((List.range 48).filterMap (fun d =>
    let w := l.ringWord .ce b (s - 1 - d)
    if bits w 23 18 ≠ 0 ∧ bits w 23 18 ≠ 0x2C ∧ (bits w 14 13 = 0 ∨ bits w 14 13 = 2) ∧ opLat w ≤ d + 1 then some (s - 1 - d + opLat w, w, s - 1 - d) else none)).foldl
    (fun (a : Option (Nat × Nat × Nat)) x => match a with
      | none => some x
      | some y => if y.1 < x.1 then some x else some y) none |>.map (fun x => x.2)

/-- The step in which the entry of age `t` in the lines of CE `b` at step `s` was shifted in (R35). -/
def Load.shiftStep (l : Load) (b : Nat) : Nat → Nat → Nat → Nat
  | 0, s, _ => s
  | fuel + 1, s, t =>
    if bit (l.route b s) 0 then l.shiftStep b fuel (s - 1) t
    else if t = 0 then s else l.shiftStep b fuel (s - 1) (t - 1)

/-- The element at which the path of the value that `k` presents toward `d` at step `s` ends, and whether it is a converter of a
block format (R404). Beyond a link between islands the steps do not correspond: each step of the producer's rings is followed. -/
def Load.pathEnds (l : Load) (r : Region) : Nat → Nat → Nat → Nat → List (Nat × Bool)
  | 0, k, _, _ => [(k, false)]
  | fuel + 1, k, d, s =>
    let b := r.elAt l k
    let side (k c s : Nat) : List (Nat × Bool) := match r.neighbour k c 1 with
      | none => [(k, false)]
      | some j =>
        if r.isl l j = r.isl l k then l.pathEnds r fuel j (opposite c) s
        else (List.range (lcm1 32 (islII l.img ((r.isl l j).getD 0)))).flatMap (fun x =>
          l.pathEnds r fuel j (opposite c) (s - s % lcm1 32 (islII l.img ((r.isl l j).getD 0)) + x))
    match elKind k with
    | .conv =>
      if bit (l.at b 0x045 1) 3 then
        (let c := l.at b 0x043 1 % 16
         if c < 4 then side k c (s - 1) else match r.neighbour k (c - 4) 4 with
           | some j => l.pathEnds r fuel j 0 (s - 2)
           | none => [(k, false)])
      else [(k, isBlockFmt (l.at b 0x044 1 % 32))]
    | .ce =>
      match l.shownOp b s with
      | none => [(k, false)]
      | some (w, t) =>
        if bits w 23 18 ≠ 1 then [(k, false)]
        else
          let u := l.shiftStep b 600 t (bits (l.tap b t) 15 12)
          let c := bits (l.route b u) 15 12
          if c < 4 then side k c u
          else if c < 8 then (match r.neighbour k (c - 4) 4 with
            | some j => l.pathEnds r fuel j 0 (u - 1)
            | none => [(k, false)])
          else if c = 8 then l.pathEnds r fuel k 0 u
          else [(k, false)]
    | _ => side k (opposite d) (s - 1)

/-- Every op entry of a CE that writes into a node of XF 2 leads to a converter of a block format (R404). The ring lengths along a path in one island all
divide its II (R28), over which the steps are followed. -/
def Load.convPathBad (l : Load) (r : Region) (ces : List Nat) : Option Rej :=
  ces.findSome? (fun k =>
    let b := r.elAt l k
    match r.portNode (l.at b 0x134 4) with
    | none => none
    | some key =>
      let nb := r.elAt l (nodeEl key)
      let fed := (List.range (hd l.img 55 48)).any (fun n =>
        let g := imgRange l.img n
        decide (g.kind = 1 ∧ r.engines ≤ g.eng ∧ r.rangeNode g = nodeEl key))
      if l.xf nb ≠ 2 ∨ fed = true then none
      else
        let p := lcm1 1 (islII l.img ((r.isl l k).getD 0))
        let base := p * 4096
        (List.range p).findSome? (fun x =>
          let s := base + x
          let w := l.ringWord .ce b s
          if bits w 23 18 = 0 ∨ bits w 14 13 ≠ 2 then none
          else if bits w 23 18 ≠ 1 then some { reason := 7, op0 := k, loc := loaderLoc k }
          else
            let u := l.shiftStep b 600 s (bits (l.tap b s) 15 12)
            let c := bits (l.route b u) 15 12
            let ends :=
              if c < 4 then (match r.neighbour k c 1 with
                | some j => l.pathEnds r 256 j (opposite c) u
                | none => [(k, false)])
              else if c < 8 then (match r.neighbour k (c - 4) 4 with
                | some j => l.pathEnds r 256 j 0 (u - 1)
                | none => [(k, false)])
              else if c = 8 then l.pathEnds r 256 k 0 u
              else [(k, false)]
            (ends.find? (fun e => !e.2)).map (fun e => { reason := 7, op0 := e.1, loc := loaderLoc e.1 })))

/-! ## Placement (R27, R206, R403) -/

/-- Rectangles that a region holds: those of its active and of its shadow load. -/
def Region.rects (r : Region) : List (Nat × Nat) :=
  (if r.active.isSome then [(r.w, r.h)] else []) ++ r.shadow.toList.map (fun l => (imgW l.img, imgH l.img))

/-- Regions of switched-out teams whose tiles a load of region `n` would take (R65). -/
def State.heldTiles (s : State) (n : Nat) (r : Region) (m : Memory) : List Nat :=
  (List.range s.regions.length).filter (fun i => match s.regions[i]? with
    | some g => decide (i ≠ n ∧ g.die = r.die ∧ g.team ≠ r.team) && (s.team? g.team).any (fun t => decide (t.st ≠ .running ∧ t.st ≠ .ended))
        && g.rects.any (fun z => decide (g.x < r.x + imgW m ∧ r.x < g.x + z.1 ∧ g.y < r.y + imgH m ∧ r.y < g.y + z.2))
    | none => false)
/-- A region whose load has run to its end, or that has none: its tiles may be taken while its team is out (R65). -/
def Region.spent (r : Region) : Bool := r.shadow.isNone && (r.active.all (fun l => l.isl.all Isl.ended))

/-- Where the load may not stand (R403, reasons 0x02 to 0x04); `n` is the region's number. -/
def State.placeBad (s : State) (n : Nat) (r : Region) (l : Load) (cores : List Nat) : Option Rej :=
  let w := imgW l.img
  let h := imgH l.img
  let q : Region := { r with w := w, h := h }
  let origin := r.die * 2 ^ 16 + r.y * 2 ^ 8 + r.x
  firstRej
    [rejIf (decide (r.x % 16 ≠ hd l.img 19 16 ∨ r.y % 16 ≠ hd l.img 23 20)) { reason := 2, op0 := origin },
     rejIf (decide (32 < r.x + w ∨ 64 < r.y + h)) { reason := 2, op0 := origin, off := if 32 < r.x + w then 3 else 4, word := true },
     rejIf (q.tiles.any (fun t => decide (tileKind (r.x + t.1) (r.y + t.2) = .E))) { reason := 2, op0 := origin, off := 3, word := true },
     (q.tiles.find? (fun t => !cores.contains (coreOfTile r.die (r.x + t.1) (r.y + t.2)))).map
       (fun t => { reason := 3, op0 := coreOfTile r.die (r.x + t.1) (r.y + t.2) }),
     rejIf ((List.range s.regions.length).any (fun i => match s.regions[i]? with
       | some g => decide (i ≠ n ∧ g.die = r.die) && !(s.heldTiles n r l.img).contains i && g.rects.any (fun z =>
           decide (g.x < r.x + w ∧ r.x < g.x + z.1 ∧ g.y < r.y + h ∧ r.y < g.y + z.2))
       | none => false)) { reason := 4, op0 := origin }]

/-- A fold variant's header against its original's (R65, R179; reason 0x09). -/
def variantBad (o v : Memory) (quarter : Bool) : Bool :=
  let a := imgW o * imgH o
  decide ((if quarter then 4 else 2) * (imgW v * imgH v) ≠ a) || decide (hd v 10 8 ≠ hd o 10 8 ∨ hd v 79 79 ≠ hd o 79 79 ∨ hd v 71 64 ≠ hd o 71 64
    ∨ hd v 23 16 ≠ hd o 23 16 ∨ imgW o < imgW v ∨ imgH o < imgH v ∨ hd v 319 192 ≠ 0)

/-- The checks of R384, R403 and R404 on a whole image, but for its fault edge and its variants. -/
def State.imageBad (s : State) (n : Nat) (r0 : Region) (l : Load) (cores : List Nat) : Option Rej :=
  let r : Region := { r0 with w := imgW l.img, h := imgH l.img }
  match (headerRes l.img).or (s.placeBad n r0 l cores) with
  | some x => some x
  | none => match islandsBad l.img r with
    | some x => some x
    | none =>
      let els := r.elsOf r.tiles
      let ces := els.filter (fun k => decide (elKind k = .ce))
      let gens := els.filter (fun k => decide (elKind k = .gen))
      firstRej (els.map (l.elBad r cores.length)
        ++ [l.portTwice r 0x130 ces, l.portTwice r 0x134 ces]
        ++ gens.flatMap (fun k => (gens.filter (fun j => decide (k < j ∧ elX j / 4 = elX k / 4 ∧ elY j / 4 = elY k / 4))).map (l.portClash r k))
        ++ [l.rangesBad r, l.ridersBad, l.initsBad r 4194304 (hd l.img 479 448), l.linksBad r, l.orderBad r, l.convPathBad r ces])

end Sys2Proof.Machine
end

