-- ==== Sys2Proof/Machine/Loader.lean ====
section
/-! DEFINITION. The configuration loader: commands, fetch and check, drain, swap and fill, release, finish, and fault edges (R37 to R42,
R136, R150, R151, R206, R207, R361, R362, R368). -/

namespace Sys2Proof.Machine

open Sys2Proof

/-! ## Regions by origin -/

/-- A region with no load (R39). -/
def Region.fresh (die x y team : Nat) : Region :=
  { die := die, x := x, y := y, w := 0, h := 0, team := team, phase := .empty, active := none, shadow := none, cmds := [], fetching := none,
    frel := false, back := .empty, refold := none, prev := none }
/-- Nothing stands or is being configured on the region. -/
def Region.idle (r : Region) : Bool := r.active.isNone && r.shadow.isNone && r.cmds.isEmpty && r.fetching.isNone
/-- The region at the origin that a value of xb names (R206). -/
def Region.isAt (r : Region) (v : Nat) : Bool := decide (r.die = bits v 17 16 ∧ r.x = bits v 4 0 ∧ r.y = bits v 13 8)
/-- The region of team `t` at an origin; else one with nothing on it. -/
def State.regionAt (s : State) (t v : Nat) : Option Nat :=
  let is := List.range s.regions.length
  (is.find? (fun i => (s.regions[i]?).any (fun r => r.isAt v && decide (r.team = t)))).or
    (is.find? (fun i => (s.regions[i]?).any (fun r => r.isAt v && r.idle)))

/-- The elements of a region. -/
def Region.els (r : Region) : List Nat := r.elsOf r.tiles

/-- A node that no region owns any longer: random mode, contents and waiting requests kept (R102, R151). -/
def State.freeNode (s : State) (key : Nat) : State := s.modNode key (fun nd => { Node.free with queue := nd.queue })

/-- The tiles of region `r` are its own no longer: its nodes fall back to random mode, and nothing of its configuration stays (R151). -/
def State.clearTiles (s : State) (r : Region) : State :=
  let s := (r.els.filter (fun k => decide (elKind k = .node))).foldl (fun s k => s.freeNode (elNode k)) s
  { s with els := r.els.foldl (fun t k => Tab.del k t) s.els, fifos := s.fifos.filter (fun f => !r.holdsEl (f.key / 4)) }
/-- Region `n` yields its tiles to the load of another team while its own is out (R65). -/
def State.yieldTiles (s : State) (n : Nat) : State :=
  match s.region n with
  | none => s
  | some r => (s.clearTiles r).modRegion n (fun g => { g with w := 0, h := 0 })

/-- The region is released: its nodes fall back to random mode (R151, R206). -/
def State.releaseRegion (s : State) (n : Nat) : State :=
  match s.region n with
  | none => s
  | some r =>
    let s := s.clearTiles r
    let s := { s with
      toks := s.toks.filter (fun t => match t.dest with
        | .island g _ => decide (g ≠ n)
        | _ => true) }
    s.modRegion n (fun r => Region.fresh r.die r.x r.y r.team)

/-- FREL takes effect in Resident with no command pending (R206). -/
def State.tryRelease (s : State) (n : Nat) : State :=
  match s.region n with
  | some r => if r.frel ∧ (r.phase = .resident ∨ r.phase = .empty) ∧ r.cmds = [] ∧ r.fetching = none then s.releaseRegion n else s
  | none => s

/-- The active load is discarded (R361); where it still ran, the region stands Resident. -/
def State.discardRegion (s : State) (n : Nat) (stamp : Bool) : State :=
  (s.discardLoad n stamp).modRegion n (fun r => { r with
    phase := if r.phase = .run then .resident else r.phase, back := if r.back = .run then .resident else r.back })

/-- A handler load on its way in is given up (R361). -/
def State.dropHandler (s : State) (n : Nat) : State :=
  s.modRegion n (fun r =>
    if (match r.fetching with
        | some c => c.handler.isSome
        | none => false) then { r with fetching := none, phase := r.back }
    else if (match r.shadow with
        | some l => l.handler.isSome
        | none => false) then { r with shadow := none, phase := r.back } else r)

/-- The next waiting command begins its fetch (R40); with none, a pending release takes effect. A frozen load follows its edge first, and one that has is
then discarded (R361). -/
def State.nextCommand (s : State) (n : Nat) : State :=
  match s.region n with
  | none => s
  | some r =>
    let frozen := r.active.any (fun l => l.rcd.isSome && !l.discarded)
    if r.fetching.isSome ∨ ¬ (r.phase = .empty ∨ r.phase = .run ∨ r.phase = .resident)
        ∨ (frozen = true ∧ r.active.any (fun l => !l.edged) = true) then s
    else match r.cmds with
      | c :: t => if (s.team? c.team).any (fun tm => decide (tm.st ≠ .running)) then s
        else
          let s := if frozen then s.discardRegion n true else s
          (s.modRegion n (fun r => { r with cmds := t, fetching := some c, back := r.phase, phase := .fetch, prev := none })).post .fetchComplete [n]
      | [] => s.tryRelease n

/-! ## Refusals (R368, R384, R403) -/

/-- A command is refused: the record, its stamp, the trap of the core that issued it. -/
def State.refuseCmd (s : State) (die : Nat) (c : Cmd) (j : Rej) : State :=
  let op (v : Nat) : Nat := if (j.reason ≠ 0 ∧ j.word = false) ∨ j.fetch = true then 0 else v
  let r := { time := s.dieNs die, code := if j.fetch then 0x0A else 0x0B, sk := 5, fli := c.fl % 256,
             func := ((s.team? c.team).map Team.func).getD 0, loc := j.loc, core := c.core, op0 := j.op0,
             op1 := op (j.kind * 256 + j.idx % 256), op2 := op j.off, op3 := j.reason : RecF }.pack
  let s := if c.handler.isNone then s.cfgStamp c.team c.core c.stamp c.fl 0x04 else s
  s.trapTo (some c.team) c.core r

/-- The command being fetched is refused (R368): the shadow is dropped, the phase stands as it stood, the next command is taken. -/
def State.refuseFetch (s : State) (n : Nat) (j : Rej) : State :=
  match s.region n with
  | none => s
  | some r => match r.fetching with
    | none => s
    | some c =>
      let s := s.refuseCmd r.die c j
      (s.modRegion n (fun r => { r with shadow := none, fetching := none, phase := r.back })).nextCommand n

/-! ## Fetch and check (R40, R178, R179) -/

/-- The virtual address of image `i` of a team's list (R178), through the configuration cache; else the offending value of R403: FLIST of a list that
is absent or cannot be read, its word 0, or `i`. -/
def State.listVa (s : State) (t : Team) (i : Nat) : Sum Nat (Nat × State) :=
  let word (s : State) (va : Nat) : Option (Nat × State) := (s.cached t.asid t.func va).map (fun x => (x.1.toNat / 2 ^ (8 * (va % 16)) % 2 ^ 64, x.2))
  if t.flist = 0 then .inl 0
  else match word s t.flist with
    | none => .inl t.flist
    | some (n, s) =>
      if n = 0 ∨ 255 < n then .inl n
      else if i = 0 ∨ n < i then .inl i
      else match word s (t.flist + 8 * i) with
        | none => .inl t.flist
        | some x => .inr x

/-- The first of `n` bytes at `va` that the configuration cache does not hold, by steps of 16. -/
def State.firstMissing (s : State) (asid va n : Nat) : Option Nat :=
  (List.range ((n + 15) / 16)).find? (fun i => (Tab.get none s.ccache (asid * 2 ^ 45 + va / 16 + i)).isNone)

/-- `n` bytes at `va` from the configuration cache, as an image. -/
def State.cachedImage (s : State) (asid va n : Nat) : Memory :=
  (List.range ((n + 15) / 16)).foldl (fun m i =>
    m.writeN (16 * i) (Nat.min 16 (n - 16 * i)) ((Tab.get none s.ccache (asid * 2 ^ 45 + va / 16 + i)).getD 0).toNat) []

/-- How far a fetch has come: bytes still to be fetched, a refusal, or the checked load. -/
inductive FetchRes where
  | need (va n : Nat)
  | bad (r : Rej)
  /-- tiles that a switched-out team's load still holds (R65) -/
  | wait
  | ready (l : Load)

/-- The load that a command and an image make, not yet run. -/
def Load.make (s : State) (c : Cmd) (t : Team) (m : Memory) : Load :=
  { id := s.nextId, img := m, fl := c.fl, core := c.core, team := c.team, func := t.func, asid := t.asid, stamp := c.stamp, k := c.k, tp := c.tp,
    flags := 0, isl := List.replicate (imgIsl m) Isl.idle, overlaps := 0, rcd := none, held := false, spread := none, handler := c.handler,
    discarded := false, edged := false, reported := false, carry := [], finAt := 0, ran := [], inner := imgInner m }

/-- The fold variants' headers against the original's (R179). -/
def State.variantsCheck (s : State) (asid : Nat) (m : Memory) : List (Nat × Bool) → Option FetchRes
  | [] => none
  | (va, q) :: t =>
    if va = 0 then s.variantsCheck asid m t
    else if (s.firstMissing asid va 128).isSome then some (.need va 128)
    else if variantBad m (s.cachedImage asid va 128) q then some (.bad { reason := 9, op0 := va })
    else s.variantsCheck asid m t

/-- The fault edge of an image (R362): its handler's number, rank and M tiles. -/
def State.edgeCheck (s : State) (r : Region) (t : Team) (m : Memory) : Option FetchRes :=
  let e := hd m 71 64
  if hd m 79 79 = 1 then none
  else match s.listVa t e with
    | .inl _ => some (.bad { reason := 8, op0 := e })
    | .inr (va, _) =>
      if (s.firstMissing t.asid va 128).isSome then some (.need va 128)
      else
        let h := s.cachedImage t.asid va 128
        let q : Region := { r with w := imgW h, h := imgH h }
        if hd h 10 8 ≤ hd m 10 8 then some (.bad { reason := 8, op0 := e, off := 8, word := true })
        else if ¬ (q.tiles.any (fun t => decide (tileKind (r.x + t.1) (r.y + t.2) = .M)) = true) then some (.bad { reason := 8, op0 := e })
        else none

/-- The state of a fetch of the image at `va`. The header alone is checked before the rest is fetched (R179). -/
def State.fetchState (s : State) (n : Nat) (r : Region) (c : Cmd) (t : Team) (va : Nat) : FetchRes :=
  if (s.firstMissing t.asid va 128).isSome then .need va 128
  else match headerBad (s.cachedImage t.asid va 128) with
    | some j => .bad j
    | none =>
      let len := hd (s.cachedImage t.asid va 128) 511 480
      match s.firstMissing t.asid va len with
      | some i => .need (va + 16 * i) (Nat.min (len - 16 * i) (2 ^ 22))
      | none =>
        let m := s.cachedImage t.asid va len
        match listsPast m with
        | some j => .bad j
        | none => if imgSum m ≠ hd m 191 128 then .bad { fetch := true }
        else match s.variantsCheck t.asid m [(hd m 255 192, false), (hd m 319 256, true)] with
          | some x => x
          | none =>
            let l := Load.make s c t m
            match s.imageBad n r l t.cores with
            | some j => .bad j
            | none => match s.edgeCheck r t m with
              | some x => x
              | none =>
                if (s.heldTiles n r m).any (fun i => (s.regions[i]?).any (fun g => !g.spent)) then .wait
                else .ready { l with overlaps := (l.conflicts { r with w := imgW m, h := imgH m }).length }

/-- The rider that fetches `bytes` of an image at `va` (R40). -/
def fetchRider (n die : Nat) (t : Team) (team va bytes : Nat) : Rider :=
  Rider.ask .rdstr (.fetch n) (32 + die) t.func t.asid (some team) (mkRecord ((bytes + 3) / 4) 0 0 0 0) va 0

/-- The core of the reach of a region's north-west tile, within its die. -/
def Region.homeCore (r : Region) : Nat := coreOfTile 0 r.x r.y

/-- FETCH_COMPLETE (R39, R40): the fetch of a region goes on, and once the image is whole and checked the region is Armed. -/
def State.fetchGo (s : State) (n : Nat) : State :=
  match s.region n with
  | none => s
  | some r =>
    match r.fetching with
    | none => s.nextCommand n
    | some c =>
      if r.phase ≠ .fetch ∨ (s.riders ++ s.waiting).any (fun q => decide (q.owner = .fetch n)) then s
      else match s.team? c.team with
        | none => s
        | some t => match s.listVa t c.fl with
          | .inl v => s.refuseFetch n { reason := 1, op0 := v }
          | .inr (va, s) => match s.fetchState n r c t va with
            | .need a b =>
              let q := fetchRider n r.die t c.team a b
              s.admitOrWait q r.die (eTile r.die r.homeCore q.xa)
            | .bad j => s.refuseFetch n j
            | .wait => s
            | .ready l =>
              let s := (s.heldTiles n r l.img).foldl State.yieldTiles s
              ({ s with nextId := s.nextId + 1 }.modRegion n (fun r => { r with shadow := some l, phase := .armed })).post .drain [n]
/-- FETCH_COMPLETE (R39). -/
def execFetchComplete (s : State) : Host.Outcome State Fault Refusal := .next (s.fetchGo (s.arg 0))

/-! ## Drain, token, fill (R39, R41, R42) -/

/-- A stream that a load declares (R183): one of its team, with a record of its table. -/
def Load.declaresStrm (l : Load) (t : Strm) : Bool :=
  decide (t.team = some l.team) &&
    (List.range (hd l.img 63 56)).any (fun i => let e := imgRider l.img i; decide (e.1 = t.rcd.toNat ∧ e.2.1 = t.xa))

/-- The engines bound to a load are idle (R41): declared riders and streams, words that wait at a bound port, emissions, FIFOs, X tiles, node requests,
transforms. -/
def State.enginesIdle (s : State) (n : Nat) (r : Region) (l : Load) : Bool :=
  (s.riders ++ s.waiting).all (fun (q : Rider) => (decide (q.owner ≠ Owner.load n) || q.void) && !l.declares q)
    && s.streams.all (fun t => !l.declaresStrm t)
    && ((List.range 8).filter l.bindsPort).all (fun p => (List.range 32).all (fun c =>
      (Tab.get [] s.portWords (portKey (some l.team) c p)).isEmpty || (r.portTo l c p).isNone))
    && s.fifos.all (fun f => !r.holdsEl (f.key / 4) || f.q.isEmpty)
    && (r.els.filter (fun k => decide (elKind k = .xt ∧ elIdx k = 0))).all (fun k =>
      let t := s.xtile (xtOf k)
      t.queue.isEmpty && t.drains.isEmpty && t.lands.isEmpty)
    && (r.els.filter (fun k => decide (elKind k = .node))).all (fun k => (s.node (elNode k)).queue.all (fun q => decide (q.src ≠ 32)))
    && s.xforms.all (fun x => x.2.all (fun c => decide (c.load ≠ some n)))

/-- DRAIN (R39, R41): the old load has finished and its engines are idle; in a handler's place, the frozen load is discarded (R362). -/
def State.drainGo (s : State) (n : Nat) : State :=
  match s.region n with
  | none => s
  | some r =>
    let away : Bool := match r.shadow with
      | some l => l.handler.isNone && (s.team? l.team).any (fun tm => decide (tm.st ≠ .running))
      | none => false
    if away ∨ (r.phase ≠ .armed ∧ r.phase ≠ .drain) then s
    else
      let s := if (match r.shadow with
          | some l => l.handler.isSome
          | none => false) then s.discardLoad n false else s
      match s.active n with
      | none => (s.modRegion n (fun r => { r with phase := .token })).post .reconfigurationToken [n]
      | some (r, l) =>
        if l.discarded then (s.modRegion n (fun r => { r with phase := .token })).post .reconfigurationToken [n]
        else if l.reported then
          let s := s.modRegion n (fun r => { r with phase := .drain })
          if s.enginesIdle n r l then (s.modRegion n (fun r => { r with phase := .token })).post .reconfigurationToken [n] else s
        else s
/-- DRAIN (R39, R41). -/
def execDrain (s : State) : Host.Outcome State Fault Refusal := .next (s.drainGo (s.arg 0))

/-- Load `l` becomes the active one of region `n`: every element swaps planes at once, the region owns the nodes of its M tiles (R42, R151), and the
configuration that was active is what the shadow planes now hold. What an element's lines, outputs and results in flight hold after the swap the manual
does not say: nothing (DESIGN CHOICE, log entry 103). -/
def State.takePlanes (s : State) (n : Nat) (l : Load) : State :=
  match s.region n with
  | none => s
  | some r0 =>
    let r : Region := { r0 with w := imgW l.img, h := imgH l.img }
    let s := (r0.els.filter (fun k => decide (elKind k = .node))).foldl (fun s k => s.freeNode (elNode k)) s
    let s := (r.els.filter (fun k => decide (elKind k = .node))).foldl (fun (s : State) k =>
      let b := r.elAt l k
      s.modNode (elNode k) (fun nd => { Node.free with
        owner := some n, mode := l.nodeMode b, depth := l.nodeDepth b, shared := bit (l.at b 0x043 1) 5, queue := nd.queue, next := nd.next })) s
    let s := { s with
      els := (r0.els ++ r.els).foldl (fun t k => Tab.del k t) s.els
      fifos := s.fifos.filter (fun (f : Fifo) => !r0.holdsEl (f.key / 4)) ++ (r.links l).map (fun key => (⟨key, []⟩ : Fifo)) }
    s.modRegion n (fun _ => { r with active := some l, prev := r0.active })

/-- RECONFIGURATION_TOKEN (R42): the load in the shadow planes becomes the active one. -/
def State.swapPlanes (s : State) (n : Nat) : State :=
  match s.region n with
  | none => s
  | some r0 => match r0.phase, r0.shadow with
    | .token, some l => ((s.takePlanes n l).modRegion n (fun r => { r with shadow := none, fetching := none, phase := .fill })).post .fill [n]
    | _, _ => s
/-- RECONFIGURATION_TOKEN (R42). -/
def execReconfigurationToken (s : State) : Host.Outcome State Fault Refusal := .next (s.swapPlanes (s.arg 0))

/-- What Fill sets in one element: decoders' and views' expected tags, F bits, first tags, a cox-driven X tile's ports (R42, R181, R251,
R276, R296). The F bits of an X tile are those of its record whether or not the load uses it (MODE): 0 where nothing is declared (R101, R115). Of a 2-byte expected tag the low 12 bits count, and R181 and R251 neither refuse a higher one nor say so (DESIGN CHOICE, log entry 120). -/
def State.fillElement (s : State) (r : Region) (l : Load) (k : Nat) : State :=
  let b := r.elAt l k
  match elKind k with
  | .ce =>
    let d : Dec := { Dec.empty with tag := l.at b 0x126 2 % 4096 }
    s.modEl k (fun _ => { El.zero with da := d, db := d, dc := d })
  | .node => s.modNode (elNode k) (fun nd => { nd with f := l.at b 0x044 1, wtag := l.at b 0x046 2 % 4096 })
  | .conv => s.modEl k (fun e => { e with ctag := l.at b 0x04A 2 % 4096 })
  | .xt => if elIdx k ≠ 0 then s
    else (s.modTile (xtOf k) (fun t =>
      let t := { t with f := l.at b 1 1 % 16 }
      if l.at b 0 1 = 1 then { t with atag := l.at b 2 2 % 4096, btag := l.at b 4 2 % 4096, aq := [], bq := [] } else t)).claimTile (xtOf k) l.core (some l.team)
  | _ => s

/-- The value of a carry entry (R180): a line entry of an element, or a word of a node. -/
def State.getCarry (s : State) (r : Region) (e : Nat) : Beat :=
  let k := r.key (bits e 62 58) (bits e 57 52) (bits e 51 48)
  if bit e 63 then Beat.of [[s.mem.readN (nodeBase (elNode k) + bits e 47 35) 4]] 0
  else
    let x := s.elem k
    (match bits e 47 46 with
      | 0 => x.a
      | 1 => x.b
      | _ => x.c).getD (bits e 45 42) Beat.zero
/-- Put a carry value at the place that an entry names. -/
def State.putCarry (s : State) (r : Region) (e : Nat) (v : Beat) : State :=
  let k := r.key (bits e 62 58) (bits e 57 52) (bits e 51 48)
  if bit e 63 then { s with mem := s.mem.writeN (nodeBase (elNode k) + bits e 47 35) 4 (v.v0.toNat % 2 ^ 32) }
  else
    let n := bits e 45 42
    let put (l : List Beat) : List Beat := (l ++ List.replicate (n + 1 - l.length) Beat.zero).set n v
    s.modEl k (fun x => match bits e 47 46 with
      | 0 => { x with a := put x.a }
      | 1 => { x with b := put x.b }
      | _ => { x with c := put x.c })

/-- The node of a block of initial contents, where the block leaves a part of an uncorrectable 16-byte word as it stands (R390). -/
def State.initLost (s : State) (r : Region) (b : Nat × Nat × Nat × Nat × Nat × Nat) : Option Nat :=
  let k := r.key b.1 b.2.1 b.2.2.1
  let a := nodeBase (elNode k) + b.2.2.2.1
  let n := b.2.2.2.2.2
  if (a % 16 ≠ 0 ∧ s.wordsBad a 1 = true) ∨ ((a + n) % 16 ≠ 0 ∧ s.wordsBad (a + n - 1) 1 = true) then some k else none

/-- What Fill writes for the active load of region `n` (R42): initial contents, F bits and tags, a handler's record (R362), carry values; and the start
tokens kept for its islands are delivered (R366). A fault of the writing is one of the new load, at step 0 (R368). -/
def State.fillPlanes (s : State) (n : Nat) : State :=
  match s.active n with
  | none => s
  | some (r, l) =>
    let inits := imgInits l.img 4194304 (hd l.img 479 448)
    let lost := inits.findSome? (s.initLost r)
    let mem := inits.foldl (fun (m : Memory) (b : Nat × Nat × Nat × Nat × Nat × Nat) =>
      m.putBytes (nodeBase (elNode (r.key b.1 b.2.1 b.2.2.1)) + b.2.2.2.1) (l.img.bytes b.2.2.2.2.1 b.2.2.2.2.2)) s.mem
    let s := r.els.foldl (fun s k => s.fillElement r l k) { s with mem := mem }
    let s := match l.handler, r.tiles.find? (fun t => decide (tileKind (r.x + t.1) (r.y + t.2) = .M)) with
      | some h, some t => { s with mem := s.mem.writeN (nodeBase (elNode (r.key t.1 t.2 0)) + 0x1FC0) 64 h.2.2.toNat }
      | _, _ => s
    let s := l.carry.foldl (fun (s : State) x => s.putCarry r x.1 x.2) s
    let s := match lost with
      | some k => s.freezeFault n ((r.isl l k).getD 0) k 0x14 (2 ^ 31 + elNode k * 8192) 0 0
      | none => s
    (List.range l.isl.length).foldl (fun (s : State) i =>
      if (l.isl.getD i Isl.idle).startPend ∧ l.edgesOpen r i = true then s.startIsland n i else s) s

/-- Tokens sent to a region before its new load became active have long passed the second edge of the clocks of its islands (R37). -/
def State.newClock (s : State) (n : Nat) : State :=
  { s with toks := s.toks.map (fun t => match t.dest with
    | .island g _ => if g = n then { t with due := 0 } else t
    | _ => t) }

/-- FILL (R42): the region runs once its declared ranges are written. -/
def State.fillRegion (s : State) (n : Nat) : State :=
  match s.active n with
  | none => s
  | some (r, _) =>
    if r.phase ≠ .fill then s
    else (((s.fillPlanes n).modRegion n (fun r => { r with phase := .run })).newClock n).nextCommand n
/-- FILL (R42). -/
def execFill (s : State) : Host.Outcome State Fault Refusal := .next (s.fillRegion (s.arg 0))

/-! ## Tokens and finish (R29, R37, R38) -/

/-- Take token `n` off the network. -/
def State.takeTok (s : State) (n : Nat) : State := { s with toks := s.toks.eraseIdx n }

/-- Token `t` reaches the start endpoint of island `i` (R37, R207, R366); nothing while the endpoint cannot take it, its clock pausing among the reasons
(R24). It waits there where an edge declared
into the island is not yet open (R147). A token for an island that has started is for a later load of the region and stays, one at most for each
endpoint, unless it comes from a TKSEND, which is ignored (R207; log entry 101). -/
def State.islandToken (s : State) (t : Tok) (g i : Nat) (behind : Bool) : Option State :=
  match s.active g with
  | none => none
  | some (r, l) =>
    let il := l.isl.getD i Isl.idle
    if ¬ r.phase.clocked ∨ l.isl.length ≤ i ∨ il.frozen = true ∨ s.paused (r.clock l i) = true ∨ s.cycle (r.clock l i) < t.due then none
    else if il.fold.isSome ∧ (il.atFold = true ∨ il.started = false) then some (s.modIsl g i (fun x => { x with startPend := true }))
    else if il.started then (if t.src < 32 ∨ behind = true then some s else none)
    else if l.edgesOpen r i then some (s.startIsland g i)
    else some (s.modIsl g i (fun x => { x with startPend := true }))

/-- A token port of a core counts one more, at most 0xFFFF (R207). -/
def State.countToken (s : State) (c p : Nat) : State :=
  s.modCore c (fun k => { k with ports := Tab.set 0 k.ports p (if Tab.get 0 k.ports p = 0xFFFF then 0xFFFF else Tab.get 0 k.ports p + 1) })

/-- The die that sends a token or an arrival of source `src` (R46). -/
def tokenDie (src : Nat) : Nat := if src < 32 then src / 8 else (src - 32) / 2048

/-- A token held for a switched-out core, behind those of no later time (R66). -/
def insHeld (a : Nat × Nat × Nat) : List (Nat × Nat × Nat) → List (Nat × Nat × Nat)
  | [] => [a]
  | b :: t => if a.1 < b.1 then a :: b :: t else b :: insHeld a t

/-- TOKEN_ARRIVAL (R37): token `n` of those in transit reaches its target; at a core's port it waits while the clock there pauses (R24) or a die link on
its way retrains (R410). -/
def State.tokenArrive (s : State) (n : Nat) : State :=
  match s.toks[n]? with
  | none => s
  | some t =>
    match t.dest with
    | .island g i => match s.islandToken t g i ((s.toks.take n).any (fun u => decide (u.dest = t.dest ∧ 32 ≤ u.src))) with
      | some s => s.takeTok n
      | none => s
    | .port tm c p =>
      if s.paused (coreIsl c) ∨ s.dieHeld (tokenDie t.src) (c / 8) t.time = true then s
      else if s.present (some tm) c then
        (s.countToken c p).takeTok n
      else (s.modTeam tm (fun m => { m with held := insHeld (t.time, c, p) m.held })).takeTok n
    | .rv tm p =>
      if s.dieHeld (tokenDie t.src) 4 t.time then s
      else { s.takeTok n with rvq := s.rvq ++ [{ time := t.time, src := t.src, team := tm, point := p, set := none, holds := false, loc := 0, core := t.core, syl := 0 }] }
/-- TOKEN_ARRIVAL (R37). -/
def execTokenArrival (s : State) : Host.Outcome State Fault Refusal := .next (s.tokenArrive (s.arg 0))

/-- A load whose islands have all finished (R38): its flags, then its stamp with the time of the finish (R136, R206, R362), and with it the number of its overlapping pairs (R149).
While its team is switched out the finish is held (R64). -/
def State.finishLoad (s : State) (n : Nat) : State :=
  match s.active n with
  | none => s
  | some (r, l) =>
    let out := match s.team? l.team with
      | some t => decide (t.st ≠ .running)
      | none => true
    if l.reported ∨ l.discarded = true ∨ out = true ∨ ¬ (l.isl.all Isl.ended = true) then s
    else
      let s := s.teamFlags (some l.team) l.core l.flags
      let s := match l.handler with
        | some h => s.cfgStampAt l.team l.core h.1 h.2.1 0x04 l.finAt
        | none => s.cfgStampAt l.team l.core l.stamp l.fl 0x01 l.finAt
      let s := (s.modActive n (fun l => { l with reported := true, flags := 0 })).modTeam l.team (fun t => { t with
        overlaps := Tab.set 0 t.overlaps l.fl l.overlaps })
      if r.phase = .run then (s.modRegion n (fun r => { r with phase := .resident })).nextCommand n
      else (s.modRegion n (fun r => { r with back := if r.back = .run then .resident else r.back })).post .drain [n]

/-- FINISH_TOKEN (R29, R38). -/
def State.islandFinish (s : State) (n i : Nat) : State :=
  match s.active n with
  | none => s
  | some (r, l) =>
    let il := l.isl.getD i Isl.idle
    if il.started ∧ il.ended = false ∧ il.fold = none ∧ il.frozen = false ∧ l.discarded = false ∧ l.total i ≤ il.s ∧ s.islandQuiet n r l i = true then
      (((s.modIsl n i (fun x => { x with ended := true })).modActive n (fun l => { l with finAt := s.dieNs r.die })).finishLoad n)
    else s
/-- FINISH_TOKEN (R29, R38). -/
def execFinishToken (s : State) : Host.Outcome State Fault Refusal := .next (s.islandFinish (s.arg 0) (s.arg 1))

/-! ## Fault edges (R361, R362) -/

/-- FAULT_EDGE (R362): a frozen load that is not held follows its edge, once. -/
def State.faultEdge (s : State) (n : Nat) : State :=
  match s.active n with
  | none => s
  | some (_, l) =>
    match l.rcd with
    | none => s
    | some q =>
      if ¬ l.isFrozen ∨ l.held = true ∨ l.edged = true ∨ l.discarded = true then s
      else
        let s := s.modActive n (fun l => { l with edged := true })
        if hd l.img 79 79 = 1 then
          (s.trapTo (some l.team) l.core q).nextCommand n
        else
          let a := match l.handler with
            | some h => (h.1, h.2.1)
            | none => (l.stamp, l.fl)
          let c : Cmd := { fl := hd l.img 71 64, stamp := a.1, core := l.core, team := l.team, k := l.k, tp := l.tp, handler := some (a.1, a.2, q) }
          ((s.queueRec q).modRegion n (fun r => { r with fetching := some c, back := r.phase, phase := .fetch, prev := none })).post .fetchComplete [n]
/-- FAULT_EDGE (R362). -/
def execFaultEdge (s : State) : Host.Outcome State Fault Refusal := .next (s.faultEdge (s.arg 0))

/-- FRZCTL_REL (R361): every load held by FRZHOLD goes on to its edge. -/
def State.releaseHeld (s : State) : State :=
  let s := { s with regions := s.regions.map (fun r => { r with active := r.active.map (fun l => { l with held := false }) }) }
  (List.range s.regions.length).foldl (fun s n => s.faultEdge n) s
/-- FRZCTL_REL (R361). -/
def execFrzctlRel (s : State) : Host.Outcome State Fault Refusal := .next s.releaseHeld

/-! ## The cox instructions (R206, R207) -/

/-- FCFG (R206): the command waits at its region; a frozen load there is discarded (R361). -/
def State.configure (s : State) (core : Nat) (origin stamp fl : Nat) : State :=
  let k := s.core core
  let tm := k.team.getD 0
  let c : Cmd := { fl := fl, stamp := stamp, core := core, team := tm, k := k.k, tp := (List.range 4).map (fun p => Tab.get TPlane.absent k.tplane p),
                   handler := none }
  match s.regionAt tm origin with
  | none =>
    if s.regions.any (fun r => r.isAt origin && (s.team? r.team).any (fun t => decide (t.st = .running))) then
      s.refuseCmd (bits origin 17 16) c { reason := 4, op0 := origin }
    else
      let n := s.regions.length
      let r := Region.fresh (bits origin 17 16) (bits origin 4 0) (bits origin 13 8) tm
      { s with regions := s.regions ++ [{ r with cmds := [c] }] }.nextCommand n
  | some n => match s.region n with
    | none => s
    | some r =>
      let s := s.modRegion n (fun r => { r with team := tm, cmds := r.cmds ++ [c] })
      let s := match r.active with
        | some l => if l.rcd.isSome ∧ l.discarded = false then (s.dropHandler n).discardRegion n true else s
        | none => s
      s.nextCommand n

/-- FREL (R206): the region is released once it stands in Resident with nothing pending. -/
def State.unconfigure (s : State) (core : Nat) (origin : Nat) : State :=
  match s.regionAt ((s.core core).team.getD 0) origin with
  | none => s
  | some n => match s.region n with
    | none => s
    | some r =>
      if some r.team ≠ (s.core core).team ∨ r.idle = true then s
      else
        let s := s.modRegion n (fun r => { r with frel := true })
        let s := match r.active with
          | some l => if l.rcd.isSome ∧ l.discarded = false then (s.dropHandler n).discardRegion n true else s
          | none => s
        s.nextCommand n

/-- TKSEND (R207): a start token for an island of the active load, unless there is none to take it: a load between the reconfiguration token and Run is
not active yet. -/
def State.sendStart (s : State) (core : Nat) (origin isl : Nat) : State :=
  match s.regionAt ((s.core core).team.getD 0) origin with
  | none => s
  | some n => match s.active n with
    | none => s
    | some (r, l) =>
      if ¬ r.phase.clocked ∨ l.discarded = true ∨ l.isl.length ≤ isl ∨ ((l.isl.getD isl Isl.idle).started = true ∧ (l.isl.getD isl Isl.idle).fold = none) then s
      else { s with toks := s.toks ++ [s.islandTok n isl (s.dieNs (core / 8)) core core] }

/-- FCFG (R206). -/
def execFcfg (d a b : Nat) (s : State) : Host.Outcome State Fault Refusal :=
  coxIssue (.fcfg d a b) (fun s => s.configure s.cur (s.xval b) (s.xval d) (s.xval a % 256)) s
/-- FREL (R206). -/
def execFrel (b : Nat) (s : State) : Host.Outcome State Fault Refusal :=
  coxIssue (.frel b) (fun s => s.unconfigure s.cur (s.xval b)) s
/-- TKSEND (R207). -/
def execTksend (a b : Nat) (s : State) : Host.Outcome State Fault Refusal :=
  coxIssue (.tksend a b) (fun s => s.sendStart s.cur (s.xval b) (s.xval a % 64)) s

end Sys2Proof.Machine
end

