-- ==== Sys2Proof/Machine/XTiles.lean ====
section
/-! DEFINITION. The sequencer of an X tile: its queue, rows, pairs, saves, restores and drains (R236 to R251, R367, R369, R370,
R380). Its times are cycles of its quadrant island's clock (R7, R24; log entry 20). -/

namespace Sys2Proof.Machine

/-- Change the head entry of a tile's queue. -/
def XTile.modHead (t : XTile) (f : XEnt → XEnt) : XTile :=
  match t.queue with
  | [] => t
  | e :: r => { t with queue := f e :: r }

/-- The head entry has ended. -/
def XTile.pop (t : XTile) : XTile := { t with queue := t.queue.drop 1, k := 0 }

/-- The sequencer may act: it has not stopped, no MXSAVE with STOP waits, and its state is not a switched-out context's (R248, R367, R369). -/
def XTile.live (t : XTile) : Bool := !t.stopped && t.stops.isEmpty && t.away.isNone

/-- The partner tile that an MXPAIR entry of tile `u` names. -/
def pairPartner (u xa : Nat) : Nat :=
  let c := u / 32
  32 * (8 * ((c / 8) / 2 * 2 + (1 - (c / 8) % 2)) + bits xa 12 10) + bits xa 9 5
/-- Tile `u` is the upper half of its pairs. -/
def pairUpper (u : Nat) : Bool := u / 256 % 2 = 1

/-- Halves of a pair of tiles with a tag that wait at the lower tile: the results of the upper tile that have come, and the lower sums that have
landed. -/
def XTile.halves (t : XTile) (upper tag : Nat) : Nat × Nat :=
  let l := t.pairs.filter (fun q => decide (q.partner = upper ∧ q.tag = tag))
  ((l.filter (fun q => q.upper.isSome)).length, (l.filter Pair.lower).length)

/-- Tile `p` holds, or has run, the half that matches the half `e` of tile `u`, which stands behind `m` halves of the same partner and tag (R250):
the n-th of each names the other with one tag. An upper half leaves its queue once its result is sent, a lower half once the two are combined. -/
def State.matchHeld (s : State) (u p m : Nat) (e : XEnt) : Bool :=
  let n := ((s.xtile p).queue.filter (fun q => decide (q.kind = .pair ∧ pairPartner p q.xa = u ∧ q.imm = e.imm))).length
  if pairUpper u then decide (((s.xtile p).halves u e.imm).1 + m < n)
  else decide (m < ((s.xtile u).halves p e.imm).1 + n)

/-- The tiles with the other halves of the pairs that stand in the queue `q` of tile `u`, `past` the halves before them. -/
def State.heldHalves (s : State) (u : Nat) : List (Nat × Nat) → List XEnt → List Nat
  | _, [] => []
  | past, e :: q =>
    if e.kind = .pair then
      let p := pairPartner u e.xa
      let m := (past.filter (fun x => decide (x = (p, e.imm)))).length
      (if s.matchHeld u p m e then [p] else []) ++ s.heldHalves u (past ++ [(p, e.imm)]) q
    else s.heldHalves u past q

/-- The tiles with the other halves of the pairs that tile `u` has part in (R369): those of its queue, and the lower tiles at which a result that it
sent waits to be combined. -/
def State.otherHalves (s : State) (u : Nat) : List Nat :=
  (s.heldHalves u [] (s.xtile u).queue
    ++ (s.xtiles.filter (fun x => x.2.pairs.any (fun q => decide (q.partner = u) && q.upper.isSome))).map Prod.fst).eraseDups

/-- A unit fault of the tile: the record, the trap of its core, and the stop (R356, R390, R400); a fault of its own is told to the other halves of
its pairs (R369). -/
def State.tileFault (s : State) (u : Nat) (f : UFault) (tell : Bool := true) : State :=
  let c := tileCore u
  let r := { time := s.dieNs (c / 8), code := f.1, sk := 2, func := s.funcOf c, loc := tileLoc u, core := c, op0 := f.2.1,
             op1 := f.2.2.1, op2 := f.2.2.2 : RecF }.pack
  let others := if tell then s.otherHalves u else []
  let s1 := s.modTile u (fun t => { t with stopped := true, tell := (t.tell ++ others).eraseDups })
  match (s.xtile u).user with
  | some (_, tm) => s1.trapTo tm c r
  | none => s1.unitTrap c r

/-- The word at offset `off` from acc0 as the K steps begun so far leave it (R241). -/
def State.accNow (s : State) (u : Nat) (t : XTile) (off : Nat) : Nat :=
  match t.lands.reverse.findSome? (fun l => (l.upd.find? (fun p => decide (p.1 = off))).map (fun p => p.2.toNat)) with
  | some w => w
  | none => s.mem.readN (accBase u 0 + off) 4

/-- The words of acc0 and acc1, by offset from acc0, that a unit reads from the accumulators themselves: not those of K steps still to land (R241). -/
def XTile.storedOffs (t : XTile) (offs : List Nat) : List Nat := offs.filter (fun o => t.lands.all (fun l => l.upd.all (fun p => decide (p.1 ≠ o))))
/-- An accumulator word among `offs` that a unit of tile `u` reads is uncorrectable (R390). -/
def State.accBad (s : State) (u : Nat) (offs : List Nat) : Bool :=
  !s.eccBad.isEmpty && ((s.xtile u).storedOffs offs).any (fun o => s.wordsBad (accBase u 0 + o) 4)
/-- The correctable ones are corrected and reported (R390). -/
def State.accFixed (s : State) (u : Nat) (offs : List Nat) : State :=
  if s.eccBad.isEmpty then s else ((s.xtile u).storedOffs offs).foldl (fun (s : State) o => s.wordsFixed (accBase u 0 + o) 4) s
/-- The fault of a tile that reads an uncorrectable accumulator word (R390); the rule gives no operand words, and the model's are 0. -/
def accFault : UFault := (0x14, 0, 0, 0)
/-- Offsets from acc0 of accumulator `a`. -/
def accOffs (a : Nat) : List Nat := (List.range 4096).map (fun i => 16384 * a + 4 * i)

/-! ## Pairs (R250) -/

/-- The accumulators that a row writes, as PP bits. -/
def XEnt.dests (e : XEnt) : List Nat := if pairClass (e.f 15 11) = 6 then [0, 1] else [e.f 36 36]

/-- Offsets from acc0 of the elements of a row's result. -/
def XEnt.offsets (e : XEnt) : List Nat :=
  e.dests.flatMap (fun a => (List.range e.m).flatMap (fun i => (List.range e.n).map (fun j => 16384 * a + 256 * i + 4 * j)))

/-- The first pair of a list for `partner` and `tag` that satisfies `p` is changed by `f`. -/
def modPair (l : List Pair) (partner tag : Nat) (p : Pair → Bool) (f : Pair → Pair) : Option (List Pair) :=
  match l with
  | [] => none
  | a :: t =>
    if a.partner = partner ∧ a.tag = tag ∧ p a = true then some (f a :: t)
    else (modPair t partner tag p f).map (a :: ·)

/-- Both contexts of a pair of tiles are switched in (R370). -/
def State.bothIn (s : State) (team : Option Nat) (u partner : Nat) : Bool := s.present team (tileCore u) && s.present team (tileCore partner)
/-- A tile that comes to hold pair state of a member that is switched out is the tile of a switched-out context (R367). -/
def State.pairAway (s : State) (u : Nat) (team : Option Nat) (t : XTile) : XTile :=
  if s.present team (tileCore u) then t
  else match team.bind s.team? with
    | some tm => if tm.st = .ended ∨ tm.ending.isSome then t else { t with away := t.away.or team }
    | none => t

/-- The pair timer of a pair of tiles `u` and `partner` starts; it counts while both contexts are switched in (R370). -/
def State.newPair (s : State) (u partner tag : Nat) (team : Option Nat) : Pair :=
  ⟨partner, tag, none, false, 0, if s.bothIn team u partner then some s.ns else none, team, false, 0⟩

/-- The first byte, from acc0, of the accumulators that a row writes; the complex class writes both. -/
def XEnt.accOff (e : XEnt) : Nat := if pairClass (e.f 15 11) = 6 then 0 else 16384 * e.f 36 36

/-- A half's last sums have landed (R250): the upper half sends its result, by element, and the lower half waits for it. A result that cannot be read
is not sent (R390). -/
def State.pairLanded (s : State) (u : Nat) (e : XEnt) : State :=
  let p := pairPartner u e.xa
  if pairUpper u ∧ s.accBad u e.offsets = true then s.tileFault u accFault
  else if pairUpper u then
    let s := s.accFixed u e.offsets
    let res := e.offsets.map (fun o => (o - e.accOff, BitVec.ofNat 32 (s.mem.readN (accBase u 0 + o) 4)))
    let put (l : List Pair) : List Pair :=
      (modPair l u e.imm (fun q => q.upper.isNone) (fun q => { q with upper := some res, sent := s.ns })).getD
        (l ++ [{ s.newPair p u e.imm e.team with upper := some res, sent := s.ns }])
    let s := s.modTile p (fun t => s.pairAway p e.team { t with pairs := put t.pairs })
    s.post .pairCombine [p]
  else
    let put (l : List Pair) : List Pair :=
      (modPair l p e.imm (fun q => !q.lower) (fun q => { q with lower := true })).getD
        (l ++ [{ s.newPair u p e.imm e.team with lower := true }])
    let s := s.modTile u (fun t => { t with pairs := put t.pairs })
    s.post .pairCombine [u]

/-! ## Rows (R237 to R243) -/

/-- The accumulators that a row writes take its kind (R114). -/
def XTile.putKinds (t : XTile) (e : XEnt) : XTile :=
  let kind := if bothInt (e.f 15 11) (e.f 31 27) ∧ pairClass (e.f 15 11) = 1 then 2 else 1
  { t with kind0 := if 0 ∈ e.dests then kind else t.kind0, kind1 := if 1 ∈ e.dests then kind else t.kind1 }

/-- The snapshot of a row with ASRC = 3 (R242): the accumulator as the K steps begun so far leave it. -/
def State.rowSnap (s : State) (u : Nat) (e : XEnt) : List Word :=
  if e.f 10 9 = 3 then (List.range 4096).map (fun i => BitVec.ofNat 32 (s.accNow u (s.xtile u) (16384 * e.f 0 0 + 4 * i))) else []

/-- Start of a row: counters, KPROG, accumulator kinds, snapshot (R239, R241, R242, R114, R390). -/
def State.rowBegin (s0 : State) (u : Nat) (e : XEnt) : State :=
  let offs := if e.f 10 9 = 3 then accOffs (e.f 0 0) else []
  if s0.accBad u offs then s0.tileFault u accFault else
  let s := s0.accFixed u offs
  let snap := s.rowSnap u e
  s.modTile u (fun t =>
    let t := t.modHead (fun e => { e with begun := true })
    ({ t with kprog := 0, k := 0, abuf := e.f 10 9 % 2, aoff := e.f 6 0, bbuf := e.f 26 25 % 2, boff := e.f 22 16, snap := snap } : XTile).putKinds e)

/-- An operand of a K step: rows, and the tile after taking them; a fault; or nothing while it is missing. -/
abbrev OperandRes := Option (Sum UFault (List KRow × XTile))

/-- Operand A of step `k` (R239, R240, R242). -/
def State.operandA (s : State) (u : Nat) (t : XTile) (e : XEnt) : OperandRes :=
  let fa := e.f 15 11
  let n := e.count t.k
  match e.f 10 9 with
  | 2 => (takePackets 8 fa n (e.f 38 37) e.m t.atag t.aq).map (fun r => r.map id (fun x => (x.1, { t with aq := x.2.1, atag := x.2.2 })))
  | 3 => some (.inr ((List.range e.m).map (fun i => ⟨0, (List.range n).map (fun p => (t.snap.getD (64 * i + 32 * t.k + p) 0).toNat)⟩), t))
  | _ =>
    let base := bufBase u t.abuf
    if ¬ bit t.f t.abuf then none
    else if (List.range e.m).any (fun i => s.wordsBad (base + 128 * i + t.aoff) (readBytes fa n)) then some (.inl (0x14, 0, 0, 8))
    else if (List.range e.m).any (fun i => s.bufNan (base + 128 * i) t.aoff fa) then
      some (.inl (0x1A, s.mem.readN (base + t.aoff) 8, 0, 8))
    else some (.inr ((List.range e.m).map (fun i => s.bufRow (base + 128 * i) t.aoff fa n), t))

/-- Operand B of step `k` (R239, R240). -/
def State.operandB (s : State) (u : Nat) (t : XTile) (e : XEnt) : OperandRes :=
  let fb := e.f 31 27
  let n := e.count t.k
  if e.f 26 25 = 2 then
    (takePackets 9 fb n (e.f 38 37) e.n t.btag t.bq).map (fun r => r.map id (fun x => (x.1, { t with bq := x.2.1, btag := x.2.2 })))
  else
    let base := bufBase u (2 + t.bbuf)
    if ¬ bit t.f (2 + t.bbuf) then none
    else if (List.range e.n).any (fun j => s.wordsBad (base + 128 * j + t.boff) (readBytes fb n)) then some (.inl (0x14, 0, 0, 9))
    else if (List.range e.n).any (fun j => s.bufNan (base + 128 * j) t.boff fb) then
      some (.inl (0x1A, s.mem.readN (base + t.boff) 8, 0, 9))
    else some (.inr ((List.range e.n).map (fun j => s.bufRow (base + 128 * j) t.boff fb n), t))

/-- The K step that runs in tile `u` ends, if its cycles are over. -/
def State.tileSettle (s : State) (u : Nat) : State := s.modTile u (fun t => t.settle (s.tileCycle u))

/-- A row's first K step starts from zero (R139, R243, R250). -/
def XTile.fromZero (t : XTile) (u : Nat) (e : XEnt) : Bool := decide (t.k = 0) && (decide (e.f 35 35 = 0) || (decide (e.kind = .pair) && pairUpper u))
/-- The bytes of a K step's operands in the named buffers, row by row: address and number (R238, R239). -/
def XTile.operandRuns (t : XTile) (u : Nat) (e : XEnt) : List (Nat × Nat) :=
  let n := e.count t.k
  (if e.f 10 9 < 2 then (List.range e.m).map (fun i => (bufBase u t.abuf + 128 * i + t.aoff, readBytes (e.f 15 11) n)) else [])
    ++ (if e.f 26 25 < 2 then (List.range e.n).map (fun j => (bufBase u (2 + t.bbuf) + 128 * j + t.boff, readBytes (e.f 31 27) n)) else [])

/-- The new words of a K step (R139): offsets from acc0 with their values, and the flags. -/
def State.kWords (s : State) (u : Nat) (t : XTile) (e : XEnt) (a b : List KRow) : List (Nat × Word) × FlagSet :=
  let fa := e.f 15 11
  let fb := e.f 31 27
  let zero := t.fromZero u e = true
  let cx := pairClass fa = 6
  let base := if cx then 0 else 16384 * e.f 36 36
  let ij : List ((Nat × KRow) × (Nat × KRow)) := ((List.range e.m).zip a).flatMap (fun x => ((List.range e.n).zip b).map (fun y => (x, y)))
  ij.foldl (fun r p =>
    let off := 256 * p.1.1 + 4 * p.2.1
    let x0 := if zero then 0 else s.accNow u t (base + off)
    let x1 := if zero ∨ ¬ cx then 0 else s.accNow u t (16384 + off)
    let v := kElement fa fb (decide (e.f 38 37 = 2)) p.1.2 p.2.2 x0 x1
    (r.1 ++ ((base + off, BitVec.ofNat 32 v.1) :: (if cx then [(16384 + off, BitVec.ofNat 32 v.2.1)] else [])), r.2 ||| v.2.2)) ([], 0)

/-- Cycles of a K step in a format (R238). -/
def fmtCycles (f : Nat) : Nat :=
  if f = 0 then 512
  else if f = 18 ∨ f = 19 then 256
  else if f = 1 ∨ f = 2 then 128
  else if f = 8 ∨ f = 17 then 8
  else if f ∈ [7, 12, 13, 16] then 16
  else 32
/-- Cycles of a K step of a row: the larger of its operands' (R238). -/
def XEnt.stepCycles (e : XEnt) : Nat := Nat.max (fmtCycles (e.f 15 11)) (fmtCycles (e.f 31 27))

/-- A K STEP (R241, R243): the state after it has begun; unchanged while it cannot begin. The counters move on at its end. -/
def State.kStep (s0 : State) (u : Nat) : State :=
  let s := s0.tileSettle u
  let t := s.xtile u
  match t.queue with
  | [] => s
  | e :: _ =>
    if t.live ∧ ¬ s.tilePaused u ∧ e.begun ∧ (e.kind = .step ∨ e.kind = .pair) ∧ ¬ t.busy ∧ t.k < e.steps ∧ t.due ≤ s.tileCycle u then
      match s.operandA u t e with
      | none => s
      | some (.inl f) => s.tileFault u f
      | some (.inr a) => match s.operandB u a.2 e with
        | none => s
        | some (.inl f) => s.tileFault u f
        | some (.inr b) =>
          let offs := if t.fromZero u e then [] else e.offsets
          if s.accBad u offs then s.tileFault u accFault else
          let s := (t.operandRuns u e).foldl (fun (s : State) x => s.wordsFixed x.1 x.2) (s.accFixed u offs)
          let w := s.kWords u t e a.1 b.1
          let last := decide (t.k + 1 = e.steps)
          let due := s.goOn (tileCore u) t.due + e.stepCycles
          let l : XLand := ⟨t.k + 1, w.1, w.2, last, e.core, e.team, if last ∧ e.kind = .pair then some e else none, due + 16⟩
          s.modTile u (fun _ => { b.2 with busy := true, due := due, lands := b.2.lands ++ [l] })
    else s

/-- The sums of the oldest K step land: the accumulator, KPROG, and at a row's end the flags (R136, R241). -/
def State.kLandNow (s : State) (u : Nat) : State :=
  let t := s.xtile u
  match t.lands with
  | [] => s
  | l :: r =>
    let s := { s with mem := l.upd.foldl (fun (m : Memory) (p : Nat × Word) => m.writeN (accBase u 0 + p.1) 4 p.2.toNat) s.mem }
    let fl := t.flags ||| l.fl
    let s := s.modTile u (fun t => { t with lands := r, kprog := l.kprog, flags := if l.last then 0 else fl })
    let s := if l.last then s.teamFlags l.team l.core fl else s
    match l.pair with
    | some e => s.pairLanded u e
    | none => s

/-- The combination of a pair at the lower tile (R250): unchanged until both results are present; the upper one crosses a die link (R410). The accumulator leaves pair-pending unless another
accepted lower half holds it there. -/
def State.pairCombine (s : State) (u : Nat) : State :=
  let t := s.tileNow u
  match t.queue with
  | [] => s
  | e :: _ =>
    let p := pairPartner u e.xa
    if e.kind = .pair ∧ e.begun ∧ t.live ∧ ¬ s.tilePaused u ∧ t.k = e.steps ∧ t.lands = [] ∧ ¬ pairUpper u then
      match t.pairs.find? (fun q => decide (q.partner = p ∧ q.tag = e.imm) && q.lower && q.upper.isSome && !s.dieHeld (p / 256) (u / 256) q.sent) with
      | none => s
      | some q =>
        if s.accBad u e.offsets then s.tileFault u accFault else
        let s := s.accFixed u e.offsets
        let int := bothInt (e.f 15 11) (e.f 31 27) && decide (pairClass (e.f 15 11) = 1)
        let x := (q.upper.getD []).foldl (fun (r : Memory × FlagSet) w =>
          let a := accBase u 0 + e.accOff + w.1
          let l := r.1.readN a 4
          let v : LaneRes := if int then ((l + w.2.toNat) % 2 ^ 32, 0) else add32 l w.2.toNat
          (r.1.writeN a 4 v.1, r.2 ||| v.2)) (s.mem, 0)
        let s := ({ s with mem := x.1 } : State).modTile u (fun (t : XTile) =>
          let other (a : Nat) : Bool := (t.queue.drop 1).any (fun (x : XEnt) => decide (x.kind = .pair ∧ a ∈ x.dests) && x.accepted)
          { (t.settle (s.tileCycle u)).pop with
            pairs := t.pairs.erase q, pp := e.dests.foldl (fun m a => if other a then m else m - b2n (bit m a) * 2 ^ a) t.pp })
        s.teamFlags e.team e.core x.2
    else s

/-- The partner of a faulted half stops with it, once, and its core traps with PAIR_FAULT (R369); not while its clock pauses (R24). -/
def State.pairFault (s : State) (u : Nat) : State :=
  match (s.xtile u).tell.find? (fun p => !s.tilePaused p) with
  | none => s
  | some p =>
    let s := s.modTile u (fun t => { t with tell := t.tell.erase p })
    if (s.xtile p).stopped then s else s.tileFault p (0x0D, tileLoc u, 0, 0) (tell := false)

/-- The counted time of a pair's timer (R370). -/
def State.pairTime (s : State) (q : Pair) : Nat := q.counted + (match q.from? with | some t => s.ns - t | none => 0)

/-- A pair timer reaches PTO (R370): both cores trap and both halves stop; not while the clock of one of them pauses (R24). -/
def State.pairLate (s : State) (u : Nat) : State :=
  let t := s.xtile u
  match t.pairs.find? (fun q => (q.lower != q.upper.isSome) && !q.late && !s.tilePaused u && !s.tilePaused q.partner && decide (1000 * bits s.frzctl.toNat 31 16 ≤ s.pairTime q)) with
  | some q =>
    let s := s.modTile u (fun t => { t with pairs := t.pairs.map (fun x => if x = q then { x with late := true } else x) })
    (s.tileFault u (0x0C, 0, 0, 0) (tell := false)).tileFault q.partner (0x0C, 0, 0, 0) (tell := false)
  | none => s

/-! ## Zero, save, restore (R244, R248, R249) -/

/-- MXZERO (R244). -/
def State.tileZero (s : State) (u : Nat) (e : XEnt) : State :=
  let a := e.imm % 2
  let s := { s with mem := s.mem.clear (accBase u a) 16384 }
  s.modTile u (fun t => { t.pop with kprog := 0, kind0 := if a = 0 then 0 else t.kind0, kind1 := if a = 1 then 0 else t.kind1 })

/-- The kind byte of a saved entry (R248). -/
def XKind.code : XKind → Nat
  | .step => 1
  | .drain => 2
  | .zero => 3
  | .pair => 4
  | .save => 5
  | .rest => 6

/-- A saved entry as a 64-byte number (R248). -/
def XEnt.save (e : XEnt) : Nat :=
  e.kind.code + 256 * e.imm + 65536 * e.xa
    + 2 ^ 256 * (if e.kind = .save ∨ e.kind = .rest then e.xb % 2 ^ 64 else e.rcd.toNat)

/-- Write the save area at cox-store address `la` (R248): the tile's state with `held` entries, stamp last. DESIGN CHOICE: KPROG has 16 bits, and after
the 65,536th K step of a row of KS 65,535 it is saved, and shown, as 0 (log entry 125). -/
def State.tileSave (s : State) (u core : Nat) (team : Option Nat) (la : Nat) (buf : Bool) (held : List XEnt) : State :=
  let t := s.xtile u
  let head : Nat × Nat × Nat := match held with
    | e :: _ => if e.begun = true ∧ (e.kind = XKind.step ∨ e.kind = XKind.pair) then (t.k, 128 * t.abuf + t.aoff, 128 * t.bbuf + t.boff)
      else if e.kind = XKind.step ∨ e.kind = XKind.pair then (0, 128 * (e.f 10 9 % 2) + e.f 6 0, 128 * (e.f 26 25 % 2) + e.f 22 16)
      else (t.kprog, 128 * t.abuf + t.aoff, 128 * t.bbuf + t.boff)
    | [] => (t.kprog, 128 * t.abuf + t.aoff, 128 * t.bbuf + t.boff)
  let h := head.1 % 65536 + 2 ^ 16 * held.length + 2 ^ 24 * (t.f + 16 * t.pp + 64 * b2n buf) + 2 ^ 32 * head.2.1 + 2 ^ 40 * head.2.2
    + 2 ^ 48 * (t.kind0 + 4 * t.kind1)
  let put (s : State) (off n v : Nat) : State := s.deliver team core (la + off) n v
  let s := put s 8 56 h
  let s := (List.range 8).foldl (fun s i => put s (0x40 + 64 * i) 64 (((held[i]?).map XEnt.save).getD 0)) s
  let s := (List.range 8192).foldl (fun s i => put s (0x240 + 4 * i) 4 (s.mem.readN (accBase u 0 + 4 * i) 4)) s
  let s := if buf then (List.range 8192).foldl (fun s i => put s (0x8240 + 4 * i) 4 (s.mem.readN (bufBase u 0 + 4 * i) 4)) s else s
  put s 0 8 (stampWord 0x01 0 (s.dieNs (core / 8)))

/-- A save of the tile reads an uncorrectable word (R390). -/
def State.saveBad (s : State) (u : Nat) (buf : Bool) : Bool :=
  s.wordsBad (accBase u 0) 32768 || (buf && s.wordsBad (bufBase u 0) 32768)
/-- What it reads of correctable words is corrected. -/
def State.saveFixed (s : State) (u : Nat) (buf : Bool) : State :=
  let s := s.wordsFixed (accBase u 0) 32768
  if buf then s.wordsFixed (bufBase u 0) 32768 else s

/-- The oldest MXSAVE with STOP of the tile acts once nothing is left to land (R236, R248): every entry that was held at its issue is saved and
removed, a drain that still copies among them. The snapshot of a row with ASRC = 3 that has made a K step stays with the tile (R249). The pair-pending
bits that a removed lower half has set stay in the tile, and the flags that a stopped row has raised are ORed in at the save (DESIGN CHOICE, log entry
113). One that would save an uncorrectable word faults, saves nothing and is over (R390; log entry 118). -/
def State.stopSave (s : State) (u : Nat) : State :=
  let t := s.xtile u
  match t.stops, t.lands with
  | x :: r, [] =>
    if s.saveBad u x.buf then (s.modTile u (fun t => { t with stops := r })).tileFault u accFault else
    let s := s.saveFixed u x.buf
    let held := t.queue.take x.n
    let s := match held with
      | e :: _ => if e.begun then s.teamFlags e.team e.core t.flags else s
      | [] => s
    let s := s.tileSave u x.core x.team x.la x.buf held
    s.modTile u (fun t => { t with
      queue := t.queue.drop x.n, stops := r, stopped := false, flags := 0, k := 0, due := 0
      drains := t.drains.filter (fun d => !d.copying)
      kept := if t.snap.isEmpty ∨ t.k = 0 then t.kept
        else (x.team, x.la, t.snap) :: t.kept.filter (fun q => !decide (q.1 = x.team ∧ q.2.1 = x.la)) })
  | _, _ => s
/-- Every MXSAVE with STOP that may act does; a paused tile writes nothing (R24). -/
def State.stopSaves (s : State) (u : Nat) : State :=
  if s.tilePaused u then s else (List.range (s.xtile u).stops.length).foldl (fun s _ => s.stopSave u) s

/-- MXSAVE with STOP (R248): the sequencer begins no more, and the save follows the landing of the K step in progress. -/
def State.tileStop (s : State) (u core : Nat) (team : Option Nat) (la : Nat) (buf : Bool) : State :=
  ((s.tileSettle u).modTile u (fun t =>
    { t with stops := t.stops ++ [⟨core, team, la, buf, t.queue.length - (t.stops.map XStop.n).sum⟩] })).stopSaves u

/-- The sums of the oldest K step land 16 cycles after its last cycle (R241). -/
def State.kLand (s0 : State) (u : Nat) : State :=
  let s := s0.tileSettle u
  if s.tilePaused u then s
  else match (s.xtile u).lands with
    | [] => s.stopSaves u
    | l :: _ => if l.due ≤ s.tileCycle u then (s.kLandNow u).stopSaves u else s

/-- An entry read from a save area (R249). A drain's takes the save area's address for that of its record, which the area does not hold: OP1 of a
NODE_RANGE record (R247; DESIGN CHOICE, log entry 117). -/
def loadEnt (core : Nat) (team : Option Nat) (xb v : Nat) : XEnt :=
  let k := v % 256
  let kind : XKind := match k with
    | 1 => .step
    | 2 => .drain
    | 3 => .zero
    | 4 => .pair
    | 5 => .save
    | _ => .rest
  { kind := kind, imm := v / 256 % 256, xa := v / 65536 % 65536, rcd := if 5 ≤ k then 0 else BitVec.ofNat 256 (v / 2 ^ 256),
    xb := if 5 ≤ k then v / 2 ^ 256 % 2 ^ 64 else xb, core := core, team := team, acc := 0, accepted := true, begun := false }

/-- MXREST (R249, R380): the tile as its save area gives it, or a FORMAT fault that keeps it. The queue may then hold more than 8 entries (DESIGN
CHOICE, log entry 114). A head row that had made no K step begins: its
accumulators take its kind, its snapshot is that of the restored accumulator. One with ASRC = 3 that had keeps its snapshot (log entry 95). PP is the
saved bits alone, also where a lower half that was accepted waits behind (DESIGN CHOICE, log entry 126). -/
def State.tileRest (s : State) (u : Nat) (e : XEnt) : State :=
  let off := bits e.xb 19 0
  let rd (o n : Nat) : Nat := s.coxRead e.core (off + o) n
  let h := rd 8 56
  let qn := bits h 23 16
  let fb := bits h 31 24
  let kinds := bits h 55 48
  let len := if bit e.imm 1 ∧ bit fb 6 then 0x10240 else 0x8240
  let vs := (List.range (Nat.min qn 8)).map (fun i => rd (0x40 + 64 * i) 64)
  if 8 < qn ∨ kinds % 4 = 3 ∨ kinds / 4 % 4 = 3 ∨ vs.any (fun v => decide (v % 256 = 0 ∨ 6 < v % 256)) then
    s.tileFault u (9, qn, 0, 0)
  else if s.wordsBad (coxBase e.core + off) len then
    s.tileFault u accFault
  else
    let s := s.wordsFixed (coxBase e.core + off) len
    let ents := vs.map (loadEnt e.core e.team e.xb)
    let row : Bool := match ents with
      | x :: _ => decide (x.kind = .step ∨ x.kind = .pair)
      | [] => false
    let ents := match ents with
      | [] => []
      | x :: r => { x with begun := row } :: r
    let s := { s with mem := (List.range 8192).foldl (fun m i => m.writeN (accBase u 0 + 4 * i) 4 (rd (0x240 + 4 * i) 4)) s.mem }
    let s := if bit e.imm 1 ∧ bit fb 6 then
        { s with mem := (List.range 8192).foldl (fun m i => m.writeN (bufBase u 0 + 4 * i) 4 (rd (0x8240 + 4 * i) 4)) s.mem }
      else s
    let s := s.modTile u (fun t =>
      { t with queue := ents ++ t.queue.drop 1, kprog := h % 65536, k := h % 65536, f := fb % 16, pp := fb / 16 % 4, abuf := bits h 39 39,
               aoff := bits h 38 32, bbuf := bits h 47 47, boff := bits h 46 40, kind0 := kinds % 4, kind1 := kinds / 4 % 4,
               snap := [] })
    match ents with
    | x :: _ =>
      if ¬ row then s
      else if h % 65536 = 0 then
        let snap := s.rowSnap u x
        s.modTile u (fun t => ({ t with snap := snap } : XTile).putKinds x)
      else if x.f 10 9 = 3 then
        let snap := (((s.xtile u).kept.find? (fun q => decide (q.1 = e.team ∧ q.2.1 = e.xb))).map (fun q => q.2.2)).getD (s.rowSnap u x)
        s.modTile u (fun t => { t with snap := snap })
      else s
    | [] => s

/-! ## Queue (R236) -/

/-- The oldest entry not yet accepted is accepted; the lower half of a pair makes its accumulator pair-pending (R236, R250). -/
def State.acceptEntry (s : State) (u : Nat) : State :=
  if s.tilePaused u then s else s.modTile u (fun t =>
    match t.queue.find? (fun e => !e.accepted) with
    | none => t
    | some e =>
      if (s.core e.core).step < e.acc ∧ (s.core e.core).team = e.team then t else
      let i := t.queue.idxOf e
      let t := { t with queue := t.queue.set i { e with accepted := true } }
      if e.kind = .pair ∧ ¬ pairUpper u then { t with pp := e.dests.foldl (fun m a => if bit m a then m else m + 2 ^ a) t.pp } else t)

/-- A drain begins (R246, R247): its accumulator is copied, or its OFMT does not match, or a word of it is uncorrectable (R390). -/
def State.drainBegin (s : State) (u : Nat) (e : XEnt) : State :=
  let of := e.f 21 19
  let t := s.xtile u
  let kinds := if 4 ≤ of then [t.kind0, t.kind1] else if e.imm % 2 = 0 then [t.kind0] else [t.kind1]
  let want := if of = 3 then 2 else 1
  let offs := if 4 ≤ of then accOffs 0 ++ accOffs 1 else accOffs (e.imm % 2)
  if kinds.any (fun k => decide (k ≠ 0 ∧ k ≠ want)) then s.tileFault u (9, of, want, 0)
  else if s.accBad u offs then s.tileFault u accFault
  else
    let s := s.accFixed u offs
    let cp := (List.range 8192).map (fun i => BitVec.ofNat 32 (s.mem.readN (accBase u 0 + 4 * i) 4))
    let d : Drain := ⟨s.nextId, e, cp, true, s.dieNs (e.core / 8), false, 0, false, false, 0, s.goOn (tileCore u) t.due + 64⟩
    let s := { s with nextId := s.nextId + 1 }
    s.modTile u (fun t => { t.modHead (fun e => { e with begun := true }) with drains := t.drains ++ [d] })

/-- The head entry has run its cycles (R241, R244): it ends. A lower half ends when its pair is combined (R250). -/
def State.entryEnd (s : State) (u : Nat) : State :=
  let t := s.xtile u
  match t.queue with
  | [] => s
  | e :: _ =>
    if t.live ∧ e.begun ∧ ¬ t.busy ∧ t.due ≤ s.tileCycle u then
      match e.kind with
      | .step => if t.k = e.steps then s.modTile u XTile.pop else s
      | .pair => if t.k = e.steps ∧ pairUpper u then s.modTile u XTile.pop else s
      | .zero => s.tileZero u e
      | _ => s
    else s

/-- The head entry begins (R236): a row at once, any other when every earlier row's sums have landed. -/
def State.entryBegin (s0 : State) (u : Nat) : State :=
  let s := if s0.tilePaused u then s0 else (s0.tileSettle u).entryEnd u
  let t := s.xtile u
  match t.queue with
  | [] => s
  | e :: _ =>
    if t.live ∧ ¬ s.tilePaused u ∧ e.accepted ∧ ¬ e.begun then
      match e.kind with
      | .step => s.rowBegin u e
      | .pair => s.rowBegin u e
      | k =>
        if t.lands ≠ [] then s
        else match k with
          | .zero => s.modTile u (fun t => { t.modHead (fun e => { e with begun := true }) with due := s.goOn (tileCore u) t.due + 4 })
          | .drain => s.drainBegin u e
          | .save =>
            if s.saveBad u (bit e.imm 1) then s.tileFault u accFault
            else ((s.saveFixed u (bit e.imm 1)).tileSave u e.core e.team e.xb (bit e.imm 1) []).modTile u XTile.pop
          | _ => s.tileRest u e
    else s

/-- The copy of a drain ends: its queue entry is free (R247). -/
def State.drainCopyEnd (s : State) (u : Nat) : State :=
  let t := s.xtile u
  match t.queue with
  | [] => s
  | e :: _ =>
    if e.kind = .drain ∧ e.begun ∧ t.stops.isEmpty ∧ ¬ s.tilePaused u ∧ t.drains.all (fun d => !d.copying || decide (d.due ≤ s.tileCycle u)) then
      (s.modTile u (fun t => { t.pop with due := (t.drains.find? Drain.copying).elim t.due Drain.due, drains := t.drains.map (fun d => { d with copying := false }) })).post .drainWrite [u]
    else s

/-! ## Writing a drain (R247) -/

/-- Element (i, j) of a drain's copy in OFMT (R133). -/
def Drain.out (d : Drain) (i j : Nat) : LaneRes :=
  let of := d.ent.f 21 19
  let w (a : Nat) : Nat := (d.copy.getD (4096 * a + 64 * i + j) 0).toNat
  let a := d.ent.imm % 2
  match of with
  | 0 => Fmt.fp32.encode 0 (f32 (w a))
  | 1 => Fmt.fp16.encode 0 (f32 (w a))
  | 2 => Fmt.bf16.encode 0 (f32 (w a))
  | 3 => (w a, 0)
  | k =>
    let f := if k = 4 then Fmt.fp16 else Fmt.bf16
    let re := f.encode 0 (f32 (w 0))
    let im := f.encode 0 (f32 (w 1))
    (re.1 + 65536 * im.1, re.2 ||| im.2)

/-- Bytes of an element of OFMT. -/
def Drain.size (d : Drain) : Nat := if d.ent.f 21 19 = 1 ∨ d.ent.f 21 19 = 2 then 2 else 4

/-- The rows that a drain writes: accumulator row, address of the first element, codes (R247). -/
def Drain.rows (d : Drain) : List (Nat × Nat × List Nat) :=
  let e := d.ent
  let nj := Nat.min (e.f 12 7 + 1) (e.f 139 120 - e.f 99 80)
  if nj = 0 then []
  else ((List.range (e.f 18 13 + 1)).filter (fun i => decide (e.f 119 100 + i < e.f 159 140))).map (fun i =>
    (i, e.f 255 192 + (e.f 119 100 + i) * e.f 191 160 + e.f 99 80 * d.size, (List.range nj).map (fun j => (d.out i j).1)))

/-- The flags of a drain's conversions. -/
def Drain.flags (d : Drain) : FlagSet :=
  orAll (d.rows.flatMap (fun r => (List.range r.2.2.length).map (fun j => (d.out r.1 j).2)))

/-- Change drain `n` of tile `u`. -/
def State.modDrain (s : State) (u n : Nat) (f : Drain → Drain) : State :=
  s.modTile u (fun t => { t with drains := t.drains.map (fun d => if d.id = n then f d else d) })

/-- A drain is over: flags, then the stamp (R247); one whose riders were withdrawn is KILLED, with the words that they acted on (R394). -/
def State.drainEnd (s : State) (u : Nat) (d : Drain) (failed : Bool) : State :=
  let e := d.ent
  let s := s.teamFlags e.team e.core d.flags
  let st := if d.killed then 0x05 * 2 ^ 56 + e.f 47 40 * 2 ^ 48 + d.nact % 2 ^ 32
    else stampWord (if failed then 0x04 else 0x01) (e.f 47 40) (s.dieNs (e.core / 8))
  let s := s.deliver e.team e.core (e.f 79 48) 8 st
  s.modTile u (fun t => { t with drains := t.drains.filter (fun x => decide (x.id ≠ d.id)) })

/-- One of the riders or contributions of a drain is over (R247), withdrawn or not, with the words that it acted on (R394). -/
def State.drainLess (s : State) (u n : Nat) (failed killed : Bool) (nact : Nat) : State :=
  let s := s.modDrain u n (fun d => { d with left := d.left - 1, failed := d.failed || failed, killed := d.killed || killed, nact := d.nact + nact })
  match (s.xtile u).drains.find? (fun d => decide (d.id = n)) with
  | some d => if d.left = 0 then s.drainEnd u d d.failed else s
  | none => s

/-- Function and address space of a team. -/
def State.teamIds (s : State) (t : Option Nat) : Nat × Nat :=
  match t.bind s.team? with
  | some tm => (tm.func, tm.asid)
  | none => (0, 0)

/-- The DEP rider of a row of a deposit (R247): whole words, the bytes outside the run kept. -/
def State.drainRider (s : State) (u : Nat) (d : Drain) (r : Nat × Nat × List Nat) : Rider :=
  let e := d.ent
  let len := d.size * r.2.2.length
  let lead := r.2.1 % 4
  let n := (lead + len + 3) / 4
  let v := packCodes (8 * d.size) r.2.2 * 2 ^ (8 * lead)
  let ids := s.teamIds e.team
  { Rider.ask .dep (.drain u d.id) e.core ids.1 ids.2 e.team (mkRecord n 0 0 (e.f 47 40) 0) (r.2.1 - lead) 0 with
    src := (List.range n).map (fun i => BitVec.ofNat 32 (v / 2 ^ (32 * i))), note := lead + 4 * (4 * n - lead - len) }

/-- The contributions of a landing (R247): address, element size, code, sequence; nothing while a translation is missing. A failed
translation drops the element. -/
def State.drainContribs (s : State) (u : Nat) (d : Drain) : Option (List (Option Contrib)) × List Nat :=
  let e := d.ent
  let die := e.core / 8
  let ids := s.teamIds e.team
  let els := d.rows.flatMap (fun r => ((List.range r.2.2.length).zip r.2.2).map (fun p => (r.2.1 + d.size * p.1, p.2, 64 * r.1 + p.1)))
  let look (x : Nat × Nat × Nat) : Option (Option Contrib) :=
    match s.tlbFind (eTile die (e.core % 8) x.1) ids.2 x.1 with
    | none => none
    | some t => match t.fault with
      | some _ => some none
      | none =>
        let pa := t.pa + (x.1 - t.va)
        some (some { stack := pa / 2 ^ 36, win := e.f 39 34, pa := pa / 4 * 4, half := if d.size = 2 then 1 + pa / 2 % 2 else 0,
                     word := BitVec.ofNat 32 x.2.1, time := d.time, src := 32 + die, seq := x.2.2, arrived := 0, func := ids.1,
                     unit := some (u, d.id) })
  let rs := els.map look
  (if rs.all Option.isSome then some (rs.map (fun r => r.getD none)) else none,
   (els.filter (fun x => (look x).isNone)).map Prod.fst)

/-- The bytes that a drain into a node writes, row by row: local address and bytes (R247). -/
def Drain.nodeRows (d : Drain) : List (Nat × Nat × Nat) :=
  let e := d.ent
  if e.f 6 6 = 1 then
    (d.rows.foldl (fun (a : List (Nat × Nat × Nat) × Nat) r =>
      let fmt := match e.f 21 19 with | 0 => 0 | 1 => 1 | 2 => 2 | 4 => 18 | _ => 19
      let p := packRun fmt (e.f 5 4) (e.f 3 0) 0 a.2 r.2.2
      (a.1 ++ [(r.2.1, 16 * p.1.length, packCodes 128 p.1)], p.2)) ([], 0)).1
  else d.rows.map (fun r => (r.2.1, d.size * r.2.2.length, packCodes (8 * d.size) r.2.2))

/-- The first byte of a node drain that lies outside the buffer that holds BASE (R247). -/
def State.drainOutside (s : State) (d : Drain) : Option Nat :=
  let base := d.ent.f 255 192
  let key := keyOf base
  let nd := s.node key
  let b := bits base 12 0 / bufBytes nd.depth
  if ¬ (localOk base = true ∧ bit base 31 = true ∧ s.nodeReach d.ent.core key = true ∧ b < nd.depth) then some base
  else
    let lo := 2 ^ 31 + key * 8192 + b * bufBytes nd.depth
    let hi := lo + bufBytes nd.depth
    d.nodeRows.findSome? (fun r => if r.2.1 = 0 then none else if r.1 < lo ∨ hi ≤ r.1 then some r.1
      else if hi < r.1 + r.2.1 then some hi else none)

/-- An edge that a load declares into X tile `u` within its island holds its drains back (R147). -/
def State.tileBehind (s : State) (u : Nat) : Bool :=
  let p := tilePos u
  match s.ownerOf (u / 256) p.1 p.2 with
  | some r => r.active.any (fun l => !l.discarded && s.edgeBehind r l (elKey (u / 256) (4 * p.1) (4 * p.2)) false)
  | none => false

/-- A drain into a node (R247): the state after it, unchanged while the buffer is full. -/
def State.drainNode (s : State) (u : Nat) (d : Drain) : State :=
  let e := d.ent
  match s.drainOutside d with
  | some a =>
    let s := s.queueRec { time := s.dieNs (e.core / 8), code := 5, sk := 2, func := (s.teamIds e.team).1, loc := tileLoc u,
                          core := e.core, op0 := a, op1 := e.xb : RecF }.pack
    s.drainEnd u d true
  | none =>
    let base := e.f 255 192
    if s.mayFill base 1 ∧ s.tileBehind u = false then
      let s := d.nodeRows.foldl (fun (s : State) r => s.keepWords (keyOf base) (bits r.1 12 0) r.2.1 (2 + u)) s
      let s := { s with mem := d.nodeRows.foldl (fun (m : Memory) (r : Nat × Nat × Nat) => m.writeN (nodeBase (keyOf base) + bits r.1 12 0) r.2.1 r.2.2) s.mem }
      let s := (s.setFull base 1).modNode (keyOf base) (fun nd => if nd.mode = 1 then nd else nd.handOver (2 + u))
      s.drainEnd u d false
    else s

/-- DRAIN_WRITE (R247): the first drain of the tile that has not been written; one whose writes wait holds back those of the drains behind it
(DESIGN CHOICE, log entry 116). Nothing is written while the tile's clock pauses (R24). -/
def State.drainWrite (s : State) (u : Nat) : State :=
  if s.tilePaused u then s
  else match (s.xtile u).drains.find? (fun d => !d.copying && !d.written) with
  | none => s
  | some d =>
    match d.ent.f 23 22 with
    | 0 =>
      let rs := d.rows
      if rs.isEmpty then s.drainEnd u d false
      else
        let s := s.modDrain u d.id (fun d => { d with written := true, left := rs.length })
        rs.foldl (fun s r =>
          let q := s.drainRider u d r
          s.admitOrWait q (d.ent.core / 8) (eTile (d.ent.core / 8) (d.ent.core % 8) q.xa)) s
    | 1 =>
      let x := s.drainContribs u d
      (match x.1 with
      | none => x.2.foldl (fun s va => s.startWalks (eTile (d.ent.core / 8) (d.ent.core % 8) va) (s.teamIds d.ent.team).2 [va]) s
      | some cs =>
        let good : List Contrib := cs.filterMap id
        let bad := decide (good.length < cs.length)
        if good.isEmpty then s.drainEnd u d bad
        else
          let s := s.modDrain u d.id (fun d => { d with written := true, left := good.length, failed := bad })
          { s with contribs := s.contribs ++ good })
    | _ => s.drainNode u d

end Sys2Proof.Machine
end

