-- ==== Sys2Proof/Machine/Context.lean ====
section
/-! DEFINITION. The context of a switched-out team: its area in DRAM, the riders that save and fill it, and what the hub's record keeps
(R64, R66, R117 to R120, R212, R367). -/

namespace Sys2Proof.Machine

/-! ## The area (R117, R118) -/

/-- Tangent planes in use: those of k, and those of the trap that a handler will return from. -/
def Core.inUse (c : Core) : Nat := Nat.max c.k (if c.tstat.getLsbD 0 then bits c.tstat.toNat 2 1 else 0)

/-- Allotted register lines, or those of them that are dirty: byte offset in the area and words. -/
def Core.lines (c : Core) (dirty : Bool) : List (Nat × Nat) :=
  let want (i : Nat) : Bool := !dirty || Tab.get false c.dirty i
  (List.range (c.inUse + 1)).flatMap (fun p =>
    ((List.range ((c.ax + 7) / 8)).filter (fun n => want (16 * p + n))).map (fun n => (0x1400 * p + 64 * n, 16))
      ++ ((List.range ((c.av + 7) / 8)).filter (fun n => want (64 + 8 * p + n))).map (fun n => (0x1400 * p + 0x400 + 512 * n, 128)))

/-- What a save writes, or a fill reads: register lines, predicates with FLAGS, replay registers, cox store. -/
def Team.pieces (tm : Team) (c : Core) (dirty : Bool) : List (Nat × Nat) :=
  c.lines dirty ++ [(0x5000, 10), (0x6000, 4096)] ++ (if tm.csBytes = 0 then [] else [(0xA000, tm.csBytes / 4)])

/-- The word at byte offset `o` of the area, of registers, predicates, FLAGS and replay registers. -/
def Core.areaWord (c : Core) (o : Nat) : Nat :=
  if o < 0x5000 then
    let p := o / 0x1400
    let q := o % 0x1400
    if q < 0x400 then (Tab.get 0 c.x (128 * p + q / 8)).toNat / 2 ^ (8 * (q % 8)) % 2 ^ 32
    else (c.rv p ((q - 0x400) / 64)).toNat / 2 ^ (8 * (q % 64)) % 2 ^ 32
  else if o < 0x5020 then (c.rp ((o - 0x5000) / 2)).toNat + 65536 * (c.rp ((o - 0x5000) / 2 + 1)).toNat
  else if o < 0x5028 then c.flags.toNat / 2 ^ (8 * (o - 0x5020)) % 2 ^ 32
  else (Tab.get Ry.empty c.ry ((o - 0x6000) / 512)).toNat / 2 ^ (8 * ((o - 0x6000) % 512)) % 2 ^ 32

/-- `v` with the word at bit `b` replaced. -/
def putBits (n v b w : Nat) : Nat := v % 2 ^ b + w % 2 ^ 32 * 2 ^ b + v / 2 ^ (b + 32) * 2 ^ (b + 32) % 2 ^ n

/-- A register, predicate or FLAGS word of the area returns to its place; its line is clean (R120). Flags that work ending meanwhile has
raised stay set (R67, R136). -/
def Core.fillWord (c : Core) (o w : Nat) : Core :=
  if o < 0x5000 then
    let p := o / 0x1400
    let q := o % 0x1400
    if q < 0x400 then
      { c with x := Tab.mod 0 c.x (128 * p + q / 8) (fun v => BitVec.ofNat 64 (putBits 64 v.toNat (8 * (q % 8)) w)) }
    else
      { c with v := Tab.mod 0 c.v (64 * p + (q - 0x400) / 64) (fun v => BitVec.ofNat 512 (putBits 512 v.toNat (8 * (q % 64)) w)) }
  else if o < 0x5020 then
    let n := (o - 0x5000) / 2
    (c.wp n (BitVec.ofNat 16 w)).wp (n + 1) (BitVec.ofNat 16 (w / 65536))
  else if o < 0x5024 then { c with flags := c.flags ||| (BitVec.ofNat 64 w &&& csrMask 0) }
  else c

/-- A replay register from its 128 words (R210). -/
def Ry.ofWords (l : List Nat) : Ry :=
  let v (o n : Nat) : Nat := packCodes 32 ((l.drop o).take n)
  ⟨BitVec.ofNat 64 (v 0 2), BitVec.ofNat 512 (v 16 16), BitVec.ofNat 512 (v 32 16), BitVec.ofNat 512 (v 48 16), BitVec.ofNat 512 (v 64 16)⟩

/-! ## Riders of the dispatcher -/

/-- The save or the fill of team `t`'s member on core `c`. -/
def State.contextRider (s : State) (t c pa : Nat) (kind : RKind) (ps : List (Nat × Nat)) (src : List Word) : State :=
  let n := (ps.map Prod.snd).sum
  s.admitPhys { Rider.ask kind (.context t c) c 0 0 (some t) (mkRecord n 0 0 0 0) pa 0 with parts := s.physParts pa ps, src := src }

/-! ## Switching out (R64, R120, R367) -/

/-- Change the pairs of team `t` with a half at a tile of core `c`. -/
def State.modPairs (s : State) (t c : Nat) (f : Nat → Pair → Pair) : State :=
  { s with xtiles := s.xtiles.map (fun x => (x.1, { x.2 with pairs := x.2.pairs.map (fun q =>
      if q.team = some t ∧ (tileCore x.1 = c ∨ tileCore q.partner = c) then f x.1 q else q) })) }
/-- At switch-out an X tile that holds entries or pair-pending state of the team stops, its state kept; the timers of the pairs with a half at the core
stop (R367, R370). -/
def State.tilesAway (s : State) (t c : Nat) : State :=
  let s := (List.range 32).foldl (fun (s : State) i =>
    let u := 32 * c + i
    let x := s.xtile u
    let mine : Bool := x.user.any (fun y => decide (y.2 = some t))
    if (mine ∧ (x.queue ≠ [] ∨ x.pairs ≠ [] ∨ x.pp ≠ 0)) ∨ x.pairs.any (fun q => decide (q.team = some t)) = true then
      s.modTile u (fun x => { x with away := some t })
    else s) s
  s.modPairs t c (fun _ q => { q with counted := s.pairTime q, from? := none })
/-- At switch-in they go on; a timer counts on where the context of the other half is there too. -/
def State.tilesBack (s : State) (t c : Nat) : State :=
  let s := (List.range 32).foldl (fun (s : State) i =>
    if (s.xtile (32 * c + i)).away = some t then s.modTile (32 * c + i) (fun x => { x with away := none }) else s) s
  s.modPairs t c (fun u q => if s.bothIn (some t) u q.partner then { q with from? := some s.ns } else q)

/-- A MEMBER SWITCHES OUT (R64, R120, R212): its context goes to the hub's record, what is dirty to its area. -/
def State.saveMember (s : State) (t c : Nat) : State :=
  match s.team? t with
  | none => s
  | some tm =>
    let k := s.core c
    let m := tm.cores.idxOf c
    let snap := k.snapshot
    let ps := tm.pieces k true
    let src := ps.flatMap (fun p => (List.range p.2).map (fun i =>
      BitVec.ofNat 32 (if p.1 < 0xA000 then snap.areaWord (p.1 + 4 * i) else s.mem.readN (coxBase c + (p.1 - 0xA000) + 4 * i) 4)))
    let s := s.modTeam t (fun tm => { tm with saved := tm.saved.set m { k with dirty := [] } })
    let s := (s.setCore c { Core.empty with run := .switchedOut, team := some t, member := m }).tilesAway t c
    (s.contextRider t c k.regbase.toNat .dep ps src).post .switchOutComplete [c]

/-- A step of a core whose team is leaving (R64): it stands at a bundle boundary, where its steps count no further, and switches out once its
accesses are performed, with the results in flight as they stand at that boundary (R67). -/
def State.leaveStep (s : State) (c : Nat) : State :=
  if s.quiet c ∧ (s.core c).pend.all (fun w => w.wait.isNone) then
    match (s.core c).team with
    | some t => (s.modCore c Core.land).saveMember t c
    | none => s
  else s

/-- The deliveries and stamps that came during a restore are written after it (R120). -/
def State.flushLate (s : State) (t : Nat) : State :=
  match s.team? t with
  | none => s
  | some tm =>
    { s with mem := tm.late.foldl (fun (m : Memory) (x : Nat × Nat × Nat × Nat) => m.writeN (coxBase x.1 + x.2.1) x.2.2.1 x.2.2.2) s.mem }.modTeam t
      (fun tm => { tm with late := [] })

/-- The team that core `c` is being saved for, or restored to. -/
def State.movingTeam (s : State) (c : Nat) (st : TeamSt) : Option Nat :=
  if (s.core c).run = .switchedOut then
    (s.core c).team.bind (fun t => match s.team? t with
      | some tm => if tm.st = st then some t else none
      | none => none)
  else none

/-- SWITCH_OUT_COMPLETE (R64, R120): once the last member has saved its context, the cores are released. -/
def State.switchedOutNow (s : State) (c : Nat) : State :=
  match s.movingTeam c .leaving with
  | none => s
  | some t => match s.team? t with
    | none => s
    | some tm =>
      if tm.cores.all (fun c => decide ((s.core c).run = .switchedOut) && !s.moving t c) then
        let s := s.modTeam t (fun tm => { tm with st := .out, ran := tm.ran + (s.ns - tm.since) })
        tm.cores.foldl (fun s c => s.setCore c Core.empty) s
      else s
/-- SWITCH_OUT_COMPLETE (R120). -/
def execSwitchOutComplete (s : State) : Host.Outcome State Fault Refusal := .next (s.switchedOutNow (s.arg 0))

/-! ## Switching in (R66, R120) -/

/-- A pre-empted team takes its cores again: fill riders read its areas. -/
def State.resumeTeam (s : State) (t : Nat) : State :=
  match s.team? t with
  | none => s
  | some tm =>
    let s := s.modTeam t (fun tm => { tm with st := .returning })
    ((List.range tm.cores.length).zip tm.cores).foldl (fun (s : State) x =>
      let k := tm.saved.getD x.1 Core.empty
      let s := s.setCore x.2 { Core.empty with run := .switchedOut, team := some t, member := x.1 }
      (s.contextRider t x.2 k.regbase.toNat .rdstr (tm.pieces k false) []).post .contextRestored [x.2]) s

/-- A fill rider has read a member's area: registers, predicates, FLAGS, the writes in flight and the cox store stand as saved. The writes land as they
would have: of two to one register in one step, one issued after the switch-in wins (R67, R169). -/
def State.contextFill (s : State) (t c : Nat) (w : Nat → Nat) : State :=
  match s.team? t with
  | none => s
  | some tm =>
    let m := tm.cores.idxOf c
    let k := tm.saved.getD m Core.empty
    let ps := tm.pieces k false
    let x := ps.foldl (fun (acc : (Core × Memory) × Nat) p =>
      let n := acc.2
      let k := acc.1.1
      let r : Core × Memory :=
        if p.1 = 0xA000 then
          (k, (List.range p.2).foldl (fun (mm : Memory) i => mm.writeN (coxBase c + 4 * i) 4 (w (n + i))) acc.1.2)
        else if p.1 = 0x6000 then
          let ws := (List.range 32).filterMap (fun j => (Ry.ofWords ((List.range 128).map (fun i => w (n + 128 * j + i)))).toWr k.step (k.step - 1))
          ({ k with pend := ws.foldl (fun l x => insWr x l) (k.pend.filter (fun x => !x.counts)) }, acc.1.2)
        else ((List.range p.2).foldl (fun (k : Core) i => k.fillWord (p.1 + 4 * i) (w (n + i))) k, acc.1.2)
      (r, n + p.2)) ((k, s.mem), 0)
    { s with mem := x.1.2 }.modTeam t (fun tm => { tm with saved := tm.saved.set m x.1.1 })

/-- Insert a region by the time of its load's finish, after those of equal time. -/
def insRegion (at? : Nat → Nat) : List Nat → Nat → List Nat
  | [], n => [n]
  | a :: t, n => if at? n < at? a then n :: a :: t else a :: insRegion at? t n

/-- CONTEXT_RESTORED (R66, R120, R212): once the last member's fill has finished, issue resumes, and the tokens held are delivered, the finishes
of loads in the order of their times. -/
def State.restoredNow (s : State) (c : Nat) : State :=
  match s.movingTeam c .returning with
  | none => s
  | some t => match s.team? t with
    | none => s
    | some tm =>
      if tm.cores.any (s.moving t) then s
      else
        let s := ((List.range tm.cores.length).zip tm.cores).foldl (fun (s : State) x =>
          (s.setCore x.2 (tm.saved.getD x.1 Core.empty)).tilesBack t x.2) s
        let s := s.flushLate t
        let s := s.modTeam t (fun tm => { tm with st := .running, since := s.ns, saved := tm.saved.map (fun _ => Core.empty), held := [] })
        let s := tm.held.foldl (fun (s : State) h => s.countToken h.2.1 h.2.2) s
        let at? (n : Nat) : Nat := ((s.active n).map (fun x => x.2.finAt)).getD 0
        let mine := (List.range s.regions.length).filter (fun n => (s.region n).any (fun r => decide (r.team = t)))
        (mine.foldl (insRegion at?) []).foldl (fun (s : State) n => ((s.finishLoad n).nextCommand n).post .drain [n]) s
/-- CONTEXT_RESTORED (R120). -/
def execContextRestored (s : State) : Host.Outcome State Fault Refusal := .next (s.restoredNow (s.arg 0))

end Sys2Proof.Machine
end

