-- ==== Sys2Proof/Machine/CoxCtl.lean ====
section
/-! DEFINITION. Meanings of the branches, loops, rendezvous, stamps, fences, traps and EXIT (R161, R201 to R205, R209, R211, R214). -/

namespace Sys2Proof.Machine

open Sys2Proof

/-- Set the control transfer of the bundle being issued. -/
def State.go (s : State) (n : Next) : State := s.modMe (fun c => { c with next := n })

/-- The bundle `off` bundles away (R162). -/
def State.relPc (s : State) (off : DWord) : DWord := s.me.pc + 16 * off

/-- The link value: the first bundle after the two delay bundles (R201). -/
def State.link (s : State) : DWord := s.me.pc + 48

/-- LOOP (R202): the loop registers at +1; a count of zero skips the body. -/
def State.startLoop (s : State) (a n : Nat) : State :=
  let lc : DWord := BitVec.ofNat 64 (s.xval a % 2 ^ 32)
  let lend := s.me.pc + BitVec.ofNat 64 (16 * n)
  let s1 := s.putW 1 .loop [lc.setWidth 512, (s.me.pc + 16).setWidth 512, lend.setWidth 512] 0 0 0
  if lc = 0 then s1.go (.loopSkip (lend + 16)) else s1

/-- The stamp word that released a WAITSTAMP reaches xd in the step in which the bundle issues (R170, R204). -/
def State.stampResult (s : State) (d a : Nat) : State := s.putX 0 d (s.me.hold.met.getD (s.stampAt (s.xval a)))

/-- NOP: no effect (R161). -/
def execNop (s : State) : Host.Outcome State Fault Refusal :=
  coxIssue .nop (fun s => s) s

/-- BR: taken when p[0] is set (R201). -/
def execBr (p o : Nat) (s : State) : Host.Outcome State Fault Refusal :=
  coxIssue (.br p o) (fun s => if (s.me.rp p).getLsbD 0 then s.go (.taken (s.relPc (sext 21 o))) else s) s

/-- BR !p: taken when p[0] is clear (R201). -/
def execBrNot (p o : Nat) (s : State) : Host.Outcome State Fault Refusal :=
  coxIssue (.brNot p o) (fun s => if (s.me.rp p).getLsbD 0 then s else s.go (.taken (s.relPc (sext 21 o)))) s

/-- JAL: jump, with the link at +1 (R201). -/
def execJal (d i : Nat) (s : State) : Host.Outcome State Fault Refusal :=
  coxIssue (.jal d i) (fun s => (s.putX 1 d s.link).go (.taken (s.relPc (sext 19 i)))) s

/-- JALR: jump to a register, with the link at +1 (R201). -/
def execJalr (d a : Nat) (s : State) : Host.Outcome State Fault Refusal :=
  coxIssue (.jalr d a) (fun s => (s.putX 1 d s.link).go (.taken (s.x a))) s

/-- LOOP (R202). -/
def execLoop (a n : Nat) (s : State) : Host.Outcome State Fault Refusal :=
  coxIssue (.loop a n) (fun s => s.startLoop a n) s

/-- RVSET: sends the setting to the hub, where it is applied (R203). -/
def execRvset (a r : Nat) (s : State) : Host.Outcome State Fault Refusal :=
  coxIssue (.rvset a r) (fun s => s.sendRv (.rvset a r) r (some (s.xval a)) false) s

/-- RVARR: with x0 it sends an arrival; with another register it has held issue for the reply, the phase before the arrival (R203). -/
def execRvarr (d r : Nat) (s : State) : Host.Outcome State Fault Refusal :=
  coxIssue (.rvarr d r) (fun s => if d = 0 then s.sendRv (.rvarr d r) r none false else s.putX 0 d (BitVec.ofNat 64 (b2n (s.me.hold.reply.getD false)))) s

/-- RVWAIT: holds issue until the phase differs; no other effect (R203). -/
def execRvwait (a r : Nat) (s : State) : Host.Outcome State Fault Refusal :=
  coxIssue (.rvwait a r) (fun s => s) s

/-- WAITSTAMP.ne: holds issue until the word differs from xb, and returns it (R204). -/
def execWaitstampNe (d a b : Nat) (s : State) : Host.Outcome State Fault Refusal :=
  coxIssue (.waitstampNe d a b) (fun s => s.stampResult d a) s

/-- WAITSTAMP.tag: holds issue until word[63:48] = xb[15:0], and returns the word (R204). -/
def execWaitstampTag (d a b : Nat) (s : State) : Host.Outcome State Fault Refusal :=
  coxIssue (.waitstampTag d a b) (fun s => s.stampResult d a) s

/-- WAITSTAMP.any: holds issue until word[63:56] is not zero, and returns the word (R204). -/
def execWaitstampAny (d a : Nat) (s : State) : Host.Outcome State Fault Refusal :=
  coxIssue (.waitstampAny d a) (fun s => s.stampResult d a) s

/-- FENCE.t: holds issue until its condition holds; no other effect (R155, R205). -/
def execFenceT (s : State) : Host.Outcome State Fault Refusal :=
  coxIssue .fenceT (fun s => s) s

/-- FENCE.d: holds issue until its condition holds; no other effect (R155, R205). -/
def execFenceD (s : State) : Host.Outcome State Fault Refusal :=
  coxIssue .fenceD (fun s => s) s

/-- FENCE.s: holds issue until its condition holds; no other effect (R155, R205). -/
def execFenceS (s : State) : Host.Outcome State Fault Refusal :=
  coxIssue .fenceS (fun s => s) s

/-- TRAP n: the bundle issues and the trap is taken in its step (R209). -/
def execTrap (n : Nat) (s : State) : Host.Outcome State Fault Refusal :=
  coxIssue (.trap n) (fun s => s.go (.trap n)) s

/-- RETT: the return from a trap (R211). -/
def execRett (s : State) : Host.Outcome State Fault Refusal :=
  coxIssue .rett (fun s => s.go .rett) s

/-- EXIT: issue stops after this bundle (R214). -/
def execExit (s : State) : Host.Outcome State Fault Refusal :=
  coxIssue .exit (fun s => s.go .exit) s

end Sys2Proof.Machine
end

