-- ==== Sys2Proof/Machine/CoxMem.lean ====
section
/-! DEFINITION. Meanings of the S-slot loads, stores and node accesses (R198 to R200), with the tangents of word accesses (R307). -/

namespace Sys2Proof.Machine

open Sys2Proof

/-- A cox-store load of `n` bytes, sign-extended, at +4; a word brings its tangents (R198, R307). -/
def State.load (s : State) (d ea n : Nat) : State :=
  let off := bits ea 19 0
  let runs := if n = 4 then s.me.tansAt false off else []
  let ts := if n = 4 then loadTans s.mem (coxBase s.cur) s.me.k 1 runs else []
  let r := s.readCheck s.cur (coxBase s.cur + off) n off (tanRuns (coxBase s.cur) 1 runs)
  if d = 0 then r.1
  else r.1.putW 4 (.x d) ((sext (8 * n) (s.coxRead s.cur off n)).setWidth 512 :: ts) 0xFFFF (planesMask s.me.k) 0 none r.2

/-- The low words of planes 1 to k of xn, rounded for the planes that memory holds, with the flags (R307). -/
def State.tanWords (s : State) (n : Nat) : List (BitVec 512) × FlagSet :=
  let l := s.me.memPlanes.map (fun p =>
    if p.2.pres then tanStore p.2.pfmt (bits (s.me.rx p.1 n).toNat 31 0) else (0, 0))
  (l.map (fun x => BitVec.ofNat 512 x.1), orAll (l.map Prod.snd))

/-- Raise flags in the issue step. -/
def State.flagsNow (s : State) (f : FlagSet) : State := if f = 0 then s else s.putW 0 .flags [] 0xFFFF (planesMask s.me.k) f

/-- Add a store to those of the bundle (R145). -/
def State.addStore (s : State) (off n v : Nat) : State :=
  s.modMe (fun c => { c with stores := c.stores ++ [(coxBase s.cur + off, n, v)] })

/-- A cox-store store of the low `n` bytes of xr, in the issue step; a word takes its tangents along (R198, R307). -/
def State.store (s : State) (r ea n : Nat) : State :=
  let off := bits ea 19 0
  let s1 := s.addStore off n ((s.x r).toNat % 2 ^ (8 * n))
  if n = 4 then
    let t := s.tanWords r
    ((s.me.tansAt false off).foldl (fun s p =>
      s.addStore p.2.1 (pfmtBytes p.2.2) (t.1.getD (p.1 - 1) 0).toNat) s1).flagsNow t.2
  else s1

/-- The sink of a scalar result of a node. At an ordered-update node a load to x0 has one too: issue is held for it as for any other
(R199). -/
def State.sinkX (s : State) (key lat d : Nat) : Option Sink :=
  if d = 0 ∧ (s.node key).mode ≠ 2 then none else some ⟨lat, .x d, 0xFFFF, planesMask s.me.k⟩

/-- A node load of `n` bytes at +12 (R199). -/
def State.loadNode (s : State) (d ea n : Nat) (sg : Bool) : State :=
  let r := s.reqAt 16 ea n
  s.nodeRequest (keyOf ea)
    { r with signed := sg, tans := if n = 4 then s.me.tansAt true r.off else [] } (s.sinkX (keyOf ea) 12 d)

/-- A node store of the low `n` bytes of xr (R199). -/
def State.storeNode (s : State) (r ea n : Nat) : State :=
  let q := s.reqAt 17 ea n
  let t := if n = 4 then s.tanWords r else ([], 0)
  (s.nodeRequest (keyOf ea)
    { q with val := (s.x r).setWidth 512, planes := t.1, tans := if n = 4 then s.me.tansAt true q.off else [] } none).flagsNow t.2

/-- A node atomic (R108, R200): the old value and the flags at +14. -/
def State.atomicNode (s : State) (d la b o : Nat) : State :=
  let r := s.reqAt o la (atomicBytes o)
  let sink : Sink := if d = 0 then ⟨14, .flags, 0xFFFF, planesMask s.me.k⟩ else ⟨14, .x d, 0xFFFF, planesMask s.me.k⟩
  s.nodeRequest (keyOf la) { r with val := (s.x b).setWidth 512, expv := (s.x d).toNat % 2 ^ 32 } (some sink)

/-- LD.b: 1 bytes of the cox store, sign-extended, at +4 (R198). -/
def execLdB (d a i : Nat) (s : State) : Host.Outcome State Fault Refusal :=
  coxIssue (.ldB d a i) (fun s => s.load d (s.eaImm a i) 1) s

/-- LD.h: 2 bytes of the cox store, sign-extended, at +4 (R198). -/
def execLdH (d a i : Nat) (s : State) : Host.Outcome State Fault Refusal :=
  coxIssue (.ldH d a i) (fun s => s.load d (s.eaImm a i) 2) s

/-- LD.w: 4 bytes of the cox store, sign-extended, at +4 (R198). -/
def execLdW (d a i : Nat) (s : State) : Host.Outcome State Fault Refusal :=
  coxIssue (.ldW d a i) (fun s => s.load d (s.eaImm a i) 4) s

/-- LD.d: 8 bytes of the cox store, sign-extended, at +4 (R198). -/
def execLdD (d a i : Nat) (s : State) : Host.Outcome State Fault Refusal :=
  coxIssue (.ldD d a i) (fun s => s.load d (s.eaImm a i) 8) s

/-- ST.b: the low 1 bytes of the source to the cox store (R198). -/
def execStB (r a i : Nat) (s : State) : Host.Outcome State Fault Refusal :=
  coxIssue (.stB r a i) (fun s => s.store r (s.eaImm a i) 1) s

/-- ST.h: the low 2 bytes of the source to the cox store (R198). -/
def execStH (r a i : Nat) (s : State) : Host.Outcome State Fault Refusal :=
  coxIssue (.stH r a i) (fun s => s.store r (s.eaImm a i) 2) s

/-- ST.w: the low 4 bytes of the source to the cox store (R198). -/
def execStW (r a i : Nat) (s : State) : Host.Outcome State Fault Refusal :=
  coxIssue (.stW r a i) (fun s => s.store r (s.eaImm a i) 4) s

/-- ST.d: the low 8 bytes of the source to the cox store (R198). -/
def execStD (r a i : Nat) (s : State) : Host.Outcome State Fault Refusal :=
  coxIssue (.stD r a i) (fun s => s.store r (s.eaImm a i) 8) s

/-- LDN.b: 1 bytes of a node, sign-extended, at +12 (R199). -/
def execLdnB (d a b : Nat) (s : State) : Host.Outcome State Fault Refusal :=
  coxIssue (.ldnB d a b) (fun s => s.loadNode d (s.eaReg a b) 1 true) s

/-- LDN.h: 2 bytes of a node, sign-extended, at +12 (R199). -/
def execLdnH (d a b : Nat) (s : State) : Host.Outcome State Fault Refusal :=
  coxIssue (.ldnH d a b) (fun s => s.loadNode d (s.eaReg a b) 2 true) s

/-- LDN.w: 4 bytes of a node, sign-extended, at +12 (R199). -/
def execLdnW (d a b : Nat) (s : State) : Host.Outcome State Fault Refusal :=
  coxIssue (.ldnW d a b) (fun s => s.loadNode d (s.eaReg a b) 4 true) s

/-- LDN.d: 8 bytes of a node, sign-extended, at +12 (R199). -/
def execLdnD (d a b : Nat) (s : State) : Host.Outcome State Fault Refusal :=
  coxIssue (.ldnD d a b) (fun s => s.loadNode d (s.eaReg a b) 8 true) s

/-- LDN.bu: 1 bytes of a node, zero-extended, at +12 (R199). -/
def execLdnBu (d a b : Nat) (s : State) : Host.Outcome State Fault Refusal :=
  coxIssue (.ldnBu d a b) (fun s => s.loadNode d (s.eaReg a b) 1 false) s

/-- LDN.hu: 2 bytes of a node, zero-extended, at +12 (R199). -/
def execLdnHu (d a b : Nat) (s : State) : Host.Outcome State Fault Refusal :=
  coxIssue (.ldnHu d a b) (fun s => s.loadNode d (s.eaReg a b) 2 false) s

/-- LDN.wu: 4 bytes of a node, zero-extended, at +12 (R199). -/
def execLdnWu (d a b : Nat) (s : State) : Host.Outcome State Fault Refusal :=
  coxIssue (.ldnWu d a b) (fun s => s.loadNode d (s.eaReg a b) 4 false) s

/-- STN.b: the low 1 bytes of the source to a node (R199). -/
def execStnB (r a b : Nat) (s : State) : Host.Outcome State Fault Refusal :=
  coxIssue (.stnB r a b) (fun s => s.storeNode r (s.eaReg a b) 1) s

/-- STN.h: the low 2 bytes of the source to a node (R199). -/
def execStnH (r a b : Nat) (s : State) : Host.Outcome State Fault Refusal :=
  coxIssue (.stnH r a b) (fun s => s.storeNode r (s.eaReg a b) 2) s

/-- STN.w: the low 4 bytes of the source to a node (R199). -/
def execStnW (r a b : Nat) (s : State) : Host.Outcome State Fault Refusal :=
  coxIssue (.stnW r a b) (fun s => s.storeNode r (s.eaReg a b) 4) s

/-- STN.d: the low 8 bytes of the source to a node (R199). -/
def execStnD (r a b : Nat) (s : State) : Host.Outcome State Fault Refusal :=
  coxIssue (.stnD r a b) (fun s => s.storeNode r (s.eaReg a b) 8) s

/-- ATN: a node atomic, its old value at +14 (R200). -/
def execAtn (d a b o : Nat) (s : State) : Host.Outcome State Fault Refusal :=
  coxIssue (.atn d a b o) (fun s => s.atomicNode d (s.xval a) b o) s

end Sys2Proof.Machine
end

