-- ==== Sys2Proof/Machine/CoxVec.lean ====
section
/-! DEFINITION. Meanings of the V-slot lane instructions (R215 to R227). -/

namespace Sys2Proof.Machine

open Sys2Proof

/-- Lane `n` of plane `p` of vr. -/
def State.ln (s : State) (p r n : Nat) : Nat := lane (s.me.rv p r) n

/-- A lane-by-lane result under the mask `m` at +`lat` (R215): `f` gives a lane's result, `t` its tangent in a plane from the primal
result (R217). A lane outside the mask is not written and raises no flag. -/
def State.putLanes (s : State) (lat d m : Nat) (f : Nat → LaneRes) (t : Nat → Nat → Nat → LaneRes) : State :=
  let r := (List.range 16).map (fun n => if bit m n then f n else (0, 0))
  let ts := s.tans.map (fun p => (List.range 16).map (fun n => if bit m n then t p n (r.getD n (0, 0)).1 else (0, 0)))
  s.putV lat d m (ofLanes (r.map Prod.fst) :: ts.map (fun l => ofLanes (l.map Prod.fst)))
    (orAll (r.map Prod.snd) ||| orAll (ts.map (fun l => orAll (l.map Prod.snd))))

/-- The mask of predicate g (R215). -/
def State.mask (s : State) (g : Nat) : Nat := (s.me.rp g).toNat

/-- A form with two sources: result and tangent formula from a, b and the tangents of both (R218). -/
def State.lanes2 (s : State) (lat d a b g : Nat) (f : Nat → Nat → LaneRes) (t : Nat → Nat → Nat → Nat → LaneRes) : State :=
  s.putLanes lat d (s.mask g) (fun n => f (s.ln 0 a n) (s.ln 0 b n))
    (fun p n r => tangentLane r [s.ln p a n, s.ln p b n] (fun _ => t (s.ln 0 a n) (s.ln 0 b n) (s.ln p a n) (s.ln p b n)))

/-- A form with one source (R218, R226). -/
def State.lanes1 (s : State) (lat d a g : Nat) (f : Nat → LaneRes) (t : Nat → Nat → LaneRes) : State :=
  s.putLanes lat d (s.mask g) (fun n => f (s.ln 0 a n))
    (fun p n r => tangentLane r [s.ln p a n] (fun _ => t (s.ln 0 a n) (s.ln p a n)))

/-- A form with an addend read from vd (R219). -/
def State.lanes3 (s : State) (lat d a b g : Nat) (f : Nat → Nat → Nat → LaneRes)
    (t : Nat → Nat → Nat → Nat → Nat → LaneRes) : State :=
  s.putLanes lat d (s.mask g) (fun n => f (s.ln 0 a n) (s.ln 0 b n) (s.ln 0 d n))
    (fun p n r => tangentLane r [s.ln p a n, s.ln p b n, s.ln p d n]
      (fun _ => t (s.ln 0 a n) (s.ln 0 b n) (s.ln p a n) (s.ln p b n) (s.ln p d n)))

/-- An integer form: no flag, tangent +0.0 (R220). -/
def State.lanesI (s : State) (lat d a b g : Nat) (f : Nat → Nat → Nat) : State :=
  s.putLanes lat d (s.mask g) (fun n => (f (s.ln 0 a n) (s.ln 0 b n), 0)) (fun _ _ _ => (0, 0))

/-- A logic form: bitwise on every plane (R221). -/
def State.lanesL (s : State) (d a b g : Nat) (f : VWord → VWord → VWord) : State :=
  s.putV 3 d (s.mask g) ((0 :: s.tans).map (fun p => f (s.me.rv p a) (s.me.rv p b)))

/-- The sum of two tangents. -/
def tanAdd (x y : Val) : LaneRes := sumOfProducts [(x, .one), (y, .one)]
/-- A tangent passed on as a value. -/
def tanPass (x : Nat) : LaneRes := rne32 (f32 x, 0)
/-- The tangent of the lesser of two lanes (R218). -/
def tanMin (a b ta tb : Nat) : LaneRes := tanPass (if minTakesB a b then tb else ta)
/-- The tangent of the greater of two lanes (R218). -/
def tanMax (a b ta tb : Nat) : LaneRes := tanPass (if maxTakesB a b then tb else ta)
/-- The tangent of a magnitude (R218). -/
def tanAbs (a ta : Nat) : LaneRes := rne32 ((if bit a 31 then (f32 ta).neg else f32 ta), 0)
/-- (ta × b − a × tb) / b² (R227). -/
def tanDiv (a b ta tb : Nat) : LaneRes :=
  rne32 ((FVal.total 0 [Val.mul (f32 ta) (f32 b), Val.mul (f32 a).neg (f32 tb)]).bind
    (fun x => (Val.mul (f32 b) (f32 b)).bind (fun y => divR217 x y)))

/-- A compare into every bit of pd (R222). -/
def State.vcmp (s : State) (d a b g : Nat) (f : Nat → Nat → Bool) : State :=
  s.putP 3 d (BitVec.ofNat 16 (packCodes 1 ((List.range 16).map (fun n =>
    b2n (bit (s.mask g) n && f (s.ln 0 a n) (s.ln 0 b n))))))

/-- A moved lane of every plane (R223, R224): `src` gives the source register and lane. DESIGN CHOICE: a move computes nothing, so its tangents are
those of the chosen lane bit for bit; R310 does not say whether the first two cases of R217 hold for it (log entry 130). -/
def State.vmove (s : State) (d m : Nat) (src : Nat → Nat × Nat) : State :=
  s.putV 3 d m ((0 :: s.tans).map (fun p => ofLanes ((List.range 16).map (fun n => s.ln p (src n).1 (src n).2))))

/-- The tree of R141 over 16 lanes: step `f` on lanes i and i + w for w = 8, 4, 2, 1. -/
def tree {α : Type} (f : α → α → α) (z : α) (l : List α) : α :=
  (([8, 4, 2, 1] : List Nat).foldl (fun l w => (List.range w).map (fun i => f (l.getD i z) (l.getD (i + w) z))) l).getD 0 z

/-- A lane and flags accumulated along a tree of FP32 sums. -/
def treeAdd (l : List Nat) : LaneRes :=
  tree (fun a b => let r := add32 a.1 b.1; (r.1, a.2 ||| b.2 ||| r.2)) (0, 0) (l.map (·, 0))

/-- The lanes of plane `p` of va, with `z` where the mask is clear. -/
def State.maskedLanes (s : State) (p a m z : Nat) : List Nat :=
  (List.range 16).map (fun n => if bit m n then s.ln p a n else z)

/-- A reduction into lane 0, every lane written (R225). -/
def State.reduce (s : State) (d : Nat) (r : LaneRes) (ts : List LaneRes) : State :=
  s.putV 8 d 0xFFFF (BitVec.ofNat 512 r.1 :: ts.map (fun t => BitVec.ofNat 512 t.1)) (r.2 ||| orAll (ts.map Prod.snd))

/-- VREDADD (R141, R225). -/
def State.redAdd (s : State) (d a g : Nat) : State :=
  let m := s.mask g
  let r := treeAdd (s.maskedLanes 0 a m 0)
  s.reduce d r (s.tans.map (fun p =>
    let l := s.maskedLanes p a m 0
    tangentLane r.1 l (fun _ => treeAdd l)))

/-- VREDMAX (R225): the value kept and the lane it came from. DESIGN CHOICE: where the value kept is the −∞ that stands in for a lane that is not
governed, for which R225 gives no tangent, the tangent is +0.0 (log entry 131). -/
def State.redMax (s : State) (d a g : Nat) : State :=
  let m := s.mask g
  let l := s.maskedLanes 0 a m 0xFF800000
  let pick (x y : Nat × Nat) : Nat × Nat :=
    if anyNan32 x.1 y.1 then (nan32, x.2) else if maxTakesB x.1 y.1 then y else x
  let r := tree pick (0, 0) (l.zip (List.range 16))
  let v := if (f32 r.1).isNan then nan32 else r.1
  s.reduce d (v, 0) (s.tans.map (fun p =>
    let tl := s.maskedLanes p a m 0
    tangentLane v tl (fun _ => tanPass (tl.getD r.2 0))))

/-- VREDIADD (R225). -/
def State.redIadd (s : State) (d a g : Nat) : State :=
  s.reduce d ((s.maskedLanes 0 a (s.mask g) 0).sum % 2 ^ 32, 0) (s.tans.map (fun _ => (0, 0)))

/-- VADD at +3 (R218). -/
def execVadd (d a b g : Nat) (s : State) : Host.Outcome State Fault Refusal :=
  coxIssue (.vadd d a b g) (fun s => s.lanes2 3 d a b g add32 (fun _ _ ta tb => tanAdd (f32 ta) (f32 tb))) s

/-- VSUB at +3 (R218). -/
def execVsub (d a b g : Nat) (s : State) : Host.Outcome State Fault Refusal :=
  coxIssue (.vsub d a b g) (fun s => s.lanes2 3 d a b g sub32 (fun _ _ ta tb => tanAdd (f32 ta) (f32 tb).neg)) s

/-- VMUL at +5 (R218). -/
def execVmul (d a b g : Nat) (s : State) : Host.Outcome State Fault Refusal :=
  coxIssue (.vmul d a b g) (fun s => s.lanes2 5 d a b g mul32 (fun x y ta tb => sumOfProducts [(f32 ta, f32 y), (f32 x, f32 tb)])) s

/-- VMIN at +3 (R218). -/
def execVmin (d a b g : Nat) (s : State) : Host.Outcome State Fault Refusal :=
  coxIssue (.vmin d a b g) (fun s => s.lanes2 3 d a b g (fun x y => (min32 x y, 0)) tanMin) s

/-- VMAX at +3 (R218). -/
def execVmax (d a b g : Nat) (s : State) : Host.Outcome State Fault Refusal :=
  coxIssue (.vmax d a b g) (fun s => s.lanes2 3 d a b g (fun x y => (max32 x y, 0)) tanMax) s

/-- VABS at +3 (R218). -/
def execVabs (d a g : Nat) (s : State) : Host.Outcome State Fault Refusal :=
  coxIssue (.vabs d a g) (fun s => s.lanes1 3 d a g (fun x => (abs32 x, 0)) tanAbs) s

/-- VNEG at +3 (R218). -/
def execVneg (d a g : Nat) (s : State) : Host.Outcome State Fault Refusal :=
  coxIssue (.vneg d a g) (fun s => s.lanes1 3 d a g (fun x => (neg32 x, 0)) (fun _ ta => rne32 ((f32 ta).neg, 0))) s

/-- VFMA at +5, vd the addend (R219). -/
def execVfma (d a b g : Nat) (s : State) : Host.Outcome State Fault Refusal :=
  coxIssue (.vfma d a b g) (fun s => s.lanes3 5 d a b g fma32 (fun x y ta tb td => sumOfProducts [(f32 ta, f32 y), (f32 x, f32 tb), (f32 td, .one)])) s

/-- VFNMA at +5, vd the addend (R219). -/
def execVfnma (d a b g : Nat) (s : State) : Host.Outcome State Fault Refusal :=
  coxIssue (.vfnma d a b g) (fun s => s.lanes3 5 d a b g fnma32 (fun x y ta tb td => sumOfProducts [(f32 td, .one), ((f32 ta).neg, f32 y), ((f32 x).neg, f32 tb)])) s

/-- VIADD at +3 (R220). -/
def execViadd (d a b g : Nat) (s : State) : Host.Outcome State Fault Refusal :=
  coxIssue (.viadd d a b g) (fun s => s.lanesI 3 d a b g (fun x y => (x + y) % 2 ^ 32)) s

/-- VISUB at +3 (R220). -/
def execVisub (d a b g : Nat) (s : State) : Host.Outcome State Fault Refusal :=
  coxIssue (.visub d a b g) (fun s => s.lanesI 3 d a b g (fun x y => (x + 2 ^ 32 - y) % 2 ^ 32)) s

/-- VIMUL at +5 (R220). -/
def execVimul (d a b g : Nat) (s : State) : Host.Outcome State Fault Refusal :=
  coxIssue (.vimul d a b g) (fun s => s.lanesI 5 d a b g (fun x y => x * y % 2 ^ 32)) s

/-- VIMIN at +3 (R220). -/
def execVimin (d a b g : Nat) (s : State) : Host.Outcome State Fault Refusal :=
  coxIssue (.vimin d a b g) (fun s => s.lanesI 3 d a b g (fun x y => if sint 32 y < sint 32 x then y else x)) s

/-- VIMAX at +3 (R220). -/
def execVimax (d a b g : Nat) (s : State) : Host.Outcome State Fault Refusal :=
  coxIssue (.vimax d a b g) (fun s => s.lanesI 3 d a b g (fun x y => if sint 32 x < sint 32 y then y else x)) s

/-- VSLL at +3 (R220). -/
def execVsll (d a b g : Nat) (s : State) : Host.Outcome State Fault Refusal :=
  coxIssue (.vsll d a b g) (fun s => s.lanesI 3 d a b g (fun x y => x * 2 ^ (y % 32) % 2 ^ 32)) s

/-- VSRL at +3 (R220). -/
def execVsrl (d a b g : Nat) (s : State) : Host.Outcome State Fault Refusal :=
  coxIssue (.vsrl d a b g) (fun s => s.lanesI 3 d a b g (fun x y => x / 2 ^ (y % 32))) s

/-- VSRA at +3 (R220). -/
def execVsra (d a b g : Nat) (s : State) : Host.Outcome State Fault Refusal :=
  coxIssue (.vsra d a b g) (fun s => s.lanesI 3 d a b g (fun x y => ((BitVec.ofNat 32 x).sshiftRight (y % 32)).toNat)) s

/-- VAND at +3 (R221). -/
def execVand (d a b g : Nat) (s : State) : Host.Outcome State Fault Refusal :=
  coxIssue (.vand d a b g) (fun s => s.lanesL d a b g (fun x y => x &&& y)) s

/-- VOR at +3 (R221). -/
def execVor (d a b g : Nat) (s : State) : Host.Outcome State Fault Refusal :=
  coxIssue (.vor d a b g) (fun s => s.lanesL d a b g (fun x y => x ||| y)) s

/-- VXOR at +3 (R221). -/
def execVxor (d a b g : Nat) (s : State) : Host.Outcome State Fault Refusal :=
  coxIssue (.vxor d a b g) (fun s => s.lanesL d a b g (fun x y => x ^^^ y)) s

/-- VANDN at +3 (R221). -/
def execVandn (d a b g : Nat) (s : State) : Host.Outcome State Fault Refusal :=
  coxIssue (.vandn d a b g) (fun s => s.lanesL d a b g (fun x y => x &&& ~~~y)) s

/-- VCMP EqF into pd at +3 (R222). -/
def execVcmpEqF (p a b g : Nat) (s : State) : Host.Outcome State Fault Refusal :=
  coxIssue (.vcmpEqF p a b g) (fun s => s.vcmp p a b g eq32) s

/-- VCMP LtF into pd at +3 (R222). -/
def execVcmpLtF (p a b g : Nat) (s : State) : Host.Outcome State Fault Refusal :=
  coxIssue (.vcmpLtF p a b g) (fun s => s.vcmp p a b g lt32) s

/-- VCMP LeF into pd at +3 (R222). -/
def execVcmpLeF (p a b g : Nat) (s : State) : Host.Outcome State Fault Refusal :=
  coxIssue (.vcmpLeF p a b g) (fun s => s.vcmp p a b g le32) s

/-- VCMP EqI into pd at +3 (R222). -/
def execVcmpEqI (p a b g : Nat) (s : State) : Host.Outcome State Fault Refusal :=
  coxIssue (.vcmpEqI p a b g) (fun s => s.vcmp p a b g (fun x y => decide (x = y))) s

/-- VCMP LtI into pd at +3 (R222). -/
def execVcmpLtI (p a b g : Nat) (s : State) : Host.Outcome State Fault Refusal :=
  coxIssue (.vcmpLtI p a b g) (fun s => s.vcmp p a b g (fun x y => decide (sint 32 x < sint 32 y))) s

/-- VSEL: every lane from va or vb by the selector, at +3 (R223). -/
def execVsel (d a b q : Nat) (s : State) : Host.Outcome State Fault Refusal :=
  coxIssue (.vsel d a b q) (fun s => s.vmove d 0xFFFF (fun n => (if bit (s.mask q) n then a else b, n))) s

/-- VPERM: lane b[3:0] of va, at +3 (R224). -/
def execVperm (d a b g : Nat) (s : State) : Host.Outcome State Fault Refusal :=
  coxIssue (.vperm d a b g) (fun s => s.vmove d (s.mask g) (fun n => (a, s.ln 0 b n % 16))) s

/-- VBCAST: lane m of va, at +3 (R224). -/
def execVbcast (d a m g : Nat) (s : State) : Host.Outcome State Fault Refusal :=
  coxIssue (.vbcast d a m g) (fun s => s.vmove d (s.mask g) (fun _ => (a, m))) s

/-- VREDADD at +8 (R225). -/
def execVredadd (d a g : Nat) (s : State) : Host.Outcome State Fault Refusal :=
  coxIssue (.vredadd d a g) (fun s => s.redAdd d a g) s

/-- VREDMAX at +8 (R225). -/
def execVredmax (d a g : Nat) (s : State) : Host.Outcome State Fault Refusal :=
  coxIssue (.vredmax d a g) (fun s => s.redMax d a g) s

/-- VREDIADD at +8 (R225). -/
def execVrediadd (d a g : Nat) (s : State) : Host.Outcome State Fault Refusal :=
  coxIssue (.vrediadd d a g) (fun s => s.redIadd d a g) s

/-- VEXP2: 2^a at +10 (R226). -/
def execVexp2 (d a g : Nat) (s : State) : Host.Outcome State Fault Refusal :=
  coxIssue (.vexp2 d a g) (fun s => s.lanes1 10 d a g (fun x => fnExp2 0 (f32 x)) (fun x ta => tanExp2 (f32 x) (f32 ta))) s

/-- VLOG2: log2 a at +10 (R226). -/
def execVlog2 (d a g : Nat) (s : State) : Host.Outcome State Fault Refusal :=
  coxIssue (.vlog2 d a g) (fun s => s.lanes1 10 d a g (fun x => fnLog2 0 (f32 x)) (fun x ta => tanLog2 (f32 x) (f32 ta))) s

/-- VRCP: 1 / a at +10 (R226). -/
def execVrcp (d a g : Nat) (s : State) : Host.Outcome State Fault Refusal :=
  coxIssue (.vrcp d a g) (fun s => s.lanes1 10 d a g (fun x => fnRcp 0 (f32 x)) (fun x ta => tanRcp (f32 x) (f32 ta))) s

/-- VRSQRT: 1 / √a at +10 (R226). -/
def execVrsqrt (d a g : Nat) (s : State) : Host.Outcome State Fault Refusal :=
  coxIssue (.vrsqrt d a g) (fun s => s.lanes1 10 d a g (fun x => fnRsqrt 0 (f32 x)) (fun x ta => tanRsqrt (f32 x) (f32 ta))) s

/-- VTANH: tanh a at +10 (R226). -/
def execVtanh (d a g : Nat) (s : State) : Host.Outcome State Fault Refusal :=
  coxIssue (.vtanh d a g) (fun s => s.lanes1 10 d a g (fun x => fnTanh 0 (f32 x)) (fun x ta => tanTanh (f32 x) (f32 ta))) s

/-- VSIGM: 1 / (1 + e^−a) at +10 (R226). -/
def execVsigm (d a g : Nat) (s : State) : Host.Outcome State Fault Refusal :=
  coxIssue (.vsigm d a g) (fun s => s.lanes1 10 d a g (fun x => fnSigm 0 (f32 x)) (fun x ta => tanSigm (f32 x) (f32 ta))) s

/-- VDIV at +16 (R227). -/
def execVdiv (d a b g : Nat) (s : State) : Host.Outcome State Fault Refusal :=
  coxIssue (.vdiv d a b g) (fun s => s.lanes2 16 d a b g div32 tanDiv) s

/-- VSQRT at +16 (R227). -/
def execVsqrt (d a g : Nat) (s : State) : Host.Outcome State Fault Refusal :=
  coxIssue (.vsqrt d a g) (fun s => s.lanes1 16 d a g (fun x => fnSqrt 0 (f32 x)) (fun x ta => tanSqrt (f32 x) (f32 ta))) s

end Sys2Proof.Machine
end

