-- ==== Sys2Proof/Machine/CoxVecMem.lean ====
section
/-! DEFINITION. Meanings of the V-slot conversions, block scales, loads, stores and moves (R228 to R234). -/

namespace Sys2Proof.Machine

open Sys2Proof

/-- An integer conversion type (R228). -/
def cvtInt (t : Nat) : Bool := t ∈ [10, 11, 12, 13, 20, 21]

/-- A lane converted to type T (R228). -/
def cvtTo (t rm x : Nat) : LaneRes := match Fmt.ofCode t with
  | some f => f.encode rm (f32 x)
  | none => (0, 0)

/-- A lane decoded from type T (R228); only the 32-bit integers round. -/
def cvtFrom (t rm x : Nat) : LaneRes := match Fmt.ofCode t with
  | some f => Fmt.fp32.encode (if t = 20 ∨ t = 21 then rm else 0) (f.decode (x % 2 ^ f.width))
  | none => (0, 0)

/-- The tangent of a conversion whose result, as an FP32 value, is `r`: +0.0 for an integer type; else the first cases of R217, and
then unchanged (R228, R310). -/
def State.cvtTan (s : State) (t a p n r : Nat) : LaneRes :=
  if cvtInt t then (0, 0) else tangentLane r [s.ln p a n] (fun _ => (s.ln p a n, 0))

/-- The elements 0 to `n` of the block in va and va + 1, of plane `p` (R229); `n` is COUNT − 1. -/
def State.blockElems (s : State) (p a n : Nat) : List Nat :=
  (List.range (n + 1)).map (fun i => s.ln p (a + i / 16) (i % 16))

/-- The format of F (R229). -/
def blockFmt (f : Nat) : Nat := 14 + f

/-- The packet of a block of plane `p` under scale code `c` (R130, R231); an invalid scale gives zero codes and INVALID (R128, R402). -/
def packBlock (fmt c rm p : Nat) (xs : List Nat) : VWord × FlagSet :=
  let cs := xs.map (fun x => if c = 0x3FF then (0, fInvalid) else encodeScaled fmt c rm (f32 x))
  let hdr := fmt + c * 2 ^ 7 + xs.length * 2 ^ 33 + p * 2 ^ 39
  (BitVec.ofNat 512 (hdr + 2 ^ 128 * packCodes (fmtWidth fmt) (cs.map Prod.fst)), orAll (cs.map Prod.snd))

/-- VQUANT (R231): every plane encoded under the scale code of lane 0 of vd. -/
def State.quant (s : State) (d a n f rm : Nat) : State :=
  let c := s.ln 0 d 0 % 1024
  let r := (0 :: s.tans).map (fun p => packBlock (blockFmt f) c rm p (s.blockElems p a n))
  s.putV 6 d 0xFFFF (r.map Prod.fst) (orAll (r.map Prod.snd))

/-- VSCALE (R230). -/
def State.scaleOf (s : State) (d a n f : Nat) : State :=
  s.putV 6 d 0xFFFF [ofLanes (List.replicate 16 (blockScale (blockFmt f) ((s.blockElems 0 a n).map f32)))]

/-- A vector of `n` = 16 words, or of one word in every lane (R232). -/
def spread (n : Nat) (v : BitVec 512) : BitVec 512 := if n = 1 then ofLanes (List.replicate 16 (lane v 0)) else v

/-- VLD and VLDB (R232, R307): `n` words of the cox store. -/
def State.vload (s : State) (d ea g n : Nat) : State :=
  let off := bits ea 19 0
  let ts := loadTans s.mem (coxBase s.cur) s.me.k n (s.me.tansAt false off)
  let r := s.readCheck s.cur (coxBase s.cur + off) (4 * n) off (tanRuns (coxBase s.cur) n (s.me.tansAt false off))
  r.1.putW 6 (.v d) ((BitVec.ofNat 512 (s.coxRead s.cur off (4 * n)) :: ts).map (spread n)) (s.mask g) (planesMask s.me.k) 0 none r.2

/-- The tangent lanes of vr rounded for the planes that memory holds, with the flags of the lanes of `m` (R307). -/
def State.carryLanes (s : State) (r m : Nat) : List (BitVec 512) × FlagSet :=
  let l := s.me.memPlanes.map (fun p => (List.range 16).map (fun n =>
    if p.2.pres ∧ bit m n then tanStore p.2.pfmt (s.ln p.1 r n) else (0, 0)))
  (l.map (fun x => ofLanes (x.map Prod.fst)), orAll (l.map (fun x => orAll (x.map Prod.snd))))

/-- VST (R232): the governed lanes and their tangents, as stores of the bundle. -/
def State.vstore (s : State) (r ea g : Nat) : State :=
  let off := bits ea 19 0
  let m := s.mask g
  let t := s.carryLanes r m
  let s1 := (List.range 16).foldl (fun s1 n => if bit m n then s1.addStore (off + 4 * n) 4 (s.ln 0 r n) else s1) s
  ((s.me.tansAt false off).foldl (fun s1 p =>
    (List.range 16).foldl (fun s1 n =>
      if bit m n then s1.addStore (p.2.1 + n * pfmtBytes p.2.2) (pfmtBytes p.2.2) (lane (t.1.getD (p.1 - 1) 0) n) else s1) s1)
    s1).flagsNow t.2

/-- VLDN (R232). -/
def State.vloadNode (s : State) (d ea g : Nat) : State :=
  let r := s.reqAt 18 ea 64
  s.nodeRequest (keyOf ea) { r with tans := s.me.tansAt true r.off } (some ⟨14, .v d, s.mask g, planesMask s.me.k⟩)

/-- VSTN (R232). -/
def State.vstoreNode (s : State) (r ea g : Nat) : State :=
  let q := s.reqAt 19 ea 64
  let m := s.mask g
  let t := s.carryLanes r m
  (s.nodeRequest (keyOf ea)
    { q with val := s.me.rv 0 r, mask := m, planes := t.1, tans := s.me.tansAt true q.off } none).flagsNow t.2

/-- The low word of every plane of xa in every lane (R234). -/
def State.splatOf (s : State) (a : Nat) : List (BitVec 512) :=
  (0 :: s.tans).map (fun p => ofLanes (List.replicate 16 (bits (s.me.rx p a).toNat 31 0)))

/-- A lane of every plane of va, extended to 64 bits (R234). -/
def State.extract (s : State) (v d m : Nat) (sg : Bool) : State :=
  let f (p : Nat) : DWord := if sg then sext 32 (s.ln p v m) else BitVec.ofNat 64 (s.ln p v m)
  s.putX 3 d (f 0) 0 (s.tans.map f)

/-- VCVT.TO at +4 (R228). -/
def execVcvtTo (d a t g r : Nat) (s : State) : Host.Outcome State Fault Refusal :=
  coxIssue (.vcvtTo d a t g r) (fun s => s.putLanes 4 d (s.mask g) (fun n => cvtTo t r (s.ln 0 a n)) (fun p n y => s.cvtTan t a p n (cvtFrom t 0 y).1)) s

/-- VCVT.FROM at +4 (R228). -/
def execVcvtFrom (d a t g r : Nat) (s : State) : Host.Outcome State Fault Refusal :=
  coxIssue (.vcvtFrom d a t g r) (fun s => s.putLanes 4 d (s.mask g) (fun n => cvtFrom t r (s.ln 0 a n)) (fun p n y => s.cvtTan t a p n y)) s

/-- VSCALE at +6 (R230). -/
def execVscale (d a n f : Nat) (s : State) : Host.Outcome State Fault Refusal :=
  coxIssue (.vscale d a n f) (fun s => s.scaleOf d a n f) s

/-- VQUANT at +6 (R231). -/
def execVquant (d a n f r : Nat) (s : State) : Host.Outcome State Fault Refusal :=
  coxIssue (.vquant d a n f r) (fun s => s.quant d a n f r) s

/-- VLD at +6 (R232). -/
def execVld (d a i g : Nat) (s : State) : Host.Outcome State Fault Refusal :=
  coxIssue (.vld d a i g) (fun s => s.vload d (s.eaVec a i 64) g 16) s

/-- VLDB at +6 (R232). -/
def execVldb (d a i g : Nat) (s : State) : Host.Outcome State Fault Refusal :=
  coxIssue (.vldb d a i g) (fun s => s.vload d (s.eaVec a i 4) g 1) s

/-- VST, in the issue step (R232). -/
def execVst (r a i g : Nat) (s : State) : Host.Outcome State Fault Refusal :=
  coxIssue (.vst r a i g) (fun s => s.vstore r (s.eaVec a i 64) g) s

/-- VLDN at +14 (R232). -/
def execVldn (d a i g : Nat) (s : State) : Host.Outcome State Fault Refusal :=
  coxIssue (.vldn d a i g) (fun s => s.vloadNode d (s.eaVec a i 64) g) s

/-- VSTN (R232). -/
def execVstn (r a i g : Nat) (s : State) : Host.Outcome State Fault Refusal :=
  coxIssue (.vstn r a i g) (fun s => s.vstoreNode r (s.eaVec a i 64) g) s

/-- VINS: one lane from xa, at +3 (R234). -/
def execVins (d a m : Nat) (s : State) : Host.Outcome State Fault Refusal :=
  coxIssue (.vins d a m) (fun s => s.putV 3 d (2 ^ m) (s.splatOf a)) s

/-- VSPLAT: every governed lane from xa, at +3 (R234). -/
def execVsplat (d a g : Nat) (s : State) : Host.Outcome State Fault Refusal :=
  coxIssue (.vsplat d a g) (fun s => s.putV 3 d (s.mask g) (s.splatOf a)) s

/-- VEXT: a lane, zero-extended, at +3 (R234). -/
def execVext (v d m : Nat) (s : State) : Host.Outcome State Fault Refusal :=
  coxIssue (.vext v d m) (fun s => s.extract v d m false) s

/-- VEXTS: a lane, sign-extended, at +3 (R234). -/
def execVexts (v d m : Nat) (s : State) : Host.Outcome State Fault Refusal :=
  coxIssue (.vexts v d m) (fun s => s.extract v d m true) s

end Sys2Proof.Machine
end

