-- ==== Sys2Proof/Machine/HostReq.lean ====
section
/-! DEFINITION. Requests that the device sends to the host for IMPORT and EXPORT (R331, R336). -/

namespace Sys2Proof.Machine

/-- Max_Payload_Size of function `f`, and its Max_Read_Request_Size (R331). -/
def State.maxPayload (s : State) (f : Nat) : Nat := Tab.get 0 s.mps f + 128
def State.maxRead (s : State) (f : Nat) : Nat := if Tab.get 0 s.mrrs f = 0 then 512 else Tab.get 0 s.mrrs f

/-- `n` bytes of host memory from `a`, cut into requests of `m` bytes at most, none across a 4 KiB boundary: address and bytes, ascending (R336). -/
def reqCuts (m : Nat) : Nat → Nat → Nat → List (Nat × Nat)
  | 0, _, _ => []
  | fuel + 1, a, n =>
    if n = 0 then []
    else
      let k := Nat.min n (Nat.min (Nat.max 4 m) (4096 - a % 4096))
      (a, k) :: reqCuts m fuel (a + k) (n - k)

/-- A request that is completed goes out with the next tag of its link; tags have 14 bits (R331). -/
def State.sendReq (s : State) (q : HostReq) : State :=
  { s with hostReqs := s.hostReqs ++ [{ q with tag := Tab.get 0 s.hostTag q.link }],
           hostTag := Tab.set 0 s.hostTag q.link ((Tab.get 0 s.hostTag q.link + 1) % 2 ^ 14) }

/-- The host link on which the requests of rider `r` are outstanding; that of its function while an EXPORT has not written yet (R332). -/
def State.hostLink (s : State) (r : Rider) : Nat := if r.kind = .exp ∧ r.sent = 0 then s.linkOf r.func else r.link

/-- IMPORT's Memory Read requests, in ascending order (R336). -/
def State.askHost (s : State) (r : Rider) : State :=
  if r.kind ≠ .imp ∨ r.fail.isSome then s
  else
    let l := s.linkOf r.func
    (reqCuts (s.maxRead r.func) (r.n + 1) (r.f 127 64) (4 * r.n)).foldl (fun (s : State) c => s.sendReq ⟨l, r.func, .read, c.1, c.2, [], 0⟩)
      (s.modRider r.id (fun q => { q with link := l }))

/-- EXPORT's Memory Write requests with its words, in ascending order, then the zero-length read of the last written address (R336). -/
def State.writeHost (s : State) (r : Rider) (ws : List Word) : State :=
  let a := r.f 127 64
  let l := s.linkOf r.func
  let cs := reqCuts (s.maxPayload r.func) (r.n + 1) a (4 * r.n)
  let s := { s with hostReqs := s.hostReqs ++ cs.map (fun (c : Nat × Nat) => (⟨l, r.func, .write, c.1, c.2, (ws.drop ((c.1 - a) / 4)).take (c.2 / 4), 0⟩ : HostReq)) }
  (s.sendReq ⟨l, r.func, .flush, a + 4 * r.n - 4, 0, [], 0⟩).modRider r.id (fun q => { q with link := l, sent := q.n })

end Sys2Proof.Machine
end

