-- ==== Sys2Proof/Machine/RiderIssue.lean ====
section
/-! DEFINITION. The rider instructions of the C slot (R75, R81, R256, R257, R260 to R273) and the queueing of streams on ports
(R271). -/

namespace Sys2Proof.Machine

open Sys2Proof

/-- Words in core `c`'s local memory, with the offsets whose stored word is uncorrectable (R81, R390). Stores of the syllables of the
same bundle before it in slot order are issued earlier, and seen (R145, R233; DEDUCED, log entry 80). -/
def State.sourceWords (s : State) (c la n : Nat) : List Word × List Nat :=
  let base := if bit la 31 then nodeBase (keyOf la) + bits la 12 0 else coxBase c + bits la 19 0
  let m := if s.cur = c then s.memStored else s.mem
  ((List.range n).map (fun i => BitVec.ofNat 32 (m.readN (base + 4 * i) 4)),
   if s.wordsBad base (4 * n) then (List.range n).filter (fun i => s.wordsBad (base + 4 * i) 4) else [])

/-- The correctable words among those that a source read takes are corrected and reported (R390). -/
def State.sourceFixed (s : State) (c la n : Nat) : State :=
  s.wordsFixed (if bit la 31 then nodeBase (keyOf la) + bits la 12 0 else coxBase c + bits la 19 0) (4 * n)

/-- The words that a rider reads at admission (R81, R263). -/
def State.sourceOf (s : State) (r : Rider) : List Word × List Nat :=
  match r.kind with
  | .dep => s.sourceWords r.acct (r.f 159 128) r.n
  | .bvload => s.sourceWords r.acct (r.f 159 128) (8 * (r.f 206 200 + 1))
  | _ => ([], [])

/-- Rider `id` takes its source words (R81, R390). A deposit whose source lies in a node waits for an edge declared into it (R147): it reads, and
boards, once the edge is open. -/
def State.readSource (s : State) (id : Nat) : State :=
  match s.rider? id with
  | none => s
  | some r =>
    if r.fail.isSome then s
    else if r.kind = .dep ∧ bit (r.f 159 128) 31 = true ∧ s.riderBehind r = true then s.modRider id (fun q => { q with unread := true })
    else
      let x := s.sourceOf r
      let s := if r.kind = .dep then s.sourceFixed r.acct (r.f 159 128) r.n
        else if r.kind = .bvload then s.sourceFixed r.acct (r.f 159 128) (8 * (r.f 206 200 + 1)) else s
      s.modRider id (fun q => { q with
        src := x.1, unread := false, host := decide (q.kind = .imp ∨ q.kind = .exp),
        parts := q.parts.map (fun p => if p.role = .data then { p with lost := if q.kind = .bvload then x.2 else p.lostAt x.2 } else p) })

/-- The newest rider takes its source words (R81). -/
def State.fillSource (s : State) : State := s.readSource (s.nextId - 1)

/-- The newest rider, if it is an IMPORT, sends its requests to the host (R336). -/
def State.askNewest (s : State) : State :=
  match s.rider? (s.nextId - 1) with
  | some r => s.askHost r
  | none => s

/-- The rider that a C-slot syllable asks for. -/
def State.askOf (s : State) (kind : RKind) (d a b : Nat) : Rider :=
  let rcd := s.recAt (s.xval b) 32
  Rider.ask kind .core s.cur (s.funcOf s.cur) (s.asidOf s.cur) s.me.team (BitVec.ofNat 256 rcd) (s.xval a) (s.xval d)

/-- Streams that run or wait on a port (R271). -/
def State.onPort (s : State) (c p : Nat) : List Strm := s.streams.filter (fun t => decide (t.core = c ∧ t.port = p))

/-- A stream is queued on its port: one running and up to three waiting (R260, R271), in flight from then until its stamp is written (R75). -/
def State.queueStream (s : State) (r : Rider) (pat : Nat) : Nat × State :=
  let p := r.f 66 64
  let full := decide (512 ≤ s.coreFlight r.acct)
  let waits := decide (4 ≤ (s.onPort r.acct p).length)
  if full ∨ waits = true then (8 * b2n full + 2 * b2n waits, s)
  else
    let t : Strm :=
      { core := r.acct, port := p, time := s.dieNs (r.acct / 8), team := r.team, rcd := r.rcd, pat := BitVec.ofNat 256 pat,
        xa := r.xa, stamp := r.stamp, next := 0, done := 0, words := 0, rid := [] }
    (1, ({ s with streams := s.streams ++ [t] }).post .streamEmissionAdmit [r.acct, p])

/-- The common effect of the rider instructions (R257): admission in the issue step, its result in p15 at +16. -/
def State.issueRider (s : State) (kind : RKind) (d a b : Nat) : State :=
  let r := s.askOf kind d a b
  let x :=
    if kind = .stream then s.queueStream r (s.recAt (r.f 159 128) 32)
    else if kind = .rdstr ∧ r.f 255 252 = 3 then s.queueStream r 0
    else
      let y := s.admitCore r
      if y.1 = 1 then (1, y.2.fillSource.askNewest) else y
  (x.2.putP 16 15 (BitVec.ofNat 16 x.1)).modMe (fun c => { c with admDue := c.step + 16 })

/-- RDSTR: copies a span to a destination (R260). -/
def execRdstr (d a b : Nat) (s : State) : Host.Outcome State Fault Refusal :=
  coxIssue (.rdstr d a b) (fun s => s.issueRider .rdstr d a b) s

/-- RDSIEVE: keeps the words that match (R261). -/
def execRdsieve (d a b : Nat) (s : State) : Host.Outcome State Fault Refusal :=
  coxIssue (.rdsieve d a b) (fun s => s.issueRider .rdsieve d a b) s

/-- RDFOLD: reduces a span (R262). -/
def execRdfold (d a b : Nat) (s : State) : Host.Outcome State Fault Refusal :=
  coxIssue (.rdfold d a b) (fun s => s.issueRider .rdfold d a b) s

/-- RDMAT: the bank matrix pass (R85, R264). -/
def execRdmat (d a b : Nat) (s : State) : Host.Outcome State Fault Refusal :=
  coxIssue (.rdmat d a b) (fun s => s.issueRider .rdmat d a b) s

/-- RDFP: fingerprints pages (R265). -/
def execRdfp (d a b : Nat) (s : State) : Host.Outcome State Fault Refusal :=
  coxIssue (.rdfp d a b) (fun s => s.issueRider .rdfp d a b) s

/-- RDCMP: compares two spans (R266). -/
def execRdcmp (d a b : Nat) (s : State) : Host.Outcome State Fault Refusal :=
  coxIssue (.rdcmp d a b) (fun s => s.issueRider .rdcmp d a b) s

/-- UPD: updates every word of a span (R267). -/
def execUpd (d a b : Nat) (s : State) : Host.Outcome State Fault Refusal :=
  coxIssue (.upd d a b) (fun s => s.issueRider .upd d a b) s

/-- DEP: deposits words read at admission (R81, R268). -/
def execDep (d a b : Nat) (s : State) : Host.Outcome State Fault Refusal :=
  coxIssue (.dep d a b) (fun s => s.issueRider .dep d a b) s

/-- LAND: opens a landing window (R88, R269). -/
def execLand (d a b : Nat) (s : State) : Host.Outcome State Fault Refusal :=
  coxIssue (.land d a b) (fun s => s.issueRider .land d a b) s

/-- BVLOAD: loads the bank vector registers (R84, R263). -/
def execBvload (d a b : Nat) (s : State) : Host.Outcome State Fault Refusal :=
  coxIssue (.bvload d a b) (fun s => s.issueRider .bvload d a b) s

/-- IMPORT: copies host words into a span (R270). -/
def execImportHost (d a b : Nat) (s : State) : Host.Outcome State Fault Refusal :=
  coxIssue (.importHost d a b) (fun s => s.issueRider .imp d a b) s

/-- EXPORT: copies a span to host memory (R270). -/
def execExportHost (d a b : Nat) (s : State) : Host.Outcome State Fault Refusal :=
  coxIssue (.exportHost d a b) (fun s => s.issueRider .exp d a b) s

/-- STREAM: binds a pattern of emissions to a port (R271). -/
def execStream (d a b : Nat) (s : State) : Host.Outcome State Fault Refusal :=
  coxIssue (.stream d a b) (fun s => s.issueRider .stream d a b) s

/-- CRSMODE: requests a mode for a course (R272). -/
def execCrsmode (d a b : Nat) (s : State) : Host.Outcome State Fault Refusal :=
  coxIssue (.crsmode d a b) (fun s => s.issueRider .crsmode d a b) s

/-- CURSOR: records a course at a boundary (R273). -/
def execCursor (d a b : Nat) (s : State) : Host.Outcome State Fault Refusal :=
  coxIssue (.cursor d a b) (fun s => s.issueRider .cursor d a b) s

end Sys2Proof.Machine
end

