-- ==== Sys2Proof/Machine/Delivery.lean ====
section
/-! DEFINITION. What follows a rider's last part: deliveries and stamps (R82, R258, R359, R382, R388, R389, R394), walks (R92, R391),
landings (R88, R393), streams (R271, R295), host transfers (R270, R336, R407) and engines' riders that wait (R247, R318, R340). -/

namespace Sys2Proof.Machine

open Sys2Proof

/-! ## Streams (R260, R271) -/

/-- A field of a stream's pattern record, or of its rider record. -/
def Strm.p (t : Strm) (hi lo : Nat) : Nat := bits t.pat.toNat hi lo
/-- Words of one emission. -/
def Strm.n (t : Strm) : Nat := bits t.rcd.toNat 63 32
/-- Emissions of a stream; an RDSTR to a port has one. -/
def Strm.total (t : Strm) : Nat := (t.p 15 0 + 1) * (t.p 31 16 + 1) * (t.p 47 32 + 1) * (t.p 63 48 + 1)
/-- Virtual address of emission `e` (R271). DESIGN CHOICE: R271 says nothing of a sum below 0, taken as address 0, or above the 49 bits of an address,
which it wraps in (log entry 132). -/
def Strm.va (t : Strm) (e : Nat) : Nat :=
  let c0 := t.p 15 0 + 1
  let c1 := t.p 31 16 + 1
  let c2 := t.p 47 32 + 1
  let j (i d : Nat) : Int := ((i % d : Nat) : Int)
  ((t.xa : Int) + 4 * (j e c0 * sint 32 (t.p 95 64) + j (e / c0) c1 * sint 32 (t.p 127 96) + j (e / (c0 * c1)) c2 * sint 32 (t.p 159 128)
    + ((e / (c0 * c1 * c2) : Nat) : Int) * sint 32 (t.p 191 160))).toNat % 2 ^ 49

/-- The stream that runs on a port. -/
def State.portStream (s : State) (c p : Nat) : Option Strm := (s.streams.filter (fun t => decide (t.core = c ∧ t.port = p))).head?
/-- Change the stream that runs on a port. -/
def modStream (c p : Nat) (f : Strm → Strm) : List Strm → List Strm
  | [] => []
  | t :: r => if t.core = c ∧ t.port = p then f t :: r else t :: modStream c p f r
/-- Remove the stream that runs on a port. -/
def dropStream (c p : Nat) : List Strm → List Strm
  | [] => []
  | t :: r => if t.core = c ∧ t.port = p then r else t :: dropStream c p r

/-- The region whose load binds port `p` of a core of team `t` (R260, R389). -/
def State.boundRegion (s : State) (t : Option Nat) (p : Nat) : Option Nat :=
  (List.range s.regions.length).find? (fun n => match s.active n with
    | some (_, l) => decide (t = some l.team) && l.bindsPort p
    | none => false)
/-- The operand port of an X tile that port `p` of core `c` feeds for team `t` (R260): tile, and whether it is port A. -/
def State.portTile (s : State) (t : Option Nat) (c p : Nat) : Option (Nat × Bool) :=
  (List.range s.regions.length).findSome? (fun n => match s.active n with
    | some (r, l) => if t = some l.team ∧ l.discarded = false then (match r.portTo l c p with
        | some (k, a) => if a = 0 then none else some (xtOf k, decide (a = 1))
        | none => none) else none
    | none => none)

/-- The mark of the beat that follows those of an operand port (R110, R240): a header, or the payload that the last header is still owed. -/
def nextMark (q : List Beat) : Nat :=
  if q.foldl (fun n b => if b.mark = 1 then payBeats (bits b.v0.toNat 4 0) (bits b.v0.toNat 38 33) else n - 1) 0 = 0 then 1 else 2
/-- Words of a stream as the beats of an operand port: four words each. -/
def takeBeats : Nat → List Beat → List Word → List Beat × List Word
  | 0, q, ws => (q, ws)
  | fuel + 1, q, ws =>
    if ws.length < 4 then (q, ws)
    else takeBeats fuel (q ++ [Beat.of [(ws.take 4).map BitVec.toNat] (nextMark q)]) (ws.drop 4)

/-- A stream's stamp, and its port falls free (R271). -/
def State.endStream (s : State) (t : Strm) (stamp : Nat) : State :=
  let s := (s.deliver t.team t.core t.stamp 8 stamp).noteRan t.team t.rcd.toNat t.xa
  ({ s with streams := dropStream t.core t.port s.streams }).post .streamEmissionAdmit [t.core, t.port]

/-- The words at a port that feeds an X tile's operand port become its beats (R260). Until then they stand in a retiming FIFO: none leaves it while the
clock of the tile's quadrant island pauses (R22, R24). A node's write view takes its words from the port as its own island steps. -/
def State.portFeed (s : State) (t : Option Nat) (c p : Nat) : State :=
  match s.portTile t c p with
  | none => s
  | some (u, a) =>
    if s.tilePaused u then s
    else
      let key := portKey t c p
      let l := Tab.get [] s.portWords key
      let x := takeBeats l.length (if a then (s.xtile u).aq else (s.xtile u).bq) l
      { s with portWords := Tab.set [] s.portWords key x.2 }.modTile u (fun t => if a then { t with aq := x.1 } else { t with bq := x.1 })

/-- Words reach port `p` of core `c` for team `t`, in order. -/
def State.toPort (s : State) (t : Option Nat) (c p : Nat) (ws : List Nat) : State :=
  if ws.isEmpty then s
  else
    let key := portKey t c p
    ({ s with portWords := Tab.set [] s.portWords key (Tab.get [] s.portWords key ++ ws.map (BitVec.ofNat 32)) } : State).portFeed t c p

/-- The words of a rider, from the first, that it has observed (R389). -/
def Rider.prefixWords (r : Rider) : List Nat := ((List.range r.n).takeWhile (fun i => (r.seen.any (fun e => decide (e.1 = i))) || r.order.contains i)).map r.word

/-- An emission's words reach its port as they are passed (R389); `sent` counts them. -/
def State.toPortOf (s : State) (r : Rider) (c p : Nat) : State :=
  let ws := r.prefixWords
  if ws.length ≤ r.sent ∨ r.void = true then s else (s.toPort r.team c p (ws.drop r.sent)).modRider r.id (fun q => { q with sent := ws.length })

/-- The emission that a port takes words from: the oldest of its stream (R271). -/
def State.streamHead (s : State) (r : Rider) (c p : Nat) : Bool :=
  match s.portStream c p with
  | some t => decide (t.rid.head? = some r.id)
  | none => true

/-- No emission of the load to the same port was asked for before it (R295). -/
def State.loadHead (s : State) (r : Rider) : Bool := !s.riders.any (fun q => q.samePort r && decide (q.id < r.id) && !q.void)

/-- What comes next for rider `i`: words to deliver, or its end. -/
def State.postOver (s : State) (i : Nat) : State :=
  match s.rider? i with
  | some q => s.post (if q.fail.isSome ∨ q.stopped then .faultedRiderStamp else .riderDelivery) [i]
  | none => s

/-- The stamp of a withdrawn stream, with the words that it delivered (R394). -/
def Strm.killed (t : Strm) : Nat := 0x05 * 2 ^ 56 + bits t.rcd.toNat 199 192 * 2 ^ 48 + t.words % 2 ^ 32

/-- An emission delivers once those before it have (R271). The last one of a discarded load's stream ends it FAULTED (R359), and the last one before the
end of a withdrawn stream ends it KILLED (R394). -/
def State.streamDeliver (s : State) (r : Rider) (c p : Nat) : State :=
  match s.portStream c p with
  | none => s.dropRider r.id
  | some t =>
    if t.rid.head? ≠ some r.id then s
    else
      let s := (s.toPortOf r c p).dropRider r.id
      let t := { t with rid := t.rid.drop 1, done := t.done + 1, words := t.words + (if r.void then r.sent else t.n) }
      let s := { s with streams := modStream c p (fun _ => t) s.streams }
      if t.rid = [] ∧ r.withdrawn.isSome ∧ (r.void = true ∨ t.done < t.total) then s.endStream t t.killed
      else if r.void ∧ t.rid = [] then s.endStream t (stampWord 0x04 (bits t.rcd.toNat 199 192) r.fin)
      else if t.done = t.total ∧ r.void = false then s.endStream t (stampWord 0x01 (bits t.rcd.toNat 199 192) r.fin)
      else match t.rid with
        | i :: _ => s.postOver i
        | [] => s

/-- A load's emission has delivered its last word: the next of its port may (R295). -/
def State.loadNext (s : State) (r : Rider) : State :=
  let s := s.dropRider r.id
  match s.riders.find? (fun q => q.samePort r) with
  | some q => s.postOver q.id
  | none => s

/-- STREAM_EMISSION_ADMIT (R271): the next emission of the stream that runs on a port is admitted, or tried again later. -/
def State.emissionAdmit (s : State) (c p : Nat) : State :=
  match s.portStream c p with
  | none => s
  | some t =>
    let ended := match t.team.bind s.team? with
      | some m => decide (m.st = .ended) || m.ending.isSome
      | none => true
    let frozen := match (s.boundRegion t.team p).bind s.active with
      | some (_, l) => l.rcd.isSome || l.discarded
      | none => false
    if t.total ≤ t.next ∨ ended = true ∨ frozen = true then s
    else
      let ids := s.teamIds t.team
      let va := t.va t.next
      let q := Rider.ask .stream (.stream c p) c ids.1 ids.2 t.team (mkRecord t.n p 0 (bits t.rcd.toNat 199 192) 0) va 0
      let id := s.nextId
      let x := s.admitCore q
      if x.1 = 1 then
        { x.2 with streams := modStream c p (fun t => { t with next := t.next + 1, rid := t.rid ++ [id] }) x.2.streams }.post .streamEmissionAdmit [c, p]
      else x.2
/-- STREAM_EMISSION_ADMIT (R271). -/
def execStreamEmissionAdmit (s : State) : Host.Outcome State Fault Refusal := .next (s.emissionAdmit (s.arg 0) (s.arg 1))

/-- A cell that fails, by its check code or by its MAC, stops a port: the step that reads it finds no more words, and in the first cycle of that stall its load
freezes (R389, R415). -/
def State.stopPort (s : State) (r : Rider) (c p : Nat) : State :=
  match r.fail with
  | some q => if (recBits q 447 440 = 0x14 ∨ recBits q 447 440 = 0x16) ∧ r.void = false then { s with portStop := Tab.set false s.portStop (portKey r.team c p) true } else s
  | none => s

/-- An emission fails or is stopped, once those before it have delivered: what it observed before the failing cell has reached the port, which
stops there (R389); the later emissions are dropped and the stream's stamp is written (R271, R394). -/
def State.streamFail (s : State) (r : Rider) (c p : Nat) : State :=
  match s.portStream c p with
  | none => s.dropRider r.id
  | some t =>
    if t.rid.head? ≠ some r.id then s
    else
      let s := (s.toPortOf r c p).stopPort r c p
      let s := { s with riders := s.riders.filter (fun q => !t.rid.contains q.id) }
      let t := { t with rid := [], words := t.words + (if r.void then r.sent else r.prefixWords.length) }
      s.endStream t (if r.fail.isSome then stampWord 0x04 (bits t.rcd.toNat 199 192) r.fin else t.killed)

/-! ## Peers and host (R260, R270, R336, R339) -/

/-- The words of a deposit to a peer, cut into packets: first index and count (R339). -/
def packetCuts (dest n : Nat) : Nat → Nat → List (Nat × Nat)
  | 0, _ => []
  | fuel + 1, i =>
    if n ≤ i then []
    else
      let k := Nat.min (n - i) ((256 - (dest + 4 * i) % 256) / 4)
      (i, k) :: packetCuts dest n fuel (i + k)

/-- The packets of an RDSTR to a peer (R260, R339): first span index and words of each. -/
def Rider.cuts (r : Rider) : List (Nat × Nat) := packetCuts (r.f 127 64) r.n (r.n + 1) 0

/-- RDSTR to a peer: a packet joins the link's sending queue once its words are observed (R260, R339, R389); `sent` counts the packets. -/
def State.sendPeer (s : State) (r : Rider) : State :=
  let l := r.f 132 128
  let o := s.oars.getD l Oar.down
  let dest := r.f 127 64
  let m := r.prefixWords.length
  let ps := ((r.cuts.takeWhile (fun c => decide (c.1 + c.2 ≤ m))).drop r.sent).map (fun c =>
    (⟨BitVec.ofNat 256 (1 * 2 ^ 172 + (c.2 - 1) * 2 ^ 166 + (dest + 4 * c.1) % 2 ^ 49),
      (List.range c.2).map (fun i => BitVec.ofNat 32 (r.word (c.1 + i))), r.id, r.acct, r.team⟩ : OarPkt))
  if ps.isEmpty then s
  else ({ s with oars := s.oars.set l { o with sendq := o.sendq ++ ps } }.modRider r.id (fun q => { q with sent := q.sent + ps.length })).post .oarPacketSend [l]

/-- An RDSTR to a peer has finished: its stamp follows its last packet (R260). -/
def State.endPeer (s : State) (r : Rider) : State :=
  match s.rider? r.id with
  | some q => if q.sent = q.cuts.length ∧ ¬ (s.oars.getD (q.f 132 128) Oar.down).sendq.any (fun p => decide (p.rider = q.id)) = true then s.stampRider q 0x01 q.fin else s
  | none => s

/-- A request of a host transfer fails: the rider fails under R382 with reason 0x2B and the completion status (R407). A part of an IMPORT that is aboard
has its words and runs to its end; the others act on none (R270). -/
def State.hostFail (s : State) (id status : Nat) : State :=
  match s.rider? id with
  | none => s
  | some r =>
    if (r.kind = .imp ∨ r.kind = .exp) ∧ r.host = true ∧ r.fail.isNone then
      let p := (r.parts.head?).getD Part.empty
      let s := s.modRider id (fun q => { q with
        host := false, parts := if r.kind = .imp then q.parts.map (fun z => if z.boarded then z else z.idle) else q.parts
        fail := some (riderRec r 0 ⟨0x0E, 0x2B, status, r.xa, wordLoc p.crs (s.partPa p p.first)⟩) })
      match s.rider? id with
      | some q => s.riderOver q
      | none => s
    else s

/-- A host transfer whose link is down fails; the completion status is one of R407's four, free. -/
def State.hostCut (s : State) (id : Nat) : State := ({ s with fresh := s.fresh + 1 } : State).hostFail id (Config.cutStatus s.fresh).toNat

/-- EXPORT's words leave for the host (R336), unless the link is down (R407); the stamp waits for the completion of the flush read. -/
def State.sendHost (s : State) (r : Rider) : State :=
  if r.sent = 0 then
    if s.hostLinkUp.getD (s.linkOf r.func) true = false then s.hostCut r.id
    else s.writeHost r ((List.range r.n).map (fun i => BitVec.ofNat 32 (r.word i)))
  else if r.host then s
  else s.stampRider r 0x01 r.fin

/-! ## Deliveries -/

/-- The window of a LAND closes: contributions still pending for it are dropped, and their drains end FAULTED (R247, R393). A LAND that opened
none closes none. -/
def State.closeWindow (s : State) (r : Rider) : State :=
  match r.parts.head? with
  | some p =>
    let gone (x : Contrib) : Bool := decide (x.stack = p.pc / 64 ∧ x.win = r.f 255 250 ∧ x.arrived ≠ 0 ∧ r.note = 0)
    (s.contribs.filter gone).foldl State.dropNote { s with contribs := s.contribs.filter (fun x => !gone x) }
  | none => s

/-- Lines of the configuration cache that a fetch fills (R40). -/
def State.fillCache (s : State) (r : Rider) : State :=
  (List.range ((r.n + 3) / 4)).foldl (fun (s : State) i =>
    s.ccPut (r.asid * 2 ^ 45 + r.xa / 16 + i) (BitVec.ofNat 128 (packCodes 32 ((List.range 4).map (fun j => r.word (4 * i + j)))))) s

/-- What a rider that delivers as it acts has passed leaves for its port or its peer, up to the first word of a cell that failed, at which its port stops
(R389). -/
def State.deliverPassed (s : State) (r : Rider) : State :=
  match r.owner with
  | .core => if r.kind = .rdstr ∧ r.f 255 252 = 4 then s.sendPeer r else s
  | .stream c p => if s.streamHead r c p then (s.toPortOf r c p).stopPort r c p else s
  | .load _ => if s.loadHead r then (s.toPortOf r r.acct r.loadPort).stopPort r r.acct r.loadPort else s
  | _ => s

/-- A delivery of rider `r` waits: for a die link that retrains, from the stack of a part that has finished to the die of its admission (R410); in the
retiming FIFO of its core's quadrant island, whose clock pauses (R22, R24); for an edge declared into it (R147). -/
def State.deliveryHeld (s : State) (r : Rider) : Bool :=
  r.parts.any (fun p => s.dieHeld (p.pc / 192) r.die r.fin) || (decide (r.acct < 32) && s.paused (coreIsl r.acct)) || s.riderBehind r

/-- RIDER_DELIVERY (R82, R258): the results of a rider whose last part has finished, `cap` words of them at most, then its stamp; before that, what a
rider that delivers as it acts has passed (R389). A deposit whose source has waited for an edge reads it (R147). -/
def State.riderDeliver (s : State) (id cap : Nat) : State :=
  match s.rider? id with
  | none => s
  | some r =>
    if r.unread ∧ r.parts.all Part.done = false then (if s.riderBehind r then s else s.readSource id)
    else if s.deliveryHeld r then s
    else if ¬ (r.parts.all Part.done = true) then (if r.void ∨ r.stopped then s else s.deliverPassed r)
    else if r.fail.isSome ∨ r.stopped = true then s
    else if r.void ∧ r.owner = .core then s.stampRider r 0x04 r.fin
    else match r.owner with
      | .core =>
        if r.kind = .exp then s.sendHost r
        else if r.kind = .rdstr ∧ r.f 255 252 = 4 then (s.sendPeer r).endPeer r
        else if r.kind = .land then ((s.teamFlags r.team r.acct r.flags).closeWindow r).stampRider r 0x01 r.fin
        else s.deliverRider r cap
      | .stream c p => s.streamDeliver r c p
      | .load _ => if s.loadHead r then (s.toPortOf r r.acct r.loadPort).loadNext r else s
      | .drain u n => (s.dropRider r.id).drainLess u n false false r.nact
      | .turn n => match s.seqs.find? (fun x => decide (x.id = n)) with
        | some x => s.post .sequenceTurnEnd [x.stream]
        | none => s.dropRider r.id
      | .fetch n => ((s.fillCache r).dropRider r.id).post .fetchComplete [n]
      | .oar n => (s.dropRider r.id).post .oarAckSend [n]
      | .context t c =>
        if r.kind = .dep then (s.dropRider r.id).post .switchOutComplete [c]
        else ((s.contextFill t c r.word).dropRider r.id).post .contextRestored [c]
      | .redirect _ _ => s.dropRider r.id
      | .base => s.dropRider r.id
      | .walk n =>
        let s := s.dropRider r.id
        if r.note = 0 then s.walkRead n (some (r.word 0 + 2 ^ 32 * r.word 1)) else s.treeRead n r.note
/-- RIDER_DELIVERY (R82, R258) of rider `arg 0`: all of its results, or with a second operand that many words at most, so that deliveries which overlap
may mix word by word (R8; log entry 94). -/
def execRiderDelivery (s : State) : Host.Outcome State Fault Refusal := .next (s.riderDeliver (s.arg 0) (if s.arg 1 = 0 then 2 ^ 32 else s.arg 1))

/-- The record of a failed rider, with the time of its append. -/
def State.failRec (s : State) (r : Rider) (q : BitVec 512) : BitVec 512 :=
  BitVec.ofNat 512 (q.toNat % 2 ^ 448 + s.dieNs (match r.parts with
    | p :: _ => 5 + p.pc / 64
    | [] => if r.acct < 32 then r.acct / 8 else r.acct - 32) * 2 ^ 448)

/-- The end of a rider that failed or was stopped may come (R382, R391, R394). -/
def State.overNow (s : State) (r : Rider) : Bool :=
  (r.fail.isSome || r.stopped) && r.parts.all Part.done && (!r.parts.isEmpty || decide (r.time + 250 ≤ s.dieNs r.die))
    && !(r.void && (match r.owner with
      | .turn _ => true
      | _ => false))

/-- An emission that failed or was stopped waits for those before it to deliver (R271, R295). -/
def State.mayEnd (s : State) (r : Rider) : Bool :=
  match r.owner with
  | .stream c p => s.streamHead r c p
  | .load _ => s.loadHead r
  | _ => true

/-- FAULTED_RIDER_STAMP (R359, R382, R388, R389, R394): no result, but the flags of the words acted on (R136); the record, then STATUS FAULTED, or
KILLED with the words acted on. -/
def State.riderFault (s : State) (id : Nat) : State :=
  match s.rider? id with
  | none => s
  | some r =>
    if ¬ s.overNow r ∨ s.mayEnd r = false ∨ s.deliveryHeld r = true then s
    else
      let fin := if r.parts.isEmpty then r.time + 250 else r.fin
      let s := match r.fail, r.owner with
        | some _, .walk _ => s
        | some q, _ => s.queueRec (s.failRec r q)
        | none, _ => s
      match r.owner with
      | .core =>
        let s := if r.kind = .rdstr ∧ r.f 255 252 = 4 then s.sendPeer r else s
        let s := (if r.kind = .land then s.closeWindow r else s).teamFlags r.team r.acct r.flags
        if r.fail.isSome then s.stampRider r 0x04 fin
        else (s.deliver r.team r.acct r.stamp 8 (0x05 * 2 ^ 56 + r.sq * 2 ^ 48 + r.nact % 2 ^ 32)).dropRider r.id
      | .stream c p => s.streamFail { r with fin := fin } c p
      | .load _ => ((s.toPortOf r r.acct r.loadPort).stopPort r r.acct r.loadPort).loadNext r
      | .drain u n => (s.dropRider r.id).drainLess u n r.fail.isSome r.fail.isNone r.nact
      | .turn n => match s.seqs.find? (fun x => decide (x.id = n)) with
        | some x => (s.modRider r.id (fun q => { q with void := true })).post .sequenceTurnEnd [x.stream]
        | none => s.dropRider r.id
      | .fetch n => (s.dropRider r.id).refuseFetch n { fetch := true }
      | .oar n => (s.dropRider r.id).post .oarAckSend [n]
      | .context _ c => (s.dropRider r.id).post (if r.kind = .dep then .switchOutComplete else .contextRestored) [c]
      | .redirect _ _ => s.dropRider r.id
      | .base => s.dropRider r.id
      | .walk n => (s.dropRider r.id).walkRead n none
/-- FAULTED_RIDER_STAMP (R382, R388, R394). -/
def execFaultedRiderStamp (s : State) : Host.Outcome State Fault Refusal := .next (s.riderFault (s.arg 0))

/-! ## Walks (R92, R391) -/

/-- Drop the `i`-th entry of tile `t`. -/
def dropTlb (t : Nat) : Nat → List Tlb → List Tlb
  | _, [] => []
  | i, e :: l => if e.tile = t then (match i with
      | 0 => l
      | i + 1 => e :: dropTlb t i l) else e :: dropTlb t i l

/-- WALK_FILL (R92, R391): walk `n` is over, and fills an entry of its translation cache. `out` names the entry of the tile that gives way, plus one;
with 0 one does only where the tile holds 4,096 others, and then the oldest: the manual gives 256 sets of 16 ways, but neither the set of a page nor
a rule of replacement (log entry 40). -/
def State.walkFill (s : State) (n out : Nat) : State :=
  match s.walks[n]? with
  | none => s
  | some w => match w.found with
    | none => s
    | some e =>
      let l := s.tlb.filter (fun x => !decide (x.tile = w.tile ∧ x.asid = w.asid ∧ x.va = e.va))
      let full := decide (4096 ≤ (l.filter (fun x => decide (x.tile = w.tile))).length)
      let l := if out ≠ 0 then dropTlb w.tile (out - 1) l else if full then dropTlb w.tile 0 l else l
      { s with walks := s.walks.eraseIdx n, tlb := l ++ [e] }
/-- WALK_FILL (R92). -/
def execWalkFill (s : State) : Host.Outcome State Fault Refusal := .next (s.walkFill (s.arg 0) (s.arg 1))

/-! ## Landings (R88, R393) -/

/-- LNDCTL of a stack; kept less its reset value. -/
def State.lnd (s : State) (st : Nat) : Nat := nxor (Tab.get 0 s.lndctl st).toNat (10000 * 65536 + 1000)

/-- Bytes of contributions in a stack's landing buffer. -/
def State.landBytes (s : State) (st : Nat) : Nat :=
  ((s.contribs.filter (fun x => decide (x.stack = st ∧ x.arrived ≠ 0))).map (fun x => if x.half = 0 then 4 else 2)).sum

/-- The LAND rider whose window is open in a stack. -/
def State.window (s : State) (st win : Nat) : Option Rider :=
  s.riders.find? (fun q => q.opensWindow && decide (q.f 255 250 = win) && q.parts.any (fun p => decide (p.pc / 64 = st)))

/-- The word at `pa` has been combined by the LAND rider already (R393). -/
def State.combined (s : State) (r : Rider) (pa : Nat) : Bool :=
  r.parts.any (fun p => p.runs.any (fun z => (List.range z.len).any (fun i =>
    decide (s.partPa p (z.off + i) = pa ∧ Tab.get 0 r.seen (z.base + i) = 1))))

/-- A contribution has reached the buffer, or was dropped: a drain waits for one less (R247). -/
def State.drainNote (s : State) (c : Contrib) (failed : Bool) : State :=
  match c.unit with
  | some (u, n) => s.drainLess u n failed false 0
  | none => s

/-- LANDING_CONTRIBUTION (R88, R393): contribution `n` enters the landing buffer, unless it is full or a die link on its way retrains (R410). -/
def State.contribArrive (s : State) (n : Nat) : State :=
  match s.contribs[n]? with
  | none => s
  | some c =>
    if c.arrived ≠ 0 ∨ s.dieHeld (match c.unit with
        | some (u, _) => u / 256
        | none => 4) (c.stack / 3) c.time = true then s
    else if (match s.window c.stack c.win with
        | some r => s.combined r c.pa
        | none => false) then
      ({ s with contribs := s.contribs.eraseIdx n }.queueRec (s.landRec c.func (((s.window c.stack c.win).map Rider.acct).getD 0) c.pa c.win 0x29)).drainNote c true
    else if 262144 < s.landBytes c.stack + (if c.half = 0 then 4 else 2) then s
    else { s with contribs := s.contribs.set n { c with arrived := s.ns + 1 } }.drainNote c false
/-- LANDING_CONTRIBUTION (R88, R393). -/
def execLandingContribution (s : State) : Host.Outcome State Fault Refusal := .next (s.contribArrive (s.arg 0))

/-- LAND_TIMEOUT (R393): the contributions of a LAND are still missing after LWAIT; it boards, acts on no word and fails;
its window stays open over its span until the stamp. -/
def State.landTimeout (s : State) (id : Nat) : State :=
  match s.rider? id with
  | none => s
  | some r => match r.parts with
    | p :: _ =>
      if r.kind = .land ∧ r.fail.isNone ∧ p.boarded = false ∧ s.landReady r p = false ∧ r.time + 1000 * (s.lnd (p.pc / 64) / 65536) ≤ s.pcNs p.pc then
        s.modRider id (fun q => { q with
          parts := q.parts.map (fun z => { z.idle with gave := z.runs }), fail := some (s.landRec r.func r.acct (s.partPa p p.first) (r.f 255 250) 0x2A) })
      else s
    | [] => s
/-- LAND_TIMEOUT (R393). -/
def execLandTimeout (s : State) : Host.Outcome State Fault Refusal := .next (s.landTimeout (s.arg 0))

/-- CONTRIBUTION_HOLD_EXPIRY (R393): contributions of a stack held for LHOLD with no window open are dropped, each with a record. -/
def State.holdExpiry (s : State) (st : Nat) : State :=
  let late (c : Contrib) : Bool := decide (c.stack = st ∧ c.arrived ≠ 0 ∧ c.arrived - 1 + 1000 * (s.lnd st % 65536) ≤ s.ns) && (s.window c.stack c.win).isNone
  (s.contribs.filter late).foldl (fun (s : State) c =>
    (s.queueRec (s.landRec (s.funcOfAddr c.pa) 0 c.pa c.win 0x28)).dropNote c) { s with contribs := s.contribs.filter (fun c => !late c) }
/-- CONTRIBUTION_HOLD_EXPIRY (R393). -/
def execContributionHoldExpiry (s : State) : Host.Outcome State Fault Refusal := .next (s.holdExpiry (s.arg 0))

/-! ## Waiting riders (R247, R318, R340) -/

/-- The E tile that admits a rider (R75, R340): 48 is the hub. -/
def State.admitTile (s : State) (r : Rider) : Nat :=
  if r.acct < 32 then eTile (r.acct / 8) (r.acct % 8) r.xa
  else if 36 ≤ r.acct then 48
  else match r.owner with
    | .fetch n => eTile (r.acct - 32) (((s.region n).map Region.homeCore).getD 0) r.xa
    | _ => eTile (r.acct - 32) 0 r.xa

/-- ENGINE_ADMISSION_RETRY: waiting rider `n` is tried again; an emission of a frozen load is not (R359), nor one behind another of its port (R295). -/
def State.retryAdmit (s : State) (n : Nat) : State :=
  match s.waiting[n]? with
  | none => s
  | some q =>
    let frozen := match q.owner with
      | .load g => (match s.active g with
        | some (_, l) => l.rcd.isSome || l.discarded
        | none => true)
      | _ => false
    if frozen then s
    else if (s.waiting.take n).any (fun x => x.samePort q) then s
    else if (match q.owner with
        | .context _ _ => true
        | .redirect _ _ => true
        | .walk _ => true
        | _ => false) then
      (if behind q (s.waiting.take n) ∨ s.noSlot q q.parts = true then s else { s with waiting := s.waiting.eraseIdx n }.takeSlots q (s.dieNs q.die) q.parts)
    else
      let x := s.tryAdmit q q.die (s.admitTile q)
      if x.1 = 1 then { x.2 with waiting := x.2.waiting.eraseIdx n } else x.2
/-- ENGINE_ADMISSION_RETRY (R247, R271, R318, R340). -/
def execEngineAdmissionRetry (s : State) : Host.Outcome State Fault Refusal := .next (s.retryAdmit (s.arg 0))

/-! ## Host completions (R270, R336, R407) -/

/-- HOST_COMPLETION (R336): bytes of an IMPORT's source arrive from the host, or an EXPORT's flush read completes. -/
def State.hostComplete (s : State) (id off size data : Nat) : State :=
  match s.rider? id with
  | none => s
  | some r =>
    if r.kind = .imp ∧ r.host = true then
      s.modRider id (fun q =>
        let now := (List.range q.n).filter (fun i => decide (off ≤ 4 * i ∧ 4 * i < off + size ∧ Tab.get 0 q.seen i = 0))
        let src := (List.range q.n).map (fun i => if i ∈ now then BitVec.ofNat 32 (data / 2 ^ (8 * (4 * i - off))) else q.src.getD i 0)
        { q with src := src, seen := now.foldl (fun t i => Tab.set 0 t i 1) q.seen, sent := q.sent + now.length, host := decide (q.sent + now.length < q.n) })
    else if r.kind = .exp ∧ r.host = true ∧ r.sent ≠ 0 then (s.modRider id (fun q => { q with host := false })).post .riderDelivery [id]
    else s
/-- HOST_COMPLETION (R336). -/
def execHostCompletion (s : State) : Host.Outcome State Fault Refusal := .next (s.hostComplete (s.arg 0) (s.arg 1) (s.arg 2) (s.arg 3))

/-- COMPLETION_TIMEOUT (R407). -/
def execCompletionTimeout (s : State) : Host.Outcome State Fault Refusal := .next (s.hostFail (s.arg 0) (s.arg 1))

/-! ## The clock of the stacks -/

/-- SWEEP_TICK (R71): one tick of a stack. Records of corrections in a microsecond that has ended are appended first (R387). -/
def execSweepTick (s : State) : Host.Outcome State Fault Refusal := .next (s.eccFlushAll.tickStack (s.arg 0))

end Sys2Proof.Machine
end

