-- ==== Sys2Proof/Machine/Issue.lean ====
section
/-! DEFINITION. The issue step of a cox core, but for the effects of its syllables: fetching and checking a bundle, retiring it
(R7, R145, R169 to R171, R199, R202, R209, R371). -/

namespace Sys2Proof.Machine

/-- Syllable `n` of the bundle (R161). -/
def State.syllable (s : State) (n : Nat) : Nat := s.bundle.toNat / 2 ^ (32 * n) % 2 ^ 32

/-- What the syllable in slot `n` decodes to and the first check that it fails (R371 to R373). -/
def State.slotCheck (s : State) (n : Nat) : Instr × Option Bad :=
  match decodeSlot n (s.syllable n) with
  | .ok .nop => (.nop, none)
  | .ok i => (i, s.checkIns i (s.syllable n) none)
  | .bad b (some i) => (.nop, s.checkIns i (s.syllable n) (some b))
  | .bad b none => (.nop, some ⟨1, s.syllable n, b, 0⟩)

/-- The first slot with a failing check (R371). -/
def State.firstBad (s : State) : Option (Nat × Bad) :=
  ([0, 1, 2, 3] : List Nat).findSome? (fun n => (s.slotCheck n).2.map (n, ·))

/-- The four instructions of the bundle, NOP where a slot does not decode. -/
def State.instrs (s : State) : List Instr := ([0, 1, 2, 3] : List Nat).map (fun n => (s.slotCheck n).1)

/-- One step of the core ends without a bundle: steps count while issue is held (R170). -/
def State.endStep (s : State) : State :=
  { s.modMe (fun c => { c with step := c.step + 1, idle := c.idle - 1, stores := [], next := .fall }) with
    checked := false, bundle := 0 }

/-- The bundle after this one when no branch is owed, with the loop count (R202). -/
def Core.seqNext (c : Core) : Core :=
  if c.lc ≠ 0 ∧ c.pc = c.lend then
    { c with lc := c.lc - 1, pc := if c.lc = 1 then c.lend + 16 else c.lstart }
  else { c with pc := c.pc + 16 }

/-- The bundle after this one, counting delay bundles (R171, R202). -/
def Core.advance (c : Core) : Core :=
  if c.delayLeft = 0 then c.seqNext
  else if c.delayLeft = 1 then { c.seqNext with pc := c.target, delayLeft := 0, target := 0 }
  else { c.seqNext with delayLeft := c.delayLeft - 1 }

/-- A taken branch or jump: two delay bundles, and the loop that holds it is over (R171, R202). -/
def Core.branchTo (c : Core) (t : DWord) : Core :=
  let inLoop := decide (c.lc ≠ 0 ∧ c.lstart.toNat ≤ c.pc.toNat ∧ c.pc.toNat ≤ c.lend.toNat)
  { c with lc := if inLoop then 0 else c.lc, pc := c.pc + 16, delayLeft := 2, target := t }

/-- The stores of the bundle, in slot order (R145), each in the issue step. -/
def State.doStores (s : State) : State := { s with mem := s.memStored }

/-- A bundle has issued: its stores are performed, its results of latency 0 land (R170), and the next bundle is fixed. -/
def State.retire (s : State) : State :=
  let s := s.doStores
  let s := s.modMe (fun c => { c.land with hold := Held.none })
  match s.me.next with
  | .fall => (s.modMe Core.advance).endStep
  | .taken t => (s.modMe (fun c => c.branchTo t)).endStep
  | .loopSkip t => (s.modMe (fun c => { c with pc := t })).endStep
  | .rett => (s.modMe Core.returnTrap).endStep
  | .trap n => ((s.modMe Core.advance).takeTrap s.cur (0x80 + n) 0 (BitVec.ofNat 64 n) none).endStep
  | .exit =>
    let l := s.me.trapq
    let s := (s.modMe (fun c => { c.advance with run := .exited, trapq := [] })).endStep
    let s := match s.me.team with
      | some t => s.post .completionStamp [t]
      | none => s
    l.foldl (fun (s : State) t => s.escalate s.me.team t.rcd) s

/-- The core waits for an access whose landing step has come (R199). -/
def Core.stalled (c : Core) : Bool := c.pend.any (fun w => decide (w.due ≤ c.step) && w.wait.isSome)

/-- What a core does in a step in which it issues nothing of its own: landing (R169), waiting for a handler's start (R209), the delivery of a
pending fault, also during a hold (R356, R419). Nothing when a bundle may be tried. -/
def State.beforeIssue (s : State) : State × Bool :=
  let s := s.modMe Core.land
  match s.me.run with
  | .running =>
    match s.me.trapq with
    | t :: r =>
      let s := s.modMe (fun c => { c with trapq := r })
      ((s.takeTrap s.cur t.code t.slot (BitVec.ofNat 64 (recBits t.rcd 63 0)) (some t.rcd)).endStep, false)
    | [] => if s.me.idle ≠ 0 ∨ s.me.stalled then (s.endStep, false) else (s, true)
  | .trapWait => ((s.handlerStart s.cur).endStep, false)
  | .exited => (s.endStep, false)
  | _ => (s, false)

/-- A bundle that has been fetched: what stops it in this step (R371, R170, R192). -/
def State.stopBundle (s : State) : Option State :=
  match s.firstBad with
  | some (n, b) => some (s.precise b n).endStep
  | none =>
    let is := s.instrs
    match is.findSome? s.trapEsc with
    | some t => some t.endStep
    | none =>
      if 32 < s.me.inFlight + (is.map addsWrites).sum then some s.endStep
      else match (s.holdStep (is.getD 2 .nop)).or (s.holdStep (is.getD 0 .nop)) with
        | some t => some t.endStep
        | none => none

end Sys2Proof.Machine
end

