-- ==== Sys2Proof/Machine/Refold.lean ====
section
/-! DEFINITION. Fold variants (R44, R64, R65, R366, R367): a victim's loads drain to their next fold points and go on as their variants. -/

namespace Sys2Proof.Machine

open Sys2Proof

/-- The next fold point of island `i` (R44): the least multiple of Nf of which no slot has executed; T where none is left. -/
def nextFold (m : Memory) (i : Nat) (il : Isl) : Nat :=
  if il.ended then islT m i
  else if ¬ il.started then il.from?
  else
    let done := (il.s + islII m i - 1) / islII m i
    Nat.min (islT m i) ((done + islNf m i - 1) / islNf m i * islNf m i)

/-- An image at `va` through the configuration cache (R65). -/
def State.readImage (s : State) (asid func va n : Nat) : Option (Memory × State) :=
  (s.cachedN asid func va ((n + 15) / 16)).map (fun x => (Memory.writeN [] 0 n x.1, x.2))

/-- The record of a variant that cannot be used (R65): an event of the victim's function. -/
def State.variantEvent (s : State) (r : Region) (l : Load) (j : Rej) : State :=
  let op (v : Nat) : Nat := if j.reason ≠ 0 ∨ j.fetch = true then 0 else v
  s.queueRec { time := s.dieNs r.die, code := if j.fetch then 0x0A else 0x0B, sk := 5, evt := true, fli := l.fl % 256, func := l.func, loc := j.loc,
               core := l.core, op0 := j.op0, op1 := op (j.kind * 256 + j.idx % 256), op2 := op j.off, op3 := j.reason : RecF }.pack

/-- The variant of load `l` of region `n` at `va`, fetched and checked; or why it cannot be used. -/
def State.variantLoad (s : State) (n : Nat) (r : Region) (l : Load) (cores : List Nat) (va : Nat) (quarter : Bool) : Sum Rej (Load × State) :=
  match s.readImage l.asid l.func va 128 with
  | none => .inl { fetch := true }
  | some (h, s) => match headerBad h with
    | some j => .inl j
    | none => match s.readImage l.asid l.func va (hd h 511 480) with
      | none => .inl { fetch := true }
      | some (m, s) =>
        let v := { l with id := s.nextId, img := m, isl := List.replicate (imgIsl m) Isl.idle, flags := 0, carry := [] }
        if (listsPast m).isSome then .inl ((listsPast m).getD {})
        else if imgSum m ≠ hd m 191 128 then .inl { fetch := true }
        else if variantBad l.img m quarter then .inl { reason := 9, op0 := va }
        else match s.imageBad n r v cores with
          | some j => .inl j
          | none => .inr (v, { s with nextId := s.nextId + 1 })

/-- A region whose active load runs: in Run, or with a further load on its way in (R39). -/
def Region.runs (r : Region) : Bool := decide (r.phase = .run ∨ r.phase = .fetch ∨ r.phase = .armed)
/-- A swap in progress is completed: a pre-emption that arrives in it acts on the new load (R368). -/
def State.finishSwap (s : State) (n : Nat) : State := (s.swapPlanes n).fillRegion n
/-- A victim's load begins to drain to its next fold point, unless it has no variant (R64, R65). -/
def State.drainToFold (s0 : State) (n : Nat) (cores : List Nat) (quarter : Bool) : State :=
  let s := s0.finishSwap n
  match s.active n with
  | none => s
  | some (r, l) =>
    if r.runs = false ∨ l.discarded = true ∨ l.reported = true ∨ r.refold.isSome = true then s
    else
      let half := hd l.img 255 192
      let qtr := hd l.img 319 256
      let x : Nat × Bool := if quarter then (if qtr ≠ 0 then (qtr, true) else (half, false)) else if half ≠ 0 then (half, false) else (qtr, true)
      if x.1 = 0 then s
      else match s.variantLoad n r l cores x.1 x.2 with
        | .inl j => s.variantEvent r l j
        | .inr (v, s) =>
          (s.modRegion n (fun r => { r with refold := some v })).modActive n (fun l => { l with
            isl := ((List.range l.isl.length).zip l.isl).map (fun (x : Nat × Isl) =>
              { x.2 with fold := some (nextFold l.img x.1 x.2), atFold := x.2.ended || !x.2.started }) })

/-- Every island has reached its fold point (R44, R366): the variant takes the region, with the carry values and the start tokens kept with
them (R65). -/
def State.refoldNow (s : State) (n : Nat) : State :=
  match s.active n with
  | none => s
  | some (r, l) => match r.refold with
    | none => s
    | some v =>
      if r.runs = false ∨ l.rcd.isSome = true ∨ ¬ (l.isl.all Isl.atFold = true) then s
      else
        let carry := (List.range l.isl.length).flatMap (fun i =>
          ((islCarry v.img i).zip (islCarry l.img i)).map (fun (e : Nat × Nat) => (e.1, s.getCarry r e.2)))
        let isl := ((List.range v.isl.length).zip v.isl).map (fun (x : Nat × Isl) =>
          let o := l.isl.getD x.1 Isl.idle
          { Isl.idle with from? := o.fold.getD 0, startPend := o.startPend || o.started })
        let v := { v with isl := isl, carry := carry, flags := l.flags }
        if r.phase = .run then (s.modRegion n (fun r => { r with refold := none, shadow := some v, phase := .token })).swapPlanes n
        else ((((s.modRegion n (fun r => { r with refold := none })).takePlanes n v).modRegion n (fun r => { r with prev := none })).newClock n).fillPlanes n

/-- No load of team `t` is still draining to a fold point. -/
def State.foldsDone (s : State) (t : Nat) : Bool := s.regions.all (fun r => decide (r.team ≠ t) || r.refold.isNone)

/-- FOLD_POINT_REACHED (R44): an island has drained to its fold point; with the last of them the load is refolded. -/
def execFoldPointReached (s : State) : Host.Outcome State Fault Refusal := .next ((s.foldReached (s.arg 0) (s.arg 1)).refoldNow (s.arg 0))

end Sys2Proof.Machine
end

