-- ==== Sys2Proof/Machine/XExec.lean ====
section
/-! DEFINITION. The M-slot instructions that drive an X tile, and the events of its queue (R235 to R250, R369, R370). -/

namespace Sys2Proof.Machine

open Sys2Proof

/-- Queue an entry at the X tile that xa names, with the record of `n` bytes read at issue at the address in xb (R236). -/
def State.pushEntry (s : State) (kind : XKind) (a b imm n : Nat) : State :=
  let u := tileNo s.cur (s.xval a % 32)
  let e : XEnt :=
    { kind := kind, imm := imm, xa := s.xval a % 65536, rcd := BitVec.ofNat 256 (if n = 0 then 0 else s.recAt (s.xval b) n),
      xb := s.xval b, core := s.cur, team := s.me.team, acc := s.me.step + 2, accepted := false, begun := false }
  s.modTile u (fun t => { t with queue := t.queue ++ [e], user := some (s.cur, s.me.team) })

/-- The status word of X tile `u` (R245). QN counts every entry issued, also one that the tile has not accepted (DESIGN CHOICE, log entry 115). -/
def State.tileStatus (s : State) (u : Nat) : Nat :=
  let t := s.tileNow u
  let copies (a : Nat) : Bool := t.drains.any (fun d => d.copying && (decide (4 ≤ d.ent.f 21 19) || decide (d.ent.imm % 2 = a)))
  t.kprog % 65536 * 2 ^ 48 + t.queue.length * 2 ^ 40 + t.f * 2 ^ 36 + t.pp * 2 ^ 34 + b2n (copies 1) * 2 ^ 33 + b2n (copies 0) * 2 ^ 32

/-- MXSTEP: a row of K steps (R237). -/
def execMxstep (a b : Nat) (s : State) : Host.Outcome State Fault Refusal :=
  coxIssue (.mxstep a b) (fun s => s.pushEntry .step a b 0 16) s

/-- MXDRAIN: a drain of accumulator `c` (R246). -/
def execMxdrain (a b c : Nat) (s : State) : Host.Outcome State Fault Refusal :=
  coxIssue (.mxdrain a b c) (fun s => s.pushEntry .drain a b c 32) s

/-- MXZERO: clears accumulator `c` (R244). -/
def execMxzero (a c : Nat) (s : State) : Host.Outcome State Fault Refusal :=
  coxIssue (.mxzero a c) (fun s => s.pushEntry .zero a 0 c 0) s

/-- MXSAVE: a queue entry, or with STOP the stop, and the save once the K step in progress has landed (R248). -/
def execMxsave (a b u t : Nat) (s : State) : Host.Outcome State Fault Refusal :=
  coxIssue (.mxsave a b u t) (fun s =>
    if t = 1 then s.tileStop (tileNo s.cur (s.xval a % 32)) s.cur s.me.team (s.xval b) (decide (u = 1))
    else s.pushEntry .save a b (2 * u) 0) s

/-- MXREST: restores a save area (R249). -/
def execMxrest (a b u : Nat) (s : State) : Host.Outcome State Fault Refusal :=
  coxIssue (.mxrest a b u) (fun s => s.pushEntry .rest a b (2 * u) 0) s

/-- MXPAIR: one half of a paired row with tag `g` (R250). -/
def execMxpair (a b g : Nat) (s : State) : Host.Outcome State Fault Refusal :=
  coxIssue (.mxpair a b g) (fun s => s.pushEntry .pair a b g 16) s

/-- MXSTAT: the tile's status at issue, at +4 (R245). -/
def execMxstat (a d : Nat) (s : State) : Host.Outcome State Fault Refusal :=
  coxIssue (.mxstat a d) (fun s => s.putX 4 d (BitVec.ofNat 64 (s.tileStatus (tileNo s.cur (s.xval a % 32))))) s

/-- XQ_ENTRY_ACCEPT: the oldest entry that its tile has not accepted is accepted (R236). -/
def execXqEntryAccept (s : State) : Host.Outcome State Fault Refusal := .next (s.acceptEntry (s.arg 0))

/-- XQ_ENTRY_BEGIN: the entry at the head of the queue begins (R236). -/
def execXqEntryBegin (s : State) : Host.Outcome State Fault Refusal := .next (s.entryBegin (s.arg 0))

/-- K_STEP: the running row makes a K step once its operands are present (R241, R243). -/
def execKStep (s : State) : Host.Outcome State Fault Refusal := .next (s.kStep (s.arg 0))

/-- K_STEP_LANDING: the sums of the oldest K step land (R241). -/
def execKStepLanding (s : State) : Host.Outcome State Fault Refusal := .next (s.kLand (s.arg 0))

/-- PAIR_COMBINE: the lower tile combines both results (R250). -/
def execPairCombine (s : State) : Host.Outcome State Fault Refusal := .next (s.pairCombine (s.arg 0))

/-- PAIR_FAULT: the partner of a faulted half stops (R369). -/
def execPairFault (s : State) : Host.Outcome State Fault Refusal := .next (s.pairFault (s.arg 0))

/-- PAIR_LATE: a pair timer reaches PTO (R370). -/
def execPairLate (s : State) : Host.Outcome State Fault Refusal := .next (s.pairLate (s.arg 0))

/-- DRAIN_COPY_END: the copy of a drain ends and its entry is free (R247). -/
def execDrainCopyEnd (s : State) : Host.Outcome State Fault Refusal := .next (s.drainCopyEnd (s.arg 0))

/-- DRAIN_WRITE: the oldest drain not yet written writes its elements (R247). -/
def execDrainWrite (s : State) : Host.Outcome State Fault Refusal := .next (s.drainWrite (s.arg 0))

end Sys2Proof.Machine
end

