-- ==== Sys2Proof/Machine/Transform.lean ====
section
/-! DEFINITION. Transform nodes (R235, R252 to R255, R299, R310, R353, R399, R400): the instructions that command them, and a command's
beginning and end. -/

namespace Sys2Proof.Machine

open Sys2Proof

/-! ## The record -/

/-- A field of a transform record (R255). -/
def Xform.f (x : Xform) (hi lo : Nat) : Nat := bits x.rcd.toNat hi lo
/-- Block size b. -/
def Xform.b (x : Xform) : Nat := 2 ^ x.f 143 140
/-- Input format. -/
def Xform.ifmt (x : Xform) : Nat := x.f 139 135
/-- Output format. -/
def Xform.ofmt (x : Xform) : Nat := x.f 134 130

/-! ## Input (R255, R399, R400) -/

/-- A block read: its values, the place after it, the tags expected there, domain, plane and shift; or what is wrong. -/
structure XBlock where
  vals : List (Val × Val)
  next : Nat
  tags : Tab Nat
  dom : Nat
  plane : Nat
  xsh : Nat

/-- The value of an element of the input (R135). -/
def xElem (fmt c : Nat) : Val × Val :=
  if fmt = 18 ∨ fmt = 19 then (cpart fmt c 0, cpart fmt c 1)
  else match Fmt.ofCode fmt with
    | some f => (f.decode c, .zero false)
    | none => (.nan, .nan)

/-- The domain that a command wants for its format (R400): TIME for XFWD; FREQP for a real output of XINV, else FREQ. -/
def Xform.wants (x : Xform) : Nat := if ¬ x.inv then 0 else if x.ofmt = 18 ∨ x.ofmt = 19 then 1 else 2

/-- A packet's tag follows (R113): that of the command's last packet, or that of the last packet of its plane, for the blocks of the planes of one
value may be numbered alike; the first packet of a plane in a command is free (DEDUCED, log entry 58). `tags` holds one more than the tags expected:
by plane, and at key 4 of the command as a whole. -/
def tagFollows (tags : Tab Nat) (plane tag : Nat) : Bool :=
  decide (Tab.get 0 tags plane = 0 ∨ tag + 1 = Tab.get 0 tags plane ∨ tag + 1 = Tab.get 0 tags 4)

/-- Read the packets of one block from node offset `o`: `first` is the block's first header, whose PLANE and XSH are the block's (DESIGN CHOICE, log
entry 124: R255 does not say what packets that differ in them mean). `bs` are the node's bytes, `lost` tells which of them are uncorrectable
(R390). A fault comes with the place up to which the block was read. -/
def Xform.readBlock (x : Xform) (k : Nat) (bs : List Byte) (lost : Nat → Nat → Bool) :
    Nat → Nat → Option Nat → Tab Nat → List (Val × Val) → Sum (UFault × Nat) XBlock
  | 0, o, _, _, vs => .inr ⟨vs, o, [], 0, 0, 0⟩
  | fuel + 1, o, first, tags, vs =>
    if 8192 < o + 16 then .inl ((5, x.f 255 224, 0, 0), o)
    else if lost o 16 then .inl ((0x14, x.f 255 224 / 8192 * 8192 + o, 0, 0), o)
    else
      let h := ofBytes ((bs.drop o).take 8)
      let n := bits h 38 33
      match headerFault 24 k h with
      | some f => .inl (f, o + 16)
      | none =>
        if bits h 4 0 ≠ x.ifmt then .inl ((9, h, x.ifmt, 24), o + 16)
        else if bits h 6 5 ≠ x.wants then .inl ((8, h, x.wants, 24), o + 16)
        else
          let nb := 16 * payBeats x.ifmt n
          let need := if bits h 6 5 = 2 then x.b / 2 else x.b
          let head := first.getD h
          let plane := bits h 40 39
          let after := (bits h 28 17 + 1) % 4096 + 1
          let next := Tab.set 0 (Tab.set 0 tags plane after) 4 after
          if !tagFollows tags plane (bits h 28 17) then .inl ((7, h, Tab.get 0 tags plane - 1, 24), o + 16)
          else if 8192 < o + 16 + nb then .inl ((5, x.f 255 224, 0, 0), o + 16)
          else if lost (o + 16) nb then .inl ((0x14, x.f 255 224 / 8192 * 8192 + o + 16, 0, 0), o + 16 + nb)
          else
            let w := fmtWidth x.ifmt
            let es := (unpackCodes w (ofBytes ((bs.drop (o + 16)).take nb)) n).map (xElem x.ifmt)
            let vs := vs ++ es
            if need < vs.length then .inl ((9, head, x.b, 24), o + 16 + nb)
            else if vs.length = need then .inr ⟨vs, o + 16 + nb, next, bits h 6 5, bits head 40 39, bits head 32 29⟩
            else x.readBlock k bs lost fuel (o + 16 + nb) (some head) next vs

/-! ## The transforms (R254) -/

/-- One output part: the exact sum of its terms times a power of two, rounded once to the part's format. -/
def xPart (fmt : Nat) (e : Int) (ts : List FVal) : LaneRes :=
  let x := FVal.total 0 ts
  let y := x.bind (fun v => Val.mul v (.fin false 1 1 e))
  match Fmt.ofCode (if fmt = 18 then 1 else if fmt = 19 then 2 else fmt) with
  | some f => let r := f.encode 0 y.1; (r.1, y.2 ||| r.2)
  | none => (0, 0)

/-- A complex element from its two parts. -/
def xPair (re im : LaneRes) : LaneRes := (re.1 + 65536 * im.1, re.2 ||| im.2)

/-- The elements that a block transforms into, and their domain (R254); `s` is the shift. -/
def Xform.transform (x : Xform) (blk : XBlock) : List LaneRes × Nat :=
  let b := x.b
  let c (t : Nat) : Val := f32 (twCos (t % b) b)
  let sn (t : Nat) : Val := f32 (twSin (t % b) b)
  let v (i : Nat) : Val × Val := blk.vals.getD i (.zero false, .zero false)
  let neg (p : FVal) : FVal := p.neg
  let two (p : FVal) : FVal := p.bind (fun q => Val.mul q (.fin false 1 1 1))
  let of := x.ofmt
  if ¬ x.inv then
    let e : Int := -(x.s : Int)
    if x.ifmt = 18 ∨ x.ifmt = 19 then
      ((List.range b).map (fun m =>
        xPair (xPart of e ((List.range b).flatMap (fun n => [Val.mul (v n).1 (c (m * n)), Val.mul (v n).2 (sn (m * n))])))
          (xPart of e ((List.range b).flatMap (fun n => [Val.mul (v n).2 (c (m * n)), neg (Val.mul (v n).1 (sn (m * n)))])))), 1)
    else
      ((List.range (b / 2)).map (fun m =>
        xPair (xPart of e ((List.range b).map (fun n => Val.mul (v n).1 (c (m * n)))))
          (xPart of e (if m = 0 then (List.range b).map (fun n => Val.mul (v n).1 (c (b / 2 * n)))
            else (List.range b).map (fun n => neg (Val.mul (v n).1 (sn (m * n))))))), 2)
  else
    let e : Int := (blk.xsh : Int) - (x.f 143 140 : Int)
    if blk.dom = 1 then
      ((List.range b).map (fun n =>
        xPair (xPart of e ((List.range b).flatMap (fun m => [Val.mul (v m).1 (c (m * n)), neg (Val.mul (v m).2 (sn (m * n)))])))
          (xPart of e ((List.range b).flatMap (fun m => [Val.mul (v m).1 (sn (m * n)), Val.mul (v m).2 (c (m * n))])))), 0)
    else
      ((List.range b).map (fun n =>
        xPart of e ([((v 0).1, 0), (if n % 2 = 0 then (v 0).2 else (v 0).2.neg, 0)]
          ++ (List.range (b / 2 - 1)).flatMap (fun i =>
            [two (Val.mul (v (i + 1)).1 (c ((i + 1) * n))), neg (two (Val.mul (v (i + 1)).2 (sn ((i + 1) * n))))]))), 0)

/-- The blocks of a command from offset `o`, each transformed: output beats so far, flags, what stops it, and the place up to which the input was
read. `want` holds the input tags expected, `tag` is the output's next. -/
def Xform.blocks (x : Xform) (k : Nat) (bs : List Byte) (lost : Nat → Nat → Bool) :
    Nat → Nat → Tab Nat → Nat → List Nat → FlagSet → List Nat × FlagSet × Option UFault × Nat
  | 0, o, _, _, out, fl => (out, fl, none, o)
  | n + 1, o, want, tag, out, fl =>
    match x.readBlock k bs lost 1025 o none want [] with
    | .inl f => (out, fl, some f.1, f.2)
    | .inr blk =>
      let t := x.transform blk
      let p := packRun x.ofmt t.2 (if x.inv then 0 else x.s) blk.plane tag (t.1.map Prod.fst)
      if 8192 < bits (x.f 223 192) 12 0 + 16 * (out.length + p.1.length) then (out, fl, some (5, x.f 223 192, 0, 0), blk.next)
      else x.blocks k bs lost n blk.next blk.tags p.2 (out ++ p.1) (fl ||| orAll (t.1.map Prod.snd))

/-! ## Commands -/

/-- A local address of a command names a node that its unit may use (R151, R377). -/
def State.xformNode (s : State) (x : Xform) (la : Nat) : Bool :=
  localOk la && bit la 31 && decide (la % 16 = 0) && decide (keyKind (keyOf la) = .M)
    && (match x.load with
      | some n => decide ((s.node (keyOf la)).owner = some n)
      | none => s.nodeReach x.core (keyOf la))

/-- The command at the head of unit `u` = 24 × core + node. -/
def State.xformHead (s : State) (u : Nat) : Option Xform := (Tab.get [] s.xforms u).head?
/-- Replace the commands of a unit. -/
def State.setXforms (s : State) (u : Nat) (l : List Xform) : State := { s with xforms := Tab.set [] s.xforms u l }

/-- The element of transform node `u` = 24 × core + node. -/
def xformEl (u : Nat) : Nat :=
  let p := xformPos (u / 24) (u % 24)
  elKey (u / 24 / 8) (4 * p.1 + (12 + u % 4) % 4) (4 * p.2 + (12 + u % 4) / 4)
/-- A command of a load holds with its island (R359), and behind an edge declared into its node within the island (R147). -/
def State.xformHolds (s : State) (u : Nat) (x : Xform) : Bool :=
  match x.load with
  | none => false
  | some n => match s.active n with
    | some (r, l) => l.discarded || (l.isl.getD ((r.isl l (xformEl u)).getD 0) Isl.idle).frozen || (!x.begun && s.edgeBehind r l (xformEl u) false)
    | none => true

/-- TRANSFORM_BEGIN (R255): every input packet is read as a snapshot; correctable words of it are corrected (R390). -/
def State.transformBegin (s : State) (u : Nat) : State :=
  match s.xformHead u with
  | none => s
  | some x =>
    if x.begun ∨ s.xformHolds u x = true ∨ s.paused (coreIsl (u / 24)) = true then s
    else
      let src := x.f 255 224
      let k := match x.load.bind s.active with
        | some (_, l) => l.k
        | none => 3
      let a := nodeBase (keyOf src)
      let o := bits src 12 0
      let r : List Nat × FlagSet × Option UFault × Nat :=
        if ¬ s.xformNode x src then ([], 0, some (5, src, 0, 0), o)
        else if ¬ s.xformNode x (x.f 223 192) then ([], 0, some (5, x.f 223 192, 0, 0), o)
        else x.blocks k (s.mem.bytes a 8192) (fun o n => s.wordsBad (a + o) n) (x.f 151 144 + 1) o [] 0 [] 0
      (s.wordsFixed (a + o) (r.2.2.2 - o)).setXforms u ({ x with begun := true, out := r.1, fl := r.2.1, bad := r.2.2.1, due := s.cycle (coreIsl (u / 24)) + (x.f 151 144 + 1) * (x.b * x.f 143 140 / 8 + 16) } :: (Tab.get [] s.xforms u).drop 1)

/-- A fault that is of unit class in a transform node whoever commands it (R400): DOMAIN, FORMAT, SCALE_NAN. -/
def UFault.ofUnit (f : UFault) : Bool := f.1 == 8 || f.1 == 9 || f.1 == 0x1A
/-- The fault of a command (R356, R399, R400): of its unit, reported to the core that commands it or that issued the load's FCFG; or of the load. -/
def State.xformFault (s : State) (u : Nat) (x : Xform) (f : UFault) : State :=
  let c := u / 24
  let q : RecF := { time := s.dieNs (c / 8), code := f.1, sk := 2, func := (s.teamIds x.team).1, loc := c * 256 + u % 24, core := x.core,
                    op0 := f.2.1, op1 := f.2.2.1, op2 := f.2.2.2 }
  match x.load with
  | none => s.trapTo x.team x.core q.pack
  | some n => match s.active n with
    | some (r, l) => if f.ofUnit then s.trapTo x.team x.core q.pack else s.freezeFault n ((r.isl l (xformEl u)).getD 0) (xformEl u) f.1 f.2.1 f.2.2.1 f.2.2.2
    | none => s

/-- TRANSFORM_END (R255): the outputs, the flags, and the stamp after them; a fault instead of the stamp. -/
def State.transformEnd (s : State) (u : Nat) : State :=
  match s.xformHead u with
  | none => s
  | some x =>
    if ¬ x.begun ∨ s.cycle (coreIsl (u / 24)) < x.due ∨ s.paused (coreIsl (u / 24)) = true ∨ s.xformHolds u x = true then s
    else
      let dst := x.f 223 192
      let a := nodeBase (keyOf dst) + bits dst 12 0
      let s := { s with mem := ((List.range x.out.length).zip x.out).foldl (fun (m : Memory) (p : Nat × Nat) => m.writeN (a + 16 * p.1) 16 p.2) s.mem }
      let s := s.setXforms u ((Tab.get [] s.xforms u).drop 1)
      match x.bad with
      | some f => s.xformFault u x f
      | none =>
        let s := match x.load with
          | some n => s.loadFlags n x.fl
          | none => s.teamFlags x.team x.core x.fl
        s.deliver x.team x.core (x.f 191 160) 8 (stampWord 0x01 (x.f 159 152) (s.dieNs (x.core / 8)))

/-- TRANSFORM_BEGIN (R255). -/
def execTransformBegin (s : State) : Host.Outcome State Fault Refusal := .next (s.transformBegin (s.arg 0))
/-- TRANSFORM_END (R255). -/
def execTransformEnd (s : State) : Host.Outcome State Fault Refusal := .next (s.transformEnd (s.arg 0))

/-- Command transform node xa[4:0] with the record that xb names, read at issue (R255). -/
def State.pushXform (s : State) (a b : Nat) (inv : Bool) (sh : Nat) : State :=
  let u := 24 * s.cur + s.xval a % 32
  let x : Xform := { rcd := BitVec.ofNat 256 (s.recAt (s.xval b) 32), inv := inv, s := sh, core := s.cur, team := s.me.team, load := none,
                     begun := false, out := [], fl := 0, bad := none, due := 0 }
  s.setXforms u (Tab.get [] s.xforms u ++ [x])

/-- XFWD (R255). -/
def execXfwd (a b q : Nat) (s : State) : Host.Outcome State Fault Refusal :=
  coxIssue (.xfwd a b q) (fun s => s.pushXform a b false q) s
/-- XINV (R255). -/
def execXinv (a b : Nat) (s : State) : Host.Outcome State Fault Refusal :=
  coxIssue (.xinv a b) (fun s => s.pushXform a b true 0) s

end Sys2Proof.Machine
end

