-- ==== Sys2Proof/Machine/Hub.lean ====
section
/-! DEFINITION. The hub's dispatcher: launch windows, dispatch rounds, entry, pre-emption, rendezvous, completion and the end of a team
(R45 to R67, R119, R203, R209, R214, R363, R364, R385, R394, R395, R408). -/

namespace Sys2Proof.Machine

open Sys2Proof

/-! ## Launch windows (R49 to R53, R59) -/

/-- A field of a launch record (R53). -/
def Launch.f (l : Launch) (hi lo : Nat) : Nat := bits l.rcd.toNat hi lo
/-- TEAM of a record. -/
def Launch.need (l : Launch) : Nat := l.f 485 480
/-- The configuration word in force of queue `q` (R49, R50). -/
def State.queue (s : State) (q : Nat) : Nat := (Tab.get 0 s.qcfg q).toNat
/-- The function that owns a held record's queue, as the configuration word in force has it (R49, R50). -/
def State.launchFunc (s : State) (l : Launch) : Nat := bits (s.queue l.queue) 47 40
/-- Records held in queue `q`. -/
def State.held (s : State) (q : Nat) : Nat := (s.launches.filter (fun l => decide (l.queue = q))).length
/-- A discarded write is counted (R51). -/
def State.dropLaunch (s : State) (q : Nat) : State := { s with drops := Tab.mod 0 s.drops q (fun n => Nat.min 0xFFFFFFFF (n + 1)) }
/-- A completion stamp in a stamp cell, with INTST.STAMP (R54, R335). -/
def State.launchStamp (s : State) (f cell status seq : Nat) : State :=
  ({ s with mem := s.mem.writeN (cellAddr f cell) 8 (stampWord status seq (s.dieNs 4)) }).raiseInt f 0
/-- Set bits of a 32-bit mask. -/
def popMask (m : Nat) : Nat := ((List.range 32).filter (bit m)).length
/-- A record that breaks R53 (R59). -/
def Launch.bad (l : Launch) (mask : Nat) : Bool :=
  decide (l.f 503 490 ≠ 0 ∨ l.f 447 432 ≠ 0 ∨ l.f 383 128 ≠ 0 ∨ l.need = 0 ∨ 32 < l.need ∨ popMask mask < l.need ∨ l.f 487 486 = 3
    ∨ 8191 < l.f 431 416 ∨ 8191 < l.f 415 400 ∨ 8191 < l.f 399 384 ∨ l.f 63 49 ≠ 0 ∨ l.f 5 0 ≠ 0)

/-- LAUNCH (R52, R59): function `f` writes `size` bytes at `off` of the window of queue `q`. -/
def State.launchWrite (s : State) (f q off size data : Nat) : State :=
  let c := s.queue q
  if 256 ≤ q ∨ bits c 47 40 ≠ f then s
  else if off ≠ 0 ∨ size ≠ 64 ∨ bit c 34 = false ∨ 64 ≤ s.held q then s.dropLaunch q
  else
    let l : Launch := ⟨q, s.dieNs 4, BitVec.ofNat 512 data, []⟩
    if 8191 < l.f 399 384 then s.dropLaunch q
    else if l.bad (bits c 31 0) then s.launchStamp f (l.f 399 384) 0x03 (l.f 511 504)
    else { s with launches := s.launches ++ [l] }
/-- LAUNCH (R52), while the windows respond (R341) and a link that is up reaches them (R332, R407). -/
def execLaunch (s : State) : Host.Outcome State Fault Refusal :=
  .next (if s.responds && s.hostReaches (s.arg 0) then s.launchWrite (s.arg 0) (s.arg 1) (s.arg 2) (s.arg 3) (s.arg 4) else s)

/-! ## What a round sees (R55, R56) -/

/-- Every wait stamp is met, by the stamp cells `m` of the queue's function (R53). -/
def State.met (s : State) (m : Memory) (l : Launch) : Bool :=
  (List.range (l.f 487 486)).all (fun i =>
    decide (m.readN (cellAddr (s.launchFunc l) (l.f (415 + 16 * i) (400 + 16 * i)) + 6) 2 = l.f (463 + 16 * i) (448 + 16 * i)))
/-- Effective priority at time `t` (R56). -/
def State.effPrio (s : State) (t : Nat) (l : Launch) : Nat := Nat.min 3 (bits (s.queue l.queue) 33 32 + (t - l.arrival) / 1000000)

/-- Context areas of core `c` that hold a switched-out context (R119). -/
def State.heldAreas (s : State) (c : Nat) : List Nat :=
  s.teams.filterMap (fun tm =>
    if (tm.st = .leaving ∨ tm.st = .out) ∧ c ∈ tm.cores then some (tm.areas.getD (tm.cores.idxOf c) 0) else none)
/-- The lowest-numbered area of core `c`'s pool that holds no switched-out context (R119). -/
def State.freeArea (s : State) (c : Nat) : Option Nat :=
  (List.range (bits (s.reg (0x3008 + 16 * c)) 7 0)).find? (fun j => !(s.heldAreas c).contains j)
/-- No team is bound to core `c`. -/
def State.unbound (s : State) (c : Nat) : Bool := (s.core c).team.isNone
/-- Cores free for dispatch. -/
def State.freeCores (s : State) : List Nat := (List.range 32).filter (fun c => s.unbound c && (s.freeArea c).isSome)

/-- `a` stands before `b` by arrival, then queue, then place (R56, R57). -/
def Launch.before (a b : Nat × Launch) : Bool :=
  decide (a.2.arrival < b.2.arrival ∨ (a.2.arrival = b.2.arrival ∧ (a.2.queue < b.2.queue ∨ (a.2.queue = b.2.queue ∧ a.1 < b.1))))
/-- Insert by `Launch.before`. -/
def insLaunch (a : Nat × Launch) : List (Nat × Launch) → List (Nat × Launch)
  | [] => [a]
  | b :: t => if Launch.before a b then a :: b :: t else b :: insLaunch a t
/-- Held records with their places, oldest first. -/
def State.byAge (s : State) : List (Nat × Launch) := ((List.range s.launches.length).zip s.launches).foldr insLaunch []

/-- Cores that record `i` may count: free, in its mask, neither reserved by an older record nor taken from victims by another, nor from its own
while one of those has a core to switch out (R56, R64). -/
def State.avail (s : State) (res : List (Nat × Nat)) (i : Nat) (l : Launch) : List Nat :=
  s.freeCores.filter (fun c => bit (s.queue l.queue) c && res.all (fun r => decide (r.1 ≠ c ∨ r.2 = i))
    && (!l.claim.contains c || l.claim.all s.unbound)
    && ((List.range s.launches.length).zip s.launches).all (fun x => decide (x.1 = i) || !x.2.claim.contains c))

/-- THE RESERVATIONS of a round, made afresh (R56): core and place of its holder. A record of effective priority 3 that has its cores
is to be dispatched on them in this round, so a younger one that is reserving holds none of those either: only older reserving records
go before it (R58). -/
def State.reservations (s : State) (m : Memory) (t : Nat) : List (Nat × Nat) :=
  s.byAge.foldl (fun (res : List (Nat × Nat)) x =>
    if s.met m x.2 ∧ s.effPrio t x.2 = 3 then res ++ ((s.avail res x.1 x.2).take x.2.need).map (fun c => (c, x.1))
    else res) []

/-- A record that stops reserving gives up the cores of its victims (R56). -/
def State.dropClaims (s : State) (m : Memory) (t : Nat) : State :=
  { s with launches := s.launches.map (fun l =>
      { l with claim := if s.met m l ∧ s.effPrio t l = 3 then l.claim.filter (bit (s.queue l.queue)) else [] }) }

/-- The eligible record that R57 takes next, with its effective priority. -/
def State.best (s : State) (m : Memory) (t : Nat) (res : List (Nat × Nat)) : Option (Nat × Nat) :=
  let ok := s.byAge.filter (fun x => s.met m x.2 && decide (x.2.need ≤ (s.avail res x.1 x.2).length))
  ([3, 2, 1, 0] : List Nat).findSome? (fun e => (ok.find? (fun x => decide (s.effPrio t x.2 = e))).map (fun x => (x.1, e)))

/-! ## Dispatch and entry (R59 to R62) -/

/-- A header that passes (R60). -/
def headerOk (h k kaddr : Nat) : Bool :=
  decide (bits h 191 184 = 1 ∧ bits h 511 192 = 0 ∧ bits h 183 177 = 0 ∧ bits h 175 168 ≤ 128 ∧ bits h 167 160 ≤ 64 ∧ bits h 159 128 ≤ 1048576
    ∧ (k = 0 ∨ bit h 176 = true) ∧ bits h 127 64 % 64 = 0 ∧ bits h 63 0 % 16 = 0 ∧ kaddr + bits h 63 0 < 2 ^ 49)

/-- A member at entry (R61, R62, R117, R302): `m` is its index. Every plane of its registers is zero, and its lines are dirty. -/
def Core.entry (l : Launch) (h team m regbase : Nat) : Core :=
  let k := l.f 489 488
  let ax := (bits h 175 168 + 7) / 8 * 8
  let av := (bits h 167 160 + 7) / 8 * 8
  let c := { Core.empty with pc := BitVec.ofNat 64 (l.f 63 0 + bits h 63 0), regbase := BitVec.ofNat 64 regbase, k := k, ax := ax, av := av, lx := ax,
                             lv := av, run := .running, team := some team, member := m }
  let c := (c.zeroX [0, 1, 2, 3] 0 ax).zeroV [0, 1, 2, 3] 0 av
  if ax = 0 then c else
    ((((c.wx 0 1 (BitVec.ofNat 64 (l.f 127 64))).wx 0 2 (BitVec.ofNat 64 m)).wx 0 3 (BitVec.ofNat 64 l.need)).wx 0 4 (BitVec.ofNat 64 (l.f 511 504))).wx
      0 5 (BitVec.ofNat 64 k)

/-- The team of a dispatched record (R45, R50, R53, R408). -/
def Team.make (s : State) (l : Launch) (cores : List Nat) (h e t : Nat) : Team :=
  { cores := cores, func := s.launchFunc l, asid := bits (s.queue l.queue) 59 48, queue := l.queue, csidx := l.f 399 384, seq := l.f 511 504, k := l.f 489 488,
    flist := bits h 127 64, csb := bits h 159 128, prio := e, round := t, ran := 0, since := s.ns,
    limit := (Tab.get 0 s.wdog (s.launchFunc l)).toNat % 2 ^ 32, st := .running, areas := cores.map (fun c => (s.freeArea c).getD 0),
    saved := cores.map (fun _ => Core.empty), late := [], rv := [], held := [], failed := false, ending := none, overlaps := [] }

/-- Physical address of area `j` of core `c`'s pool (R119). -/
def State.areaPa (s : State) (c j : Nat) : Nat := bits (s.reg (0x3000 + 16 * c)) 39 20 * 2 ^ 20 + j * 0x110000

/-- A record is dispatched on its cores, or refused for its header (R59, R385). -/
def State.dispatch (s : State) (i e t : Nat) (cores : List Nat) : State :=
  match s.launches[i]? with
  | none => s
  | some l =>
    let s := { s with launches := s.launches.eraseIdx i }
    let f := s.launchFunc l
    match s.cachedN (bits (s.queue l.queue) 59 48) f (l.f 63 0) 4 with
    | none => s.launchStamp f (l.f 399 384) 0x02 (l.f 511 504)
    | some (h, s) =>
      if headerOk h (l.f 489 488) (l.f 63 0) then
        let tm := Team.make s l cores h e t
        let n := s.teams.length
        let s0 := s
        let s := { s with teams := s.teams ++ [tm] }
        ((List.range cores.length).zip cores).foldl (fun (s : State) x =>
          s.setCore x.2 (Core.entry l h n x.1 (s0.areaPa x.2 (tm.areas.getD x.1 0)))) s
      else s.launchStamp f (l.f 399 384) 0x02 (l.f 511 504)

/-! ## Resumption (R66) -/

/-- `a` stands before `b` by the round of dispatch, then the lowest core. -/
def Team.before (a b : Nat × Team) : Bool := decide (a.2.round < b.2.round ∨ (a.2.round = b.2.round ∧ a.2.cores.headD 0 < b.2.cores.headD 0))
/-- Insert by a comparison. -/
def insTeam (f : Nat × Team → Nat × Team → Bool) (a : Nat × Team) : List (Nat × Team) → List (Nat × Team)
  | [] => [a]
  | b :: t => if f a b then a :: b :: t else b :: insTeam f a t
/-- Teams with their numbers, in an order. -/
def State.teamsBy (s : State) (f : Nat × Team → Nat × Team → Bool) : List (Nat × Team) :=
  ((List.range s.teams.length).zip s.teams).foldr (insTeam f) []
/-- The pre-empted team that resumes next. -/
def State.resumable (s : State) (res : List (Nat × Nat)) : Option Nat :=
  ((s.teamsBy Team.before).find? (fun x => decide (x.2.st = .out) && x.2.ending.isNone && x.2.cores.all (fun c =>
    s.unbound c && res.all (fun r => decide (r.1 ≠ c)) && s.launches.all (fun l => !l.claim.contains c)))).map Prod.fst

/-! ## Pre-emption (R63, R64, R119, R367) -/

/-- A load of team `t` is frozen, freezing or being discarded. -/
def State.teamFrozen (s : State) (t : Nat) : Bool :=
  s.regions.any (fun r => decide (r.team = t) && r.active.any (fun l => decide (l.team = t) && (l.rcd.isSome || l.discarded)))
/-- Ascending dispatch priority, youngest dispatch first. -/
def Team.victimBefore (a b : Nat × Team) : Bool :=
  decide (a.2.prio < b.2.prio ∨ (a.2.prio = b.2.prio ∧ (b.2.round < a.2.round ∨ (b.2.round = a.2.round ∧ b.1 < a.1))))
/-- Teams that record `l` may displace, in the order in which they are taken. -/
def State.candidates (s : State) (l : Launch) : List (Nat × Team) :=
  (s.teamsBy Team.victimBefore).filter (fun x => decide (x.2.st = .running ∧ x.2.prio ≤ 1) && x.2.ending.isNone
    && x.2.cores.all (fun c => bit (s.queue l.queue) c && (s.freeArea c).isSome) && !s.teamFrozen x.1)
/-- The first candidates that bring `n` cores to `need`; none where all fall short. -/
def victims (need : Nat) : List (Nat × Team) → Nat → Option (List (Nat × Team))
  | [], n => if need ≤ n then some [] else none
  | x :: t, n => if need ≤ n then some [] else (victims need t (n + x.2.cores.length)).map (fun l => x :: l)

/-- A victim begins to leave (R64): its loads drain to their fold points. -/
def State.beginLeave (s : State) (t : Nat) (quarter : Bool) : State :=
  match s.team? t with
  | none => s
  | some tm =>
    let s := s.modTeam t (fun tm => { tm with st := .leaving, saved := tm.cores.map (fun _ => Core.empty) })
    (List.range s.regions.length).foldl (fun (s : State) n =>
      if (s.region n).any (fun r => decide (r.team = t)) then (s.drainToFold n tm.cores quarter).refoldNow n else s) s

/-- PRE-EMPTION for record `i` (R63). -/
def State.preemptFor (s : State) (m : Memory) (t i : Nat) : State :=
  match s.launches[i]? with
  | none => s
  | some l =>
    let res := s.reservations m t
    let av := s.avail res i l
    if bits (s.queue l.queue) 33 32 ≠ 3 ∨ ¬ (s.met m l = true) ∨ l.need ≤ av.length ∨ l.claim.any (fun c => !s.unbound c) = true then s
    else match victims l.need (s.candidates l) av.length with
      | none => s
      | some vs =>
        let taken := vs.flatMap (fun x => x.2.cores)
        let mine := ((List.range 32).filter (fun c => decide (c ∈ av ∨ c ∈ taken))).take l.need
        let s := { s with launches := s.launches.modify i (fun l => { l with claim := l.claim ++ taken }) }
        vs.foldl (fun (s : State) x => s.beginLeave x.1 (x.2.cores.all (fun c => mine.contains c))) s

/-! ## Rounds (R55 to R58, R63, R66) -/

/-- Dispatches and resumptions of one round. -/
def State.roundLoop (m : Memory) (t : Nat) : Nat → State → State
  | 0, s => s
  | fuel + 1, s =>
    let s := s.dropClaims m t
    let res := s.reservations m t
    let run (x : Nat × Nat) : State :=
      match s.launches[x.1]? with
      | some l => s.dispatch x.1 x.2 t ((s.avail res x.1 l).take l.need)
      | none => s
    match s.best m t res with
    | some (i, 3) => State.roundLoop m t fuel (run (i, 3))
    | b => match s.resumable res with
      | some n => State.roundLoop m t fuel (s.resumeTeam n)
      | none => match b with
        | some x => State.roundLoop m t fuel (run x)
        | none => s

/-- DISPATCH_ROUND (R50, R55 to R66): at a value of the hub's time base that is a multiple of 250, on the state as it stands then; at any
other value no round is held. -/
def State.dispatchRound (s : State) : State :=
  let t := s.dieNs 4
  if t % 250 ≠ 0 then s
  else
    let m := s.mem
    let s := { s with qcfg := s.qnew }
    let s := s.roundLoop m t (s.launches.length + s.teams.length + 1)
    s.byAge.foldl (fun (s : State) x => s.preemptFor m t x.1) s
/-- DISPATCH_ROUND (R57). -/
def execDispatchRound (s : State) : Host.Outcome State Fault Refusal := .next s.dispatchRound

/-! ## Rendezvous (R46, R203) -/

/-- Arrivals in the order of timestamp, source, issue (R46). -/
def firstRv : List RvReq → Option RvReq
  | [] => none
  | a :: t => match firstRv t with
    | none => some a
    | some b => if b.time < a.time ∨ (b.time = a.time ∧ b.src < a.src) then some b else some a

/-- A refused operation (R46, R203). -/
def State.refuseRv (s : State) (q : RvReq) (o : Nat) : State :=
  if 32 ≤ q.src then
    s.trapTo (some q.team) q.core { time := s.dieNs 4, code := 0x01, sk := 6, func := ((s.team? q.team).map Team.func).getD 0, core := q.core,
                                    op0 := q.src, op1 := q.point : RecF }.pack
  else if q.holds then s.modContext (some q.team) q.core (fun k => k.answer (fun h => { h with refusal := some o, told := s.ns }))
  else s.trapTo (some q.team) q.core { time := s.dieNs 4, code := 0x01, sk := 0, func := ((s.team? q.team).map Team.func).getD 0, loc := q.loc,
                                       core := q.core, op0 := q.syl, op1 := 5, op2 := o : RecF }.pack

/-- One rendezvous operation is applied (R46, R203). -/
def State.applyRv (s : State) (q : RvReq) : State :=
  match s.team? q.team with
  | none => s
  | some tm =>
    let v := Tab.get Rv.unset tm.rv q.point
    let put (v : Rv) : State := s.modTeam q.team (fun tm => { tm with rv := Tab.set Rv.unset tm.rv q.point v })
    match q.set with
    | some n => if v.exp = 0 then put ⟨n, 0, false⟩ else if v.exp = n then s else s.refuseRv q 0x40
    | none =>
      if v.exp = 0 then s.refuseRv q 0x41
      else
        let s := if v.arr + 1 = v.exp then put ⟨v.exp, 0, !v.ph⟩ else put ⟨v.exp, v.arr + 1, v.ph⟩
        if q.holds then s.modContext (some q.team) q.core (fun k => k.answer (fun h => { h with reply := some v.ph, told := s.ns })) else s

/-- Token `t` is an arrival that comes before `q` (R46). -/
def Tok.before (t : Tok) (q : RvReq) : Bool :=
  (match t.dest with
  | .rv _ _ => true
  | _ => false) && decide (t.time < q.time ∨ (t.time = q.time ∧ t.src < q.src))
/-- RV_ARRIVAL (R46): the next operation is applied, once no earlier timestamp can still come (R6), none is on its way from the fabric, and the link
from its die to the hub takes packets (R410). -/
def State.rvArrive (s : State) : State :=
  match firstRv s.rvq with
  | none => s
  | some q =>
    if q.time + 5 ≤ s.dieNs 4 ∧ s.toks.all (fun t => !t.before q) = true ∧ s.dieHeld (tokenDie q.src) 4 q.time = false then
      ({ s with rvq := s.rvq.erase q }).applyRv q
    else s
/-- RV_ARRIVAL (R46). -/
def execRvArrival (s : State) : Host.Outcome State Fault Refusal := .next s.rvArrive

/-! ## Traps of a core (R169, R203, R204, R209) -/

/-- RESULT_LANDING (R169): what is due at core `c`'s step lands. -/
def execResultLanding (s : State) : Host.Outcome State Fault Refusal := .next (s.modCore (s.arg 0) Core.land)

/-- The first fault that waits for core `c` is delivered at its bundle boundary (R209, R356); not while the core stands still (R24). -/
def State.trapEntry (s : State) (c : Nat) : State :=
  if s.coreStill c then s else
  match (s.core c).run, (s.core c).trapq with
  | .running, t :: r =>
    ((s.modCore c Core.land).modCore c (fun k => { k with trapq := r })).takeTrap c t.code t.slot (BitVec.ofNat 64 (recBits t.rcd 63 0)) (some t.rcd)
  | _, _ => s
/-- TRAP_ENTRY (R209). -/
def execTrapEntry (s : State) : Host.Outcome State Fault Refusal := .next (s.trapEntry (s.arg 0))
/-- HANDLER_START (R209). -/
def execHandlerStart (s : State) : Host.Outcome State Fault Refusal := .next (s.handlerStart (s.arg 0))

/-- The bundle that core `c` would issue faults with code `code`: the precise trap (R356); not while the core stands still (R24). -/
def State.heldFault (s : State) (c code : Nat) : State :=
  let s0 := { s.modCore c Core.land with cur := c }
  if (s.core c).run ≠ .running ∨ s.coreStill c = true then s
  else match s0.cached (s0.asidOf c) (s0.funcOf c) s0.me.pc.toNat with
    | none => s
    | some (b, s1) =>
      let s1 := { s1 with bundle := b }
      match s1.firstBad with
      | some (n, x) => if x.code = code then (s1.precise x n).endStep else s
      | none => s
/-- STAMP_TIMEOUT (R204): the hold of a WAITSTAMP has lasted STIMEO. -/
def execStampTimeout (s : State) : Host.Outcome State Fault Refusal := .next (s.heldFault (s.arg 0) 0x1B)

/-- HUB_REFUSAL (R203): a refusal reaches its core: at the held RVARR, or at the next bundle boundary. -/
def State.hubRefusal (s : State) (c : Nat) : State :=
  if (s.core c).hold.refusal.isSome then s.heldFault c 1
  else match (s.core c).trapq with
    | t :: _ => if t.code = 1 then s.trapEntry c else s
    | [] => s
/-- HUB_REFUSAL (R203). -/
def execHubRefusal (s : State) : Host.Outcome State Fault Refusal := .next (s.hubRefusal (s.arg 0))

/-! ## Completion (R54, R214) -/

/-- Work of team `t` that has not written its stamp: riders, streams, sequence instructions, entries, drains, transform commands. -/
def State.teamBusy (s : State) (t : Nat) : Bool :=
  let mine (o : Option Nat) : Bool := decide (o = some t)
  (s.riders ++ s.waiting).any (fun r => mine r.team)
    || s.streams.any (fun x => mine x.team) || s.seqs.any (fun x => mine x.team)
    || s.xtiles.any (fun x => x.2.queue.any (fun e => mine e.team) || x.2.drains.any (fun d => mine d.ent.team) || x.2.lands.any (fun l => mine l.team))
    || s.xforms.any (fun x => x.2.any (fun c => mine c.team))
    || s.rvq.any (fun q => decide (q.team = t)) || s.oars.any (fun o => (o.unacked ++ o.sendq).any (fun p => mine p.team))
/-- A region of team `t` still holds a load or a command. -/
def State.teamLoads (s : State) (t : Nat) : Bool := s.regions.any (fun r => decide (r.team = t) && !r.idle)

/-- The units that the members drove and that no region owns return to their empty state (R114, R214); pair state of another team stays. -/
def State.emptyUnits (s : State) (t : Nat) : State :=
  (s.xtiles.filter (fun x => match x.2.user with
      | some (_, tm) => decide (tm = some t) && (let p := tilePos x.1; (s.ownerOf (x.1 / 256) p.1 p.2).isNone)
      | none => false)).foldl (fun (s : State) x =>
    { s with xtiles := Tab.set XTile.empty s.xtiles x.1 { XTile.empty with pairs := x.2.pairs.filter (fun p => decide (p.team ≠ some t)) },
             mem := s.mem.clear (accBase x.1 0) 32768 }) s

/-- A function-level reset ends once every team of the function has (R396). -/
def State.flrDone (s : State) (f : Nat) : State :=
  if f ∈ s.flr ∧ s.teams.all (fun t => decide (t.func ≠ f ∨ t.st = .ended)) then
    { s with flr := s.flr.filter (fun g => decide (g ≠ f)), mem := s.mem.clear (cellAddr f 0) 65536, intst := Tab.set 0 s.intst f 0,
             inten := Tab.set 0 s.inten f 0, fq := Tab.set [] s.fq f [], lost := Tab.set 0 s.lost f 0 }
  else s

/-- The team is over: units, cores, and last its stamp (R54, R214). -/
def State.finishTeam (s : State) (t : Nat) (tm : Team) (status : Nat) : State :=
  let s := s.emptyUnits t
  let s := tm.cores.foldl (fun (s : State) c => if (s.core c).team = some t then s.setCore c Core.empty else s) s
  let s := s.modTeam t (fun tm => { tm with st := .ended, saved := [], late := [], held := [] })
  (s.launchStamp tm.func tm.csidx status tm.seq).flrDone tm.func

/-- The regions of a team whose members have all exited are released; a frozen load is discarded (R151, R214, R361). -/
def State.releaseTeam (s : State) (t : Nat) : State :=
  (List.range s.regions.length).foldl (fun (s : State) n =>
    match s.region n with
    | none => s
    | some r =>
      if r.team = t ∧ ¬ r.idle then
        let s := s.modRegion n (fun r => { r with frel := true })
        let s := if r.active.any (fun l => l.rcd.isSome && !l.discarded) then (s.dropHandler n).discardRegion n true else s
        s.nextCommand n
      else s) s

/-- COMPLETION_STAMP (R54, R214, R364, R409): the launch's stamp, once nothing of the team is left. -/
def State.completion (s : State) (t : Nat) : State :=
  match s.team? t with
  | none => s
  | some tm =>
    if tm.st = .ended then s
    else match tm.ending with
      | some (status, _) => if s.teamBusy t then s else s.finishTeam t tm status
      | none =>
        if tm.st ≠ .running ∨ ¬ (tm.cores.all (fun c => decide ((s.core c).run = .exited) && (s.core c).pend.isEmpty && (s.core c).trapq.isEmpty) = true) then s
        else
          let s := s.releaseTeam t
          if s.teamBusy t ∨ s.teamLoads t = true then s else s.finishTeam t tm (if tm.failed then 0x04 else 0x01)
/-- COMPLETION_STAMP (R54). -/
def execCompletionStamp (s : State) : Host.Outcome State Fault Refusal := .next (s.completion (s.arg 0))

/-! ## The end of a team (R364, R394, R395) -/

/-- The rider is withdrawn with its team (R394). -/
def Rider.withdraws (r : Rider) (t : Nat) : Bool :=
  decide (r.team = some t) && (match r.owner with
    | .core => true
    | .stream _ _ => true
    | .drain _ _ => true
    | .load _ => true
    | _ => false)

/-- The riders of a team are withdrawn; what was not yet admitted is dropped (R394). -/
def State.withdrawRiders (s : State) (t : Nat) : State :=
  let gone := s.waiting.filter (fun q => q.withdraws t)
  let s := { s with
    riders := (s.riders.filter (fun q => match q.owner with
      | .context m _ => decide (m ≠ t)
      | .redirect m _ => decide (m ≠ t)
      | _ => true)).map (fun q => if q.withdraws t ∧ q.withdrawn.isNone then { q with withdrawn := some s.ns } else q)
    waiting := s.waiting.filter (fun q => !q.withdraws t && (match q.owner with
      | .context m _ => decide (m ≠ t)
      | .redirect m _ => decide (m ≠ t)
      | _ => true)) }
  let s := gone.foldl (fun (s : State) q => match q.owner with
    | .drain u n => s.drainLess u n false true 0
    | _ => s) s
  (s.streams.filter (fun x => decide (x.team = some t) && x.rid.isEmpty)).foldl (fun (s : State) x =>
    ({ s with streams := s.streams.erase x }).deliver x.team x.core x.stamp 8 x.killed) s

/-- Turns not begun, and turns held, end KILLED (R395). -/
def State.dropTurns (s : State) (t : Nat) : State :=
  let done (x : Turn) : Bool := decide (x.team = some t) && (!x.begun || x.held.isSome)
  (s.seqs.filter done).foldl (fun (s : State) x =>
    ({ s with seqs := s.seqs.erase x }).deliver x.team x.core x.stamp 8 (0x05 * 2 ^ 56 + bits x.rcd.toNat 199 192 * 2 ^ 48)) s

/-- The loads of a team are discarded and its regions released (R361, R364); commands on the way end FAULTED. -/
def State.discardLoads (s : State) (t : Nat) : State :=
  (List.range s.regions.length).foldl (fun (s : State) n =>
    match s.region n with
    | none => s
    | some r =>
      if r.team = t ∧ ¬ r.idle then
        let cs := r.fetching.toList ++ r.cmds
        let s := cs.foldl (fun (s : State) c => if c.handler.isNone then s.cfgStamp c.team c.core c.stamp c.fl 0x04 else s) s
        let s := { s with riders := s.riders.filter (fun q => decide (q.owner ≠ Owner.fetch n)), waiting := s.waiting.filter (fun q => decide (q.owner ≠ Owner.fetch n)) }
        let s := s.modRegion n (fun r => { r with cmds := [], fetching := none, shadow := none, refold := none })
        (s.discardLoad n true).releaseRegion n
      else s) s

/-- X-tile queues, pair-pending state and transform commands of a team are cleared (R364). -/
def State.clearUnits (s : State) (t : Nat) : State :=
  let mine (o : Option Nat) : Bool := decide (o = some t)
  let s := s.xtiles.foldl (fun (s : State) x =>
    if x.2.user.any (fun y => mine y.2) then
      let s := (x.2.drains.filter (fun d => !d.written && !d.copying && decide (d.ent.f 23 22 = 0))).foldl (fun (s : State) d =>
        s.drainEnd x.1 { d with killed := true } false) s
      s.modTile x.1 (fun y => { y with
        drains := y.drains.filter Drain.written, queue := [], lands := [], pairs := y.pairs.filter (fun p => !mine p.team), pp := 0, k := 0, stopped := false, tell := [], away := none, flags := 0 })
    else s.modTile x.1 (fun y => { y with
      pairs := y.pairs.filter (fun q => !mine q.team), away := if mine y.away then none else y.away })) s
  { s with xforms := s.xforms.map (fun x => (x.1, x.2.filter (fun c => !mine c.team))) |>.filter (fun x => decide (x.2 ≠ [])) }

/-- TEAM_END (R364): the five steps for a team that the management core has taken in hand; the stamp follows when its riders have ended. -/
def State.teamEnd (s : State) (t : Nat) : State :=
  match s.team? t with
  | none => s
  | some tm =>
    if tm.st = .ended ∨ tm.ending.isNone then s
    else
      let s := tm.cores.foldl (fun (s : State) c =>
        if (s.core c).team = some t then s.modCore c (fun k => { k with run := .stopped, pend := [], trapq := [], hold := Held.none, arrs := [], taking := none }) else s) s
      let s := s.withdrawRiders t
      let s := s.dropTurns t
      let s := s.discardLoads t
      let s := s.clearUnits t
      let s := { s with
        rvq := s.rvq.filter (fun q => decide (q.team ≠ t))
        toks := s.toks.filter (fun k => match k.dest with
          | .port m _ _ => decide (m ≠ t)
          | .rv m _ => decide (m ≠ t)
          | .island _ _ => true) }
      let s := s.modTeam t (fun tm => { tm with rv := [], held := [] })
      s.completion t
/-- TEAM_END (R364). -/
def execTeamEnd (s : State) : Host.Outcome State Fault Refusal := .next (s.teamEnd (s.arg 0))

/-! ## Abort and time limit (R408) -/

/-- HOST_ABORT (R408): a write of TABORT by function `f`; a running or switched-out team ends, else a held record is discarded. -/
def State.hostAbort (s : State) (f data : Nat) : State :=
  let cell := data % 8192
  if data / 8192 ≠ 0 then s
  else match (List.range s.teams.length).find? (fun n => (s.team? n).any (fun t => decide (t.func = f ∧ t.csidx = cell ∧ t.st ≠ .ended) && t.ending.isNone)) with
    | some t => (s.queueRec { time := s.dieNs 4, code := 0x18, sk := 6, func := f : RecF }.pack).endTeam t 0x05 0x18
    | none => match (s.byAge.find? (fun x => decide (s.launchFunc x.2 = f ∧ x.2.f 399 384 = cell))) with
      | some x => ({ s with launches := s.launches.eraseIdx x.1 }).launchStamp f cell 0x05 (x.2.f 511 504)
      | none => s
/-- WATCHDOG (R408): the switched-in time of team `t` exceeds the LIMIT of its dispatch. -/
def State.watchdog (s : State) (t : Nat) : State :=
  match s.team? t with
  | none => s
  | some tm =>
    let out := decide (tm.st = .out ∨ tm.st = .returning)
    if tm.limit ≠ 0 ∧ tm.st ≠ .ended ∧ tm.ending.isNone = true ∧ 1000 * tm.limit < tm.ran + (if out then 0 else s.ns - tm.since) then
      (s.queueRec { time := s.dieNs 4, code := 0x19, sk := 6, func := tm.func : RecF }.pack).endTeam t 0x04 0x19
    else s
/-- WATCHDOG (R408). -/
def execWatchdog (s : State) : Host.Outcome State Fault Refusal := .next (s.watchdog (s.arg 0))

end Sys2Proof.Machine
end

