-- ==== Sys2Proof/Machine/Lms.lean ====
section
/-! DEFINITION. HSS signatures (RFC 8554): the check of one of one level, LMS_SHA256_M32_H10 with LMOTS_SHA256_N32_W8, as the ROM makes it (R341), and
the device's own of two levels, H20 over H10 with LMOTS_SHA256_N32_W4, with its public key (R342, R343). -/

namespace Sys2Proof.Machine

/-- The `n` bytes of a number, most significant first. -/
def beBytes (n v : Nat) : List Byte := (List.range n).map (fun i => BitVec.ofNat 8 (v / 2 ^ (8 * (n - 1 - i))))
/-- The number of a list of bytes, most significant first. -/
def beNum (l : List Byte) : Nat := l.foldl (fun n b => 256 * n + b.toNat) 0
/-- Bytes `o` to `o + n - 1` of a list. -/
def sliceOf (l : List Byte) (o n : Nat) : List Byte := (l.drop o).take n

/-- A chain of the one-time signature, from step `j` on, `n` steps. -/
def otsChain (pre : List Byte) : Nat → Nat → List Byte → List Byte
  | 0, _, t => t
  | n + 1, j, t => otsChain pre n (j + 1) (sha256Bytes (pre ++ beBytes 1 j ++ t))

/-- The candidate for the one-time public key of leaf `q` of tree `id`: `c` is the randomizer, `y` the 34 chain values of the signature. -/
def otsKey (id : List Byte) (q : Nat) (c y msg : List Byte) : List Byte :=
  let pre := id ++ beBytes 4 q
  let d := sha256Bytes (pre ++ beBytes 2 0x8181 ++ c ++ msg)
  let ds := d ++ beBytes 2 ((d.map (fun b => 255 - b.toNat)).sum)
  let z := ((List.range 34).zip ds).flatMap (fun x => otsChain (pre ++ beBytes 2 x.1) (255 - x.2.toNat) x.2.toNat (sliceOf y (32 * x.1) 32))
  sha256Bytes (pre ++ beBytes 2 0x8080 ++ z)

/-- From node `n` of the tree, of value `t`, up to the root, along a path of sibling values. -/
def lmsRoot (id : List Byte) : List (List Byte) → Nat → List Byte → List Byte
  | [], _, t => t
  | s :: p, n, t =>
    let pre := id ++ beBytes 4 (n / 2) ++ beBytes 2 0x8383
    lmsRoot id p (n / 2) (sha256Bytes (pre ++ (if n % 2 = 1 then s ++ t else t ++ s)))

/-- A signature of `msg` under an HSS public key of 60 bytes is right. -/
def hssOk (pub sig msg : List Byte) : Bool :=
  let id := sliceOf pub 12 16
  let q := beNum (sliceOf sig 4 4)
  decide (pub.length = 60 ∧ sig.length = 1456 ∧ beNum (sliceOf pub 0 4) = 1 ∧ beNum (sliceOf pub 4 4) = 6 ∧ beNum (sliceOf pub 8 4) = 4
    ∧ beNum (sliceOf sig 0 4) = 0 ∧ beNum (sliceOf sig 8 4) = 4 ∧ beNum (sliceOf sig 1132 4) = 6 ∧ q < 1024)
  && (let k := otsKey id q (sliceOf sig 12 32) (sliceOf sig 44 1088) msg
      let leaf := sha256Bytes (id ++ beBytes 4 (1024 + q) ++ beBytes 2 0x8282 ++ k)
      decide (lmsRoot id ((List.range 10).map (fun i => sliceOf sig (1136 + 32 * i) 32)) (1024 + q) leaf = sliceOf pub 28 32))

/-! ## The device's signatures (R342, R343) -/

/-- The 67 digits of 4 bits that a digest gives, the checksum's last. -/
def otsDigits (d : List Byte) : List Nat :=
  let ds := d.flatMap (fun b => [b.toNat / 16, b.toNat % 16])
  let c := (ds.map (fun x => 15 - x)).sum
  ds ++ [c / 256 % 16, c / 16 % 16, c % 16]

/-- The identifier of tree `t` of level `l`, 0 the top level. -/
def lmsId (l t : Nat) : List Byte := beBytes 16 (Config.lmsIdentifier l t).toNat
/-- Chain `i` of leaf `q`, `n` steps on from its private start. -/
def lmsChain (l t q i n : Nat) : List Byte :=
  otsChain (lmsId l t ++ beBytes 4 q ++ beBytes 2 i) n 0 (beBytes 32 (Config.lmsSecret l t q i).toNat)
/-- The one-time public key of leaf `q`. -/
def otsPublic (l t q : Nat) : List Byte :=
  sha256Bytes (lmsId l t ++ beBytes 4 q ++ beBytes 2 0x8080 ++ (List.range 67).flatMap (fun i => lmsChain l t q i 15))
/-- Node `r` of a tree of `h` levels, `n` levels above its leaves. -/
def lmsNode (l t h : Nat) : Nat → Nat → List Byte
  | 0, r => sha256Bytes (lmsId l t ++ beBytes 4 r ++ beBytes 2 0x8282 ++ otsPublic l t (r - 2 ^ h))
  | n + 1, r => sha256Bytes (lmsId l t ++ beBytes 4 r ++ beBytes 2 0x8383 ++ lmsNode l t h n (2 * r) ++ lmsNode l t h n (2 * r + 1))
/-- The type code of a tree of `h` levels. -/
def lmsType (h : Nat) : List Byte := beBytes 4 (if h = 20 then 8 else 6)
/-- The public key of a tree: types, identifier, root. -/
def lmsPublic (l t h : Nat) : List Byte := lmsType h ++ beBytes 4 3 ++ lmsId l t ++ lmsNode l t h h 1
/-- The one-time signature of `msg` by leaf `q`. -/
def otsSign (l t q : Nat) (msg : List Byte) : List Byte :=
  let c := beBytes 32 (Config.lmsRandomizer l t q).toNat
  let d := sha256Bytes (lmsId l t ++ beBytes 4 q ++ beBytes 2 0x8181 ++ c ++ msg)
  beBytes 4 3 ++ c ++ ((List.range 67).zip (otsDigits d)).flatMap (fun x => lmsChain l t q x.1 x.2)
/-- The signature of `msg` by leaf `q` of a tree: leaf, one-time signature, type, the path to the root. -/
def lmsSign (l t h q : Nat) (msg : List Byte) : List Byte :=
  beBytes 4 q ++ otsSign l t q msg ++ lmsType h ++ (List.range h).flatMap (fun i => lmsNode l t h i (nxor ((2 ^ h + q) / 2 ^ i) 1))
/-- The attestation public key (R342): two levels, then the top tree's. -/
def hssPublic : List Byte := beBytes 4 2 ++ lmsPublic 0 0 20
/-- Signature `n` of the device over `msg` (R342, R343): the top tree signs the public key of the bottom tree in use, whose leaf signs the message. -/
def hssSign (n : Nat) (msg : List Byte) : List Byte :=
  let k := lmsPublic 1 (n / 1024) 10
  beBytes 4 1 ++ lmsSign 0 0 20 (n / 1024) k ++ k ++ lmsSign 1 (n / 1024) 10 (n % 1024) msg

end Sys2Proof.Machine
end

