-- ==== Sys2Proof/Machine/Regs.lean ====
section
/-! DEFINITION. The registers of BAR0 and BAR4 and the check of every write to them, piece by piece (R25, R49, R53, R70, R71, R91, R94, R95,
R119, R312, R315, R333 to R335, R338, R343 to R345, R357, R360, R361, R386, R393, R408, R416). -/

namespace Sys2Proof.Machine

open Sys2Proof

/-! ## Pieces (R386) -/

/-- `v` has no bit set outside the listed fields. -/
def onlyBits (v : Nat) (l : List (Nat × Nat)) : Bool := decide ((l.map (fun p => bits v p.1 p.2 * 2 ^ p.2)).sum = v)
/-- The aligned 8-byte pieces that a write of `size` bytes at `off` covers. -/
def piecesOf (off size : Nat) : List Nat := (List.range ((off % 8 + size + 7) / 8)).map (fun i => off / 8 * 8 + 8 * i)
/-- The piece at `w` after the write, its other bytes as they stand in `old`. -/
def mergePiece (old w off size data : Nat) : Nat :=
  packCodes 8 ((List.range 8).map (fun j =>
    if off ≤ w + j ∧ w + j < off + size then data / 2 ^ (8 * (w + j - off)) % 256 else old / 2 ^ (8 * j) % 256))
/-- A discarded piece is counted in WREJ. -/
def State.reject (s : State) (off : Nat) : State :=
  { s with wrej := BitVec.ofNat 64 (Nat.min 0xFFFFFFFF (s.wrej.toNat / 2 ^ 32 + 1) * 2 ^ 32 + off % 2 ^ 32) }
/-- Queues, courses and links accept enabling only in Ready (R341). -/
def State.ready (s : State) : Bool := decide (s.boot = .ready)
/-! ## Reading BAR0 -/

/-- BSTATE (R334). -/
def Boot.code : Boot → Nat
  | .fwStart => 0x10
  | .ready => 0x01
  | .halted => 0xE0
  | .thermHalt => 0xE1
  | _ => 0x00

/-- The pieces of a descriptor as software reads them: CUR, PMODE and PEND are live (R70). -/
def State.descRead (s : State) (p c : Nat) : Nat × Nat :=
  let m := s.pendOf p c
  (s.reg (crsOff p c) + s.cur? p c, s.reg (crsOff p c + 8) + (if m = 0 then 0 else 2 ^ 37 + (m - 1) * 2 ^ 35))

/-- Four access counters (R95). -/
def State.counters (s : State) (w : Nat) : Nat :=
  let k := (w - 0x1000000) / 0x200000 * 2 ^ 20 + w % 0x200000 / 2
  packCodes 16 ((List.range 4).map (fun i => Tab.get 0 s.acc16 (k + i)))

/-- The attestation mailbox (R342, R343). -/
def State.mailbox (s : State) (w : Nat) : Nat :=
  if w < 0x4020 then s.nonce.toNat / 2 ^ (8 * (w - 0x4000)) % 2 ^ 64
  else if w = 0x4020 then s.attest
  else if 0x4080 ≤ w ∧ w < 0x40C0 then
    packCodes 8 ((List.range 8).map (fun i => if w + i < 0x40BC then (hssPublic.getD (w + i - 0x4080) 0).toNat else 0))
  else if 0x4100 ≤ w then s.report.readN (w - 0x4100) 8
  else 0

/-- Insert a result by the steps left to its landing, after those of equal number: landing order (R280, R360). -/
def insRes : List Res → Res → List Res
  | [], x => [x]
  | a :: t, x => if x.left < a.left then x :: a :: t else a :: insRes t x

/-- The record of element `key` of a load as class 7 of the scan shows it (R360): the fields that count while the load runs hold their current values.
Which fields those are the manual does not list; the model takes F bits, running tags, pattern counts and generator counts (DESIGN CHOICE, log entry
105). -/
def State.liveRec (s : State) (r : Region) (l : Load) (key : Nat) : Memory :=
  let b := r.elAt l key
  let m : Memory := Memory.putBytes [] 0 (l.img.bytes b 512)
  let e := Tab.get El.zero s.els key
  let put (m : Memory) (x : Nat × Nat × Nat) : Memory := m.writeN x.1 x.2.1 x.2.2
  match elKind key with
  | .ce => put m (0x126, 2, e.da.tag)
  | .node =>
    let nd := s.node (elNode key)
    let pat (p c : Nat) : List (Nat × Nat × Nat) :=
      let n0 := l.patCount b p 0
      let n1 := l.patCount b p 1
      [(p + 2, 2, c % n0), (p + 4, 2, c / n0 % n1), (p + 6, 2, c / (n0 * n1))]
    ([(0x044, 1, nd.f), (0x046, 2, nd.wtag)] ++ pat 0x048 nd.wcnt ++ pat 0x058 nd.rcnt).foldl put m
  | .gen => ((List.range 4).map (fun i => (0x048 + 2 * i, 2, e.j.getD i 0))).foldl put m
  | .conv => put m (0x04A, 2, e.ctag)
  | .xt => let t := s.xtile (xtOf key); [(0x001, 1, t.f), (0x002, 2, t.atag), (0x004, 2, t.btag)].foldl put m
  | .xform => m

/-- Element record unit, counters and latches that SCANA names (R360): the 16 bytes and SCANMK. -/
def State.scan (s : State) : Nat × Nat :=
  let a := s.reg 0x100
  let d := bits a 61 60
  let key := elKey d (bits a 59 53) (bits a 52 45)
  let cls := bits a 44 41
  let pl := bits a 40 39
  let i := bits a 11 0
  let e := Tab.get El.zero s.els key
  let beat (b : Beat) : Nat × Nat := (((if pl = 0 then b.v0 else if pl = 1 then b.v1 else if pl = 2 then b.v2 else b.v3).toNat), b.mark % 4 + 4)
  let opt (o : Option Beat) : Nat × Nat := match o with
    | some b => beat b
    | none => (0, 0)
  let dec (x : Dec) (j : Nat) : Nat × Nat :=
    let h := if pl = 0 then (x.hdr.getD 0) else if pl = 1 then x.h1 else if pl = 2 then x.h2 else x.h3
    let b := if pl = 0 then x.buf else if pl = 1 then x.buf1 else if pl = 2 then x.buf2 else x.buf3
    if j = 0 then (h.toNat, 4) else if j < 3 then (b.toNat / 2 ^ (128 * (j - 1)) % 2 ^ 128, 4) else (0, 0)
  match s.regions.find? (fun r => r.holdsEl key) with
  | none => (0, 0)
  | some r => match r.active with
    | none => (0, 0)
    | some l =>
      let k := (r.isl l key).getD 255
      let isl := l.isl.getD k Isl.idle
      if !(l.isFrozen && isl.frozen) then (0, 0)
      else match cls with
        | 0 => opt ((if i / 16 = 0 then e.a else if i / 16 = 1 then e.b else if i / 16 = 2 then e.c else [])[i % 16]?)
        | 1 => if i = 0 then beat e.out else if i = 1 then (e.ctl.toNat, 4) else (0, 0)
        | 2 => match (e.res.foldl insRes [])[i]? with
          | some x => ((beat x.beat).1, (beat x.beat).2 + x.left % 256 * 2 ^ 8)
          | none => (0, 0)
        | 3 => if i / 4 = 0 then dec e.da (i % 4) else if i / 4 = 1 then dec e.db (i % 4) else if i / 4 = 2 then dec e.dc (i % 4) else (0, 0)
        | 4 => if i = 0 then (isl.s % 2 ^ 48 + isl.cyc % 2 ^ 16 * 2 ^ 48, 4) else if i = 1 then (packCodes 16 (chainAt l.img k (isl.s / islII l.img k)), 4) else (0, 0)
        | 5 => match s.fifos.find? (fun f => decide (f.key = 4 * key + i / 16)) with
          | some f => opt ((f.q[i % 16]?).map (fun x => x.2.1))
          | none => (0, 0)
        | 6 =>
          if i = 0 then (b2n isl.startPend, 4) else if i = 1 then (b2n isl.ended, 4)
          else if i = 2 then (b2n (s.toks.any (fun t => match t.dest with
            | .island n m => decide ((s.region n).any (fun q => decide (q.die = r.die ∧ q.x = r.x ∧ q.y = r.y)) = true ∧ m = k)
            | _ => false)), 4)
          else (0, 0)
        | 7 => if i < 32 then ((s.liveRec r l key).readN (16 * i) 16, 4) else (0, 0)
        | _ => (0, 0)

/-- The piece of BAR0 at offset `w` as software reads it. -/
def State.bar0Read (s : State) (w : Nat) : Nat :=
  if w = 0x8 then s.fwsvn % 2 ^ 16 * 2 ^ 48 + s.boot.code * 2 ^ 40
  else if w = 0x10 then s.wrej.toNat
  else if w = 0x108 then s.scan.1 % 2 ^ 64
  else if w = 0x110 then s.scan.1 / 2 ^ 64
  else if w = 0x118 then s.scan.2
  else if w = 0x120 then s.frzctl.toNat
  else if 0x2000 ≤ w ∧ w < 0x2800 then (Tab.get 0 s.qnew ((w - 0x2000) / 8)).toNat
  else if 0x4000 ≤ w ∧ w < 0x5800 then s.mailbox w
  else if 0x6000 ≤ w ∧ w < 0x6120 then
    let o := s.oars.getD ((w - 0x6000) / 16) Oar.down
    if w % 16 = 8 then s.reg w + b2n o.lup + o.peer % 2 ^ 16 * 2 ^ 48 else s.reg w
  else if w = 0x9000 then s.reg w + b2n s.keyBusy.isSome * 2 ^ 63
  else if w = 0x9200 then s.alarm.toNat
  else if 0x20100 ≤ w ∧ w < 0x20160 then 0
  else if 0x20200 ≤ w ∧ w < 0x20260 then s.lnd ((w - 0x20200) / 8)
  else if w = 0x3F008 then s.reg w + b2n s.trinvDone
  else if 0x80000 ≤ w ∧ w < 0xB0000 then
    let p := (w - 0x80000) / 0x100
    let i := w % 0x100
    if i < 0x80 then (if i % 16 = 0 then (s.descRead p (i / 16)).1 else (s.descRead p (i / 16)).2)
    else if i < 0xA0 then nxor (Tab.get 0 s.grantNew (4 * p + (i - 0x80) / 8)).toNat 0x8888888888888888
    else 0
  else if 0x1000000 ≤ w ∧ w < 0x2800000 then s.counters w
  else s.reg w

/-! ## Courses and streams -/

/-- A descriptor that is valid as a whole (R69, R70). -/
def State.descOk (s : State) (p c : Nat) (d : Crs) : Bool :=
  decide (1 ≤ d.len ∧ d.len ≤ 0x1000000 ∧ d.func ≤ 64 ∧ d.base + d.len ≤ 0x1000000 ∧ d.base % modeCells d.mode = 0 ∧ d.len % modeCells d.mode = 0
    ∧ (d.mode ≠ 2 ∨ d.len ≤ 256))
  && (List.range 8).all (fun k => decide (k = c) || (let e := s.crs p k; !e.valid || decide (e.base + e.len ≤ d.base ∨ d.base + d.len ≤ e.base)))

/-- A piece of a descriptor (R70, R386). A course set valid starts at cursor 0, its steps are counted from then on (R273), and no mode change is pending:
R70 names the cursor alone (log entry 97, DESIGN CHOICE). -/
def State.descPiece (s : State) (p c : Nat) (upper : Bool) (new : Nat) : Option State :=
  let o := crsOff p c
  let lo0 := s.reg o
  let hi0 := s.reg (o + 8)
  if !(if upper then onlyBits new [(47, 33), (23, 0)] else onlyBits new [(56, 32), (27, 0)]) then none
  else
    let lo := if upper then lo0 else bits new 56 32 * 2 ^ 32
    let hi := if upper then new - bits new 37 35 * 2 ^ 35 else hi0
    let d0 := Crs.of lo0 hi0
    let d := Crs.of lo hi
    if d.mode = 3 then none
    else if d0.valid ∧ (lo ≠ lo0 ∨ hi - b2n d.valid * 2 ^ 39 ≠ hi0 - 2 ^ 39) then none
    else if (lo ≠ lo0 ∨ hi ≠ hi0) ∧ ¬ (s.partsOf p c).isEmpty then none
    else if d.valid ∧ (s.descOk p c d = false ∨ (¬ d0.valid ∧ ¬ s.ready)) then none
    else
      let s := (s.setReg o lo).setReg (o + 8) hi
      if d.valid ∧ ¬ d0.valid then
        some { s with cursor := Tab.set 0 s.cursor (crsKey p c) 0, courseSteps := Tab.set 0 s.courseSteps (crsKey p c) 0,
                      pendMode := Tab.set 0 s.pendMode (crsKey p c) 0 }
      else some s

/-- A piece of a grant table (R71). -/
def State.grantPiece (s : State) (k new : Nat) : Option State :=
  if (List.range 16).all (fun i => decide (new / 16 ^ i % 16 ≤ 8)) then
    some { s with grantNew := Tab.set 0 s.grantNew k (BitVec.ofNat 64 (nxor new 0x8888888888888888)) }
  else none

/-- The fields of word `i` of a stream record: all that exist, and those that the driver writes (R315). -/
def sqFields : Nat → List (Nat × Nat) × List (Nat × Nat)
  | 15 => ([(63, 0)], [])
  | 14 => ([(63, 0)], [])
  | 13 => ([(63, 17), (15, 0)], [(47, 32), (31, 24), (23, 23), (19, 17), (15, 8), (7, 0)])
  | 12 => ([(63, 0)], [(63, 32)])
  | 11 => ([(48, 0)], [(48, 0)])
  | 10 => ([(48, 0)], [(48, 0)])
  | 9 => ([], [])
  | 8 => ([], [])
  | n => (if n % 2 = 0 then [(48, 0)] else [(23, 0)], [])

/-- A stream record that is valid as a whole (R315, R386); a table is an array of 4-byte entries (R314). -/
def State.sqValid (s : State) (n i new : Nat) : Bool :=
  let w (j : Nat) : Nat := if j = i then new else s.reg (0x300000 + 128 * n + 8 * j)
  decide (bits (w 13) 7 0 ≠ 0 ∧ bits (w 13) 31 24 ≤ 64 ∧ bits (w 12) 63 32 % 4 = 0 ∧ bits (w 11) 48 0 % 64 = 0 ∧ bits (w 10) 48 0 % 4 = 0)

/-- A piece of a stream record (R315, R386). -/
def State.sqPiece (s : State) (w new0 : Nat) : Option State :=
  let n := (w - 0x300000) / 128
  let i := w % 128 / 8
  let f := sqFields i
  let old := s.reg w
  let rw := fun v => (f.2.map (fun p => bits v p.1 p.2 * 2 ^ p.2)).sum
  let new := old - rw old + rw new0
  let was := bit (s.reg (0x300000 + 128 * n + 104)) 23
  let is := if i = 13 then bit new 23 else was
  if !onlyBits new0 f.1 then none
  else if i = 13 ∧ bits new 19 17 = 7 then none
  else if was ∧ (if i = 13 then new - b2n is * 2 ^ 23 else new) ≠ (if i = 13 then old - 2 ^ 23 else old) then none
  else if is ∧ s.sqValid n i new = false then none
  else
    let s := s.setReg w new
    if is ∧ ¬ was then
      let o := 0x300000 + 128 * n
      some (((s.setReg (o + 112) 0).setReg (o + 96) (s.reg (o + 96) / 2 ^ 32 * 2 ^ 32)).setReg w (new - bits new 63 48 * 2 ^ 48 - bits new 22 20 * 2 ^ 20))
    else some s

/-! ## The other registers -/

/-- A piece that only has to lie in its fields and meet a condition. -/
def State.plainPiece (s : State) (w new : Nat) (l : List (Nat × Nat)) (ok : Bool) : Option State :=
  if onlyBits new l && ok then some (s.setReg w new) else none

/-- A queue configuration word (R49, R341). -/
def State.queuePiece (s : State) (q new : Nat) : Option State :=
  if onlyBits new [(59, 40), (34, 0)] ∧ bits new 47 40 ≤ 64 ∧ (bit new 34 = false ∨ bit (Tab.get 0 s.qnew q).toNat 34 = true ∨ s.ready = true) then
    some { s with qnew := Tab.set 0 s.qnew q (BitVec.ofNat 64 new) }
  else none

/-- FRZCTL (R361). -/
def State.frzPiece (s : State) (new : Nat) : Option State :=
  if onlyBits new [(31, 16), (1, 0)] ∧ bits new 31 16 ≠ 0 then
    let t := { s with frzctl := BitVec.ofNat 64 (new - bits new 1 1 * 2) }
    some (if bit new 1 then t.post .frzctlRel [] else t)
  else none

/-- OARCFG (R338, R341, R409): EN from 0 to 1 starts the link anew; what was received whole is still taken. -/
def State.oarPiece (s : State) (w new : Nat) : Option State :=
  let n := (w - 0x6000) / 16
  let en := bit (s.reg (0x6000 + 16 * n)) 0
  if w % 16 = 8 then
    let v := bits new 47 28 * 2 ^ 28
    if !onlyBits new [(63, 28), (0, 0)] ∨ 64 < bits new 35 28 ∨ (en ∧ v ≠ s.reg w) then none else some (s.setReg w v)
  else if !onlyBits new [(0, 0)] ∨ (bit new 0 ∧ ¬ en ∧ ¬ s.ready) then none
  else
    let s := s.setReg w new
    if bit new 0 ∧ ¬ en then
      let o := s.oars.getD n Oar.down
      some { s with oars := s.oars.set n { o with nextSeq := 0, unacked := [], recv := o.recv.map (fun p => { p with rider := 1 }), taken := [], retries := 0, retrain := o.retrain || !o.up, since := s.ns } }
    else some s

/-- KEYCMD (R344): GO starts a command; while one runs a write has no effect. -/
def State.keyPiece (s : State) (new : Nat) : Option State :=
  if !onlyBits new [(63, 63), (9, 0)] ∨ 1 < bits new 9 8 then none
  else if s.keyBusy.isSome then some s
  else
    let s := s.setReg 0x9000 (bits new 9 0)
    if bit new 63 then
      some (({ s with keyBusy := some (BitVec.ofNat 64 new) } : State).post (if bits new 9 8 = 0 then .keyGenerate else .keyErase) [bits new 7 0])
    else some s

/-- ENCRGN (R345): ENP lies in both pieces. A region set starts a tree of its own (R347). -/
def State.encPiece (s : State) (w new : Nat) : Option State :=
  let st := (w - 0x9100) / 16
  let o := 0x9100 + 16 * st
  let up := decide (w % 16 = 8)
  let lo := if up then s.reg o else new
  let hi := if up then new else s.reg (o + 8)
  let enp := bits lo 63 53 + bits hi 9 0 * 2 ^ 11
  let live := s.tlb.any (fun e => e.enc && decide (e.fault.isNone ∧ e.pa / 2 ^ 36 = st))
  if !(if up then onlyBits new [(31, 0)] else onlyBits new [(63, 44)]) ∨ 1048576 < enp ∨ 2 ^ 22 < bits hi 31 10 + enp ∨ live then none
  else some ((s.setReg w new).newTreeKey st)

/-- The attestation mailbox (R343): while BUSY a write has no effect. -/
def State.mailPiece (s : State) (w new : Nat) : Option State :=
  if bit s.attest 0 then some s
  else if w < 0x4020 then
    let k := 8 * (w - 0x4000)
    let n := s.nonce.toNat
    some { s with nonce := BitVec.ofNat 256 (n - n / 2 ^ k % 2 ^ 64 * 2 ^ k + new * 2 ^ k) }
  else if w = 0x4020 then
    if onlyBits new [(2, 0)] then some (if bit new 0 then s.post .attestGo [] else s) else none
  else some s

/-- Access counters: a write sets them (R95). -/
def State.counterPiece (s : State) (w new : Nat) : State :=
  let k := (w - 0x1000000) / 0x200000 * 2 ^ 20 + w % 0x200000 / 2
  { s with acc16 := (List.range 4).foldl (fun t i => Tab.set 0 t (k + i) (new / 65536 ^ i % 65536)) s.acc16 }

/-! ## TRINV (R94) -/

/-- Virtual addresses [lo, hi) that a lower half of TRINV names; the whole space for NP = 0. -/
def trinvRange (v : Nat) : Nat × Nat :=
  if v % 2 ^ 14 = 0 then (0, 2 ^ 49) else (bits v 48 14 * 2 ^ 14, (bits v 48 14 + v % 2 ^ 14) * 2 ^ 14)

/-- An invalidation starts over the range of the lower half `lo`: DONE is cleared and the cached entries are dropped. A walk of the address space that
could find a page that overlaps the range, in the same 1 GiB, starts anew. -/
def State.trinvGo (s : State) (hi lo : Nat) : State :=
  let a := bits hi 63 52
  let r := trinvRange lo
  let old := s.walks.filter (fun w => decide (w.asid = a ∧ w.va / 2 ^ 30 * 2 ^ 30 < r.2 ∧ r.1 < w.va / 2 ^ 30 * 2 ^ 30 + 2 ^ 30))
  let s := old.foldl (fun (s : State) w => s.startWalk w.tile w.asid w.va) { s with walks := s.walks.filter (fun w => w ∉ old) }
  ({ s.setReg 0x3F008 (a * 2 ^ 52) with
      trinvDone := false, trinvTime := s.nextId, trinvSpan := r, tlb := s.tlb.filter (fun e => !decide (e.asid = a ∧ e.va < r.2 ∧ r.1 < e.va + e.size)) } : State).post .trinvDone []

/-- A write of the upper half with the lower half that stands with it starts its invalidation; one that comes while DONE is 0 is held, and keeps
that lower half, so that it is taken over the range it carried. -/
def State.trinvTake (s : State) (hi lo : Nat) : State :=
  if s.trinvDone then s.trinvGo hi lo else { s with trinvHeld := s.trinvHeld ++ [(BitVec.ofNat 64 hi, BitVec.ofNat 64 lo)] }

/-- A piece of TRINV. -/
def State.trinvPiece (s : State) (w new : Nat) : Option State :=
  if w = 0x3F000 then s.plainPiece w new [(48, 0)] true
  else if !onlyBits new [(63, 52), (0, 0)] then none
  else some (s.trinvTake new (s.reg 0x3F000))

/-- TRINV_DONE: every rider admitted before the write that has a part on a page that overlaps the range has written its stamp. -/
def State.trinvEnd (s : State) : State :=
  let a := bits (s.reg 0x3F008) 63 52
  let r := s.trinvSpan
  let on (q : Rider) : Bool := decide (q.id < s.trinvTime ∧ q.asid = a ∧ q.kind ≠ .rekey)
    && q.pages.any (fun p => decide (p.1 < r.2 ∧ r.1 < p.1 + p.2))
  if s.trinvDone || s.riders.any on then s
  else
    let s := { s with trinvDone := true }
    match s.trinvHeld with
    | [] => s
    | h :: t => ({ s with trinvHeld := t } : State).post .trinvStart [h.1.toNat, 1 + h.2.toNat]

/-! ## A piece of BAR0 -/

/-- A piece of BAR0 that the physical function writes, merged with its other bytes: none where it is discarded (R386). A register
that is only read takes no effect; an offset of no register holds reserved bits. -/
def State.bar0Piece (s : State) (w new : Nat) : Option State :=
  if w = 0x0 then s.plainPiece w new [(16, 0)] true
  else if w = 0x8 ∨ w = 0x10 then some s
  else if w = 0x100 then s.plainPiece w new [(61, 39), (11, 0)] (decide (bits new 44 41 < 8))
  else if w = 0x108 ∨ w = 0x110 ∨ w = 0x118 then some s
  else if w = 0x120 then s.frzPiece new
  else if 0x2000 ≤ w ∧ w < 0x2800 then s.queuePiece ((w - 0x2000) / 8) new
  else if 0x3000 ≤ w ∧ w < 0x3200 then
    (if w % 16 = 8 then s.plainPiece w new [(7, 0)] (decide (new ≠ 0)) else s.plainPiece w new [(39, 20)] true)
  else if 0x4000 ≤ w ∧ w < 0x5800 then s.mailPiece w new
  else if 0x6000 ≤ w ∧ w < 0x6120 then s.oarPiece w new
  else if 0x7000 ≤ w ∧ w < 0x9000 then
    s.plainPiece w new [(63, 63), (55, 47), (39, 31), (23, 15), (7, 0)] true
  else if w = 0x9000 then s.keyPiece new
  else if 0x9100 ≤ w ∧ w < 0x91C0 then s.encPiece w new
  else if w = 0x9200 then
    (if onlyBits new [(19, 16), (8, 8), (0, 0)] then some (if bit new 0 then { s with alarm := s.alarm ||| 1 } else s) else none)
  else if 0x20000 ≤ w ∧ w < 0x20060 then s.plainPiece w new [(15, 0)] true
  else if 0x20100 ≤ w ∧ w < 0x20160 then some s
  else if 0x20200 ≤ w ∧ w < 0x20260 then
    (if onlyBits new [(31, 0)] ∧ bits new 31 16 ≠ 0 then
      some { s with lndctl := Tab.set 0 s.lndctl ((w - 0x20200) / 8) (BitVec.ofNat 64 (nxor new (10000 * 65536 + 1000))) }
    else none)
  else if w = 0x3F000 ∨ w = 0x3F008 then s.trinvPiece w new
  else if 0x40000 ≤ w ∧ w < 0x50000 then
    (if w % 16 = 8 then s.plainPiece w new [(35, 0)] (decide (new % 4096 = 0)) else s.plainPiece w new [(19, 0)] (decide (new ≤ 524288)))
  else if 0x50000 ≤ w ∧ w < 0x50820 then
    (match w % 32 / 8 with
    | 0 => s.plainPiece w new [] true
    | 1 => s.plainPiece w new [(23, 0)] (decide (new ≠ 0))
    | _ => s.plainPiece w new [(48, 0)] (decide (new % 2 ^ 14 = 0)))
  else if 0x80000 ≤ w ∧ w < 0xB0000 then
    let p := (w - 0x80000) / 0x100
    let i := w % 0x100
    (if i < 0x80 then s.descPiece p (i / 16) (decide (i % 16 = 8)) new
    else if i < 0xA0 then s.grantPiece (4 * p + (i - 0x80) / 8) new
    else if new = 0 then some s else none)
  else if 0x300000 ≤ w ∧ w < 0x380000 then s.sqPiece w new
  else if 0x1000000 ≤ w ∧ w < 0x2800000 then some (s.counterPiece w new)
  else if new = 0 then some s else none

/-- A write to BAR0 (R386): only the physical function may write it. -/
def State.bar0Write (s : State) (f off size data : Nat) : State :=
  if !s.responds then s
  else (piecesOf off size).foldl (fun (s : State) w =>
    if f ≠ 0 then s.reject w
    else match s.bar0Piece w (mergePiece (s.bar0Read w) w off size data) with
      | some s => s
      | none => s.reject w) s

/-! ## BAR4 -/

/-- INTST bits of function `f` (R335): ALARM and ACCESS are the physical function's. -/
def intFields (f : Nat) : List (Nat × Nat) := if f = 0 then [(4, 0)] else [(3, 2), (0, 0)]

/-- IFREQ of an island's entry as last published (R25). -/
def State.islEntry (s : State) (i : Nat) : Nat :=
  if i < 20 then (if Tab.get 0 s.islShown i = 0 then 24 else Tab.get 0 s.islShown i) else s.islIfreq i

/-- An island status entry (R25): the piece at `w`. -/
def State.islandStatus (s : State) (w : Nat) : Nat :=
  let i := (w - 0xF000) / 16
  if 24 ≤ i then 0
  else if w % 16 = 8 then Tab.get 0 s.islStamp i
  else Tab.get 0 s.islThrot i % 2 ^ 32 + s.islEntry i * 2 ^ 32 + Tab.get 0 s.islBudget i % 2 ^ 16 * 2 ^ 40

/-- The piece of function `f`'s BAR4 at offset `w` as software reads it. -/
def State.bar4Read (s : State) (f w : Nat) : Nat :=
  if w = 0x00 then (Tab.get 0 s.intst f).toNat
  else if w = 0x08 then (Tab.get 0 s.inten f).toNat
  else if w = 0x10 then Tab.get 0 s.lost f * 2 ^ 32 + (Tab.get [] s.fq f).length
  else if w = 0x28 then (Tab.get 0 s.wdog f).toNat
  else if 0x40 ≤ w ∧ w < 0x80 then ((Tab.get [] s.fq f).headD 0).toNat / 2 ^ (8 * (w - 0x40)) % 2 ^ 64
  else if 0xD000 ≤ w ∧ w < 0xD040 then s.mem.readN (msixAddr f (w - 0xD000)) 8
  else if 0xF000 ≤ w ∧ w < 0xF180 then s.islandStatus w
  else if 0x100000 ≤ w ∧ w < 0x110000 then s.mem.readN (cellAddr f 0 + (w - 0x100000)) 8
  else 0

/-- A piece of function `f`'s BAR4: `val` holds the bytes written alone, `new` the piece merged (R25, R53, R333, R335, R357, R408). -/
def State.bar4Piece (s : State) (f w val new : Nat) : Option State :=
  if w = 0x00 then
    (if onlyBits val (intFields f) then some (s.setInt f (Tab.get 0 s.intst f &&& ~~~(BitVec.ofNat 64 val)) (Tab.get 0 s.inten f)) else none)
  else if w = 0x08 then
    (if onlyBits new (intFields f) then some (s.setInt f (Tab.get 0 s.intst f) (BitVec.ofNat 64 new)) else none)
  else if w = 0x10 then some s
  else if w = 0x18 then some { s with fq := Tab.mod [] s.fq f (fun q => q.drop 1) }
  else if w = 0x20 then (if onlyBits val [(12, 0)] then some (s.hostAbort f val) else none)
  else if w = 0x28 then (if onlyBits new [(31, 0)] then some { s with wdog := Tab.set 0 s.wdog f (BitVec.ofNat 64 new) } else none)
  else if 0x40 ≤ w ∧ w < 0x80 then some s
  else if 0xD000 ≤ w ∧ w < 0xD040 then some { s with mem := s.mem.writeN (msixAddr f (w - 0xD000)) 8 new }
  else if 0xD800 ≤ w ∧ w < 0xD808 then some s
  else if 0xF000 ≤ w ∧ w < 0x10000 then some s
  else if 0x100000 ≤ w ∧ w < 0x110000 then some { s with mem := s.mem.writeN (cellAddr f 0 + (w - 0x100000)) 8 new }
  else if val = 0 then some s else none

/-- A write to function `f`'s BAR4 (R386). -/
def State.bar4Write (s : State) (f off size data : Nat) : State :=
  if !s.responds ∨ 64 < f then s
  else (piecesOf off size).foldl (fun (s : State) w =>
    match s.bar4Piece f w (mergePiece 0 w off size data) (mergePiece (s.bar4Read f w) w off size data) with
    | some s => s
    | none => s.reject w) s

/-- WSTAT of the launch window of queue `q` as function `f` reads it (R51, R333). The write-only bytes 0x000 to 0x03F read as zero: R51 says it of 0x048
to 0xFFF alone (log entry 98, DESIGN CHOICE). -/
def State.windowRead (s : State) (f q off : Nat) : Nat :=
  if q < 256 ∧ bits (s.queue q) 47 40 = f ∧ off = 0x40 then Tab.get 0 s.drops q * 2 ^ 32 + s.held q * 2 ^ 8 + (64 - s.held q) else 0

/-- What function `f` reads at offset `off` of BAR `bar`, `size` bytes of it (R49, R333, R386): BAR0 reads as zero for a virtual function. While
the registers do not respond DEVST alone does (R341, R412); what another read then brings is open. Reads that change the machine are events of
their own. -/
def State.barRead (s : State) (bar f off size : Nat) : Nat :=
  let piece (w : Nat) : Nat :=
    if s.responds = false ∧ ¬ (bar = 0 ∧ f = 0 ∧ w = 8) then Config.unanswered s.fresh % 2 ^ 64
    else if bar = 0 then (if f = 0 then s.bar0Read w else 0)
    else if bar = 4 then s.bar4Read f w else s.windowRead f (w / 4096) (w % 4096)
  ((piecesOf off size).map (fun w => piece w * 2 ^ (8 * (w - off / 8 * 8)))).sum / 2 ^ (8 * (off % 8)) % 2 ^ (8 * size)

/-! ## The events -/

/-- REGISTER_WRITE (R386): function `f` writes `size` bytes at `off` of BAR `bar`. -/
def State.registerWrite (s : State) (bar f off size data : Nat) : State :=
  if bar = 0 then s.bar0Write f off size data else if bar = 4 then s.bar4Write f off size data else s
/-- REGISTER_WRITE (R386). -/
def execRegisterWrite (s : State) : Host.Outcome State Fault Refusal := .next (s.registerWrite (s.arg 0) (s.arg 1) (s.arg 2) (s.arg 3) (s.arg 4))

/-- COURSE_DESCRIPTOR_WRITE (R70): function `f` writes the 8-byte piece at `off`. -/
def execCourseDescriptorWrite (s : State) : Host.Outcome State Fault Refusal :=
  .next (if 0x80000 ≤ s.arg 1 ∧ s.arg 1 < 0xB0000 ∧ s.arg 1 % 0x100 < 0x80 then s.bar0Write (s.arg 0) (s.arg 1 / 8 * 8) 8 (s.arg 2) else s)
/-- GRANT_TABLE_WRITE (R71). -/
def execGrantTableWrite (s : State) : Host.Outcome State Fault Refusal :=
  .next (if 0x80000 ≤ s.arg 1 ∧ s.arg 1 < 0xB0000 ∧ 0x80 ≤ s.arg 1 % 0x100 ∧ s.arg 1 % 0x100 < 0xA0 then
    s.bar0Write (s.arg 0) (s.arg 1 / 8 * 8) 8 (s.arg 2) else s)
/-- OARCFG_WRITE (R338). -/
def execOarcfgWrite (s : State) : Host.Outcome State Fault Refusal :=
  .next (if 0x6000 ≤ s.arg 1 ∧ s.arg 1 < 0x6120 then s.bar0Write (s.arg 0) (s.arg 1 / 8 * 8) 8 (s.arg 2) else s)
/-- TRINV_LOWER (R94). -/
def execTrinvLower (s : State) : Host.Outcome State Fault Refusal := .next (s.bar0Write 0 0x3F000 8 (s.arg 0))
/-- TRINV_START (R94): the host writes the upper half, or the hub takes a held write (argument 1: one more than the lower half it keeps). -/
def execTrinvStart (s : State) : Host.Outcome State Fault Refusal :=
  .next (if s.arg 1 = 0 then s.bar0Write 0 0x3F008 8 (s.arg 0) else s.trinvTake (s.arg 0) (s.arg 1 - 1))
/-- TRINV_DONE (R94). -/
def execTrinvDone (s : State) : Host.Outcome State Fault Refusal := .next s.trinvEnd
/-- INTST_CLEAR (R335): function `f` writes INTST. -/
def execIntstClear (s : State) : Host.Outcome State Fault Refusal := .next (s.bar4Write (s.arg 0) 0x00 8 (s.arg 1))
/-- INTEN_WRITE (R335). -/
def execIntenWrite (s : State) : Host.Outcome State Fault Refusal := .next (s.bar4Write (s.arg 0) 0x08 8 (s.arg 1))
/-- FQPOP (R357): any write removes the oldest record. -/
def execFqpop (s : State) : Host.Outcome State Fault Refusal := .next (s.bar4Write (s.arg 0) 0x18 8 0)
/-- HOST_ABORT (R408): function `f` writes TABORT. -/
def execHostAbort (s : State) : Host.Outcome State Fault Refusal := .next (s.bar4Write (s.arg 0) 0x20 8 (s.arg 1))

/-- WREJ_READ (R386): the count and offset are returned, and the count is cleared. -/
def State.wrejRead (s : State) : State := { s with hostRead := s.wrej, wrej := BitVec.ofNat 64 (s.wrej.toNat % 2 ^ 32) }
/-- WREJ_READ (R341, R386), while the registers respond. -/
def execWrejRead (s : State) : Host.Outcome State Fault Refusal := .next (if s.responds then s.wrejRead else s)

/-- ACCESS_REPORT_READ (R95): the oldest entry of a stack is returned and removed. -/
def State.reportRead (s : State) (st : Nat) : State :=
  match Tab.get [] s.reports st with
  | [] => { s with hostRead := 0 }
  | p :: t =>
    { s with hostRead := BitVec.ofNat 64 (2 ^ 63 + b2n (Tab.get false s.ovf st) * 2 ^ 62 + p % 2 ^ 24),
             reports := Tab.set [] s.reports st t, ovf := Tab.set false s.ovf st false }
/-- ACCESS_REPORT_READ (R95, R341), while the registers respond. -/
def execAccessReportRead (s : State) : Host.Outcome State Fault Refusal := .next (if s.responds then s.reportRead (s.arg 0) else s)

end Sys2Proof.Machine
end

