-- ==== Sys2Proof/Machine/Seq.lean ====
section
/-! DEFINITION. The sequence unit: stream records, tables and directories (R312 to R316), the nine sequence instructions and their turns
(R317 to R329, R383, R405, R406). -/

namespace Sys2Proof.Machine

open Sys2Proof

/-! ## Stream records and pools (R312 to R316) -/

/-- 64-bit word `w` of the record of stream `n` (R315). -/
def State.sqW (s : State) (n w : Nat) : Nat := s.reg (0x300000 + 128 * n + 8 * w)
/-- Set a field [hi:lo] of word `w` of the record of stream `n`. -/
def State.sqSet (s : State) (n w hi lo v : Nat) : State :=
  let x := s.sqW n w
  s.setReg (0x300000 + 128 * n + 8 * w) (x - bits x hi lo * 2 ^ lo + v % 2 ^ (hi + 1 - lo) * 2 ^ lo)
/-- G of stream `n`. -/
def State.sqG (s : State) (n : Nat) : Nat := bits (s.sqW n 14) 63 32
/-- P of stream `n`. -/
def State.sqP (s : State) (n : Nat) : Nat := bits (s.sqW n 14) 31 0
/-- DEPTH of stream `n`. -/
def State.sqDepth (s : State) (n : Nat) : Nat := bits (s.sqW n 13) 22 20
/-- Slots of a page of stream `n` (R319). -/
def State.sqSpp (s : State) (n : Nat) : Nat := 64 / 2 ^ bits (s.sqW n 13) 19 17
/-- TBL of stream `n`. -/
def State.sqTbl (s : State) (n : Nat) : Nat := bits (s.sqW n 10) 48 0
/-- TVA and LIM of ancestor `k` of stream `n`. -/
def State.sqAnc (s : State) (n k : Nat) : Nat × Nat := (bits (s.sqW n (2 * k)) 48 0, bits (s.sqW n (2 * k + 1)) 23 0)
/-- Stream `n` takes instructions of function `f`. -/
def State.sqOk (s : State) (n f : Nat) : Bool := bit (s.sqW n 13) 23 && decide (bits (s.sqW n 13) 31 24 = f)
/-- Word `w` of KVCFG of function `f` (R312). -/
def State.kvcfg (s : State) (f w : Nat) : Nat := s.reg (0x50000 + 32 * f + 8 * w)
/-- Virtual address of page `g` of function `f`. -/
def State.pageVa (s : State) (f g : Nat) : Nat := bits (s.kvcfg f 2) 48 0 + 4096 * g
/-- Virtual address of word `w` of the directory entry of page `g` (R313). -/
def State.dirVa (s : State) (f g w : Nat) : Nat := bits (s.kvcfg f 3) 48 0 + 16 * g + 4 * w

/-! ## What a turn asks of its riders -/

/-- An access of a turn: read words, deposit words, or update one word by ADD 0, AND 1 or OR 2. -/
inductive SeqOp where
  | read (va n : Nat)
  | write (va : Nat) (ws : List Word) (page : Bool := false)
  | upd (va uop val : Nat)
deriving DecidableEq, Repr

/-- A plan of a turn: the next accesses, or the state after its end. -/
abbrev Plan := Sum (List SeqOp) State

/-- A stage of a plan: its accesses, unless they are done; then what follows from the words read. -/
def stage (ops : List SeqOp) (got : List (List Word)) (k : List Nat → List (List Word) → Plan) : Plan :=
  if ops.isEmpty then k [] got
  else match got with
    | [] => .inl ops
    | ws :: rest => k (ws.map BitVec.toNat) rest

/-- Runs of adjacent numbers of a rising list, each of at most 2^20. -/
def runsOf : List Nat → List (Nat × Nat)
  | [] => []
  | p :: t => match runsOf t with
    | (q, n) :: r => if q = p + 1 ∧ n < 2 ^ 20 then (p, n + 1) :: r else (p, 1) :: (q, n) :: r
    | [] => [(p, 1)]

/-- A position found by a view: position, entry, level. -/
abbrev Hit := Nat × Nat × Nat

/-- THE VIEW (R316): each position in turn in the own table, then in the ancestors while it lies below their LIM. -/
def viewGo (k : List Hit → List (List Word) → Plan) : List (Nat × Nat) → Nat → List Nat → List Hit → List (List Word) → Plan
  | [], _, _, f, got => k f got
  | (tva, lim) :: ts, lvl, ps, f, got =>
    let want := ps.filter (· < lim)
    if want.isEmpty then k f got
    else match got with
      | [] => .inl ((runsOf want).map (fun r => .read (tva + 4 * r.1) r.2))
      | ws :: rest =>
        let z := want.zip (ws.map BitVec.toNat)
        let hit := z.filter (fun x => bit x.2 31)
        viewGo k ts (lvl + 1) ((z.filter (fun x => !bit x.2 31)).map Prod.fst) (f ++ hit.map (fun x => (x.1, x.2, lvl))) rest

/-- The view of stream `n` at some positions. -/
def State.view (s : State) (n : Nat) (ps : List Nat) (got : List (List Word)) (k : List Hit → List (List Word) → Plan) : Plan :=
  viewGo k ((s.sqTbl n, s.sqG n) :: (List.range (s.sqDepth n)).map (s.sqAnc n)) 0 ps [] got

/-- Page of an entry (R314). -/
def Hit.pgn (h : Hit) : Nat := bits h.2.1 29 6
/-- Pages of some hits, each once. -/
def pagesOf (l : List Hit) : List Nat := (l.map Hit.pgn).eraseDups
/-- A table entry (R314). -/
def tblEntry (g slot : Nat) : Word := BitVec.ofNat 32 (2 ^ 31 + g * 64 + slot)

/-! ## Fields and ends of a turn -/

/-- A field of the record. -/
def Turn.f (t : Turn) (hi lo : Nat) : Nat := bits t.rcd.toNat hi lo
/-- NWORDS. -/
def Turn.n (t : Turn) : Nat := t.f 63 32
/-- Streams that a turn names (R318). -/
def Turn.on (t : Turn) : List Nat := if t.kind = 2 then [t.stream, t.f 139 128] else [t.stream]
/-- PGN and first slot of KVAPP, KVDEP and FRAMEIN (R319). -/
def Turn.slot (t : Turn) : Nat × Nat := if t.kind = 1 then (t.f 151 128, t.f 157 152) else (t.f 223 200, t.f 229 224)
/-- The team of a turn is ending or has ended. -/
def State.turnDead (s : State) (t : Turn) : Bool :=
  match t.team.bind s.team? with
  | some tm => tm.ending.isSome || decide (tm.st = .ended)
  | none => false
/-- Change turn `id`. -/
def State.modTurn (s : State) (id : Nat) (f : Turn → Turn) : State := { s with seqs := s.seqs.map (fun t => if t.id = id then f t else t) }

/-- A turn is over: its stamp stands, and the next turns of its streams may begin (R318, R406). -/
def State.overTurn (s : State) (t : Turn) (stamp : Nat) : State :=
  let s := ({ s with seqs := s.seqs.filter (fun x => decide (x.id ≠ t.id)) } : State).deliver t.team t.core t.stamp 8 stamp
  let s := t.on.foldl (fun (s : State) n => s.post .sequenceTurnBegin [n]) s
  if t.bypass then s.post .heldTurnResume [t.stream] else s
/-- A turn ends with a STATUS. -/
def State.endTurn (s : State) (t : Turn) (status : Nat) : State := s.overTurn t (stampWord status (t.f 199 192) (s.dieNs 4))

/-- The record of a turn (R383, R405, R406). -/
def State.turnRec (s : State) (t : Turn) (code op0 op1 op2 : Nat) : BitVec 512 :=
  { time := s.dieNs 4, code := code, sk := 3, func := t.func, loc := t.stream * 2 ^ 48, core := t.core, op0 := op0, op1 := op1, op2 := op2 : RecF }.pack
/-- A turn ends FAULTED with its record. -/
def State.failTurn (s : State) (t : Turn) (code op0 op1 op2 : Nat) : State := (s.queueRec (s.turnRec t code op0 op1 op2)).endTurn t 0x04

/-- A turn meets a sequence-class fault: it is held and its core traps (R321, R356, R363, R406). A bypass turn ends instead, of a killed team
too; any other turn of an ended team is KILLED (R395). -/
def State.holdTurn (s : State) (t : Turn) (code op0 op1 op2 : Nat) : State :=
  if t.bypass then s.failTurn t code op0 op1 op2
  else if s.turnDead t then s.overTurn t (0x05 * 2 ^ 56 + t.f 199 192 * 2 ^ 48)
  else (s.modTurn t.id (fun x => { x with held := some code, busy := false })).trapTo t.team t.core (s.turnRec t code op0 op1 op2)

/-- Deliver words at DEST, buffer by buffer as each falls empty, then go on (R146, R258). -/
def State.turnResult (s : State) (t : Turn) (ws : List Nat) (k : State → State) : Plan :=
  let d := s.deliverFrom t.team t.core (t.f 127 64) ws (t.out.getD 0) (2 ^ 32) 129
  .inr (if d.2 < ws.length then d.1.modTurn t.id (fun x => { x with out := some d.2 }) else k d.1)
/-- The two words of an 8-byte value. -/
def words2 (v : Nat) : List Nat := [v % 2 ^ 32, v / 2 ^ 32 % 2 ^ 32]

/-! ## The limits of R383 -/

/-- The reason of R383 for which a turn is refused, lowest first. -/
def State.turnBad (s : State) (t : Turn) : Option Nat :=
  let n := t.stream
  let w := 16 * 2 ^ bits (s.sqW n 13) 19 17
  let g := t.slot
  let slots := if t.kind = 5 then (t.n + w - 1) / w else t.n
  if t.on.any (fun m => !s.sqOk m t.func) then some 0x30
  else if t.kind = 2 ∧ (s.sqG (t.f 139 128) ≠ 0 ∨ 4 ≤ s.sqDepth n) then some 0x31
  else if t.kind = 3 ∧ s.sqG n < t.f 151 128 then some 0x32
  else if t.kind = 6 ∧ (t.f 151 128 < s.sqP n ∨ s.sqG n < t.f 151 128) then some 0x32
  else if (t.kind = 1 ∨ t.kind = 5 ∨ t.kind = 7)
      ∧ (bits (s.kvcfg t.func 1) 23 0 ≤ g.1 ∨ s.sqSpp n < g.2 + slots ∨ s.sqSpp n ≤ g.2) then some 0x33
  else if t.kind = 5 ∧ (t.n % w ≠ 0 ∨ (t.f 230 230 = 1 ∧ (g.2 ≠ 0 ∨ t.n ≠ 1024))) then some 0x34
  else if t.kind = 8 ∧ 4 * t.n ≠ bits (s.sqW n 12) 63 32 then some 0x35
  else if t.kind = 5 ∧ t.f 231 231 = 1 ∧ ¬ (t.bypass ∧ s.seqs.any (fun x => decide (x.stream = n ∧ x.held.isSome ∧ x.kind = 5)) = true) then some 0x36
  else none

/-! ## What a turn of each kind does -/

/-- UPDs that add `v` to the REF of some pages (R313). -/
def State.refOps (s : State) (f v : Nat) (gs : List Nat) : List SeqOp := gs.map (fun g => .upd (s.dirVa f g 1) 0 v)

/-- A held KVLOOK reads PRES of the pages that it found absent; where every one has it, the turn resumes and looks up afresh, for bypass turns may have
changed the stream's table (R321, R406). Another absent page that it then meets holds it anew (DEDUCED, log entry 134). -/
def State.planPres (s : State) (t : Turn) : Plan :=
  stage (t.absent.map (fun g => SeqOp.read (s.dirVa t.func g 1) 1)) t.got fun ws _ =>
    .inr (if ws.all (fun w => bit w 31) then
        (s.modTurn t.id (fun x => { x with held := none, absent := [], got := [], again := false })).post .sequenceTurnEnd [t.stream]
      else s.post .sequenceTurnBegin [t.stream])

/-- KVLOOK (R320, R321, R406). -/
def State.planLook (s : State) (t : Turn) : Plan :=
  if t.held.isSome then s.planPres t else
  let lo := t.f 151 128
  let ps := (List.range t.n).map (lo + ·)
  s.view t.stream (ps.filter (· < s.sqG t.stream)) t.got fun hits got =>
    let gs := pagesOf hits
    stage (gs.flatMap (fun g => [SeqOp.read (s.dirVa t.func g 0) 2])) got fun ws _ =>
      let dir (g : Nat) : Nat × Nat := (ws.getD (2 * gs.idxOf g) 0, ws.getD (2 * gs.idxOf g + 1) 0)
      let away := gs.filter (fun g => !bit (dir g).2 31 && bit (dir g).2 30)
      let result (p : Nat) : Nat :=
        match hits.find? (fun h => decide (h.1 = p)) with
        | none => 0
        | some h =>
          let d := (dir (Hit.pgn h)).2
          2 ^ 63 + h.2.2 * 2 ^ 60 + b2n (!bit d 31 && !bit d 30) * 2 ^ 59 + Hit.pgn h * 2 ^ 30 + bits h.2.1 5 0 * 2 ^ 24
      let done : Plan := s.turnResult t (ps.flatMap (fun p => words2 (result p))) (fun s => s.endTurn t 0x01)
      match away with
      | [] => done
      | g :: _ =>
        .inr ((s.holdTurn t 0x10 ((dir g).1 + bits (s.sqW t.stream 13) 15 8 * 2 ^ 32) 0 0).modTurn t.id (fun x => { x with absent := away }))

/-- The pages of positions from `lo` up that no position below `lo` maps (R324). -/
def lostPages (hits : List Hit) (lo : Nat) : List Nat :=
  (pagesOf (hits.filter (fun h => decide (lo ≤ h.1)))).filter (fun g => !(pagesOf (hits.filter (fun h => decide (h.1 < lo)))).contains g)

/-- Append `n` positions at `g0` from a page: its REF, then the entries (R322). -/
def State.appendPlan (s : State) (t : Turn) (hits : List Hit) (g0 n : Nat) (got : List (List Word)) (k : List (List Word) → Plan) : Plan :=
  let g := t.slot
  let has := (pagesOf (hits.filter (fun h => decide (h.1 < g0)))).contains g.1
  stage (if has then [] else s.refOps t.func 1 [g.1]) got fun _ got =>
    stage [SeqOp.write (s.sqTbl t.stream + 4 * g0) ((List.range n).map (fun i => tblEntry g.1 (g.2 + i)))] got fun _ got => k got

/-- KVAPP (R322). -/
def State.planApp (s : State) (t : Turn) : Plan :=
  let n := t.stream
  if t.f 200 200 = 1 ∧ t.f 191 176 ≠ bits (s.sqW n 13) 63 48 then
    s.turnResult t [0xFFFFFFFF, 0xFFFFFFFF] (fun s => s.endTurn t 0x11)
  else s.view n (List.range (s.sqG n)) t.got fun hits got =>
    s.appendPlan t hits (s.sqG n) t.n got fun _ =>
      s.turnResult t (words2 (s.sqG n)) (fun s => (s.sqSet n 14 63 32 (s.sqG n + t.n)).endTurn t 0x01)

/-- The ancestor list of a fork: word `w` of it, for stream `n` (R323). -/
def State.forkAnc (s : State) (n w : Nat) : Nat := if w = 0 then s.sqTbl n else if w = 1 then s.sqG n % 2 ^ 24 else s.sqW n (w - 2)

/-- KVFORK (R323). -/
def State.planFork (s : State) (t : Turn) : Plan :=
  let n := t.stream
  let c := t.f 139 128
  s.view n (List.range (s.sqG n)) t.got fun hits got =>
    stage (s.refOps t.func 1 (pagesOf hits)) got fun _ _ =>
      let anc (x : State) (m : Nat) : State :=
        (List.range 8).foldl (fun (x : State) w => x.setReg (0x300000 + 128 * m + 8 * w) (s.forkAnc n w)) (x.sqSet m 13 22 20 (s.sqDepth n + 1))
      let x := anc (anc s c) n
      let x := (x.sqSet c 10 48 0 (t.f 127 64)).sqSet n 10 48 0 (t.f 248 200)
      .inr (((x.sqSet c 14 63 0 (s.sqW n 14)).sqSet c 13 63 48 (bits (s.sqW n 13) 63 48)).endTurn t 0x01)

/-- KVTRUNC (R324). -/
def State.planTrunc (s : State) (t : Turn) : Plan :=
  let n := t.stream
  let lo := t.f 151 128
  s.view n (List.range (s.sqG n)) t.got fun hits got =>
    stage (s.refOps t.func 0xFFFFFFFF (lostPages hits lo)) got fun _ _ =>
      .inr (((s.sqSet n 14 63 32 lo).sqSet n 14 31 0 (Nat.min (s.sqP n) lo)).endTurn t 0x01)

/-- KVFLAT (R325). -/
def State.planFlat (s : State) (t : Turn) : Plan :=
  let n := t.stream
  s.view n (List.range (s.sqG n)) t.got fun hits got =>
    let far := hits.filter (fun h => decide (h.2.2 ≠ 0))
    let at_ (p : Nat) : Word := match far.find? (fun h => decide (h.1 = p)) with
      | some h => BitVec.ofNat 32 h.2.1
      | none => 0
    let ps := (List.range (s.sqG n)).filter (fun p => far.any (fun h => decide (h.1 = p)))
    stage ((runsOf ps).map (fun r => SeqOp.write (s.sqTbl n + 4 * r.1) ((List.range r.2).map (fun i => at_ (r.1 + i))))) got fun _ _ =>
      .inr (((List.range 8).foldl (fun (x : State) w => x.setReg (0x300000 + 128 * n + 8 * w) 0) (s.sqSet n 13 22 20 0)).endTurn t 0x01)

/-- The held KVDEP of a stream is resolved (R406). -/
def State.resolveHeld (s : State) (t : Turn) : State :=
  match s.seqs.find? (fun x => decide (x.stream = t.stream ∧ x.held.isSome ∧ x.kind = 5)) with
  | some x => s.endTurn x 0x04
  | none => s

/-- KVDEP (R326, R406). -/
def State.planDep (s : State) (t : Turn) : Plan :=
  let n := t.stream
  let g := t.slot
  let fpw := decide (t.f 230 230 = 1)
  let fp := pagePrints 1024 (t.src.map BitVec.toNat)
  stage [SeqOp.read (s.dirVa t.func g.1 1) 1] t.got fun ws got =>
    let rf := bits (ws.headD 0) 15 0
    if 1 < rf then .inr (s.holdTurn t 0x12 (n + g.1 * 2 ^ 16) rf t.recAddr)
    else
      stage [SeqOp.write (s.pageVa t.func g.1 + 64 * 2 ^ bits (s.sqW n 13) 19 17 * g.2) t.src fpw] got fun _ got =>
        stage [if fpw then SeqOp.write (s.dirVa t.func g.1 2) (fp.map (BitVec.ofNat 32)) else SeqOp.upd (s.dirVa t.func g.1 1) 1 0xDFFFFFFF] got fun _ got =>
          stage [SeqOp.upd (s.dirVa t.func g.1 1) 2 (if fpw then 0xA0000000 else 0x80000000)] got fun _ _ =>
            let s := if fpw then s.deliverWords t.team t.core (t.stamp + 8) fp else s
            let s := s.endTurn t 0x01
            .inr (if t.f 231 231 = 1 then s.resolveHeld t else s)

/-- PLAYSET (R327). -/
def State.planPlay (s : State) (t : Turn) : Plan :=
  .inr (((s.sqSet t.stream 14 31 0 (t.f 151 128)).sqSet t.stream 15 63 0 t.time).endTurn t 0x01)

/-- Virtual address of checkpoint slot `j` of stream `n` (R328). -/
def State.ckVa (s : State) (n j : Nat) : Nat := bits (s.sqW n 11) 48 0 + j * (64 + 64 * ((bits (s.sqW n 12) 63 32 + 63) / 64))

/-- The checkpoint that a truncation to `p` restores: slot and POS, from the headers of all slots (R329). -/
def State.ckBest (s : State) (n p : Nat) (hs : List Nat) : Option (Nat × Nat) :=
  let ckn := bits (s.sqW n 13) 7 0
  let cnt := bits (s.sqW n 12) 31 0
  let age (j : Nat) : Nat := (cnt + ckn - 1 - j % Nat.max 1 ckn) % Nat.max 1 ckn
  (List.range ckn).foldl (fun (best : Option (Nat × Nat)) j =>
    let pos := hs.getD (2 * j) 0
    if bit (hs.getD (2 * j + 1) 0) 31 ∧ pos ≤ p then
      match best with
      | none => some (j, pos)
      | some b => if b.2 < pos ∨ (b.2 = pos ∧ age j < age b.1) then some (j, pos) else best
    else best) none

/-- FRAMEIN (R329, R405). -/
def State.planFrame (s : State) (t : Turn) : Plan :=
  let n := t.stream
  let ct := t.f 175 128
  let pt := s.sqW n 15 % 2 ^ 48
  let late := bits (s.sqW n 13) 47 32
  let ckb := bits (s.sqW n 12) 63 32
  let d := (pt + 2 ^ 48 - ct) % 2 ^ 48
  if 1000 * late < d ∧ d < 2 ^ 47 then .inr (s.failTurn t 0x11 ct pt late)
  else
    let g := s.sqG n
    let p := s.sqP n
    let cut := g - p
    let done (ck : Option (Nat × Nat)) (st : List Nat) : Plan :=
      let pos := match ck with
        | some c => c.2
        | none => 0xFFFFFFFF
      s.turnResult t ([p, cut] ++ words2 pos ++ st) fun s =>
        let s := (s.sqSet n 14 63 32 (p + t.n)).sqSet n 14 31 0 (p + t.n)
        let s := if cut = 0 then s else s.sqSet n 13 63 48 (bits (s.sqW n 13) 63 48 + 1)
        s.endTurn t 0x01
    s.view n (List.range g) t.got fun hits got =>
      if cut = 0 then s.appendPlan t hits p t.n got fun _ => done none []
      else
        stage (s.refOps t.func 0xFFFFFFFF (lostPages hits p)) got fun _ got =>
          stage ((List.range (bits (s.sqW n 13) 7 0)).map (fun j => SeqOp.read (s.ckVa n j) 2)) got fun hs got =>
            let ck := s.ckBest n p hs
            stage (match ck with
              | some c => if ckb < 4 then [] else [SeqOp.read (s.ckVa n c.1 + 64) (ckb / 4)]
              | none => []) got fun st got =>
              s.appendPlan t hits p t.n got fun _ => done ck st

/-- STATECK (R328). -/
def State.planState (s : State) (t : Turn) : Plan :=
  let n := t.stream
  let cnt := bits (s.sqW n 12) 31 0
  let va := s.ckVa n (cnt % Nat.max 1 (bits (s.sqW n 13) 7 0))
  stage [SeqOp.write (va + 8) (List.replicate 14 0), SeqOp.write (va + 64) t.src] t.got fun _ got =>
    stage [SeqOp.write va [BitVec.ofNat 32 (s.sqG n), 0x80000000]] got fun _ _ =>
      .inr ((s.sqSet n 12 31 0 (cnt + 1)).endTurn t 0x01)

/-- The plan of a turn that has begun. -/
def State.plan (s : State) (t : Turn) : Plan :=
  match if t.got.isEmpty then s.turnBad t else none with
  | some r => .inr (s.failTurn t 0x0E 0 r 0)
  | none => match t.kind with
    | 0 => s.planLook t
    | 1 => s.planApp t
    | 2 => s.planFork t
    | 3 => s.planTrunc t
    | 4 => s.planFlat t
    | 5 => s.planDep t
    | 6 => s.planPlay t
    | 7 => s.planFrame t
    | _ => s.planState t

/-! ## The turn runs -/

/-- The rider of an access; its stamp field holds the number of the access in its stage. One that writes a whole page of KVDEP with FPW = 1 is an FPW
rider (R268, R326). -/
def Turn.rider (t : Turn) (i : Nat) : SeqOp → Rider
  | .read va n => Rider.ask .rdstr (.turn t.id) t.core t.func t.asid t.team (mkRecord n 0 0 0 0) va i
  | .write va ws page => { Rider.ask .dep (.turn t.id) t.core t.func t.asid t.team (mkRecord ws.length 0 0 0 (b2n page * 2 ^ 22)) va i with src := ws }
  | .upd va o v => Rider.ask .upd (.turn t.id) t.core t.func t.asid t.team (mkRecord 1 0 v 0 (o * 2 ^ 52)) va i

/-- Riders of a turn, in the order of their accesses. -/
def State.turnRiders (s : State) (id : Nat) : List Rider :=
  let rs := s.riders.filter (fun r => decide (r.owner = .turn id))
  (List.range rs.length).flatMap (fun i => rs.filter (fun r => decide (r.stamp = i)))

/-- A rider of a turn has finished or failed. -/
def Rider.turnOver (r : Rider) : Bool := r.void || (r.parts.all Part.done && r.fail.isNone && !r.stopped)

/-- The next stage of a turn is asked for, or the turn ends. -/
def State.goTurn (s : State) (t : Turn) : State :=
  match s.plan t with
  | .inr s => s
  | .inl ops =>
    ((List.range ops.length).zip ops).foldl (fun (s : State) x =>
      let r := t.rider x.1 x.2
      s.admitOrWait r (t.core / 8) (s.admitTile r)) (s.modTurn t.id (fun x => { x with busy := true }))

/-- A turn that has begun goes on as far as its riders allow (R318). Once one has failed, none that waits is admitted. -/
def State.advanceTurn (s : State) (id : Nat) : State :=
  match s.seqs.find? (fun t => decide (t.id = id)) with
  | none => s
  | some t =>
    let rs := s.turnRiders id
    let drop (s : State) : State := { s with riders := s.riders.filter (fun r => decide (r.owner ≠ .turn id)) }
    if ¬ t.begun then s
    else if ¬ t.busy then (if t.held.isSome then s else s.goTurn t)
    else if rs.any Rider.void then
      let s := { s with waiting := s.waiting.filter (fun r => decide (r.owner ≠ .turn id)) }
      if rs.all Rider.turnOver then (drop s).endTurn t 0x04 else s
    else if s.waiting.any (fun r => decide (r.owner = .turn id)) || !rs.all Rider.turnOver then s
    else
      let ws := (rs.filter (fun r => decide (r.kind = .rdstr))).flatMap (fun r => r.words.map (BitVec.ofNat 32))
      let t' := { t with busy := false, got := t.got ++ [ws] }
      let s := ((drop s).modTurn id (fun _ => t')).goTurn t'
      if t.again then
        (s.modTurn id (fun x => { x with again := false })).post .heldTurnResume [t.stream]
      else s

/-- `a` stands before `b` on a stream (R318). -/
def Turn.before (a b : Turn) : Bool :=
  decide (a.time < b.time ∨ (a.time = b.time ∧ (a.core < b.core ∨ (a.core = b.core ∧ a.id < b.id))))

/-- A turn may begin (R318, R406). A bypass turn waits while the held turn finds out whether it resumes (DEDUCED, log entry 134). -/
def State.mayBegin (s : State) (t : Turn) : Bool :=
  !t.begun && decide (t.time + 101 ≤ s.dieNs 4) && t.on.all (fun n =>
    (s.seqs.filter (fun u => decide (u.id ≠ t.id) && u.on.contains n)).all (fun u =>
      let ub := u.bypass && decide (u.stream = n)
      if t.bypass ∧ n = t.stream then (!u.begun || (u.held.isSome && !u.busy)) && (!ub || t.before u)
      else !u.begun && !ub && t.before u))

/-- SEQUENCE_TURN_BEGIN (R318): the first turn of stream `n` begins. -/
def State.turnBegin (s : State) (n : Nat) : State :=
  match s.seqs.find? (fun t => t.on.contains n && s.mayBegin t) with
  | none => s
  | some t => (s.modTurn t.id (fun x => { x with begun := true })).advanceTurn t.id
/-- SEQUENCE_TURN_BEGIN (R318). -/
def execSequenceTurnBegin (s : State) : Host.Outcome State Fault Refusal := .next (s.turnBegin (s.arg 0))

/-- SEQUENCE_TURN_END (R318): the turns under way on stream `n` go on with what their riders have done; a turn that has done everything writes
its stamp. -/
def State.turnEnd (s : State) (n : Nat) : State :=
  ((s.seqs.filter (fun t => decide (t.stream = n))).map Turn.id).foldl State.advanceTurn s
/-- SEQUENCE_TURN_END (R318). -/
def execSequenceTurnEnd (s : State) : Host.Outcome State Fault Refusal := .next (s.turnEnd (s.arg 0))

/-- HELD_TURN_RESUME (R406): at the end of a bypass turn a held KVLOOK finds out whether every page that it found absent is there. -/
def State.turnResume (s : State) (n : Nat) : State :=
  match s.seqs.find? (fun t => decide (t.stream = n ∧ t.held = some 0x10)) with
  | none => s
  | some t =>
    if t.busy then s.modTurn t.id (fun x => { x with again := true })
    else let t := { t with got := [] }; (s.modTurn t.id (fun _ => t)).goTurn t
/-- HELD_TURN_RESUME (R406). -/
def execHeldTurnResume (s : State) : Host.Outcome State Fault Refusal := .next (s.turnResume (s.arg 0))

/-! ## Issue (R318) -/

/-- Admitted instructions that count on stream `n`. -/
def State.onStream (s : State) (n : Nat) : Nat := (s.seqs.filter (fun t => t.on.contains n)).length

/-- The common effect of the sequence instructions (R318): the result of admission in p15 at +16. Only an admitted turn corrects what its source
read meets (R390, R392). -/
def State.issueSeq (s : State) (kind d a b : Nat) : State :=
  let xb := s.xval b
  let c := s.cur
  let rcd := BitVec.ofNat 256 (s.recAt xb 32)
  let n := s.xval a % 4096
  let la := bits rcd.toNat 191 128
  let nw := bits rcd.toNat 63 32
  let src := if kind = 5 ∨ kind = 8 then s.sourceWords c la nw else ([], [])
  let held := s.seqs.any (fun t => decide (t.stream = n ∧ t.held.isSome ∧ t.core = c ∧ t.team = s.me.team))
  let t : Turn :=
    { id := s.nextId, kind := kind, core := c, team := s.me.team, func := s.funcOf c, asid := s.asidOf c, time := s.dieNs (c / 8), seq := 0,
      stream := n, rcd := rcd, recAddr := xb, stamp := s.xval d, src := src.1, begun := false, held := none,
      bypass := s.me.tstat.getLsbD 0 && held, busy := false, got := [], lost := src.2, absent := [], again := false, out := none }
  let full := decide (512 ≤ s.coreFlight c)
  let ns := t.on.any (fun m => decide (16 ≤ s.onStream m))
  let x : Nat × State := if full ∨ ns then (8 * b2n full + 2 * b2n ns, s) else (1, { (if kind = 5 ∨ kind = 8 then s.sourceFixed c la nw else s) with seqs := s.seqs ++ [t], nextId := s.nextId + 1 })
  (x.2.putP 16 15 (BitVec.ofNat 16 x.1)).modMe (fun k => { k with admDue := k.step + 16 })

/-- KVLOOK (R320). -/
def execKvlook (d a b : Nat) (s : State) : Host.Outcome State Fault Refusal := coxIssue (.kvlook d a b) (fun s => s.issueSeq 0 d a b) s
/-- KVAPP (R322). -/
def execKvapp (d a b : Nat) (s : State) : Host.Outcome State Fault Refusal := coxIssue (.kvapp d a b) (fun s => s.issueSeq 1 d a b) s
/-- KVFORK (R323). -/
def execKvfork (d a b : Nat) (s : State) : Host.Outcome State Fault Refusal := coxIssue (.kvfork d a b) (fun s => s.issueSeq 2 d a b) s
/-- KVTRUNC (R324). -/
def execKvtrunc (d a b : Nat) (s : State) : Host.Outcome State Fault Refusal := coxIssue (.kvtrunc d a b) (fun s => s.issueSeq 3 d a b) s
/-- KVFLAT (R325). -/
def execKvflat (d a b : Nat) (s : State) : Host.Outcome State Fault Refusal := coxIssue (.kvflat d a b) (fun s => s.issueSeq 4 d a b) s
/-- KVDEP (R326, R406). -/
def execKvdep (d a b : Nat) (s : State) : Host.Outcome State Fault Refusal := coxIssue (.kvdep d a b) (fun s => s.issueSeq 5 d a b) s
/-- PLAYSET (R327). -/
def execPlayset (d a b : Nat) (s : State) : Host.Outcome State Fault Refusal := coxIssue (.playset d a b) (fun s => s.issueSeq 6 d a b) s
/-- FRAMEIN (R329, R405). -/
def execFramein (d a b : Nat) (s : State) : Host.Outcome State Fault Refusal := coxIssue (.framein d a b) (fun s => s.issueSeq 7 d a b) s
/-- STATECK (R328). -/
def execStateck (d a b : Nat) (s : State) : Host.Outcome State Fault Refusal := coxIssue (.stateck d a b) (fun s => s.issueSeq 8 d a b) s

end Sys2Proof.Machine
end

