-- ==== Sys2Proof/Machine/Links.lean ====
section
/-! DEFINITION. Host links, oar links and die links: link events, packets, acknowledgements, retraining and loss (R331, R332, R335 to R340,
R407, R409, R410). -/

namespace Sys2Proof.Machine

open Sys2Proof

/-! ## Host links (R407) -/

/-- Functions whose host traffic link `l` carries (R332). -/
def State.carried (s : State) (l : Nat) : List Nat := (List.range 65).filter (fun f => decide (s.linkOf f = l))

/-- A LINK_DOWN record of the physical function's (R407, R409). -/
def State.linkRec (s : State) (f loc op0 op1 : Nat) : BitVec 512 :=
  { time := s.dieNs 4, code := 0x17, sk := 4, func := f, loc := loc, op0 := op0, op1 := op1 : RecF }.pack

/-- DL_DOWN (R407). -/
def State.dlDown (s : State) (l : Nat) : State :=
  if 2 ≤ l ∨ s.hostLinkUp.getD l true = false then s
  else
    let s := { s with hostLinkUp := s.hostLinkUp.set l false }
    let out := s.riders.filter (fun r => decide (r.kind = .imp ∨ r.kind = .exp) && r.host && decide (s.hostLink r = l ∧ r.fail.isNone))
    let s := out.foldl (fun (s : State) r => s.hostCut r.id) s
    let s := s.queueRec (s.linkRec 0 (32 + l) 0 0)
    (s.carried l).foldl (fun (s : State) f => s.raiseInt f 3) s
/-- DL_DOWN (R407). -/
def execDlDown (s : State) : Host.Outcome State Fault Refusal := .next (s.dlDown (s.arg 0))

/-- DL_UP (R335, R407): one message for every vector whose enabled bits are not all zero. -/
def State.dlUp (s : State) (l : Nat) : State :=
  if 2 ≤ l ∨ s.hostLinkUp.getD l true = true then s
  else
    let s := (s.carried l).foldl (fun (s : State) f => s.raiseInt f 3) s
    let fire (f : Nat) : List (Nat × Nat × Nat) :=
      ((List.range 4).filter (fun v => decide ((Tab.get 0 s.intst f &&& Tab.get 0 s.inten f).toNat &&& vectorBits v ≠ 0))).map (fun v => (l, f, v))
    { s with hostLinkUp := s.hostLinkUp.set l true, msix := s.msix ++ (s.carried l).flatMap fire }
/-- DL_UP (R407). -/
def execDlUp (s : State) : Host.Outcome State Fault Refusal := .next (s.dlUp (s.arg 0))

/-! ## Oar packets (R339, R340) -/

/-- Oar link `n`. -/
def State.oar (s : State) (n : Nat) : Oar := s.oars.getD n Oar.down
/-- Change oar link `n`. -/
def State.modOar (s : State) (n : Nat) (f : Oar → Oar) : State := { s with oars := s.oars.modify n f }
/-- EN of oar link `n` (R338). -/
def State.oarEn (s : State) (n : Nat) : Bool := bit (s.reg (0x6000 + 16 * n)) 0
/-- SEQN of a packet. -/
def OarPkt.seqn (p : OarPkt) : Nat := bits p.hdr.toNat 191 176

/-- OAR_PACKET_SEND (R339, R409): the next packet of link `n` is sent; the rider whose last packet it is writes its stamp (R260). -/
def State.oarSend (s : State) (n : Nat) : State :=
  let o := s.oar n
  match o.sendq with
  | [] => s
  | p :: t =>
    if !o.lup ∨ s.oarEn n = false ∨ 1024 ≤ o.unacked.length then s
    else
      let h := p.hdr.toNat % 2 ^ 176 + o.nextSeq * 2 ^ 176 + s.dieNs 4 * 2 ^ 192
      let s := s.modOar n (fun o => { o with
        sendq := t, nextSeq := (o.nextSeq + 1) % 2 ^ 16, unacked := o.unacked ++ [{ p with hdr := BitVec.ofNat 256 h }] })
      let s := match s.rider? p.rider with
        | some r => if r.parts.all Part.done ∧ r.fail.isNone ∧ r.stopped = false then s.endPeer r else s
        | none => s
      if t.isEmpty then s else s.post .oarPacketSend [n]
/-- OAR_PACKET_SEND (R339). -/
def execOarPacketSend (s : State) : Host.Outcome State Fault Refusal := .next (s.oarSend (s.arg 0))

/-- OAR_ACK_RECEIVE (R339): the packet of SEQN `q` is written at its target. -/
def State.oarAck (s : State) (n q : Nat) : State :=
  let ps := (s.oar n).unacked.filter (fun p => decide (p.seqn = q))
  let s := s.modOar n (fun o => { o with unacked := o.unacked.filter (fun p => decide (p.seqn ≠ q)) })
  let s := (ps.filterMap OarPkt.team).foldl (fun (s : State) t => s.post .completionStamp [t]) s
  if (s.oar n).sendq.isEmpty then s else s.post .oarPacketSend [n]
/-- The window open over physical address `pa` in its stack (R88, R340). -/
def State.windowAt (s : State) (pa : Nat) : Option Rider :=
  s.riders.find? (fun q => q.opensWindow && q.parts.any (fun p => decide (p.pc = pa / 2 ^ 30)
    && (p.runs ++ p.gave).any (fun z => decide (s.partPa p z.off ≤ pa ∧ pa < s.partPa p (z.off + z.len)))))

/-- Where the words of a packet go: window number and address of each word that is a contribution (R340). -/
def State.packetWords (s : State) (runs : List (Nat × Nat × Nat × Option Nat)) (n : Nat) : List (Option (Nat × Nat)) :=
  (List.range n).map (fun i =>
    match runs.find? (fun r => decide (r.2.2.1 ≤ i ∧ i < r.2.2.1 + r.2.1)) with
    | none => none
    | some r =>
      let pa := r.1 + 4 * (i - r.2.2.1)
      (s.windowAt pa).map (fun q => (q.f 255 250, pa)))

/-- OAR_PACKET_RECEIVE (R340): the first packet received on link `n` is translated and becomes contributions and deposits; an acknowledgement frees the
packet of its SEQN (R339). A packet received whole is acted on though the link retrains, is down or was started anew since, but an acknowledgement
is then void, and none is sent (R409). -/
def State.oarTake (s : State) (n : Nat) : State :=
  let o := s.oar n
  match o.recv with
  | [] => s
  | p :: t =>
    let hi := s.reg (0x6000 + 16 * n + 8)
    let asid := bits hi 47 36
    let func := bits hi 35 28
    let h := p.hdr.toNat
    let va := bits h 48 0
    let nw := bits h 171 166 + 1
    if s.waiting.any (fun q => decide (q.owner = .oar n)) then s
    else if bits h 175 172 = 2 ∧ p.stale = false then (s.modOar n (fun o => { o with recv := t })).oarAck n p.seqn
    else if bits h 175 172 ≠ 1 then s.modOar n (fun o => { o with recv := t })
    else
      let x := s.xlate 48 asid true va nw 0 1025
      if !x.miss.isEmpty then s.startWalks 48 asid x.miss
      else
        let ws := s.packetWords x.runs nw
        let word (i : Nat) : Word := p.words.getD i 0
        let cs : List Contrib := (List.range nw).filterMap (fun i => ((ws[i]?).bind id).map (fun c =>
          { stack := c.2 / 2 ^ 36, win := c.1, pa := c.2, half := 0, word := word i, time := bits h 255 192, src := n, seq := p.seqn, arrived := 0,
            func := func, unit := none }))
        let rest := runsOf ((List.range nw).filter (fun i => ((ws[i]?).bind id).isNone))
        let first := s.contribs.length
        let s := s.modOar n (fun o => { o with recv := t, taken := if p.stale then o.taken else o.taken ++ [(p.seqn, [])] })
        let s := { s with contribs := s.contribs ++ cs }
        let s := rest.foldl (fun (s : State) r =>
          let q := { Rider.ask .dep (.oar n) 36 func asid none (mkRecord r.2 0 0 0 0) (va + 4 * r.1) p.seqn with
                     src := (List.range r.2).map (fun i => word (r.1 + i)) }
          s.admitOrWait q 4 48) s
        (List.range cs.length).foldr (fun i (s : State) => s.post .landingContribution [first + i]) (s.post .oarAckSend [n])
/-- The link carries packets: it is up, and EN = 1 (R338, R409). -/
def State.carries (s : State) (n : Nat) : Bool := (s.oar n).lup && s.oarEn n
/-- OAR_PACKET_RECEIVE (R338, R340): a packet that arrives with the event, header and words, joins those received, where the link carries packets. -/
def execOarPacketReceive (s : State) : Host.Outcome State Fault Refusal :=
  let n := s.arg 0
  let s := match s.ev, s.carries n with
    | _ :: h :: ws, true => s.modOar n (fun o => { o with recv := o.recv ++ [(⟨BitVec.ofNat 256 h, ws.map (BitVec.ofNat 32), 0, 36, none⟩ : OarPkt)] })
    | _, _ => s
  .next (s.oarTake n)

/-- The deposits of packet `q` of link `n` have ended and its contributions have entered the landing buffer (R340). -/
def State.oarDone (s : State) (n q : Nat) : Bool :=
  !(s.riders ++ s.waiting).any (fun r => decide (r.owner = .oar n ∧ r.stamp = q))
    && !s.contribs.any (fun c => decide (c.src = n ∧ c.seq = q ∧ c.arrived = 0 ∧ c.unit.isNone))
/-- The header of an acknowledgement: TIME, the SEQN acknowledged, TYPE 2 (R339). -/
def ackHeader (time q : Nat) : BitVec 256 := BitVec.ofNat 256 (2 * 2 ^ 172 + q % 2 ^ 16 * 2 ^ 176 + time * 2 ^ 192)
/-- OAR_ACK_SEND (R338 to R340): an acknowledgement is sent for each packet of link `n` that is done, where the link carries packets. -/
def State.oarAckSend (s : State) (n : Nat) : State :=
  if !s.carries n then s
  else
    let done := (s.oar n).taken.filter (fun x => s.oarDone n x.1)
    s.modOar n (fun o => { o with taken := o.taken.filter (fun x => !s.oarDone n x.1), acks := o.acks ++ done.map (fun x => ackHeader (s.dieNs 4) x.1) })
/-- OAR_ACK_SEND (R340). -/
def execOarAckSend (s : State) : Host.Outcome State Fault Refusal := .next (s.oarAckSend (s.arg 0))

/-- OAR_ACK_RECEIVE (R338, R339): an acknowledgement arrives, where the link carries packets. -/
def execOarAckReceive (s : State) : Host.Outcome State Fault Refusal :=
  .next (if s.carries (s.arg 0) then s.oarAck (s.arg 0) (s.arg 1) else s)

/-! ## Retraining (R337, R409, R410) -/

/-- The die that names a die link in LOC 40 + d (R355, R410). -/
def dieLinkName (l : Nat) : Nat := if l < 4 then l else if Config.linkNamedByHigher l then (dieLinkEnds l).2 else (dieLinkEnds l).1

/-- OAR_RETRAIN (R409). -/
def State.oarRetrain (s : State) (n : Nat) : State :=
  if (s.oar n).lup then s.modOar n (fun o => { o with retrain := true, since := s.ns, retries := 0 }) else s
/-- OAR_RETRAIN (R409). -/
def execOarRetrain (s : State) : Host.Outcome State Fault Refusal := .next (s.oarRetrain (s.arg 0))

/-- OAR_RETRAIN_COMPLETE (R409): within 2 ms the link comes back, and sends again from its first unacknowledged flit. It has learned the
PKGID of the package at its far end (R338). -/
def State.oarTrained (s : State) (n peer : Nat) : State :=
  let o := s.oar n
  if o.retrain ∧ s.ns ≤ o.since + 2000000 then
    (({ s with oars := s.oars.set n { o with up := true, retrain := false, retries := 0, peer := peer % 2 ^ 16 } } : State).raiseInt 0 3).post .oarPacketSend [n]
  else s
/-- OAR_RETRAIN_COMPLETE (R409). -/
def execOarRetrainComplete (s : State) : Host.Outcome State Fault Refusal := .next (s.oarTrained (s.arg 0) (s.arg 1))

/-- LINK_DOWN (R409): a link not retrained in 2 ms drops its unacknowledged packets; the launches that sent them end FAULTED. -/
def State.oarDown (s : State) (n : Nat) : State :=
  let o := s.oar n
  if ¬ o.retrain ∨ s.ns < o.since + 2000000 then s
  else if ¬ o.up then s.modOar n (fun o => { o with retrain := false })
  else
    let s := s.modOar n (fun o => { o with up := false, retrain := false, unacked := [] })
    let s := (o.unacked.filterMap OarPkt.team).foldl (fun (s : State) t => s.modTeam t (fun tm => { tm with failed := true })) s
    let s := (s.queueRec (s.linkRec 0 n ((o.unacked.head?.map OarPkt.seqn).getD 0) o.unacked.length)).raiseInt 0 3
    (o.unacked.filterMap OarPkt.team).foldl (fun (s : State) t => s.post .completionStamp [t]) s
/-- LINK_DOWN (R409). -/
def execLinkDown (s : State) : Host.Outcome State Fault Refusal := .next (s.oarDown (s.arg 0))

/-- DIE_LINK_RETRAIN (R410). -/
def State.dieRetrainStart (s : State) (l : Nat) : State :=
  if s.dieLinkUp.getD l false ∧ ¬ s.dieRetrain.getD l false then
    { s with dieRetrain := s.dieRetrain.set l true, dieSince := Tab.set 0 s.dieSince l s.ns, dieRetries := Tab.set 0 s.dieRetries l 0 }
  else s
/-- DIE_LINK_RETRAIN (R410). -/
def execDieLinkRetrain (s : State) : Host.Outcome State Fault Refusal := .next (s.dieRetrainStart (s.arg 0))

/-- DIE_LINK_RETRAIN_COMPLETE (R410). -/
def State.dieTrained (s : State) (l : Nat) : State :=
  if s.dieRetrain.getD l false ∧ s.ns ≤ Tab.get 0 s.dieSince l + 2000000 then
    ({ s with dieRetrain := s.dieRetrain.set l false, dieRetries := Tab.set 0 s.dieRetries l 0 } : State).raiseInt 0 3
  else s
/-- DIE_LINK_RETRAIN_COMPLETE (R410). -/
def execDieLinkRetrainComplete (s : State) : Host.Outcome State Fault Refusal := .next (s.dieTrained (s.arg 0))

/-- Team `t` has a member, a region or a rider part on die `d` (R410). -/
def State.teamOnDie (s : State) (t : Nat) (tm : Team) (d : Nat) : Bool :=
  decide (d < 4) && (tm.cores.any (fun c => decide (c / 8 = d)) || s.regions.any (fun r => decide (r.team = t ∧ r.die = d) && !r.idle)
    || s.riders.any (fun r => decide (r.team = some t) && r.parts.any (fun p => decide (p.pc / 192 = d))))

/-- DIE_LINK_DOWN (R410): a die link not retrained in 2 ms ends every team on either of its dies. -/
def State.dieDown (s : State) (l : Nat) : State :=
  if ¬ s.dieRetrain.getD l false ∨ s.ns < Tab.get 0 s.dieSince l + 2000000 then s
  else
    let s := { s with dieLinkUp := s.dieLinkUp.set l false, dieRetrain := s.dieRetrain.set l false }
    let e := dieLinkEnds l
    let on := ((List.range s.teams.length).zip s.teams).filter (fun x => decide (x.2.st ≠ .ended) && x.2.ending.isNone
      && (s.teamOnDie x.1 x.2 e.1 || s.teamOnDie x.1 x.2 e.2))
    on.foldl (fun (s : State) x => (s.queueRec (s.linkRec x.2.func (40 + dieLinkName l) 0 0)).endTeam x.1 0x04 0x17) (s.raiseInt 0 3)
/-- DIE_LINK_DOWN (R410). -/
def execDieLinkDown (s : State) : Host.Outcome State Fault Refusal := .next (s.dieDown (s.arg 0))

/-- FLIT_RETRY (R337, R409, R410): flit `q` of oar link 0 to 17, or of die link 40 + l, fails its CRC at a retry. The count of that flit's
consecutive retries advances, one of another flit begins anew; the 16th starts retraining. -/
def State.flitRetry (s : State) (l q : Nat) : State :=
  if l < 18 then
    let n := if (s.oar l).flit = q then (s.oar l).retries + 1 else 1
    let s := s.modOar l (fun o => { o with retries := n, flit := q })
    if 16 ≤ n then s.post .oarRetrain [l] else s
  else if 40 ≤ l ∧ l < 50 then
    let n := if Tab.get 0 s.dieFlit (l - 40) = q then Tab.get 0 s.dieRetries (l - 40) + 1 else 1
    let s := { s with dieRetries := Tab.set 0 s.dieRetries (l - 40) n, dieFlit := Tab.set 0 s.dieFlit (l - 40) q }
    if 16 ≤ n then s.post .dieLinkRetrain [l - 40] else s
  else s
/-- FLIT_RETRY (R337): the link and the flit. -/
def execFlitRetry (s : State) : Host.Outcome State Fault Refusal := .next (s.flitRetry (s.arg 0) (s.arg 1))

end Sys2Proof.Machine
end

