-- ==== Sys2Proof/Machine/Power.lean ====
section
/-! DEFINITION. The power arbiter: budgets, operating points, the pause of an island clock, and the junction sensors (R22 to R25, R411). -/

namespace Sys2Proof.Machine

open Sys2Proof

/-- What the fabric islands share (R23): the current of the 3,600 W sustained (R1) less the full need of islands 20 to 23. -/
def State.fabricBudget (s : State) : Nat := Config.currentOf 3600 - ((List.range 4).map (fun i => Config.fixedNeed s.fresh (20 + i))).sum

/-- The budget of fabric island `i` at a reassignment (R23): its share of what is left, by measured demand. -/
def State.newBudget (s : State) (i : Nat) : Nat :=
  let all := ((List.range 20).map (Config.measuredDemand s.fresh)).sum
  if all = 0 then Config.budgetRound s.fresh i % 2 ^ 16
  else s.fabricBudget * Config.measuredDemand s.fresh i / all + Config.budgetRound s.fresh i % 2

/-- The highest operating point, 24 down to 12, whose predicted current fits a budget; 12 where none does. -/
def State.pointFor (s : State) (i budget : Nat) : Nat → Nat
  | 0 => 12
  | n + 1 => if Config.predictedCurrent s.fresh i (12 + n) ≤ budget then 12 + n else s.pointFor i budget n

/-- The reserved need of islands 20 to 23 and the predicted current of every fabric island at 600 MHz exceed the budget together (R411). -/
def State.overload (s : State) : Bool :=
  decide (Config.currentOf 3600 < ((List.range 4).map (fun i => Config.fixedNeed s.fresh (20 + i))).sum
    + ((List.range 20).map (fun i => Config.predictedCurrent s.fresh i 12)).sum)

/-- The operating point that the arbiter assigns (R23, R411). -/
def State.newPoint (s : State) (i budget : Nat) : Nat :=
  if s.overload ∨ s.thermCap.getD (i / 5) false = true then 12 else s.pointFor i budget 13

/-- A fabric island takes a point: where it differs, its clock pauses at its next edge for 40 ns and goes on at the new frequency (R24). -/
def State.setPoint (s : State) (i v : Nat) : State :=
  if v = s.islIfreq i then s
  else
    let t := s.nextEdge i + 40000
    { s with islFreq := Tab.set 0 s.islFreq i (if v = 24 then 0 else v), islFrom := Tab.set 0 s.islFrom i t,
             islCount := Tab.set 0 s.islCount i (s.cycle i + 1),
             islHold := if s.paused i then s.islHold else Tab.set 0 s.islHold i t }

/-- A microsecond in which a fabric island ran below 1,200 MHz is counted; none has run at time 0 (R25). -/
def State.throttled (s : State) (i t : Nat) : State :=
  if i < 20 ∧ t ≠ 0 ∧ s.islIfreq i < 24 then { s with islThrot := Tab.set 0 s.islThrot i ((Tab.get 0 s.islThrot i + 1) % 2 ^ 32) } else s

/-- The status entry of an island after a reassignment (R25). -/
def State.publish (s : State) (i budget t : Nat) : State :=
  { s with islBudget := Tab.set 0 s.islBudget i (budget % 2 ^ 16), islStamp := Tab.set 0 s.islStamp i t,
           islShown := if i < 20 then Tab.set 0 s.islShown i (if s.islIfreq i = 24 then 0 else s.islIfreq i) else s.islShown }

/-- POWER_REASSIGNMENT (R23): at a value of the time base that is a multiple of 1,000, once. -/
def State.reassign (s : State) : State :=
  let t := s.dieNs 4
  if t % 1000 ≠ 0 ∨ s.reassigned = some t then s
  else
    let s1 := (List.range 20).foldl (fun (a : State) i => ((a.throttled i t).setPoint i (s.newPoint i (s.newBudget i))).publish i (s.newBudget i) t) s
    let s2 := (List.range 4).foldl (fun (a : State) i => a.publish (20 + i) (Config.fixedNeed s.fresh (20 + i)) t) s1
    { s2 with fresh := s2.fresh + 1, reassigned := some t }
/-- POWER_REASSIGNMENT (R23). -/
def execPowerReassignment (s : State) : Host.Outcome State Fault Refusal := .next s.reassign

/-- What waits in the retiming FIFOs of quadrant island `i` enters it (R22, R24): bytes, or flags where there are none, and the words of streams. -/
def State.release (s : State) (i : Nat) : State :=
  if s.paused i then s
  else
    let mine (x : Option Nat × Nat × Nat × Nat × Nat) : Bool := decide (coreIsl x.2.1 = i)
    let s := (s.retime.filter mine).foldl (fun (s : State) x =>
      if x.2.2.2.1 = 0 then s.modContext x.1 x.2.1 (fun k => k.orFlags (BitVec.ofNat 7 x.2.2.2.2))
      else s.deliverNow x.1 x.2.1 x.2.2.1 x.2.2.2.1 x.2.2.2.2) { s with retime := s.retime.filter (fun x => !mine x) }
    s.portWords.foldl (fun (s : State) x => s.portFeed (some (x.1 / 256)) (x.1 % 256 / 8) (x.1 % 8)) s

/-- CLOCK_RESUME (R24): the pause of island `i` is over; one for a point assigned during it is still to come. -/
def State.clockResume (s : State) (i : Nat) : State :=
  let h := Tab.get 0 s.islHold i
  if h ≠ 0 ∧ h ≤ s.ps then
    ({ s with islHold := Tab.set 0 s.islHold i (if h < Tab.get 0 s.islFrom i then Tab.get 0 s.islFrom i else 0) } : State).release i
  else s
/-- CLOCK_RESUME (R24). -/
def execClockResume (s : State) : Host.Outcome State Fault Refusal := .next (s.clockResume (s.arg 0))

/-- THERMAL_CAP (R411): every fabric island of die `d` runs at 600 MHz at most. -/
def State.thermalCap (s : State) (d : Nat) : State :=
  if d < 4 then (List.range 5).foldl (fun (s : State) i => s.setPoint (5 * d + i) 12) { s with thermCap := s.thermCap.set d true } else s
/-- THERMAL_CAP (R411). -/
def execThermalCap (s : State) : Host.Outcome State Fault Refusal := .next (s.thermalCap (s.arg 0))

end Sys2Proof.Machine
end

