-- ==== Sys2Proof/Machine/Trust.lean ====
section
/-! DEFINITION. Boot, attestation, key slots, the tamper alarm and the resets (R341 to R344, R396, R412, R416, R417). -/

namespace Sys2Proof.Machine

open Sys2Proof

/-! ## Boot (R341) -/

/-- HUB_RESET_RELEASE (R20, R341): the time base starts at 0 and the ROM reads image A. -/
def State.hubRelease (s : State) : State :=
  if s.boot = .reset then
    { s with boot := .romCheckA, now := 0, islBudget := [], islThrot := [], islStamp := [], islHold := [], islFrom := [], islCount := [], islShown := [], reassigned := none, retime := []
             islFreq := ((List.range 20).filter (fun i => s.thermCap.getD (i / 5) false)).map (fun i => (i, 12)) }
  else s
/-- HUB_RESET_RELEASE (R341). -/
def execHubResetRelease (s : State) : Host.Outcome State Fault Refusal := .next s.hubRelease

/-- A digest as the number of its bytes, byte 0 lowest. -/
def digestNum (m : List Byte) : Nat := packCodes 8 ((sha256Bytes m).map BitVec.toNat)

/-- The ROM's check of an image (R341): the public key is the fused one, and the signature verifies. -/
def State.imageOk (s : State) (img pub sig : List Byte) : Bool := decide (digestNum pub = s.fuseKey.toNat) && hssOk pub sig img

/-- ROM_CHECK (R341): the signature of the image verifies or not; its security version; the SHA-256 digest of the image. -/
def State.romCheck (s : State) (ok svn digest : Nat) : State :=
  if s.boot ≠ .romCheckA ∧ s.boot ≠ .romCheckB then s
  else if ok = 1 ∧ s.minSvn ≤ svn then { s with boot := .fwStart, fwsvn := svn, meas0 := BitVec.ofNat 256 digest }
  else if s.boot = .romCheckA then { s with boot := .romCheckB }
  else { s with boot := .halted }
/-- ROM_CHECK (R341). The image lies in a flash outside the machine. The event brings the ROM's verdict, 1 or 0, with the image's security version and
digest; or, with 2, the security version and the number of bytes of the image, then these bytes, the 60 of the public key and the signature, which
the ROM checks (log entry 96). -/
def execRomCheck (s : State) : Host.Outcome State Fault Refusal :=
  let b := (s.ev.drop 3).map (BitVec.ofNat 8)
  let img := b.take (s.arg 2)
  .next (if s.arg 0 = 2 then
      s.romCheck (b2n (s.imageOk img (sliceOf b (s.arg 2) 60) (b.drop (s.arg 2 + 60)))) (s.arg 1) (digestNum img)
    else s.romCheck (s.arg 0) (s.arg 1) (s.arg 2))

/-- FIRMWARE_READY (R341): the stacks, islands and links are initialised; the digest of the configuration tables is taken. The running firmware may have
raised the fused minimum, to its own security version at most. -/
def State.firmwareReady (s : State) (digest svn : Nat) : State :=
  if s.boot = .fwStart then
    { s with boot := .ready, meas1 := BitVec.ofNat 256 digest, minSvn := Nat.max s.minSvn (Nat.min svn s.fwsvn) }
  else s
/-- FIRMWARE_READY (R341): the digest, and the minimum that the firmware asks for, 0 for none. -/
def execFirmwareReady (s : State) : Host.Outcome State Fault Refusal := .next (s.firmwareReady (s.arg 0) (s.arg 1))

/-! ## Attestation (R342, R343) -/

/-- ATTEST_GO (R342, R343): BUSY; the next leaf is noted in non-volatile storage before a signature leaves. A key that has signed 2^30 times is
spent. -/
def State.attestGo (s : State) : State :=
  if bit s.attest 0 then s else { s with attest := 1, sigUsed := Nat.min (2 ^ 30 + 1) (s.sigUsed + 1) }
/-- ATTEST_GO (R343), while the registers respond (R341, R412). -/
def execAttestGo (s : State) : Host.Outcome State Fault Refusal := .next (if s.responds then s.attestGo else s)

/-- Bytes 0 to 111 of the report (R343), as one number. -/
def State.reportHead (s : State) : Nat :=
  s.nonce.toNat + s.dieNs 4 % 2 ^ 64 * 2 ^ 256 + s.fwsvn % 2 ^ 16 * 2 ^ 320 + s.meas0.toNat * 2 ^ 384 + s.meas1.toNat * 2 ^ 640
/-- ATTEST_DONE (R342, R343): the report stands with its signature over bytes 0 to 111, or ERR. -/
def State.attestDone (s : State) : State :=
  if !bit s.attest 0 then s
  else if 2 ^ 30 < s.sigUsed then { s with attest := 4 }
  else
    let m : Memory := Memory.writeN [] 0 112 s.reportHead
    { s with attest := 2, report := m.putBytes 112 (hssSign (s.sigUsed - 1) (beBytes 112 s.reportHead).reverse) }
/-- ATTEST_DONE (R343). -/
def execAttestDone (s : State) : Host.Outcome State Fault Refusal := .next s.attestDone

/-! ## Keys (R344) -/

/-- A command of OP `o` is to run on slot `n`. -/
def State.keyRuns (s : State) (o n : Nat) : Bool :=
  match s.keyBusy with
  | some v => decide (bits v.toNat 9 8 = o ∧ bits v.toNat 7 0 = n) && !v.getLsbD 62
  | none => false
/-- The slot takes new contents, and the command has run. -/
def State.keySet (s : State) (n : Nat) : State :=
  ({ s with keySlots := Tab.set 0 s.keySlots n (Config.randomKey s.fresh), fresh := s.fresh + 1,
            keyBusy := s.keyBusy.map (fun v => v ||| 0x4000000000000000) } : State).post .keycmdDone []
/-- KEY_GENERATE (R344): a new key is made on die. -/
def execKeyGenerate (s : State) : Host.Outcome State Fault Refusal := .next (if s.keyRuns 0 (s.arg 0) then s.keySet (s.arg 0) else s)
/-- KEY_ERASE (R344): the key is gone; what the slot then holds is open. -/
def execKeyErase (s : State) : Host.Outcome State Fault Refusal := .next (if s.keyRuns 1 (s.arg 0) then s.keySet (s.arg 0) else s)
/-- KEYCMD_DONE (R344): GO reads 0 again once the command has run. -/
def State.keyDone (s : State) : State := if s.keyBusy.any (fun v => v.getLsbD 62) then { s with keyBusy := none } else s
/-- KEYCMD_DONE (R344). -/
def execKeycmdDone (s : State) : Host.Outcome State Fault Refusal := .next s.keyDone

/-! ## The alarm (R416, R417) -/

/-- A part aboard an ENC page meets its erased key at its next word (R417). -/
def Part.eraseKey (p : Part) : Part := { p with runs := p.runs.map (fun z => { z with key := z.key.map (fun _ => 2 ^ 256) }) }

/-- Queue configuration words with EN 0. -/
def closeQueues (t : Tab DWord) : Tab DWord :=
  (t.map (fun (e : Nat × DWord) => (e.1, e.2 &&& ~~~0x400000000))).filter (fun (e : Nat × DWord) => decide (e.2 ≠ 0))
/-- A walk that has found an ENC page ends in a fault entry: no admission after the alarm touches the page (R417). -/
def Walk.eraseKey (w : Walk) : Walk :=
  { w with found := w.found.map (fun e => if e.enc then ⟨e.tile, e.asid, w.va, 2 ^ 14, 0, false, false, 0, some (0x16, w.level)⟩ else e) }

/-- With ERASE = 1 (R417): keys, the tree parents on die and cached ENC translations go, queues close, every running team ends. A rewrite of a tree
in progress is over, its key being gone. -/
def State.eraseKeys (s : State) : State :=
  let s := { s with
    keySlots := (List.range 256).foldl (fun (t : Tab (BitVec 256)) i => Tab.set 0 t i (Config.randomKey (s.fresh + i))) [], fresh := s.fresh + 256,
    bar0 := (List.range 1024).foldl (fun (t : Tab DWord) i => Tab.mod 0 t (0x7000 / 8 + i) (fun v => v &&& 0x7FFF7FFF7FFF7FFF)) s.bar0,
    treeKey := [], treeCtr := s.treeCtr.filter (fun e => decide (e.1 / 2 ^ 32 % 2 ^ 8 ≠ 6)), treeWait := [], tlb := s.tlb.filter (fun (e : Tlb) => !e.enc),
    walks := s.walks.map Walk.eraseKey,
    qnew := closeQueues s.qnew, qcfg := closeQueues s.qcfg,
    riders := (s.riders.filter (fun (r : Rider) => decide (r.kind ≠ .rekey))).map (fun (r : Rider) => { r with parts := r.parts.map Part.eraseKey }) }
  (List.range s.teams.length).foldl (fun (s : State) t => s.endTeam t 0x04 0x1C) s

/-- ALARM (R416): sensor `n` fires, 0 voltage, 1 clock, 2 temperature, 3 enclosure mesh. -/
def State.alarmFires (s : State) (n : Nat) : State :=
  if 4 ≤ n then s
  else
    let s := { s with alarm := s.alarm ||| BitVec.ofNat 64 (2 ^ (16 + n) + 2 ^ 8) }
    let r : RecF := { time := s.dieNs 4, code := 0x1C, sk := 6, loc := 2, op0 := bits s.alarm.toNat 19 16 }
    let s := (s.queueRec r.pack).raiseInt 0 4
    if s.alarm.getLsbD 0 then s.eraseKeys else s
/-- ALARM (R416, R417). -/
def execAlarm (s : State) : Host.Outcome State Fault Refusal := .next (s.alarmFires (s.arg 0))

/-! ## Resets (R396, R412) -/

/-- VF_FLR (R396): the teams of function `f` end as for HOST_ABORT, its held launch records are discarded without stamps. -/
def State.vfReset (s : State) (f : Nat) : State :=
  if f = 0 ∨ 64 < f then s
  else
    let s := { s with flr := s.flr.filter (· ≠ f) ++ [f], launches := s.launches.filter (fun l => decide (s.launchFunc l ≠ f)) }
    let ts := (List.range s.teams.length).filter (fun t => (s.team? t).any (fun tm => decide (tm.func = f ∧ tm.st ≠ .ended) && tm.ending.isNone))
    let s := ts.foldl (fun (s : State) t => (s.queueRec { time := s.dieNs 4, code := 0x18, sk := 6, func := f : RecF }.pack).endTeam t 0x05 0x18) s
    s.flrDone f
/-- VF_FLR (R396). -/
def execVfFlr (s : State) : Host.Outcome State Fault Refusal := .next (s.vfReset (s.arg 0))

/-- Bytes of DRAM: physical addresses below 2^40. -/
def Memory.dram (m : Memory) : Memory := m.filter (fun c => decide (c.1 < 2 ^ 40))

/-- Everything at its reset value but what no reset reaches: the fuses, the non-volatile leaf index, the copies' skew, the junction sensors, the turns still to be taken,
the counters of this model, and what the host has already received. -/
def State.afterReset (s : State) : State :=
  { State.reset with
    skew := s.skew, turns := s.turns, fresh := s.fresh, nextId := s.nextId, minSvn := s.minSvn, fuseKey := s.fuseKey, sigUsed := s.sigUsed, msix := s.msix,
    thermCap := s.thermCap, hostReqs := s.hostReqs, hostRead := s.hostRead }

/-- A reset of the physical function, a hot reset or a conventional reset (R396): DRAM keeps its contents, with check codes and metadata. Only a
conventional reset clears ALARMCTL (R416). -/
def State.deviceReset (s : State) (conventional : Bool) : State :=
  { s.afterReset with
    mem := s.mem.dram, eccBad := s.eccBad.filter (fun e => decide (e.1 < 2 ^ 34)), cellCc := s.cellCc, cellMac := s.cellMac, pageGen := s.pageGen,
    treeCtr := s.treeCtr.filter (fun e => decide (e.1 / 2 ^ 32 % 2 ^ 8 ≠ 6)), alarm := if conventional then 0 else s.alarm }
/-- DEVICE_RESET (R396, R416): operand 0 a conventional reset, 1 a function-level reset of the physical function, 2 a hot reset. -/
def execDeviceReset (s : State) : Host.Outcome State Fault Refusal := .next (s.deviceReset (decide (s.arg 0 = 0)))

/-- POWER_LOSS (R396): only the leaf index of R342, and the fuses, are kept. -/
def execPowerLoss (s : State) : Host.Outcome State Fault Refusal := .next s.afterReset

/-- THERMAL_HALT (R412): above 125 °C the hub performs a conventional reset, and only DEVST responds. -/
def execThermalHalt (s : State) : Host.Outcome State Fault Refusal := .next { s.deviceReset true with boot := .thermHalt }

/-- THERMAL_RESTART (R412): every die is below 95 °C; the boot proceeds from Reset. -/
def State.thermalRestart (s : State) : State := if s.boot = .thermHalt then ({ s with boot := .reset } : State).post .hubResetRelease [] else s
/-- THERMAL_RESTART (R412). -/
def execThermalRestart (s : State) : Host.Outcome State Fault Refusal := .next s.thermalRestart

/-- THERMAL_CAP_LIFT (R411): the next reassignment is free of the cap of die `d`. -/
def execThermalCapLift (s : State) : Host.Outcome State Fault Refusal := .next { s with thermCap := s.thermCap.set (s.arg 0) false }

end Sys2Proof.Machine
end

