-- ==== Sys2Proof/Machine/Dispatch.lean ====
section
/-! DEFINITION. The dispatch: one arm per instruction, each a direct call of its meaning. -/

namespace Sys2Proof.Machine

open Sys2Proof

/-- What an instruction does (spec/opcode_table.json, row by row). -/
def exec (i : Instr) (s : State) : Host.Outcome State Fault Refusal :=
  match i with
  | .add d a b => Sys2Proof.Machine.execAdd d a b s
  | .sub d a b => Sys2Proof.Machine.execSub d a b s
  | .and d a b => Sys2Proof.Machine.execAnd d a b s
  | .or d a b => Sys2Proof.Machine.execOr d a b s
  | .xor d a b => Sys2Proof.Machine.execXor d a b s
  | .sll d a b => Sys2Proof.Machine.execSll d a b s
  | .srl d a b => Sys2Proof.Machine.execSrl d a b s
  | .sra d a b => Sys2Proof.Machine.execSra d a b s
  | .min d a b => Sys2Proof.Machine.execMin d a b s
  | .max d a b => Sys2Proof.Machine.execMax d a b s
  | .minu d a b => Sys2Proof.Machine.execMinu d a b s
  | .maxu d a b => Sys2Proof.Machine.execMaxu d a b s
  | .mul d a b => Sys2Proof.Machine.execMul d a b s
  | .mulh d a b => Sys2Proof.Machine.execMulh d a b s
  | .mulhu d a b => Sys2Proof.Machine.execMulhu d a b s
  | .div d a b => Sys2Proof.Machine.execDiv d a b s
  | .divu d a b => Sys2Proof.Machine.execDivu d a b s
  | .rem d a b => Sys2Proof.Machine.execRem d a b s
  | .remu d a b => Sys2Proof.Machine.execRemu d a b s
  | .cmpEq d a b => Sys2Proof.Machine.execCmpEq d a b s
  | .cmpNe d a b => Sys2Proof.Machine.execCmpNe d a b s
  | .cmpLt d a b => Sys2Proof.Machine.execCmpLt d a b s
  | .cmpGe d a b => Sys2Proof.Machine.execCmpGe d a b s
  | .cmpLtu d a b => Sys2Proof.Machine.execCmpLtu d a b s
  | .cmpGeu d a b => Sys2Proof.Machine.execCmpGeu d a b s
  | .pand d a b => Sys2Proof.Machine.execPand d a b s
  | .por d a b => Sys2Proof.Machine.execPor d a b s
  | .pxor d a b => Sys2Proof.Machine.execPxor d a b s
  | .pandn d a b => Sys2Proof.Machine.execPandn d a b s
  | .pmov d a => Sys2Proof.Machine.execPmov d a s
  | .pset d a => Sys2Proof.Machine.execPset d a s
  | .extu d a b => Sys2Proof.Machine.execExtu d a b s
  | .exts d a b => Sys2Proof.Machine.execExts d a b s
  | .ins d a b => Sys2Proof.Machine.execIns d a b s
  | .clz d a => Sys2Proof.Machine.execClz d a s
  | .ctz d a => Sys2Proof.Machine.execCtz d a s
  | .popc d a => Sys2Proof.Machine.execPopc d a s
  | .addi d a im => Sys2Proof.Machine.execAddi d a im s
  | .andi d a im => Sys2Proof.Machine.execAndi d a im s
  | .ori d a im => Sys2Proof.Machine.execOri d a im s
  | .xori d a im => Sys2Proof.Machine.execXori d a im s
  | .slli d a n => Sys2Proof.Machine.execSlli d a n s
  | .srli d a n => Sys2Proof.Machine.execSrli d a n s
  | .srai d a n => Sys2Proof.Machine.execSrai d a n s
  | .cmpiEq d a im => Sys2Proof.Machine.execCmpiEq d a im s
  | .cmpiNe d a im => Sys2Proof.Machine.execCmpiNe d a im s
  | .cmpiLt d a im => Sys2Proof.Machine.execCmpiLt d a im s
  | .cmpiGe d a im => Sys2Proof.Machine.execCmpiGe d a im s
  | .cmpiLtu d a im => Sys2Proof.Machine.execCmpiLtu d a im s
  | .cmpiGeu d a im => Sys2Proof.Machine.execCmpiGeu d a im s
  | .lui d im => Sys2Proof.Machine.execLui d im s
  | .ldB d a im => Sys2Proof.Machine.execLdB d a im s
  | .ldH d a im => Sys2Proof.Machine.execLdH d a im s
  | .ldW d a im => Sys2Proof.Machine.execLdW d a im s
  | .ldD d a im => Sys2Proof.Machine.execLdD d a im s
  | .stB q a im => Sys2Proof.Machine.execStB q a im s
  | .stH q a im => Sys2Proof.Machine.execStH q a im s
  | .stW q a im => Sys2Proof.Machine.execStW q a im s
  | .stD q a im => Sys2Proof.Machine.execStD q a im s
  | .ldnB d a b => Sys2Proof.Machine.execLdnB d a b s
  | .ldnH d a b => Sys2Proof.Machine.execLdnH d a b s
  | .ldnW d a b => Sys2Proof.Machine.execLdnW d a b s
  | .ldnD d a b => Sys2Proof.Machine.execLdnD d a b s
  | .ldnBu d a b => Sys2Proof.Machine.execLdnBu d a b s
  | .ldnHu d a b => Sys2Proof.Machine.execLdnHu d a b s
  | .ldnWu d a b => Sys2Proof.Machine.execLdnWu d a b s
  | .stnB q a b => Sys2Proof.Machine.execStnB q a b s
  | .stnH q a b => Sys2Proof.Machine.execStnH q a b s
  | .stnW q a b => Sys2Proof.Machine.execStnW q a b s
  | .stnD q a b => Sys2Proof.Machine.execStnD q a b s
  | .atn d a b o => Sys2Proof.Machine.execAtn d a b o s
  | .br p o => Sys2Proof.Machine.execBr p o s
  | .brNot p o => Sys2Proof.Machine.execBrNot p o s
  | .jal d im => Sys2Proof.Machine.execJal d im s
  | .jalr d a => Sys2Proof.Machine.execJalr d a s
  | .loop a n => Sys2Proof.Machine.execLoop a n s
  | .rvset a r => Sys2Proof.Machine.execRvset a r s
  | .rvarr d r => Sys2Proof.Machine.execRvarr d r s
  | .rvwait a r => Sys2Proof.Machine.execRvwait a r s
  | .waitstampNe d a b => Sys2Proof.Machine.execWaitstampNe d a b s
  | .waitstampTag d a b => Sys2Proof.Machine.execWaitstampTag d a b s
  | .waitstampAny d a => Sys2Proof.Machine.execWaitstampAny d a s
  | .fcfg d a b => Sys2Proof.Machine.execFcfg d a b s
  | .frel b => Sys2Proof.Machine.execFrel b s
  | .tksend a b => Sys2Proof.Machine.execTksend a b s
  | .tktake d n => Sys2Proof.Machine.execTktake d n s
  | .csrr d c => Sys2Proof.Machine.execCsrr d c s
  | .csrw a c => Sys2Proof.Machine.execCsrw a c s
  | .csrs a c => Sys2Proof.Machine.execCsrs a c s
  | .csrc a c => Sys2Proof.Machine.execCsrc a c s
  | .dual k => Sys2Proof.Machine.execDual k s
  | .tget d a t => Sys2Proof.Machine.execTget d a t s
  | .tgetV d a t => Sys2Proof.Machine.execTgetV d a t s
  | .tset d a t => Sys2Proof.Machine.execTset d a t s
  | .tsetV d a t => Sys2Proof.Machine.execTsetV d a t s
  | .tplane p a b => Sys2Proof.Machine.execTplane p a b s
  | .trap n => Sys2Proof.Machine.execTrap n s
  | .rysave a => Sys2Proof.Machine.execRysave a s
  | .ryload a => Sys2Proof.Machine.execRyload a s
  | .regshrinkX m => Sys2Proof.Machine.execRegshrinkX m s
  | .regshrinkV m => Sys2Proof.Machine.execRegshrinkV m s
  | .reggrowX m => Sys2Proof.Machine.execReggrowX m s
  | .reggrowV m => Sys2Proof.Machine.execReggrowV m s
  | .vadd d a b g => Sys2Proof.Machine.execVadd d a b g s
  | .vsub d a b g => Sys2Proof.Machine.execVsub d a b g s
  | .vmul d a b g => Sys2Proof.Machine.execVmul d a b g s
  | .vmin d a b g => Sys2Proof.Machine.execVmin d a b g s
  | .vmax d a b g => Sys2Proof.Machine.execVmax d a b g s
  | .vabs d a g => Sys2Proof.Machine.execVabs d a g s
  | .vneg d a g => Sys2Proof.Machine.execVneg d a g s
  | .vfma d a b g => Sys2Proof.Machine.execVfma d a b g s
  | .vfnma d a b g => Sys2Proof.Machine.execVfnma d a b g s
  | .viadd d a b g => Sys2Proof.Machine.execViadd d a b g s
  | .visub d a b g => Sys2Proof.Machine.execVisub d a b g s
  | .vimul d a b g => Sys2Proof.Machine.execVimul d a b g s
  | .vimin d a b g => Sys2Proof.Machine.execVimin d a b g s
  | .vimax d a b g => Sys2Proof.Machine.execVimax d a b g s
  | .vsll d a b g => Sys2Proof.Machine.execVsll d a b g s
  | .vsrl d a b g => Sys2Proof.Machine.execVsrl d a b g s
  | .vsra d a b g => Sys2Proof.Machine.execVsra d a b g s
  | .vand d a b g => Sys2Proof.Machine.execVand d a b g s
  | .vor d a b g => Sys2Proof.Machine.execVor d a b g s
  | .vxor d a b g => Sys2Proof.Machine.execVxor d a b g s
  | .vandn d a b g => Sys2Proof.Machine.execVandn d a b g s
  | .vcmpEqF p a b g => Sys2Proof.Machine.execVcmpEqF p a b g s
  | .vcmpLtF p a b g => Sys2Proof.Machine.execVcmpLtF p a b g s
  | .vcmpLeF p a b g => Sys2Proof.Machine.execVcmpLeF p a b g s
  | .vcmpEqI p a b g => Sys2Proof.Machine.execVcmpEqI p a b g s
  | .vcmpLtI p a b g => Sys2Proof.Machine.execVcmpLtI p a b g s
  | .vsel d a b q => Sys2Proof.Machine.execVsel d a b q s
  | .vperm d a b g => Sys2Proof.Machine.execVperm d a b g s
  | .vbcast d a m g => Sys2Proof.Machine.execVbcast d a m g s
  | .vredadd d a g => Sys2Proof.Machine.execVredadd d a g s
  | .vredmax d a g => Sys2Proof.Machine.execVredmax d a g s
  | .vrediadd d a g => Sys2Proof.Machine.execVrediadd d a g s
  | .vexp2 d a g => Sys2Proof.Machine.execVexp2 d a g s
  | .vlog2 d a g => Sys2Proof.Machine.execVlog2 d a g s
  | .vrcp d a g => Sys2Proof.Machine.execVrcp d a g s
  | .vrsqrt d a g => Sys2Proof.Machine.execVrsqrt d a g s
  | .vtanh d a g => Sys2Proof.Machine.execVtanh d a g s
  | .vsigm d a g => Sys2Proof.Machine.execVsigm d a g s
  | .vdiv d a b g => Sys2Proof.Machine.execVdiv d a b g s
  | .vsqrt d a g => Sys2Proof.Machine.execVsqrt d a g s
  | .vcvtTo d a t g r => Sys2Proof.Machine.execVcvtTo d a t g r s
  | .vcvtFrom d a t g r => Sys2Proof.Machine.execVcvtFrom d a t g r s
  | .vscale d a n f => Sys2Proof.Machine.execVscale d a n f s
  | .vquant d a n f r => Sys2Proof.Machine.execVquant d a n f r s
  | .vld d a im g => Sys2Proof.Machine.execVld d a im g s
  | .vldb d a im g => Sys2Proof.Machine.execVldb d a im g s
  | .vst q a im g => Sys2Proof.Machine.execVst q a im g s
  | .vldn d a im g => Sys2Proof.Machine.execVldn d a im g s
  | .vstn q a im g => Sys2Proof.Machine.execVstn q a im g s
  | .vins d a m => Sys2Proof.Machine.execVins d a m s
  | .vsplat d a g => Sys2Proof.Machine.execVsplat d a g s
  | .vext v d m => Sys2Proof.Machine.execVext v d m s
  | .vexts v d m => Sys2Proof.Machine.execVexts v d m s
  | .mxstep a b => Sys2Proof.Machine.execMxstep a b s
  | .mxdrain a b c => Sys2Proof.Machine.execMxdrain a b c s
  | .mxzero a c => Sys2Proof.Machine.execMxzero a c s
  | .mxsave a b u t => Sys2Proof.Machine.execMxsave a b u t s
  | .mxrest a b u => Sys2Proof.Machine.execMxrest a b u s
  | .mxpair a b g => Sys2Proof.Machine.execMxpair a b g s
  | .mxstat a d => Sys2Proof.Machine.execMxstat a d s
  | .xfwd a b q => Sys2Proof.Machine.execXfwd a b q s
  | .xinv a b => Sys2Proof.Machine.execXinv a b s
  | .rdstr d a b => Sys2Proof.Machine.execRdstr d a b s
  | .rdsieve d a b => Sys2Proof.Machine.execRdsieve d a b s
  | .rdfold d a b => Sys2Proof.Machine.execRdfold d a b s
  | .rdmat d a b => Sys2Proof.Machine.execRdmat d a b s
  | .rdfp d a b => Sys2Proof.Machine.execRdfp d a b s
  | .rdcmp d a b => Sys2Proof.Machine.execRdcmp d a b s
  | .upd d a b => Sys2Proof.Machine.execUpd d a b s
  | .dep d a b => Sys2Proof.Machine.execDep d a b s
  | .land d a b => Sys2Proof.Machine.execLand d a b s
  | .bvload d a b => Sys2Proof.Machine.execBvload d a b s
  | .importHost d a b => Sys2Proof.Machine.execImportHost d a b s
  | .exportHost d a b => Sys2Proof.Machine.execExportHost d a b s
  | .stream d a b => Sys2Proof.Machine.execStream d a b s
  | .crsmode d a b => Sys2Proof.Machine.execCrsmode d a b s
  | .cursor d a b => Sys2Proof.Machine.execCursor d a b s
  | .kvlook d a b => Sys2Proof.Machine.execKvlook d a b s
  | .kvapp d a b => Sys2Proof.Machine.execKvapp d a b s
  | .kvfork d a b => Sys2Proof.Machine.execKvfork d a b s
  | .kvtrunc d a b => Sys2Proof.Machine.execKvtrunc d a b s
  | .kvflat d a b => Sys2Proof.Machine.execKvflat d a b s
  | .kvdep d a b => Sys2Proof.Machine.execKvdep d a b s
  | .playset d a b => Sys2Proof.Machine.execPlayset d a b s
  | .framein d a b => Sys2Proof.Machine.execFramein d a b s
  | .stateck d a b => Sys2Proof.Machine.execStateck d a b s
  | .ceMov m => Sys2Proof.Machine.execCeMov m s
  | .ceAdd t m r => Sys2Proof.Machine.execCeAdd t m r s
  | .ceSub t m r => Sys2Proof.Machine.execCeSub t m r s
  | .ceMul t m r => Sys2Proof.Machine.execCeMul t m r s
  | .ceFma t m r => Sys2Proof.Machine.execCeFma t m r s
  | .ceFms t m r => Sys2Proof.Machine.execCeFms t m r s
  | .ceMin t m => Sys2Proof.Machine.execCeMin t m s
  | .ceMax t m => Sys2Proof.Machine.execCeMax t m s
  | .ceAbs t m => Sys2Proof.Machine.execCeAbs t m s
  | .ceNeg t m => Sys2Proof.Machine.execCeNeg t m s
  | .ceRelu t m => Sys2Proof.Machine.execCeRelu t m s
  | .ceAnd m => Sys2Proof.Machine.execCeAnd m s
  | .ceOr m => Sys2Proof.Machine.execCeOr m s
  | .ceXor m => Sys2Proof.Machine.execCeXor m s
  | .ceShl t m im => Sys2Proof.Machine.execCeShl t m im s
  | .ceShr t m im => Sys2Proof.Machine.execCeShr t m im s
  | .ceSra t m im => Sys2Proof.Machine.execCeSra t m im s
  | .ceCmpeq t m => Sys2Proof.Machine.execCeCmpeq t m s
  | .ceCmplt t m => Sys2Proof.Machine.execCeCmplt t m s
  | .ceCmple t m => Sys2Proof.Machine.execCeCmple t m s
  | .ceSel t m => Sys2Proof.Machine.execCeSel t m s
  | .ceCvt t m r c => Sys2Proof.Machine.execCeCvt t m r c s
  | .ceHsum t m r => Sys2Proof.Machine.execCeHsum t m r s
  | .ceHmax t m => Sys2Proof.Machine.execCeHmax t m s
  | .ceExp2 m r => Sys2Proof.Machine.execCeExp2 m r s
  | .ceLog2 m r => Sys2Proof.Machine.execCeLog2 m r s
  | .ceRcp m r => Sys2Proof.Machine.execCeRcp m r s
  | .ceRsqrt m r => Sys2Proof.Machine.execCeRsqrt m r s
  | .ceTanh m r => Sys2Proof.Machine.execCeTanh m r s
  | .ceSigm m r => Sys2Proof.Machine.execCeSigm m r s
  | .ceCmul m r => Sys2Proof.Machine.execCeCmul m r s
  | .ceCmac m r => Sys2Proof.Machine.execCeCmac m r s
  | .ceCconj m => Sys2Proof.Machine.execCeCconj m s
  | .ceLmul m => Sys2Proof.Machine.execCeLmul m s
  | .ceLmac m r => Sys2Proof.Machine.execCeLmac m r s
  | .ceLdot4 m r => Sys2Proof.Machine.execCeLdot4 m r s
  | .ceTmerge m r => Sys2Proof.Machine.execCeTmerge m r s
  | .ceTemit c => Sys2Proof.Machine.execCeTemit c s
  | .ceIdx m => Sys2Proof.Machine.execCeIdx m s
  | .ceHdr m => Sys2Proof.Machine.execCeHdr m s
  | .cePay m => Sys2Proof.Machine.execCePay m s
  | .nat o => Sys2Proof.Machine.execNat o s
  | .gemit p => Sys2Proof.Machine.execGemit p s
  | .nop => Sys2Proof.Machine.execNop s
  | .fenceT => Sys2Proof.Machine.execFenceT s
  | .fenceD => Sys2Proof.Machine.execFenceD s
  | .fenceS => Sys2Proof.Machine.execFenceS s
  | .dualend => Sys2Proof.Machine.execDualend s
  | .rett => Sys2Proof.Machine.execRett s
  | .exit => Sys2Proof.Machine.execExit s
  | .ceNop => Sys2Proof.Machine.execCeNop s
  | .nnop => Sys2Proof.Machine.execNnop s
  | .nw => Sys2Proof.Machine.execNw s
  | .nr => Sys2Proof.Machine.execNr s
  | .nwr => Sys2Proof.Machine.execNwr s
  | .gnop => Sys2Proof.Machine.execGnop s
  | .cnop => Sys2Proof.Machine.execCnop s
  | .cin => Sys2Proof.Machine.execCin s
  | .cout => Sys2Proof.Machine.execCout s
  | .cinCout => Sys2Proof.Machine.execCinCout s
  | .cclose => Sys2Proof.Machine.execCclose s
  | .cinCclose => Sys2Proof.Machine.execCinCclose s
  | .coutCclose => Sys2Proof.Machine.execCoutCclose s
  | .cinCoutCclose => Sys2Proof.Machine.execCinCoutCclose s
  | .resultLanding => Sys2Proof.Machine.execResultLanding s
  | .trapEntry => Sys2Proof.Machine.execTrapEntry s
  | .handlerStart => Sys2Proof.Machine.execHandlerStart s
  | .stampTimeout => Sys2Proof.Machine.execStampTimeout s
  | .hubRefusal => Sys2Proof.Machine.execHubRefusal s
  | .rvArrival => Sys2Proof.Machine.execRvArrival s
  | .launch => Sys2Proof.Machine.execLaunch s
  | .dispatchRound => Sys2Proof.Machine.execDispatchRound s
  | .switchOutComplete => Sys2Proof.Machine.execSwitchOutComplete s
  | .contextRestored => Sys2Proof.Machine.execContextRestored s
  | .completionStamp => Sys2Proof.Machine.execCompletionStamp s
  | .powerReassignment => Sys2Proof.Machine.execPowerReassignment s
  | .clockResume => Sys2Proof.Machine.execClockResume s
  | .islandStep => Sys2Proof.Machine.execIslandStep s
  | .tokenArrival => Sys2Proof.Machine.execTokenArrival s
  | .finishToken => Sys2Proof.Machine.execFinishToken s
  | .fetchComplete => Sys2Proof.Machine.execFetchComplete s
  | .drain => Sys2Proof.Machine.execDrain s
  | .reconfigurationToken => Sys2Proof.Machine.execReconfigurationToken s
  | .fill => Sys2Proof.Machine.execFill s
  | .foldPointReached => Sys2Proof.Machine.execFoldPointReached s
  | .sweepTick => Sys2Proof.Machine.execSweepTick s
  | .riderDelivery => Sys2Proof.Machine.execRiderDelivery s
  | .faultedRiderStamp => Sys2Proof.Machine.execFaultedRiderStamp s
  | .walkFill => Sys2Proof.Machine.execWalkFill s
  | .streamEmissionAdmit => Sys2Proof.Machine.execStreamEmissionAdmit s
  | .landingContribution => Sys2Proof.Machine.execLandingContribution s
  | .landTimeout => Sys2Proof.Machine.execLandTimeout s
  | .contributionHoldExpiry => Sys2Proof.Machine.execContributionHoldExpiry s
  | .orderedUpdateExecute => Sys2Proof.Machine.execOrderedUpdateExecute s
  | .readAhead => Sys2Proof.Machine.execReadAhead s
  | .xqEntryAccept => Sys2Proof.Machine.execXqEntryAccept s
  | .xqEntryBegin => Sys2Proof.Machine.execXqEntryBegin s
  | .kStep => Sys2Proof.Machine.execKStep s
  | .kStepLanding => Sys2Proof.Machine.execKStepLanding s
  | .pairCombine => Sys2Proof.Machine.execPairCombine s
  | .pairFault => Sys2Proof.Machine.execPairFault s
  | .pairLate => Sys2Proof.Machine.execPairLate s
  | .drainCopyEnd => Sys2Proof.Machine.execDrainCopyEnd s
  | .drainWrite => Sys2Proof.Machine.execDrainWrite s
  | .transformBegin => Sys2Proof.Machine.execTransformBegin s
  | .transformEnd => Sys2Proof.Machine.execTransformEnd s
  | .sequenceTurnBegin => Sys2Proof.Machine.execSequenceTurnBegin s
  | .sequenceTurnEnd => Sys2Proof.Machine.execSequenceTurnEnd s
  | .heldTurnResume => Sys2Proof.Machine.execHeldTurnResume s
  | .islandFreeze => Sys2Proof.Machine.execIslandFreeze s
  | .freezeSpread => Sys2Proof.Machine.execFreezeSpread s
  | .faultEdge => Sys2Proof.Machine.execFaultEdge s
  | .teamEnd => Sys2Proof.Machine.execTeamEnd s
  | .fqpop => Sys2Proof.Machine.execFqpop s
  | .frzctlRel => Sys2Proof.Machine.execFrzctlRel s
  | .trinvLower => Sys2Proof.Machine.execTrinvLower s
  | .trinvStart => Sys2Proof.Machine.execTrinvStart s
  | .trinvDone => Sys2Proof.Machine.execTrinvDone s
  | .accessReportRead => Sys2Proof.Machine.execAccessReportRead s
  | .courseDescriptorWrite => Sys2Proof.Machine.execCourseDescriptorWrite s
  | .grantTableWrite => Sys2Proof.Machine.execGrantTableWrite s
  | .intstClear => Sys2Proof.Machine.execIntstClear s
  | .intenWrite => Sys2Proof.Machine.execIntenWrite s
  | .wrejRead => Sys2Proof.Machine.execWrejRead s
  | .registerWrite => Sys2Proof.Machine.execRegisterWrite s
  | .hostAbort => Sys2Proof.Machine.execHostAbort s
  | .watchdog => Sys2Proof.Machine.execWatchdog s
  | .hostCompletion => Sys2Proof.Machine.execHostCompletion s
  | .completionTimeout => Sys2Proof.Machine.execCompletionTimeout s
  | .dlDown => Sys2Proof.Machine.execDlDown s
  | .dlUp => Sys2Proof.Machine.execDlUp s
  | .oarPacketSend => Sys2Proof.Machine.execOarPacketSend s
  | .oarPacketReceive => Sys2Proof.Machine.execOarPacketReceive s
  | .oarAckSend => Sys2Proof.Machine.execOarAckSend s
  | .oarAckReceive => Sys2Proof.Machine.execOarAckReceive s
  | .oarRetrain => Sys2Proof.Machine.execOarRetrain s
  | .oarRetrainComplete => Sys2Proof.Machine.execOarRetrainComplete s
  | .linkDown => Sys2Proof.Machine.execLinkDown s
  | .oarcfgWrite => Sys2Proof.Machine.execOarcfgWrite s
  | .dieLinkDown => Sys2Proof.Machine.execDieLinkDown s
  | .hubResetRelease => Sys2Proof.Machine.execHubResetRelease s
  | .romCheck => Sys2Proof.Machine.execRomCheck s
  | .firmwareReady => Sys2Proof.Machine.execFirmwareReady s
  | .attestGo => Sys2Proof.Machine.execAttestGo s
  | .attestDone => Sys2Proof.Machine.execAttestDone s
  | .keyGenerate => Sys2Proof.Machine.execKeyGenerate s
  | .keyErase => Sys2Proof.Machine.execKeyErase s
  | .thermalCap => Sys2Proof.Machine.execThermalCap s
  | .thermalCapLift => Sys2Proof.Machine.execThermalCapLift s
  | .thermalHalt => Sys2Proof.Machine.execThermalHalt s
  | .thermalRestart => Sys2Proof.Machine.execThermalRestart s
  | .alarm => Sys2Proof.Machine.execAlarm s
  | .vfFlr => Sys2Proof.Machine.execVfFlr s
  | .deviceReset => Sys2Proof.Machine.execDeviceReset s
  | .powerLoss => Sys2Proof.Machine.execPowerLoss s
  | .engineAdmissionRetry => Sys2Proof.Machine.execEngineAdmissionRetry s
  | .flitRetry => Sys2Proof.Machine.execFlitRetry s
  | .dieLinkRetrain => Sys2Proof.Machine.execDieLinkRetrain s
  | .dieLinkRetrainComplete => Sys2Proof.Machine.execDieLinkRetrainComplete s
  | .keycmdDone => Sys2Proof.Machine.execKeycmdDone s

end Sys2Proof.Machine
end

