-- ==== Sys2Proof/Machine/Refill.lean ====
section
/-! DEFINITION. Whose turn comes when no turn is left: 2.5 ns of device time, in which every stack ticks, every core and every island takes
the steps that its clock gives it, and everything that is under way in the device may go on. The list of turns stands for every order that
the manual leaves open (R8, R423; log entry 2); this is one of them, so that a machine with an empty list goes on. What comes from outside
(launches, register writes, links, sensors) is never among them. An event that is not due changes nothing. -/

namespace Sys2Proof.Machine

open Sys2Proof

/-- A turn of an event at once. -/
def evt (i : Instr) (a : List Nat) : Go := ⟨0, .event i a⟩

/-- The cycles of island `i` in the next 2.5 ns (R19, R24). -/
def State.cyclesNow (s : State) (i : Nat) : List Nat :=
  (List.range (({ s with now := s.now + 5 } : State).cycle i - s.cycle i)).map (s.cycle i + ·)

/-- Riders: deliveries, faulted stamps, retries, walks, streams, landings (R75, R82, R92, R271, R393, R394). -/
def State.riderTurns (s : State) : List Go :=
  s.riders.flatMap (fun r =>
      if r.unread ∧ r.parts.all Part.done = false then [evt .riderDelivery [r.id]]
      else if s.overNow r then [evt .faultedRiderStamp [r.id]]
      else if (r.fail.isNone ∧ r.stopped = false ∧ r.parts.all Part.done)
          ∨ (r.stopped = false ∧ (r.sent < r.order.length ∨ r.fail.isSome) ∧ (r.emission ∨ r.f 255 252 = 4) ∧ r.kind ≠ .land) then
        [evt .riderDelivery [r.id]]
      else if r.kind = .land then [evt .landTimeout [r.id]] else [])
    ++ (List.range s.waiting.length).map (fun n => evt .engineAdmissionRetry [n])
    ++ (List.range s.walks.length).reverse.map (fun n => evt .walkFill [n])
    ++ (s.streams.map (fun t => (t.core, t.port))).eraseDups.map (fun p => evt .streamEmissionAdmit [p.1, p.2])
    ++ (List.range s.contribs.length).reverse.map (fun n => evt .landingContribution [n])
    ++ (if s.contribs.isEmpty then [] else (List.range 12).map (fun n => evt .contributionHoldExpiry [n]))

/-- Regions: fetch, drain, token, fill, islands, freezes (R39 to R44, R358 to R362). -/
def State.regionTurns (s : State) : List Go :=
  (List.range s.regions.length).flatMap (fun n => match s.region n with
    | none => []
    | some r =>
      (match r.phase with
      | .fetch => [evt .fetchComplete [n]]
      | .armed => [evt .drain [n]]
      | .drain => [evt .drain [n]]
      | .token => [evt .reconfigurationToken [n]]
      | .fill => [evt .fill [n]]
      | _ => [])
      ++ (match r.active with
      | none => []
      | some l => if l.discarded then [] else
        (List.range l.isl.length).flatMap (fun i =>
          (s.cyclesNow (r.clock l i)).map (fun _ => evt .islandStep [n, i])
            ++ (if (l.isl.getD i Isl.idle).fold.isSome then [evt .foldPointReached [n, i]] else [evt .finishToken [n, i]]))
          ++ (if l.rcd.isSome then [evt .freezeSpread [n], evt .faultEdge [n]] else [])))

/-- Units of the reaches, and nodes (R102, R103, R236 to R255). -/
def State.unitTurns (s : State) : List Go :=
  s.xtiles.flatMap (fun x => ([.xqEntryAccept, .xqEntryBegin, .kStep, .kStepLanding, .pairCombine, .pairFault, .pairLate, .drainCopyEnd, .drainWrite] : List Instr).map
      (fun i => evt i [x.1]))
    ++ s.xforms.flatMap (fun x => [evt .transformBegin [x.1], evt .transformEnd [x.1]])
    ++ s.nodes.flatMap (fun x => (if x.2.queue.isEmpty then [] else (s.cyclesNow (coreIsl (keyCore x.1))).map (fun _ => evt .orderedUpdateExecute [x.1]))
      ++ (if x.2.owner.isSome ∧ x.2.mode ≠ 1 then [evt .readAhead [x.1]] else []))

/-- Tokens, rendezvous, sequences, teams, contexts (R37, R46, R54, R120, R318, R408). -/
def State.hubTurns (s : State) : List Go :=
  (List.range s.toks.length).reverse.map (fun n => evt .tokenArrival [n])
    ++ s.rvq.map (fun _ => evt .rvArrival [])
    ++ (s.seqs.map Turn.stream).eraseDups.flatMap (fun n => [evt .sequenceTurnEnd [n], evt .sequenceTurnBegin [n]])
    ++ ((List.range s.teams.length).zip s.teams).flatMap (fun x => if x.2.st = .ended then [] else [evt .watchdog [x.1], evt .completionStamp [x.1]])
    ++ (List.range 32).flatMap (fun c => if (s.core c).run = .switchedOut then [evt .switchOutComplete [c], evt .contextRestored [c]] else [])
    ++ (if s.trinvDone then [] else [evt .trinvDone []])
    ++ (match s.keyBusy with
      | some v => [evt (if bits v.toNat 9 8 = 0 then .keyGenerate else .keyErase) [bits v.toNat 7 0], evt .keycmdDone []]
      | none => [])
    ++ (if bit s.attest 0 then [evt .attestDone []] else [])

/-- Links (R339, R340, R409, R410). -/
def State.linkTurns (s : State) : List Go :=
  ((List.range 18).zip s.oars).flatMap (fun x =>
    (if x.2.sendq.isEmpty then [] else [evt .oarPacketSend [x.1]]) ++ (if x.2.recv.isEmpty then [] else [evt .oarPacketReceive [x.1]])
      ++ (if x.2.taken.isEmpty then [] else [evt .oarAckSend [x.1]]) ++ (if x.2.retrain then [evt .linkDown [x.1]] else []))
    ++ (List.range 10).flatMap (fun l => if s.dieRetrain.getD l false then [evt .dieLinkDown [l]] else [])

/-- The steps of core `c`: one in every 1 + k cycles of its quadrant's clock (R7, R17, R21). -/
def State.coreTurns (s : State) (c : Nat) : List Go :=
  ((s.cyclesNow (coreIsl c)).filter (fun n => decide (n % ((s.core c).k + 1) = 0))).map (fun _ => ⟨0, .core c⟩)

/-- The half nanoseconds after which the hub's time base first shows a new multiple of `n` within the next 2.5 ns. -/
def State.hubTurns? (s : State) (n : Nat) : Option Nat :=
  ([1, 2, 3, 4, 5] : List Nat).find? (fun j =>
    let t := ({ s with now := s.now + j } : State).dieNs 4
    decide (t % n = 0 ∧ t ≠ s.dieNs 4))

/-- What the hub does at a fixed value of its time base (R23, R55): a turn each, in its place among the next 2.5 ns; those of the end of
the 2.5 ns come after the ticks. -/
def State.timedTurns (s : State) : List Go × List Go :=
  let l := ((s.hubTurns? 1000).toList.map (fun j => (j, Instr.powerReassignment))) ++ ((s.hubTurns? 250).toList.map (fun j => (j, Instr.dispatchRound)))
  match l with
  | [] => ([⟨5, .event .sweepTick [0]⟩], [])
  | (j, _) :: _ =>
    if j = 5 then ([⟨5, .event .sweepTick [0]⟩], l.map (fun x => evt x.2 []))
    else (⟨j, .event .dispatchRound []⟩ :: (l.filter (fun x => decide (x.2 ≠ .dispatchRound))).map (fun x => evt x.2 []) ++ [⟨5 - j, .event .sweepTick [0]⟩], [])

/-- What the hub does at value 0 of its time base (R23, R55). -/
def State.firstTurns (s : State) : List Go :=
  if s.boot ≠ .reset ∧ s.dieNs 4 = 0 ∧ s.reassigned = none then [evt .powerReassignment [], evt .dispatchRound []] else []

/-- The turns of the next 2.5 ns. -/
def State.nextTurns (s : State) : List Go :=
  s.firstTurns ++ s.timedTurns.1 ++ ((List.range 11).map (fun i => evt .sweepTick [i + 1]))
    ++ s.islHold.map (fun x => evt .clockResume [x.1])
    ++ s.timedTurns.2
    ++ s.riderTurns ++ s.regionTurns ++ s.unitTurns ++ s.hubTurns ++ s.linkTurns
    ++ (List.range 32).flatMap s.coreTurns

/-- Fill the list of turns. -/
def State.refill (s : State) : State := { s with turns := s.nextTurns }

end Sys2Proof.Machine
end

