-- ==== Sys2Proof/Machine/Turn.lean ====
section
/-! DEFINITION. Turns: a core's turn is one issue step (R7); an event and a ring word run through exec. -/

namespace Sys2Proof.Machine

/-- Execute the four syllables in the order S, V, M, C (R145). -/
def runSlots : List (Nat × Instr) → State → Host.Outcome State Fault Refusal
  | [], s => .next s
  | (n, i) :: t, s =>
    match exec i { s with curSlot := n } with
    | .next s => runSlots t s
    | .fault f => .fault f
    | .refused r => .refused r

/-- Core `c` belongs to a team that leaves, and its loads stand at their fold points (R64). -/
def State.leaves (s : State) (c : Nat) : Bool :=
  match (s.core c).team with
  | some t => (s.team? t).any (fun tm => decide (tm.st = .leaving)) && s.foldsDone t && decide ((s.core c).run ≠ .switchedOut)
  | none => false

/-- One issue step of core `c`; none while it stands still (R24, R410). -/
def coreTurn (c : Nat) (s : State) : Host.Outcome State Fault Refusal :=
  if s.coreStill c then .next s
  else if s.leaves c then .next (s.leaveStep c)
  else match ({ s with cur := c }).beforeIssue with
  | (s, false) => .next s
  | (s, true) =>
    match s.cached (s.asidOf c) (s.funcOf c) s.me.pc.toNat with
    | none => .fault (.fetchUnmapped c s.me.pc.toNat)
    | some (b, s) =>
      let s := { s with bundle := b }
      match s.stopBundle with
      | some t => .next t
      | none =>
        match runSlots ([0, 1, 2, 3].zip s.instrs) { s with checked := true } with
        | .next s => .next s.retire
        | .fault f => .fault f
        | .refused r => .refused r

/-- The instruction that a ring word stands for in its place. -/
def ringInstr (p : Place) (w : Nat) : Option Instr :=
  match p with
  | .ce => decodeCe w
  | .node => decodeNode w
  | .gen => decodeGen w
  | .conv => decodeConv w
  | _ => none

/-- One turn, device time already advanced. -/
def runTurn (w : Who) (s : State) : Host.Outcome State Fault Refusal :=
  match w with
  | .core c => coreTurn c s
  | .event i a => exec i { s with ev := a }
  | .element n i k p w =>
    match ringInstr p w with
    | some j => exec j (s.enterElement n i k)
    | none => .next s
  | .latch n i => .next (s.latchIsland n i)

/-- The next turn, or a refill of the list of turns. -/
def takeTurn (s : State) : Host.Outcome State Fault Refusal :=
  match s.turns with
  | [] => .next s.refill
  | t :: r => runTurn t.who { s with turns := r, now := s.now + t.dt }

end Sys2Proof.Machine
end

