-- ==== Sys2Proof/WellFormed.lean ====
section
/-! DEFINITION. Well-formed instructions: every field fits the bits of its encoding and holds a value its entry lists (R160, R373, R384). -/

namespace Sys2Proof

/-- The fields of an instruction fit its word and hold values that its entry lists. -/
def Instr.wellFormed : Instr → Bool
  | .nop => true
  | .add d a b => decide (d < 128 ∧ a < 128 ∧ b < 128)
  | .sub d a b => decide (d < 128 ∧ a < 128 ∧ b < 128)
  | .and d a b => decide (d < 128 ∧ a < 128 ∧ b < 128)
  | .or d a b => decide (d < 128 ∧ a < 128 ∧ b < 128)
  | .xor d a b => decide (d < 128 ∧ a < 128 ∧ b < 128)
  | .sll d a b => decide (d < 128 ∧ a < 128 ∧ b < 128)
  | .srl d a b => decide (d < 128 ∧ a < 128 ∧ b < 128)
  | .sra d a b => decide (d < 128 ∧ a < 128 ∧ b < 128)
  | .min d a b => decide (d < 128 ∧ a < 128 ∧ b < 128)
  | .max d a b => decide (d < 128 ∧ a < 128 ∧ b < 128)
  | .minu d a b => decide (d < 128 ∧ a < 128 ∧ b < 128)
  | .maxu d a b => decide (d < 128 ∧ a < 128 ∧ b < 128)
  | .mul d a b => decide (d < 128 ∧ a < 128 ∧ b < 128)
  | .mulh d a b => decide (d < 128 ∧ a < 128 ∧ b < 128)
  | .mulhu d a b => decide (d < 128 ∧ a < 128 ∧ b < 128)
  | .div d a b => decide (d < 128 ∧ a < 128 ∧ b < 128)
  | .divu d a b => decide (d < 128 ∧ a < 128 ∧ b < 128)
  | .rem d a b => decide (d < 128 ∧ a < 128 ∧ b < 128)
  | .remu d a b => decide (d < 128 ∧ a < 128 ∧ b < 128)
  | .cmpEq d a b => decide (d < 16 ∧ a < 128 ∧ b < 128)
  | .cmpNe d a b => decide (d < 16 ∧ a < 128 ∧ b < 128)
  | .cmpLt d a b => decide (d < 16 ∧ a < 128 ∧ b < 128)
  | .cmpGe d a b => decide (d < 16 ∧ a < 128 ∧ b < 128)
  | .cmpLtu d a b => decide (d < 16 ∧ a < 128 ∧ b < 128)
  | .cmpGeu d a b => decide (d < 16 ∧ a < 128 ∧ b < 128)
  | .pand d a b => decide (d < 16 ∧ a < 16 ∧ b < 16)
  | .por d a b => decide (d < 16 ∧ a < 16 ∧ b < 16)
  | .pxor d a b => decide (d < 16 ∧ a < 16 ∧ b < 16)
  | .pandn d a b => decide (d < 16 ∧ a < 16 ∧ b < 16)
  | .pmov d a => decide (d < 128 ∧ a < 16)
  | .pset d a => decide (d < 16 ∧ a < 128)
  | .extu d a b => decide (d < 128 ∧ a < 128 ∧ b < 128)
  | .exts d a b => decide (d < 128 ∧ a < 128 ∧ b < 128)
  | .ins d a b => decide (d < 128 ∧ a < 128 ∧ b < 128)
  | .clz d a => decide (d < 128 ∧ a < 128)
  | .ctz d a => decide (d < 128 ∧ a < 128)
  | .popc d a => decide (d < 128 ∧ a < 128)
  | .addi d a i => decide (d < 128 ∧ a < 128 ∧ i < 4096)
  | .andi d a i => decide (d < 128 ∧ a < 128 ∧ i < 4096)
  | .ori d a i => decide (d < 128 ∧ a < 128 ∧ i < 4096)
  | .xori d a i => decide (d < 128 ∧ a < 128 ∧ i < 4096)
  | .slli d a n => decide (d < 128 ∧ a < 128 ∧ n < 64)
  | .srli d a n => decide (d < 128 ∧ a < 128 ∧ n < 64)
  | .srai d a n => decide (d < 128 ∧ a < 128 ∧ n < 64)
  | .cmpiEq d a i => decide (d < 16 ∧ a < 128 ∧ i < 512)
  | .cmpiNe d a i => decide (d < 16 ∧ a < 128 ∧ i < 512)
  | .cmpiLt d a i => decide (d < 16 ∧ a < 128 ∧ i < 512)
  | .cmpiGe d a i => decide (d < 16 ∧ a < 128 ∧ i < 512)
  | .cmpiLtu d a i => decide (d < 16 ∧ a < 128 ∧ i < 512)
  | .cmpiGeu d a i => decide (d < 16 ∧ a < 128 ∧ i < 512)
  | .lui d i => decide (d < 128 ∧ i < 524288)
  | .ldB d a i => decide (d < 128 ∧ a < 128 ∧ i < 4096)
  | .ldH d a i => decide (d < 128 ∧ a < 128 ∧ i < 4096)
  | .ldW d a i => decide (d < 128 ∧ a < 128 ∧ i < 4096)
  | .ldD d a i => decide (d < 128 ∧ a < 128 ∧ i < 4096)
  | .stB s a i => decide (s < 128 ∧ a < 128 ∧ i < 4096)
  | .stH s a i => decide (s < 128 ∧ a < 128 ∧ i < 4096)
  | .stW s a i => decide (s < 128 ∧ a < 128 ∧ i < 4096)
  | .stD s a i => decide (s < 128 ∧ a < 128 ∧ i < 4096)
  | .ldnB d a b => decide (d < 128 ∧ a < 128 ∧ b < 128)
  | .ldnH d a b => decide (d < 128 ∧ a < 128 ∧ b < 128)
  | .ldnW d a b => decide (d < 128 ∧ a < 128 ∧ b < 128)
  | .ldnD d a b => decide (d < 128 ∧ a < 128 ∧ b < 128)
  | .ldnBu d a b => decide (d < 128 ∧ a < 128 ∧ b < 128)
  | .ldnHu d a b => decide (d < 128 ∧ a < 128 ∧ b < 128)
  | .ldnWu d a b => decide (d < 128 ∧ a < 128 ∧ b < 128)
  | .stnB s a b => decide (s < 128 ∧ a < 128 ∧ b < 128)
  | .stnH s a b => decide (s < 128 ∧ a < 128 ∧ b < 128)
  | .stnW s a b => decide (s < 128 ∧ a < 128 ∧ b < 128)
  | .stnD s a b => decide (s < 128 ∧ a < 128 ∧ b < 128)
  | .atn d a b o => decide (d < 128 ∧ a < 128 ∧ b < 128 ∧ o < 32 ∧ o ≤ 14)
  | .br p o => decide (p < 16 ∧ o < 2097152)
  | .brNot p o => decide (p < 16 ∧ o < 2097152)
  | .jal d i => decide (d < 128 ∧ i < 524288)
  | .jalr d a => decide (d < 128 ∧ a < 128)
  | .loop a n => decide (a < 128 ∧ n < 4096 ∧ 1 ≤ n)
  | .rvset a r => decide (a < 128 ∧ r < 128 ∧ r ≤ 23)
  | .rvarr d r => decide (d < 128 ∧ r < 128 ∧ r ≤ 23)
  | .rvwait a r => decide (a < 128 ∧ r < 128 ∧ r ≤ 23)
  | .waitstampNe d a b => decide (d < 128 ∧ a < 128 ∧ b < 128)
  | .waitstampTag d a b => decide (d < 128 ∧ a < 128 ∧ b < 128)
  | .waitstampAny d a => decide (d < 128 ∧ a < 128)
  | .fenceT => true
  | .fenceD => true
  | .fenceS => true
  | .fcfg d a b => decide (d < 128 ∧ a < 128 ∧ b < 128)
  | .frel b => decide (b < 128)
  | .tksend a b => decide (a < 128 ∧ b < 128)
  | .tktake d n => decide (d < 128 ∧ n < 128 ∧ n ≤ 7)
  | .csrr d c => decide (d < 128 ∧ c < 128 ∧ csrListed c)
  | .csrw a c => decide (a < 128 ∧ c < 128 ∧ csrWritable c)
  | .csrs a c => decide (a < 128 ∧ c < 128 ∧ csrWritable c)
  | .csrc a c => decide (a < 128 ∧ c < 128 ∧ csrWritable c)
  | .dual k => decide (k < 128 ∧ 1 ≤ k ∧ k ≤ 3)
  | .dualend => true
  | .tget d a t => decide (d < 128 ∧ a < 128 ∧ t < 4 ∧ 1 ≤ t)
  | .tgetV d a t => decide (d < 64 ∧ a < 64 ∧ t < 4 ∧ 1 ≤ t)
  | .tset d a t => decide (d < 128 ∧ a < 128 ∧ t < 4 ∧ 1 ≤ t)
  | .tsetV d a t => decide (d < 64 ∧ a < 64 ∧ t < 4 ∧ 1 ≤ t)
  | .tplane p a b => decide (p < 128 ∧ a < 128 ∧ b < 128 ∧ 1 ≤ p ∧ p ≤ 3)
  | .trap n => decide (n < 128)
  | .rett => true
  | .rysave a => decide (a < 128)
  | .ryload a => decide (a < 128)
  | .regshrinkX m => decide (m < 128 ∧ 1 ≤ m ∧ m ≤ 16)
  | .regshrinkV m => decide (m < 128 ∧ m ≤ 8)
  | .reggrowX m => decide (m < 128 ∧ 1 ≤ m ∧ m ≤ 16)
  | .reggrowV m => decide (m < 128 ∧ m ≤ 8)
  | .exit => true
  | .vadd d a b g => decide (d < 64 ∧ a < 64 ∧ b < 64 ∧ g < 16)
  | .vsub d a b g => decide (d < 64 ∧ a < 64 ∧ b < 64 ∧ g < 16)
  | .vmul d a b g => decide (d < 64 ∧ a < 64 ∧ b < 64 ∧ g < 16)
  | .vmin d a b g => decide (d < 64 ∧ a < 64 ∧ b < 64 ∧ g < 16)
  | .vmax d a b g => decide (d < 64 ∧ a < 64 ∧ b < 64 ∧ g < 16)
  | .vabs d a g => decide (d < 64 ∧ a < 64 ∧ g < 16)
  | .vneg d a g => decide (d < 64 ∧ a < 64 ∧ g < 16)
  | .vfma d a b g => decide (d < 64 ∧ a < 64 ∧ b < 64 ∧ g < 16)
  | .vfnma d a b g => decide (d < 64 ∧ a < 64 ∧ b < 64 ∧ g < 16)
  | .viadd d a b g => decide (d < 64 ∧ a < 64 ∧ b < 64 ∧ g < 16)
  | .visub d a b g => decide (d < 64 ∧ a < 64 ∧ b < 64 ∧ g < 16)
  | .vimul d a b g => decide (d < 64 ∧ a < 64 ∧ b < 64 ∧ g < 16)
  | .vimin d a b g => decide (d < 64 ∧ a < 64 ∧ b < 64 ∧ g < 16)
  | .vimax d a b g => decide (d < 64 ∧ a < 64 ∧ b < 64 ∧ g < 16)
  | .vsll d a b g => decide (d < 64 ∧ a < 64 ∧ b < 64 ∧ g < 16)
  | .vsrl d a b g => decide (d < 64 ∧ a < 64 ∧ b < 64 ∧ g < 16)
  | .vsra d a b g => decide (d < 64 ∧ a < 64 ∧ b < 64 ∧ g < 16)
  | .vand d a b g => decide (d < 64 ∧ a < 64 ∧ b < 64 ∧ g < 16)
  | .vor d a b g => decide (d < 64 ∧ a < 64 ∧ b < 64 ∧ g < 16)
  | .vxor d a b g => decide (d < 64 ∧ a < 64 ∧ b < 64 ∧ g < 16)
  | .vandn d a b g => decide (d < 64 ∧ a < 64 ∧ b < 64 ∧ g < 16)
  | .vcmpEqF p a b g => decide (p < 16 ∧ a < 64 ∧ b < 64 ∧ g < 16)
  | .vcmpLtF p a b g => decide (p < 16 ∧ a < 64 ∧ b < 64 ∧ g < 16)
  | .vcmpLeF p a b g => decide (p < 16 ∧ a < 64 ∧ b < 64 ∧ g < 16)
  | .vcmpEqI p a b g => decide (p < 16 ∧ a < 64 ∧ b < 64 ∧ g < 16)
  | .vcmpLtI p a b g => decide (p < 16 ∧ a < 64 ∧ b < 64 ∧ g < 16)
  | .vsel d a b s => decide (d < 64 ∧ a < 64 ∧ b < 64 ∧ s < 16)
  | .vperm d a b g => decide (d < 64 ∧ a < 64 ∧ b < 64 ∧ g < 16)
  | .vbcast d a m g => decide (d < 64 ∧ a < 64 ∧ m < 64 ∧ g < 16 ∧ m ≤ 15)
  | .vredadd d a g => decide (d < 64 ∧ a < 64 ∧ g < 16)
  | .vredmax d a g => decide (d < 64 ∧ a < 64 ∧ g < 16)
  | .vrediadd d a g => decide (d < 64 ∧ a < 64 ∧ g < 16)
  | .vexp2 d a g => decide (d < 64 ∧ a < 64 ∧ g < 16)
  | .vlog2 d a g => decide (d < 64 ∧ a < 64 ∧ g < 16)
  | .vrcp d a g => decide (d < 64 ∧ a < 64 ∧ g < 16)
  | .vrsqrt d a g => decide (d < 64 ∧ a < 64 ∧ g < 16)
  | .vtanh d a g => decide (d < 64 ∧ a < 64 ∧ g < 16)
  | .vsigm d a g => decide (d < 64 ∧ a < 64 ∧ g < 16)
  | .vdiv d a b g => decide (d < 64 ∧ a < 64 ∧ b < 64 ∧ g < 16)
  | .vsqrt d a g => decide (d < 64 ∧ a < 64 ∧ g < 16)
  | .vcvtTo d a t g r => decide (d < 64 ∧ a < 64 ∧ t < 32 ∧ g < 16 ∧ r < 4 ∧ cvtType t)
  | .vcvtFrom d a t g r => decide (d < 64 ∧ a < 64 ∧ t < 32 ∧ g < 16 ∧ r < 4 ∧ cvtType t ∧ (r = 0 ∨ t = 20 ∨ t = 21))
  | .vscale d a n f => decide (d < 64 ∧ a < 64 ∧ n < 32 ∧ f < 4 ∧ a % 2 = 0)
  | .vquant d a n f r => decide (d < 64 ∧ a < 64 ∧ n < 32 ∧ f < 4 ∧ r < 4 ∧ a % 2 = 0)
  | .vld d a i g => decide (d < 64 ∧ a < 128 ∧ i < 32 ∧ g < 16)
  | .vldb d a i g => decide (d < 64 ∧ a < 128 ∧ i < 32 ∧ g < 16)
  | .vst s a i g => decide (s < 64 ∧ a < 128 ∧ i < 32 ∧ g < 16)
  | .vldn d a i g => decide (d < 64 ∧ a < 128 ∧ i < 32 ∧ g < 16)
  | .vstn s a i g => decide (s < 64 ∧ a < 128 ∧ i < 32 ∧ g < 16)
  | .vins d a m => decide (d < 64 ∧ a < 128 ∧ m < 16)
  | .vsplat d a g => decide (d < 64 ∧ a < 128 ∧ g < 16)
  | .vext v d m => decide (v < 64 ∧ d < 128 ∧ m < 16)
  | .vexts v d m => decide (v < 64 ∧ d < 128 ∧ m < 16)
  | .mxstep a b => decide (a < 128 ∧ b < 128)
  | .mxdrain a b c => decide (a < 128 ∧ b < 128 ∧ c < 2)
  | .mxzero a c => decide (a < 128 ∧ c < 2)
  | .mxsave a b u t => decide (a < 128 ∧ b < 128 ∧ u < 2 ∧ t < 2)
  | .mxrest a b u => decide (a < 128 ∧ b < 128 ∧ u < 2)
  | .mxpair a b g => decide (a < 128 ∧ b < 128 ∧ g < 256)
  | .mxstat a d => decide (a < 128 ∧ d < 128)
  | .xfwd a b s => decide (a < 128 ∧ b < 128 ∧ s < 16)
  | .xinv a b => decide (a < 128 ∧ b < 128)
  | .rdstr d a b => decide (d < 128 ∧ a < 128 ∧ b < 128)
  | .rdsieve d a b => decide (d < 128 ∧ a < 128 ∧ b < 128)
  | .rdfold d a b => decide (d < 128 ∧ a < 128 ∧ b < 128)
  | .rdmat d a b => decide (d < 128 ∧ a < 128 ∧ b < 128)
  | .rdfp d a b => decide (d < 128 ∧ a < 128 ∧ b < 128)
  | .rdcmp d a b => decide (d < 128 ∧ a < 128 ∧ b < 128)
  | .upd d a b => decide (d < 128 ∧ a < 128 ∧ b < 128)
  | .dep d a b => decide (d < 128 ∧ a < 128 ∧ b < 128)
  | .land d a b => decide (d < 128 ∧ a < 128 ∧ b < 128)
  | .bvload d a b => decide (d < 128 ∧ a < 128 ∧ b < 128)
  | .importHost d a b => decide (d < 128 ∧ a < 128 ∧ b < 128)
  | .exportHost d a b => decide (d < 128 ∧ a < 128 ∧ b < 128)
  | .stream d a b => decide (d < 128 ∧ a < 128 ∧ b < 128)
  | .crsmode d a b => decide (d < 128 ∧ a < 128 ∧ b < 128)
  | .cursor d a b => decide (d < 128 ∧ a < 128 ∧ b < 128)
  | .kvlook d a b => decide (d < 128 ∧ a < 128 ∧ b < 128)
  | .kvapp d a b => decide (d < 128 ∧ a < 128 ∧ b < 128)
  | .kvfork d a b => decide (d < 128 ∧ a < 128 ∧ b < 128)
  | .kvtrunc d a b => decide (d < 128 ∧ a < 128 ∧ b < 128)
  | .kvflat d a b => decide (d < 128 ∧ a < 128 ∧ b < 128)
  | .kvdep d a b => decide (d < 128 ∧ a < 128 ∧ b < 128)
  | .playset d a b => decide (d < 128 ∧ a < 128 ∧ b < 128)
  | .framein d a b => decide (d < 128 ∧ a < 128 ∧ b < 128)
  | .stateck d a b => decide (d < 128 ∧ a < 128 ∧ b < 128)
  | .ceNop => true
  | .ceMov m => decide (m < 4)
  | .ceAdd t m r => decide (t < 8 ∧ m < 4 ∧ r < 4 ∧ t ∈ [0, 1, 2, 3, 4, 5, 6] ∧ (r = 0 ∨ t ∉ [3, 4, 5]))
  | .ceSub t m r => decide (t < 8 ∧ m < 4 ∧ r < 4 ∧ t ∈ [0, 1, 2, 3, 4, 5, 6] ∧ (r = 0 ∨ t ∉ [3, 4, 5]))
  | .ceMul t m r => decide (t < 8 ∧ m < 4 ∧ r < 4 ∧ t ∈ [0, 1, 2, 3, 4, 5] ∧ (r = 0 ∨ t ∉ [3, 4, 5]))
  | .ceFma t m r => decide (t < 8 ∧ m < 4 ∧ r < 4 ∧ t ∈ [0, 1, 2])
  | .ceFms t m r => decide (t < 8 ∧ m < 4 ∧ r < 4 ∧ t ∈ [0, 1, 2])
  | .ceMin t m => decide (t < 8 ∧ m < 4 ∧ t ∈ [0, 1, 2, 3, 4, 5])
  | .ceMax t m => decide (t < 8 ∧ m < 4 ∧ t ∈ [0, 1, 2, 3, 4, 5])
  | .ceAbs t m => decide (t < 8 ∧ m < 4 ∧ t ∈ [0, 1, 2, 3, 4, 5])
  | .ceNeg t m => decide (t < 8 ∧ m < 4 ∧ t ∈ [0, 1, 2, 3, 4, 5])
  | .ceRelu t m => decide (t < 8 ∧ m < 4 ∧ t ∈ [0, 1, 2])
  | .ceAnd m => decide (m < 4)
  | .ceOr m => decide (m < 4)
  | .ceXor m => decide (m < 4)
  | .ceShl t m i => decide (t < 8 ∧ m < 4 ∧ i < 64 ∧ t ∈ [3, 4, 5] ∧ (i = 0 ∨ 32 ≤ i))
  | .ceShr t m i => decide (t < 8 ∧ m < 4 ∧ i < 64 ∧ t ∈ [3, 4, 5] ∧ (i = 0 ∨ 32 ≤ i))
  | .ceSra t m i => decide (t < 8 ∧ m < 4 ∧ i < 64 ∧ t ∈ [3, 4, 5] ∧ (i = 0 ∨ 32 ≤ i))
  | .ceCmpeq t m => decide (t < 8 ∧ m < 4 ∧ t ∈ [0, 1, 2, 3, 4, 5])
  | .ceCmplt t m => decide (t < 8 ∧ m < 4 ∧ t ∈ [0, 1, 2, 3, 4, 5])
  | .ceCmple t m => decide (t < 8 ∧ m < 4 ∧ t ∈ [0, 1, 2, 3, 4, 5])
  | .ceSel t m => decide (t < 8 ∧ m < 4 ∧ t ∈ [0, 3])
  | .ceCvt t m r c => decide (t < 8 ∧ m < 4 ∧ r < 4 ∧ c < 4 ∧ t ∈ [0, 1, 2, 3, 7] ∧ c ≠ t ∧ ¬ (t = 7 ∧ c = 3))
  | .ceHsum t m r => decide (t < 8 ∧ m < 4 ∧ r < 4 ∧ t ∈ [0, 3] ∧ (r = 0 ∨ t ∉ [3, 4, 5]))
  | .ceHmax t m => decide (t < 8 ∧ m < 4 ∧ t ∈ [0, 3])
  | .ceExp2 m r => decide (m < 4 ∧ r < 4)
  | .ceLog2 m r => decide (m < 4 ∧ r < 4)
  | .ceRcp m r => decide (m < 4 ∧ r < 4)
  | .ceRsqrt m r => decide (m < 4 ∧ r < 4)
  | .ceTanh m r => decide (m < 4 ∧ r < 4)
  | .ceSigm m r => decide (m < 4 ∧ r < 4)
  | .ceCmul m r => decide (m < 4 ∧ r < 4)
  | .ceCmac m r => decide (m < 4 ∧ r < 4)
  | .ceCconj m => decide (m < 4)
  | .ceLmul m => decide (m < 4)
  | .ceLmac m r => decide (m < 4 ∧ r < 4)
  | .ceLdot4 m r => decide (m < 4 ∧ r < 4)
  | .ceTmerge m r => decide (m < 4 ∧ r < 4)
  | .ceTemit c => decide (c < 2)
  | .ceIdx m => decide (m < 4)
  | .ceHdr m => decide (m < 4)
  | .cePay m => decide (m < 4)
  | .nnop => true
  | .nw => true
  | .nr => true
  | .nwr => true
  | .nat o => decide (o < 16 ∧ o ≤ 14)
  | .gnop => true
  | .gemit p => decide (p < 8)
  | .cnop => true
  | .cin => true
  | .cout => true
  | .cinCout => true
  | .cclose => true
  | .cinCclose => true
  | .coutCclose => true
  | .cinCoutCclose => true
  | .resultLanding => true
  | .trapEntry => true
  | .handlerStart => true
  | .stampTimeout => true
  | .hubRefusal => true
  | .rvArrival => true
  | .launch => true
  | .dispatchRound => true
  | .switchOutComplete => true
  | .contextRestored => true
  | .completionStamp => true
  | .powerReassignment => true
  | .clockResume => true
  | .islandStep => true
  | .tokenArrival => true
  | .finishToken => true
  | .fetchComplete => true
  | .drain => true
  | .reconfigurationToken => true
  | .fill => true
  | .foldPointReached => true
  | .sweepTick => true
  | .riderDelivery => true
  | .faultedRiderStamp => true
  | .walkFill => true
  | .streamEmissionAdmit => true
  | .landingContribution => true
  | .landTimeout => true
  | .contributionHoldExpiry => true
  | .orderedUpdateExecute => true
  | .readAhead => true
  | .xqEntryAccept => true
  | .xqEntryBegin => true
  | .kStep => true
  | .kStepLanding => true
  | .pairCombine => true
  | .pairFault => true
  | .pairLate => true
  | .drainCopyEnd => true
  | .drainWrite => true
  | .transformBegin => true
  | .transformEnd => true
  | .sequenceTurnBegin => true
  | .sequenceTurnEnd => true
  | .heldTurnResume => true
  | .islandFreeze => true
  | .freezeSpread => true
  | .faultEdge => true
  | .teamEnd => true
  | .fqpop => true
  | .frzctlRel => true
  | .trinvLower => true
  | .trinvStart => true
  | .trinvDone => true
  | .accessReportRead => true
  | .courseDescriptorWrite => true
  | .grantTableWrite => true
  | .intstClear => true
  | .intenWrite => true
  | .wrejRead => true
  | .registerWrite => true
  | .hostAbort => true
  | .watchdog => true
  | .hostCompletion => true
  | .completionTimeout => true
  | .dlDown => true
  | .dlUp => true
  | .oarPacketSend => true
  | .oarPacketReceive => true
  | .oarAckSend => true
  | .oarAckReceive => true
  | .oarRetrain => true
  | .oarRetrainComplete => true
  | .linkDown => true
  | .oarcfgWrite => true
  | .dieLinkDown => true
  | .hubResetRelease => true
  | .romCheck => true
  | .firmwareReady => true
  | .attestGo => true
  | .attestDone => true
  | .keyGenerate => true
  | .keyErase => true
  | .thermalCap => true
  | .thermalCapLift => true
  | .thermalHalt => true
  | .thermalRestart => true
  | .alarm => true
  | .vfFlr => true
  | .deviceReset => true
  | .powerLoss => true
  | .engineAdmissionRetry => true
  | .flitRetry => true
  | .dieLinkRetrain => true
  | .dieLinkRetrainComplete => true
  | .keycmdDone => true

end Sys2Proof
end

