-- ==== Sys2Proof/Safety.lean ====
section
/-! DEFINITION. What a safe state is and when an instruction executes normally, in the terms that statements use. -/

namespace Sys2Proof.Machine

/-- The memory keeps its canonical form. -/
abbrev State.memOk (s : State) : Prop := s.mem.wf = true

/-- Every x register of `xs` and every v register of `vs` is in the allotment (R61, R374); x0 always is. -/
abbrev State.named (s : State) (xs vs : List Nat) : Prop :=
  (∀ n ∈ xs, n = 0 ∨ n < s.me.ax) ∧ (∀ n ∈ vs, n < s.me.av)

/-- A register or predicate instruction issues: it stands in a bundle that has passed its checks, or alone with its registers in the
allotment and fewer than 32 writes in flight (R192, R371, R374). -/
abbrev State.fit (s : State) (xs vs : List Nat) : Prop :=
  s.checked = true ∨ (s.named xs vs ∧ s.me.inFlight < 32)

/-- An instruction with one address issues: as `fit`, with its address aligned and reachable, its tangent run too (R376, R377). -/
abbrev State.fitAt (s : State) (xs vs : List Nat) (a : AddrReq) : Prop :=
  s.checked = true ∨ (s.named xs vs ∧ s.me.inFlight < 32 ∧ a.addr % a.width = 0 ∧ (a.bytes ≠ 0 → s.reachable s.cur a = true))

/-- A syllable issues: its bundle has passed, or no check of R371, no limit of R192 and no condition of R170 stops it. -/
abbrev State.issues (s : State) (i : Instr) : Prop := s.checked = true ∨ s.stopBefore i = none

/-- The S-slot and V-slot instructions whose only effect is a write in flight: they touch no memory, no address and no unit. -/
def registerOnly : Instr → Bool
  | .ldB _ _ _ | .ldH _ _ _ | .ldW _ _ _ | .ldD _ _ _ | .stB _ _ _ | .stH _ _ _ | .stW _ _ _ | .stD _ _ _ => false
  | .ldnB _ _ _ | .ldnH _ _ _ | .ldnW _ _ _ | .ldnD _ _ _ | .ldnBu _ _ _ | .ldnHu _ _ _ | .ldnWu _ _ _ => false
  | .stnB _ _ _ | .stnH _ _ _ | .stnW _ _ _ | .stnD _ _ _ | .atn _ _ _ _ => false
  | .br _ _ | .brNot _ _ | .jal _ _ | .jalr _ _ | .loop _ _ | .rvset _ _ | .rvarr _ _ | .fcfg _ _ _ | .frel _ => false
  | .tksend _ _ | .tktake _ _ | .trap _ | .rett | .rysave _ | .exit => false
  | .vld _ _ _ _ | .vldb _ _ _ _ | .vst _ _ _ _ | .vldn _ _ _ _ | .vstn _ _ _ _ => false
  | i => decide (i.place = .s ∨ i.place = .v ∨ i.place = .any)

end Sys2Proof.Machine
end

