-- ==== Sys2Proof/Certificates/Slice0/Obligations.lean ====
section
/-! DEFINITION. The statements for the provers: encodings, the step, the mechanics of a core, the results of every instruction, and the
events. An instruction of a core is stated where it issues (Safety.lean says when). -/

open Sys2Proof Sys2Proof.Machine

/-- One word of each slot and each kind of ring, written out field by field from its format (R163, R172, R175, R176, R298), decodes to the
instruction it stands for: ADD x3, x4, x5; BR !p15 with off21 = -3; VADD v3, v4, v5; VFMA v6, v7, v8, p2; MXDRAIN x10, x12, 1; RDFOLD x17,
x11, x0; LMAC.lg with RNE; nat max.f32; a generator word that emits to port 5; a converter word that takes in; one that presents and closes. -/
def Obligations.DecodeWords : Prop :=
  decodeAt .s 0b000001_0000011_0000100_0000101_00000 = some (.add 3 4 5) ∧
  decodeAt .s 0b100000_1111_1_111111111111111111101 = some (.brNot 15 0x1FFFFD) ∧
  decodeAt .v 0b000001_000011_000100_000101_0000_0000 = some (.vadd 3 4 5 0) ∧
  decodeAt .v 0b000010_000110_000111_001000_0010_0000 = some (.vfma 6 7 8 2) ∧
  decodeAt .m 0b000010_0000_0001010_0001100_00000001 = some (.mxdrain 10 12 1) ∧
  decodeAt .c 0b000001_00010_0010001_0001011_0000000 = some (.rdfold 17 11 0) ∧
  decodeAt .ce 0b100101_111_00_00_00000000000 = some (.ceLmac 0 0) ∧
  decodeAt .node 0b0_0_1_1010_000000000 = some (.nat 10) ∧
  decodeAt .gen 0b1_101_000000000000 = some (.gemit 5) ∧
  decodeAt .conv 0b1_0_0_0000000000000 = some .cin ∧
  decodeAt .conv 0b0_1_1_0000000000000 = some .coutCclose

/-- A node ring word is one of nnop 0x0000, nw 0x8000, nr 0x4000, nwr 0xC000 and nat aop 0x2000 + 512 × AOP with AOP 0 to 14; every other word,
the forms WV + AT and RV + AT among them, is refused. -/
def Obligations.NodeRingWords : Prop :=
  (∀ w i, w < 2 ^ 16 → (decodeNode w = some i ↔
    (w = 0 ∧ i = .nnop) ∨ (w = 0x8000 ∧ i = .nw) ∨ (w = 0x4000 ∧ i = .nr) ∨ (w = 0xC000 ∧ i = .nwr) ∨
      (∃ aop, aop ≤ 14 ∧ w = 0x2000 + 512 * aop ∧ i = .nat aop))) ∧
  decodeNode 0x3400 = some (.nat 10)

/-- Every well-formed instruction of the S slot, NOP among them, with every operand at every value its encoding takes, decodes from its own
word. -/
def Obligations.RoundTripScalar : Prop :=
  ∀ i : Instr, i.wellFormed = true → (i.place = .s ∨ i.place = .any) → decodeAt .s (encode i) = some i

/-- Every well-formed instruction of the V slot, with every operand at every value its encoding takes, decodes from its own word. -/
def Obligations.RoundTripVector : Prop :=
  ∀ i : Instr, i.wellFormed = true → i.place = .v → decodeAt .v (encode i) = some i

/-- Every well-formed instruction of the M slot, the C slot, a CE ring, a node ring, a generator ring or a converter ring decodes from its own
word. -/
def Obligations.RoundTripOther : Prop :=
  ∀ i : Instr, i.wellFormed = true → i.place ∈ ([.m, .c, .ce, .node, .gen, .conv] : List Place) →
    decodeAt i.place (encode i) = some i

/-- A syllable that the decoder of a slot accepts stands for a well-formed instruction of that slot or for NOP, and is that instruction's own
word: no bit of a syllable is dropped, and no reserved encoding of R373 falls through to a neighbour. -/
def Obligations.DecodeSound : Prop :=
  (∀ w i, w < 2 ^ 32 → decodeS w = .ok i → i.wellFormed = true ∧ encode i = w ∧ (i.place = .s ∨ i = .nop)) ∧
  (∀ w i, w < 2 ^ 32 → decodeV w = .ok i → i.wellFormed = true ∧ encode i = w ∧ (i.place = .v ∨ i = .nop)) ∧
  (∀ w i, w < 2 ^ 32 → decodeM w = .ok i → i.wellFormed = true ∧ encode i = w ∧ (i.place = .m ∨ i = .nop)) ∧
  (∀ w i, w < 2 ^ 32 → decodeC w = .ok i → i.wellFormed = true ∧ encode i = w ∧ (i.place = .c ∨ i = .nop))

/-- ADD with fn 12 is rejected at bit 0 (the example of R373), a major opcode that is not listed at bit 26, opcode 0 with another bit set at its
lowest set bit, and a nonzero field that the instruction does not use at the lowest set bit of that field, here FENCE.d with a nonzero rd at
bit 19 (R372, R373): a reserved syllable decodes to no instruction. -/
def Obligations.ReservedSyllables : Prop :=
  decodeS 0x041840AC = .bad 0 none ∧ decodeV 0x58000000 = .bad 26 none ∧ decodeC 0xFFFFFFFF = .bad 26 none ∧
  decodeM 0x00000110 = .bad 4 none ∧ decodeS 0xA8080001 = .bad 19 (some .fenceD) ∧ (decodeS 0xA8080001).instr = none ∧ (decodeS 0x041840AC).instr = none

/-- Where the next turn is a core's, nothing makes the core leave or wait, the bundle at its pc is fetched, its four syllables decode to i0, i1,
i2 and i3, and no check or hold stops the bundle, the step executes them in the order S, V, M, C and then retires the bundle (R145, R161,
R371): stores, results of latency 0 and the next bundle. The model's own choice (log entry 14): a bundle that has no translation or lies in
no course stops the machine with the fault fetchUnmapped, since the manual gives such a fetch no effect. -/
def Obligations.StepRunsBundle : Prop :=
  (∀ (s u u' t0 t1 t2 t3 : State) (c dt : Nat) (r : List Go) (b : BitVec 128) (i0 i1 i2 i3 : Instr),
    s.turns = ⟨dt, .core c⟩ :: r →
    ({ s with turns := r, now := s.now + dt } : State).coreStill c = false →
    ({ s with turns := r, now := s.now + dt } : State).leaves c = false →
    ({ s with turns := r, now := s.now + dt, cur := c } : State).beforeIssue = (u, true) →
    u.cached (u.asidOf c) (u.funcOf c) u.me.pc.toNat = some (b, u') →
    decodeS (b.toNat % 2 ^ 32) = .ok i0 → decodeV (b.toNat / 2 ^ 32 % 2 ^ 32) = .ok i1 →
    decodeM (b.toNat / 2 ^ 64 % 2 ^ 32) = .ok i2 → decodeC (b.toNat / 2 ^ 96 % 2 ^ 32) = .ok i3 →
    ({ u' with bundle := b } : State).stopBundle = none →
    exec i0 { u' with bundle := b, checked := true, curSlot := 0 } = .next t0 → exec i1 { t0 with curSlot := 1 } = .next t1 →
    exec i2 { t1 with curSlot := 2 } = .next t2 → exec i3 { t2 with curSlot := 3 } = .next t3 →
    step s = .next t3.retire) ∧
  (∀ (s u : State) (c dt : Nat) (r : List Go), s.turns = ⟨dt, .core c⟩ :: r →
    ({ s with turns := r, now := s.now + dt } : State).coreStill c = false →
    ({ s with turns := r, now := s.now + dt } : State).leaves c = false →
    ({ s with turns := r, now := s.now + dt, cur := c } : State).beforeIssue = (u, true) →
    u.cached (u.asidOf c) (u.funcOf c) u.me.pc.toNat = none →
    step s = .fault (.fetchUnmapped c u.me.pc.toNat))

/-- An event's turn is exec of the event with its argument; an element's turn is exec of the instruction its ring word decodes to, in the
element's place; the end of an island's step latches its elements; with no turn left the list is filled. Device time advances by the turn's
step (log entry 2). -/
def Obligations.StepRunsEvent : Prop :=
  (∀ (s : State) (dt : Nat) (i : Instr) (a : List Nat) (r : List Go), s.turns = ⟨dt, .event i a⟩ :: r →
    step s = exec i { s with turns := r, now := s.now + dt, ev := a }) ∧
  (∀ (s : State) (dt n k pos w : Nat) (p : Place) (i : Instr) (r : List Go), s.turns = ⟨dt, .element n k pos p w⟩ :: r →
    p ∈ ([.ce, .node, .gen, .conv] : List Place) → decodeAt p w = some i →
    step s = exec i (({ s with turns := r, now := s.now + dt } : State).enterElement n k pos)) ∧
  (∀ (s : State) (dt n k : Nat) (r : List Go), s.turns = ⟨dt, .latch n k⟩ :: r →
    step s = .next (({ s with turns := r, now := s.now + dt } : State).latchIsland n k)) ∧
  (∀ s : State, s.turns = [] → step s = .next s.refill)

/-- After reset the hub's boot stands in Reset, no core runs, no team, rider, walk, load or launch exists, every oar link is untrained, memory
lists nothing and has its canonical form; FRZCTL holds 0x640000 and trap vectors are 0. Values that the manual does not give are log entries
2 to 10. -/
def Obligations.ResetState : Prop :=
  State.reset.boot = .reset ∧ State.reset.cores.length = 32 ∧ (∀ c < 32, State.reset.core c = Core.empty) ∧
  Core.empty.run = .free ∧ Core.empty.tvec = 0 ∧ Core.empty.flags = 0 ∧
  State.reset.teams = [] ∧ State.reset.riders = [] ∧ State.reset.walks = [] ∧ State.reset.regions = [] ∧ State.reset.launches = [] ∧
  State.reset.frzctl = 0x640000 ∧ (∀ n < 18, (State.reset.oars.getD n Oar.down).up = false) ∧
  State.reset.mem = [] ∧ State.reset.memOk

/-- Every instruction and every event, on every operand and in every state, ends in a next state: what the manual calls a fault is an effect on
the state. -/
def Obligations.ExecNeverStops : Prop :=
  ∀ (i : Instr) (s : State), ∃ t, exec i s = .next t

/-- A byte reads back as written and a write of n bytes changes those n bytes alone, byte j being bits [8j + 7:8j] of the value (R2). -/
def Obligations.MemoryReadWrite : Prop :=
  (∀ (m : Memory) (a b : Nat) (v : Byte), (m.write a v).read b = if b = a then v else m.read b) ∧
  (∀ (m : Memory) (a n v b : Nat), (m.writeN a n v).read b =
    if a ≤ b ∧ b < a + n then BitVec.ofNat 8 (v / 256 ^ (b - a)) else m.read b) ∧
  (∀ (m : Memory) (a n v : Nat), (m.writeN a n v).readN a n = v % 256 ^ n)

/-- Writes, copies and clears of a memory in canonical form leave it in canonical form, and two canonical memories that read alike are equal. -/
def Obligations.MemoryCanonical : Prop :=
  (∀ (m : Memory) (a n v : Nat), m.wf = true → (m.writeN a n v).wf = true) ∧
  (∀ (m : Memory) (a b n : Nat), m.wf = true → (m.copy a b n).wf = true) ∧
  (∀ (m : Memory) (a n : Nat), m.wf = true → (m.clear a n).wf = true) ∧
  (∀ (m : Memory) (a : Nat) (l : List Byte), m.wf = true → (m.putBytes a l).wf = true) ∧
  (∀ m m' : Memory, m.wf = true → m'.wf = true → (∀ a, m.read a = m'.read a) → m = m')

/-- From any state whose memory is in canonical form (addresses strictly rising, no entry equal to what an unlisted address reads as), a step,
whatever it runs, leaves a memory in canonical form (memOk, Safety.lean); ResetState says that the memory after reset is. -/
def Obligations.MemoryStaysCanonical : Prop :=
  ∀ s t : State, s.memOk → step s = .next t → t.memOk

/-- A result queued for xd at +lat, no other write in flight: until the step lat steps later nothing changes; in that step plane 0 of xd reads
the value and each tangent plane 1 to k the given tangent or zero, FLAGS takes the flags, and every other register, plane and part of the
core is as it was (R169, R192, R303). A result for x0 is discarded (R162). -/
def Obligations.ScalarResultLands : Prop :=
  (∀ (s : State) (lat d : Nat) (v : DWord) (fl : FlagSet) (ts : List DWord),
    s.cur < s.cores.length → s.me.pend = [] → 0 < d → d < 128 → released s.me.ax s.me.lx d = false → s.me.k ≤ 3 →
    (∀ j < lat, ({ (s.putX lat d v fl ts).me with step := s.me.step + j } : Core).land =
      { (s.putX lat d v fl ts).me with step := s.me.step + j }) ∧
    ∀ r : Core, r = ({ (s.putX lat d v fl ts).me with step := s.me.step + lat } : Core).land →
      r.pend = [] ∧ r.rx 0 d = v ∧ (∀ p, 1 ≤ p → p ≤ s.me.k → r.rx p d = ts.getD (p - 1) 0) ∧
      (∀ p n, n < 128 → (n ≠ d ∨ s.me.k < p) → r.rx p n = s.me.rx p n) ∧ r.flags = s.me.flags ||| fl.setWidth 64 ∧
      { r with x := s.me.x, dirty := s.me.dirty, flags := s.me.flags, step := s.me.step } = s.me) ∧
  (∀ (s : State) (lat : Nat) (v : DWord) (ts : List DWord), s.putX lat 0 v 0 ts = s) ∧ (∀ (c : Core) (p : Nat), c.rx p 0 = 0)

/-- A result queued for vd at +lat under a mask, no other write in flight: in its landing step every lane of the mask of plane 0 and of the
tangent planes carried takes its value, every other lane, register and plane is as it was, and FLAGS takes the flags (R169, R215, R303). -/
def Obligations.VectorResultLands : Prop :=
  ∀ (s : State) (lat d m : Nat) (vs : List VWord) (fl : FlagSet),
    s.cur < s.cores.length → s.me.pend = [] → d < 64 → m < 65536 → released s.me.av s.me.lv d = false → s.me.k ≤ 3 →
    ∀ r : Core, r = ({ (s.putV lat d m vs fl).me with step := s.me.step + lat } : Core).land →
      r.pend = [] ∧
      (∀ p n, p ≤ s.me.k → n < 16 → lane (r.rv p d) n = if bit m n then lane (vs.getD p 0) n else lane (s.me.rv p d) n) ∧
      (∀ p n, n < 64 → (n ≠ d ∨ s.me.k < p) → r.rv p n = s.me.rv p n) ∧
      r.flags = s.me.flags ||| fl.setWidth 64 ∧
      { r with v := s.me.v, dirty := s.me.dirty, flags := s.me.flags, step := s.me.step } = s.me

/-- A predicate result lands in pd alone and a result for p0 is discarded, p0 reading all ones (R162); a CSR write lands at +1 with the bits
R208 marks as zero and TVEC[3:0] dropped (R373), and CSRS and CSRC act on the CSR as it stands at that step, FLAGS with the flags of the
step (R136, R208); a flag result is ORed into FLAGS (R135). -/
def Obligations.PredicateAndCsrLand : Prop :=
  (∀ (s : State) (lat d : Nat) (v : BitVec 16), s.cur < s.cores.length → s.me.pend = [] → 0 < d →
    ∀ r : Core, r = ({ (s.putP lat d v).me with step := s.me.step + lat } : Core).land →
      r.rp d = v ∧ (∀ n, n ≠ d → r.rp n = s.me.rp n) ∧ r.rp 0 = 0xFFFF ∧
      { r with p := s.me.p, step := s.me.step } = s.me) ∧
  (∀ (s : State) (lat : Nat) (v : BitVec 16), s.putP lat 0 v = s) ∧
  (∀ (s : State) (v : DWord), s.cur < s.cores.length → s.me.pend = [] →
    (({ (s.putCsr 1 0x08 v).me with step := s.me.step + 1 } : Core).land).tvec = v &&& 0xFFFFFFFFFFFFFFF0 ∧
    (({ (s.putCsr 1 0x0C v).me with step := s.me.step + 1 } : Core).land).tdly = v &&& 3 ∧
    (({ (s.putCsr 1 0x0E v).me with step := s.me.step + 1 } : Core).land).tstat = v &&& 7 ∧
    (({ (s.putCsr 1 0x0A v).me with step := s.me.step + 1 } : Core).land).tcause = v &&& 0x3FF ∧
    (({ (s.putCsr 1 0x00 v).me with step := s.me.step + 1 } : Core).land).flags = v &&& 0x7F ∧
    (({ (s.putCsr 1 0x09 v).me with step := s.me.step + 1 } : Core).land).tepc = v ∧
    (({ (s.putCsr 2 0x08 v).me with step := s.me.step + 1 } : Core).land).tvec = (s.me.tvec ||| v) &&& 0xFFFFFFFFFFFFFFF0 ∧
    (({ (s.putCsr 3 0x08 v).me with step := s.me.step + 1 } : Core).land).tvec = (s.me.tvec &&& ~~~v) &&& 0xFFFFFFFFFFFFFFF0) ∧
  (∀ (c : Core) (w : Wr) (v : DWord), w.poison = false → v = w.p0.setWidth 64 →
    (w.dst = .csr 0 1 → (c.land1 w).flags = v &&& 0x7F) ∧
    (w.dst = .csr 0 2 → (c.land1 w).flags = ((c.flags ||| w.fl.setWidth 64) ||| v) &&& 0x7F) ∧
    (w.dst = .csr 0 3 → (c.land1 w).flags = ((c.flags ||| w.fl.setWidth 64) &&& ~~~v) &&& 0x7F)) ∧
  (∀ (s : State) (lat : Nat) (fl : FlagSet), s.cur < s.cores.length → s.me.pend = [] →
    (({ (s.putW lat .flags [] 0 0 fl).me with step := s.me.step + lat } : Core).land).flags = s.me.flags ||| fl.setWidth 64)

/-- Two writes in flight to one scalar register that land in one step, however long they have been due (R199): the register takes the value of
the one issued later, whatever their latencies, and of two of one bundle that of the later slot (R169). -/
def Obligations.SameStepOrder : Prop :=
  ∀ (c : Core) (w1 w2 : Wr) (d : Nat), (c.pend = [w1, w2] ∨ c.pend = [w2, w1]) → 0 < d → released c.ax c.lx d = false →
    w1.dst = .x d → w2.dst = .x d → w1.due ≤ c.step → w2.due ≤ c.step → w1.wait = none → w2.wait = none →
    w1.poison = false → w2.poison = false → bit w1.pmask 0 = true → bit w2.pmask 0 = true →
    (w1.iss < w2.iss ∨ (w1.iss = w2.iss ∧ w1.slot < w2.slot)) → c.land.rx 0 d = w2.p0.setWidth 64

/-- For x and for v registers: a write landing on a released register is dropped and sets LOSTWR. A landed shrink sets the allotment to n below
the current one and has no effect otherwise; a landed grow sets it to n, at most the launch allotment, has no effect at or below the current
one, and zeroes the registers it adds in every plane (R213). -/
def Obligations.AllotmentChanges : Prop :=
  (∀ (c : Core) (w : Wr) (d : Nat), w.dst = .x d → w.poison = false → 0 < d → c.ax ≤ d → d < c.lx →
    (c.land1 w).x = c.x ∧ (c.land1 w).flags = c.flags ||| w.fl.setWidth 64 ||| 0x40) ∧
  (∀ (c : Core) (w : Wr) (n : Nat), w.dst = .allotX n false → w.poison = false →
    (c.land1 w).ax = (if n < c.ax then n else c.ax) ∧ (c.land1 w).x = c.x) ∧
  (∀ (c : Core) (w : Wr) (n : Nat), w.dst = .allotX n true → w.poison = false → n ≤ 128 →
    (c.land1 w).ax = (if c.ax < Nat.min n c.lx then Nat.min n c.lx else c.ax) ∧
    (∀ p r, p ≤ 3 → r < 128 → (c.land1 w).rx p r = if c.ax ≤ r ∧ r < Nat.min n c.lx then 0 else c.rx p r)) ∧
  (∀ (c : Core) (w : Wr) (d : Nat), w.dst = .v d → w.poison = false → c.av ≤ d → d < c.lv →
    (c.land1 w).v = c.v ∧ (c.land1 w).flags = c.flags ||| w.fl.setWidth 64 ||| 0x40) ∧
  (∀ (c : Core) (w : Wr) (n : Nat), w.dst = .allotV n false → w.poison = false →
    (c.land1 w).av = (if n < c.av then n else c.av) ∧ (c.land1 w).v = c.v) ∧
  (∀ (c : Core) (w : Wr) (n : Nat), w.dst = .allotV n true → w.poison = false → n ≤ 64 →
    (c.land1 w).av = (if c.av < Nat.min n c.lv then Nat.min n c.lv else c.av) ∧
    (∀ p r, p ≤ 3 → r < 64 → (c.land1 w).rv p r = if c.av ≤ r ∧ r < Nat.min n c.lv then 0 else c.rv p r))

/-- A taken branch is followed by two delay bundles and the target issues third; a bundle with no branch owed is followed by the next (R171).
After the bundle at LEND, LC falls by one and the bundle at LSTART follows while LC is nonzero, else the bundle at LEND + 16; a branch taken
in the body sets LC to 0 (R202). -/
def Obligations.BranchAndLoopSequencing : Prop :=
  (∀ (c : Core) (t : DWord), c.delayLeft = 0 → c.lc = 0 →
    c.advance.pc = c.pc + 16 ∧ (c.branchTo t).pc = c.pc + 16 ∧ (c.branchTo t).advance.pc = c.pc + 32 ∧
    (c.branchTo t).advance.advance.pc = t ∧ (c.branchTo t).advance.advance.delayLeft = 0) ∧
  (∀ c : Core, c.delayLeft = 0 → c.lc ≠ 0 → c.pc = c.lend →
    c.advance.lc = c.lc - 1 ∧ c.advance.pc = if c.lc - 1 = 0 then c.lend + 16 else c.lstart) ∧
  (∀ c : Core, c.delayLeft = 0 → c.pc ≠ c.lend → c.advance.pc = c.pc + 16 ∧ c.advance.lc = c.lc) ∧
  (∀ (c : Core) (t : DWord), c.lc ≠ 0 → c.lstart.toNat ≤ c.pc.toNat → c.pc.toNat ≤ c.lend.toNat → (c.branchTo t).lc = 0)

/-- A core that may trap (TVEC not 0, INH clear, not exited), with nothing in flight and every access performed, is in its handler: TEPC, TDLY
and TTGT hold the next bundle, the delay bundles owed and their target, TSTAT holds INH and k, TCAUSE the code and slot, TVAL the operand; k
is 0, the pc is TVEC, the handler's first bundle issues three steps on, VLD of every replay register is 0 (R209), the other registers,
memory and the other cores are unchanged. The core does not stand still: its clock does not pause (R24). -/
def Obligations.TrapEntry : Prop :=
  ∀ (s : State) (c code slot : Nat) (tv : DWord), c < s.cores.length → (s.core c).tvec ≠ 0 → (s.core c).tstat.getLsbD 0 = false →
    (s.core c).run = .running → (s.core c).pend = [] → s.quiet c = true → s.coreStill c = false →
    ∃ k : Core, s.takeTrap c code slot tv none = s.setCore c k ∧ k.run = .running ∧ k.pc = (s.core c).tvec ∧ k.tepc = (s.core c).pc ∧
      k.tdly = BitVec.ofNat 64 (s.core c).delayLeft ∧ k.ttgt = (s.core c).target ∧
      k.tstat = BitVec.ofNat 64 (1 + 2 * (s.core c).k) ∧ k.k = 0 ∧ k.delayLeft = 0 ∧
      k.tcause = BitVec.ofNat 64 (code % 256 + 256 * slot) ∧ k.tval = tv ∧ k.idle = 3 ∧
      (∀ n < 32, (Tab.get Ry.empty k.ry n).hdr.getLsbD 63 = false) ∧
      k.x = (s.core c).x ∧ k.v = (s.core c).v ∧ k.p = (s.core c).p ∧ k.flags = (s.core c).flags ∧ k.tvec = (s.core c).tvec

/-- With TVEC 0, INH set or EXIT issued, a TRAP n does not reach a handler: its record, code 0x1D with OP0 = n and RANK 7, is queued, and the
team is ended with STATUS 0x04 (R363). -/
def Obligations.TrapEscalates : Prop :=
  ∀ (s : State) (c n t : Nat), (s.core c).canTrap = false → (s.core c).team = some t →
    s.takeTrap c (0x80 + n) 0 (BitVec.ofNat 64 n) none =
      (s.queueRec (recRank7 (s.coreRec c 0x1D 0 n 0 0))).endTeam t 0x04 (recBits (recRank7 (s.coreRec c 0x1D 0 n 0 0)) 447 440) ∧
    (n < 128 → recBits (recRank7 (s.coreRec c 0x1D 0 n 0 0)) 447 440 = 0x1D ∧ recBits (recRank7 (s.coreRec c 0x1D 0 n 0 0)) 63 0 = n ∧
      recBits (recRank7 (s.coreRec c 0x1D 0 n 0 0)) 434 432 = 7)

/-- A fault record packs TIME [511:448], CODE [447:440], SK [439:436], EVT [435], RANK [434:432], FLI [431:424], FUNC [423:416], LOC [415:352],
SCNT [351:304], CYC [303:288], ISL [287:280], CORE [279:272], zero in [271:256] and OP3, OP2, OP1, OP0 in [255:0], and 64 bytes of it in
memory are little-endian. -/
def Obligations.FaultRecordLayout : Prop :=
  ∀ (r : RecF), r.time < 2 ^ 64 → r.code < 256 → r.sk < 16 → r.rank < 8 → r.fli < 256 → r.func < 256 → r.loc < 2 ^ 64 → r.scnt < 2 ^ 48 →
    r.cyc < 65536 → r.isl < 256 → r.core < 256 → r.op0 < 2 ^ 64 → r.op1 < 2 ^ 64 → r.op2 < 2 ^ 64 → r.op3 < 2 ^ 64 →
    recBits r.pack 511 448 = r.time ∧ recBits r.pack 447 440 = r.code ∧ recBits r.pack 439 436 = r.sk ∧ recBits r.pack 435 435 = b2n r.evt ∧
    recBits r.pack 434 432 = r.rank ∧ recBits r.pack 431 424 = r.fli ∧ recBits r.pack 423 416 = r.func ∧ recBits r.pack 415 352 = r.loc ∧
    recBits r.pack 351 304 = r.scnt ∧ recBits r.pack 303 288 = r.cyc ∧ recBits r.pack 287 280 = r.isl ∧ recBits r.pack 279 272 = r.core ∧
    recBits r.pack 271 256 = 0 ∧ recBits r.pack 255 192 = r.op3 ∧ recBits r.pack 191 128 = r.op2 ∧ recBits r.pack 127 64 = r.op1 ∧
    recBits r.pack 63 0 = r.op0 ∧ ∀ (m : Memory) (a i : Nat), i < 64 → (m.writeN a 64 r.pack.toNat).read (a + i) = (r.pack >>> (8 * i)).setWidth 8

/-- A core with one scalar write in flight takes a trap and, from its handler, returns by RETT with the trap CSRs and replay registers as the
trap left them: the bundle at TEPC is next with the same delay bundles owed and the same target, k is as before and INH is clear, and the
write is in flight again, with the same steps to go, planes, lanes and flags (R209 to R211). -/
def Obligations.TrapRoundTrip : Prop :=
  ∀ (c : Core) (w : Wr) (n code slot st : Nat) (tv : DWord), c.taking = some (code, slot, tv) → c.pend = [w] → w.dst = .x n → 0 < n → n < 128 →
    c.step ≤ w.due → w.due - c.step < 32 → w.kp < 4 → w.lmask < 65536 → w.pmask < 16 → w.wait = none → w.poison = false →
    c.delayLeft ≤ 2 → c.k ≤ 3 →
    ∀ r : Core, r = ({ c.enterHandler with step := st } : Core).returnTrap →
      r.pc = c.pc ∧ r.delayLeft = c.delayLeft ∧ r.target = c.target ∧ r.k = c.k ∧ r.tstat.getLsbD 0 = false ∧
      r.pend = [{ w with due := st + (w.due - c.step), iss := st, slot := 4 }] ∧ r.x = c.x ∧ r.v = c.v ∧ r.p = c.p ∧ r.flags = c.flags

/-- A syllable alone that fails a check of R371 has no effect of its own: the core takes the precise fault with its record. A register at or
above the launch allotment gives REG_RANGE, a released one REG_RELEASED, with OP0 the register and OP2 the allotment (R372, R374). With its
registers in the allotment, an access whose address is not a multiple of its width gives ALIGN and an aligned one that cannot be reached
NODE_RANGE, with OP0 the address and OP2 the width (R376, R377): LD, ST, LDN, VLD and JALR are stated. -/
def Obligations.PreciseFaults : Prop :=
  (∀ (i : Instr) (s : State) (b : Bad), i.place ∈ ([.s, .v, .m, .c] : List Place) → s.checked = false →
    s.checkIns i (encode i) none = some b → exec i s = .next (s.precise b (slotNo i))) ∧
  (∀ (s : State) (d a b : Nat), d ≠ 0 → s.me.lx ≤ d → s.me.ax ≤ s.me.lx → (a = 0 ∨ a < s.me.ax) → (b = 0 ∨ b < s.me.ax) →
    s.checkIns (.add d a b) (encode (.add d a b)) none = some ⟨2, d, encode (.add d a b), s.me.ax + 256 * s.me.av⟩) ∧
  (∀ (s : State) (d a b : Nat), d ≠ 0 → s.me.ax ≤ d → d < s.me.lx → (a = 0 ∨ a < s.me.ax) → (b = 0 ∨ b < s.me.ax) →
    s.checkIns (.add d a b) (encode (.add d a b)) none = some ⟨3, d, encode (.add d a b), s.me.ax + 256 * s.me.av⟩) ∧
  (∀ (s : State) (d a b g : Nat), s.me.lv ≤ a → s.me.av ≤ s.me.lv → d < s.me.av → b < s.me.av →
    s.checkIns (.vadd d a b g) (encode (.vadd d a b g)) none = some ⟨2, 256 + a, encode (.vadd d a b g), s.me.ax + 256 * s.me.av⟩) ∧
  (∀ (s : State) (d a i : Nat), s.named [d, a] [] → s.eaImm a i % 8 ≠ 0 →
    s.checkIns (.ldD d a i) (encode (.ldD d a i)) none = some ⟨4, s.eaImm a i, encode (.ldD d a i), 8⟩) ∧
  (∀ (s : State) (d a i : Nat), s.named [d, a] [] → s.eaImm a i % 4 ≠ 0 →
    s.checkIns (.stW d a i) (encode (.stW d a i)) none = some ⟨4, s.eaImm a i, encode (.stW d a i), 4⟩) ∧
  (∀ (s : State) (d a i : Nat), s.named [d, a] [] → s.eaImm a i % 8 = 0 → 2 ^ 20 ≤ s.eaImm a i →
    s.checkIns (.ldD d a i) (encode (.ldD d a i)) none = some ⟨5, s.eaImm a i, encode (.ldD d a i), 8⟩) ∧
  (∀ (s : State) (d a b : Nat), s.named [d, a, b] [] → s.eaReg a b % 8 = 0 → s.eaReg a b < 2 ^ 20 →
    s.checkIns (.ldnD d a b) (encode (.ldnD d a b)) none = some ⟨5, s.eaReg a b, encode (.ldnD d a b), 8⟩) ∧
  (∀ (s : State) (d a i g : Nat), s.named [a] [d] → s.eaVec a i 64 % 64 ≠ 0 →
    s.checkIns (.vld d a i g) (encode (.vld d a i g)) none = some ⟨4, s.eaVec a i 64, encode (.vld d a i g), 64⟩) ∧
  (∀ (s : State) (d a : Nat), s.named [d, a] [] → s.me.delayLeft = 0 → s.xval a % 16 ≠ 0 →
    s.checkIns (.jalr d a) (encode (.jalr d a)) none = some ⟨4, s.xval a, encode (.jalr d a), 16⟩)

/-- Every arithmetic, compare, conversion, move, CSR, tangent and allotment instruction of the S and V slots and every hold (registerOnly),
where it issues and answers a next state, changes only the list of writes in flight of its own core: every byte of memory, every register,
flag, CSR and the pc, every other core and every other part of the state is as before. What lands later is ScalarResultLands,
VectorResultLands and PredicateAndCsrLand. -/
def Obligations.RegisterOnlyFrame : Prop :=
  ∀ (i : Instr) (s t : State), registerOnly i = true → s.issues i → exec i s = .next t →
    (∀ a, t.mem.read a = s.mem.read a) ∧ ({ t.me with pend := s.me.pend } : Core) = s.me ∧ (∀ c, c ≠ s.cur → t.core c = s.core c) ∧
    ({ t with cores := s.cores } : State) = s

/-- When a bundle retires its stores are performed in slot order (R145): a byte inside the last store that covers it takes that store's byte;
every byte of memory outside all of them reads as before. -/
def Obligations.StoredBytes : Prop :=
  (∀ (s : State) (a : Nat), (∀ w ∈ s.me.stores, a < w.1 ∨ w.1 + w.2.1 ≤ a) → s.doStores.mem.read a = s.mem.read a) ∧
  (∀ (s : State) (l r : List (Nat × Nat × Nat)) (w : Nat × Nat × Nat) (a : Nat), s.me.stores = l ++ w :: r → w.1 ≤ a → a < w.1 + w.2.1 →
    (∀ x ∈ r, a < x.1 ∨ x.1 + x.2.1 ≤ a) →
    s.doStores.mem.read a = BitVec.ofNat 8 (w.2.2 / 256 ^ (a - w.1))) ∧
  (∀ s : State, ({ s.doStores with mem := s.mem } : State) = s)

/-- With xd, xa and xb in the allotment: ADD to MAXU queue for xd, at +1, the value of R193 of xa and xb as read at issue, the shifts by
xb[5:0]; MUL, MULH and MULHU at +3, DIV to REMU at +12, a divisor of zero giving all ones or the dividend and DIVZERO, and −2^63 by −1
giving −2^63 and 0 (R194). Nothing else changes. -/
def Obligations.ScalarArithmetic : Prop :=
  ∀ (s : State) (d a b : Nat) (x y : DWord), x = s.me.rx 0 a → y = s.me.rx 0 b → s.fit [d, a, b] [] →
    exec (.add d a b) s = .next (s.putX 1 d (x + y)) ∧ exec (.sub d a b) s = .next (s.putX 1 d (x - y)) ∧
    exec (.and d a b) s = .next (s.putX 1 d (x &&& y)) ∧ exec (.or d a b) s = .next (s.putX 1 d (x ||| y)) ∧
    exec (.xor d a b) s = .next (s.putX 1 d (x ^^^ y)) ∧
    exec (.sll d a b) s = .next (s.putX 1 d (x <<< (y.toNat % 64))) ∧ exec (.srl d a b) s = .next (s.putX 1 d (x >>> (y.toNat % 64))) ∧
    exec (.sra d a b) s = .next (s.putX 1 d (x.sshiftRight (y.toNat % 64))) ∧
    exec (.min d a b) s = .next (s.putX 1 d (if y.toInt < x.toInt then y else x)) ∧
    exec (.max d a b) s = .next (s.putX 1 d (if x.toInt < y.toInt then y else x)) ∧
    exec (.minu d a b) s = .next (s.putX 1 d (if y < x then y else x)) ∧ exec (.maxu d a b) s = .next (s.putX 1 d (if x < y then y else x)) ∧
    exec (.mul d a b) s = .next (s.putX 3 d (x * y)) ∧
    exec (.mulh d a b) s = .next (s.putX 3 d (BitVec.ofInt 64 (x.toInt * y.toInt / 2 ^ 64))) ∧
    exec (.mulhu d a b) s = .next (s.putX 3 d (BitVec.ofNat 64 (x.toNat * y.toNat / 2 ^ 64))) ∧
    (y ≠ 0 → exec (.div d a b) s =
      .next (s.putDiv d (if x.toInt = -2 ^ 63 ∧ y.toInt = -1 then x else BitVec.ofInt 64 (x.toInt.tdiv y.toInt)) 0)) ∧
    (y ≠ 0 → exec (.divu d a b) s = .next (s.putDiv d (x / y) 0)) ∧
    (y ≠ 0 → exec (.rem d a b) s = .next (s.putDiv d (BitVec.ofInt 64 (x.toInt.tmod y.toInt)) 0)) ∧
    (y ≠ 0 → exec (.remu d a b) s = .next (s.putDiv d (x % y) 0)) ∧
    (y = 0 → exec (.div d a b) s = .next (s.putDiv d (BitVec.allOnes 64) 2) ∧ exec (.divu d a b) s = .next (s.putDiv d (BitVec.allOnes 64) 2) ∧
      exec (.rem d a b) s = .next (s.putDiv d x 2) ∧ exec (.remu d a b) s = .next (s.putDiv d x 2)) ∧
    (∀ (v : DWord) (fl : FlagSet), (d ≠ 0 → s.putDiv d v fl = s.putX 12 d v fl) ∧
      (d = 0 → s.putDiv d v fl = s.putW 12 .flags [] 0xFFFF (planesMask s.me.k) fl))

/-- The compares queue for pd, at +1, all ones where the comparison of R195 holds and zero otherwise; the predicate operations combine pa and pb
bit by bit; PMOV gives xd the predicate zero-extended, and PSET gives pd the low 16 bits of xa. -/
def Obligations.ScalarCompare : Prop :=
  (∀ (s : State) (d a b : Nat) (x y : DWord), x = s.me.rx 0 a → y = s.me.rx 0 b → s.fit [a, b] [] →
    exec (.cmpEq d a b) s = .next (s.putP 1 d (if x = y then 0xFFFF else 0)) ∧
    exec (.cmpNe d a b) s = .next (s.putP 1 d (if x = y then 0 else 0xFFFF)) ∧
    exec (.cmpLt d a b) s = .next (s.putP 1 d (if x.toInt < y.toInt then 0xFFFF else 0)) ∧
    exec (.cmpGe d a b) s = .next (s.putP 1 d (if x.toInt < y.toInt then 0 else 0xFFFF)) ∧
    exec (.cmpLtu d a b) s = .next (s.putP 1 d (if x < y then 0xFFFF else 0)) ∧
    exec (.cmpGeu d a b) s = .next (s.putP 1 d (if x < y then 0 else 0xFFFF))) ∧
  (∀ (s : State) (d a b : Nat), s.fit [] [] →
    exec (.pand d a b) s = .next (s.putP 1 d (s.me.rp a &&& s.me.rp b)) ∧ exec (.por d a b) s = .next (s.putP 1 d (s.me.rp a ||| s.me.rp b)) ∧
    exec (.pxor d a b) s = .next (s.putP 1 d (s.me.rp a ^^^ s.me.rp b)) ∧
    exec (.pandn d a b) s = .next (s.putP 1 d (s.me.rp a &&& ~~~(s.me.rp b)))) ∧
  (∀ (s : State) (d a : Nat), s.fit [d] [] → exec (.pmov d a) s = .next (s.putX 1 d ((s.me.rp a).setWidth 64))) ∧
  (∀ (s : State) (d a : Nat), s.fit [a] [] → exec (.pset d a) s = .next (s.putP 1 d ((s.me.rx 0 a).setWidth 16)))

/-- With pos = xb[5:0] and len = xb[13:8] + 1, EXTU and EXTS give xd, at +1, the field of xa from pos up, with bits above bit 63 read as zero,
extended by zeros or by its top bit; INS replaces the field of xd by the low bits of xa; CLZ, CTZ and POPC count leading zeros, trailing
zeros and ones (R196). -/
def Obligations.ScalarBitFields : Prop :=
  (∀ (s : State) (d a b : Nat) (x y z : DWord) (pos len : Nat), x = s.me.rx 0 a → y = s.me.rx 0 b → z = s.me.rx 0 d →
    pos = y.toNat % 64 → len = y.toNat / 256 % 64 + 1 → s.fit [d, a, b] [] →
    (∃ v : DWord, exec (.extu d a b) s = .next (s.putX 1 d v) ∧ ∀ i < 64, v.getLsbD i = (decide (i < len) && x.getLsbD (pos + i))) ∧
    (∃ v : DWord, exec (.exts d a b) s = .next (s.putX 1 d v) ∧
      ∀ i < 64, v.getLsbD i = if i < len then x.getLsbD (pos + i) else x.getLsbD (pos + len - 1)) ∧
    (∃ v : DWord, exec (.ins d a b) s = .next (s.putX 1 d v) ∧
      ∀ i < 64, v.getLsbD i = if pos ≤ i ∧ i < pos + len then x.getLsbD (i - pos) else z.getLsbD i)) ∧
  (∀ (s : State) (d a : Nat) (x : DWord), x = s.me.rx 0 a → s.fit [d, a] [] →
    (∃ n ≤ 64, exec (.clz d a) s = .next (s.putX 1 d (BitVec.ofNat 64 n)) ∧ (∀ j < n, x.getLsbD (63 - j) = false) ∧
      (n < 64 → x.getLsbD (63 - n) = true)) ∧
    (∃ n ≤ 64, exec (.ctz d a) s = .next (s.putX 1 d (BitVec.ofNat 64 n)) ∧ (∀ j < n, x.getLsbD j = false) ∧ (n < 64 → x.getLsbD n = true)) ∧
    exec (.popc d a) s = .next (s.putX 1 d (BitVec.ofNat 64 ((List.range 64).countP (fun i => x.getLsbD i)))))

/-- The immediate forms act as their register forms on xa and the sign-extended immediate, 12 bits for arithmetic and logic, 9 for compares; the
shifts take their count from the instruction; LUI gives xd the sign-extended 19-bit immediate times 4,096; all at +1 (R197). -/
def Obligations.ScalarImmediates : Prop :=
  (∀ (s : State) (d a i : Nat) (x m : DWord), x = s.me.rx 0 a → i < 4096 → m = (BitVec.ofNat 12 i).signExtend 64 → s.fit [d, a] [] →
    exec (.addi d a i) s = .next (s.putX 1 d (x + m)) ∧ exec (.andi d a i) s = .next (s.putX 1 d (x &&& m)) ∧
    exec (.ori d a i) s = .next (s.putX 1 d (x ||| m)) ∧ exec (.xori d a i) s = .next (s.putX 1 d (x ^^^ m))) ∧
  (∀ (s : State) (d a n : Nat) (x : DWord), x = s.me.rx 0 a → n < 64 → s.fit [d, a] [] →
    exec (.slli d a n) s = .next (s.putX 1 d (x <<< n)) ∧ exec (.srli d a n) s = .next (s.putX 1 d (x >>> n)) ∧
    exec (.srai d a n) s = .next (s.putX 1 d (x.sshiftRight n))) ∧
  (∀ (s : State) (d a i : Nat) (x m : DWord), x = s.me.rx 0 a → i < 512 → m = (BitVec.ofNat 9 i).signExtend 64 → s.fit [a] [] →
    exec (.cmpiEq d a i) s = .next (s.putP 1 d (if x = m then 0xFFFF else 0)) ∧
    exec (.cmpiNe d a i) s = .next (s.putP 1 d (if x = m then 0 else 0xFFFF)) ∧
    exec (.cmpiLt d a i) s = .next (s.putP 1 d (if x.toInt < m.toInt then 0xFFFF else 0)) ∧
    exec (.cmpiGe d a i) s = .next (s.putP 1 d (if x.toInt < m.toInt then 0 else 0xFFFF)) ∧
    exec (.cmpiLtu d a i) s = .next (s.putP 1 d (if x < m then 0xFFFF else 0)) ∧
    exec (.cmpiGeu d a i) s = .next (s.putP 1 d (if x < m then 0 else 0xFFFF))) ∧
  (∀ (s : State) (d i : Nat), i < 2 ^ 19 → s.fit [d] [] →
    exec (.lui d i) s = .next (s.putX 1 d ((BitVec.ofNat 19 i).signExtend 64 <<< 12)))

/-- With its registers in the allotment and ea = xa + sext(imm12) aligned and in the store: LD gives xd, at +4, the bytes at ea, sign-extended,
a word with the tangents of its planes; ST adds to the bundle's stores the low bytes of the source at ea, a word with its tangents, and
outside tangent mode nothing else. Stated where no word of the store has a bad check code; the other cases are R390. -/
def Obligations.CoxStoreAccess : Prop :=
  (∀ (s : State) (d a i off : Nat), off = bits (s.eaImm a i) 19 0 → s.eccBad = [] →
    (s.fitAt [d, a] [] (s.access (s.eaImm a i) 1 0 0) → exec (.ldB d a i) s = .next (s.putX 4 d (sext 8 (s.mem.readN (coxBase s.cur + off) 1)))) ∧
    (s.fitAt [d, a] [] (s.access (s.eaImm a i) 2 0 0) → exec (.ldH d a i) s = .next (s.putX 4 d (sext 16 (s.mem.readN (coxBase s.cur + off) 2)))) ∧
    (s.fitAt [d, a] [] (s.access (s.eaImm a i) 8 0 0) → exec (.ldD d a i) s = .next (s.putX 4 d (sext 64 (s.mem.readN (coxBase s.cur + off) 8)))) ∧
    (s.fitAt [d, a] [] (s.access (s.eaImm a i) 4 1 0) → exec (.ldW d a i) s =
      .next (if d = 0 then s else s.putW 4 (.x d) ((sext 32 (s.mem.readN (coxBase s.cur + off) 4)).setWidth 512 ::
        loadTans s.mem (coxBase s.cur) s.me.k 1 (s.me.tansAt false off)) 0xFFFF (planesMask s.me.k) 0))) ∧
  (∀ (s : State) (r a i off : Nat) (x : DWord), x = s.me.rx 0 r → off = bits (s.eaImm a i) 19 0 →
    (s.fitAt [r, a] [] (s.access (s.eaImm a i) 1 0 0) → exec (.stB r a i) s = .next (s.addStore off 1 (x.toNat % 2 ^ 8))) ∧
    (s.fitAt [r, a] [] (s.access (s.eaImm a i) 2 0 0) → exec (.stH r a i) s = .next (s.addStore off 2 (x.toNat % 2 ^ 16))) ∧
    (s.fitAt [r, a] [] (s.access (s.eaImm a i) 8 0 0) → exec (.stD r a i) s = .next (s.addStore off 8 x.toNat)) ∧
    (s.fitAt [r, a] [] (s.access (s.eaImm a i) 4 1 0) → exec (.stW r a i) s = .next (s.store r (s.eaImm a i) 4)) ∧
    (s.me.k = 0 → s.store r (s.eaImm a i) 4 = s.addStore off 4 (x.toNat % 2 ^ 32))) ∧
  (∀ (s : State) (off n v : Nat), s.addStore off n v =
    s.setCore s.cur { s.me with stores := s.me.stores ++ [(coxBase s.cur + off, n, v)] })

/-- ST.d alone in its bundle, issued and retired, leaves every byte of memory but the eight at the address of ea in the core's store as it was,
and those hold the source; the other registers of the core and every other core are unchanged. Outside tangent mode the same holds of ST.w,
ST.h and ST.b. In tangent mode ST.w stores the word and, for each plane that TPLANE declares present, the tangent rounded to its PFMT at the
plane's address, and no byte outside these; the flags of the rounding are raised with it (R307). -/
def Obligations.StoreFrame : Prop :=
  (∀ (s t : State) (r a i n base : Nat), s.checked = true → s.me.stores = [] → s.me.k = 0 → s.cur < s.cores.length →
    base = coxBase s.cur + bits (s.eaImm a i) 19 0 →
    ((n = 8 ∧ exec (.stD r a i) s = .next t) ∨ (n = 4 ∧ exec (.stW r a i) s = .next t) ∨ (n = 2 ∧ exec (.stH r a i) s = .next t) ∨
      (n = 1 ∧ exec (.stB r a i) s = .next t)) →
    (∀ j < n, t.doStores.mem.read (base + j) = BitVec.ofNat 8 ((s.me.rx 0 r).toNat / 256 ^ j)) ∧
    (∀ adr, adr < base ∨ base + n ≤ adr → t.doStores.mem.read adr = s.mem.read adr) ∧
    ({ t.me with stores := [] } : Core) = s.me ∧ (∀ c, c ≠ s.cur → t.core c = s.core c) ∧ ({ t with cores := s.cores } : State) = s) ∧
  (∀ (s t : State) (r a i base off : Nat) (l : List (Nat × Nat × Nat)), s.checked = true → s.me.stores = [] → s.cur < s.cores.length →
    off = bits (s.eaImm a i) 19 0 → base = coxBase s.cur + off → l = s.me.tansAt false off → exec (.stW r a i) s = .next t →
    t = (s.setCore s.cur { s.me with stores := (base, 4, (s.me.rx 0 r).toNat % 2 ^ 32) :: l.map (fun p =>
      (coxBase s.cur + p.2.1, pfmtBytes p.2.2, ((s.tanWords r).1.getD (p.1 - 1) 0).toNat)) }).flagsNow (s.tanWords r).2 ∧
    (∀ p ∈ l, (s.tanWords r).1.getD (p.1 - 1) 0 = BitVec.ofNat 512 (tanStore p.2.2 (bits (s.me.rx p.1 r).toNat 31 0)).1) ∧
    ∀ adr, (adr < base ∨ base + 4 ≤ adr) → (∀ p ∈ l, adr < coxBase s.cur + p.2.1 ∨ coxBase s.cur + p.2.1 + pfmtBytes p.2.2 ≤ adr) →
      t.doStores.mem.read adr = s.mem.read adr)

/-- A node access goes to node ea[29:13] at offset ea[12:0]. At a random-mode node it is performed in its issue step: LDN queues the bytes for
xd at +12, STN writes the low bytes of the source and no other byte, ATN leaves the new value of R108 and queues the old one, with the
flags, at +14, or the flags alone for x0. In tangent mode a word access carries the tangents of its planes (R307), any other none. At an
ordered-update node the request is queued, nothing is performed yet, and the result's write stands in flight, due at the same step, until
the value of that request has come (R103, R199). Where bytes are read they are without bad check codes (R390). -/
def Obligations.NodeAccess : Prop :=
  (∀ (s : State) (d a b ea : Nat), ea = s.eaReg a b →
    (s.fitAt [d, a, b] [] (s.access ea 1 0 1) → exec (.ldnB d a b) s = .next (s.loadNode d ea 1 true) ∧
      exec (.ldnBu d a b) s = .next (s.loadNode d ea 1 false) ∧ exec (.stnB d a b) s = .next (s.storeNode d ea 1)) ∧
    (s.fitAt [d, a, b] [] (s.access ea 2 0 1) → exec (.ldnH d a b) s = .next (s.loadNode d ea 2 true) ∧
      exec (.ldnHu d a b) s = .next (s.loadNode d ea 2 false) ∧ exec (.stnH d a b) s = .next (s.storeNode d ea 2)) ∧
    (s.fitAt [d, a, b] [] (s.access ea 4 1 1) → exec (.ldnW d a b) s = .next (s.loadNode d ea 4 true) ∧
      exec (.ldnWu d a b) s = .next (s.loadNode d ea 4 false) ∧ exec (.stnW d a b) s = .next (s.storeNode d ea 4)) ∧
    (s.fitAt [d, a, b] [] (s.access ea 8 0 1) → exec (.ldnD d a b) s = .next (s.loadNode d ea 8 true) ∧
      exec (.stnD d a b) s = .next (s.storeNode d ea 8))) ∧
  (∀ (s : State) (d a b o : Nat), s.fitAt [d, a, b] [] (s.access (s.xval a) (atomicAlign o) 0 1) →
    exec (.atn d a b o) s = .next (s.atomicNode d (s.xval a) b o)) ∧
  (∀ (s : State) (d ea n w0 : Nat) (sg : Bool) (v : DWord), n ≤ 8 → w0 = nodeBase (keyOf ea) + bits ea 12 0 → (s.node (keyOf ea)).mode = 1 →
    s.eccBad = [] → v = (if sg then sext (8 * n) (s.mem.readN w0 n) else BitVec.ofNat 64 (s.mem.readN w0 n)) →
    ((n = 4 → s.me.k = 0) → s.loadNode d ea n sg = s.putX 12 d v) ∧
    (n = 4 → d ≠ 0 → s.loadNode d ea n sg = s.putW 12 (.x d)
      (v.setWidth 512 :: loadTans s.mem (nodeBase (keyOf ea)) s.me.k 1 (s.me.tansAt true (bits ea 12 0))) 0xFFFF (planesMask s.me.k) 0)) ∧
  (∀ (s : State) (r ea n w0 : Nat), w0 = nodeBase (keyOf ea) + bits ea 12 0 → (s.node (keyOf ea)).mode = 1 →
    ((n = 4 → s.me.k = 0) → s.storeNode r ea n = { s with mem := s.mem.writeN w0 n (s.me.rx 0 r).toNat }) ∧
    (∀ m, n = 4 → m = storeTans (s.mem.writeN w0 4 (s.me.rx 0 r).toNat) (nodeBase (keyOf ea)) 1 (s.tanWords r).1 (s.me.tansAt true (bits ea 12 0)) →
      s.storeNode r ea n = ({ s with mem := m } : State).flagsNow (s.tanWords r).2)) ∧
  (∀ (s : State) (d la b o w0 old : Nat) (res : Nat × FlagSet), w0 = nodeBase (keyOf la) + bits la 12 0 → (s.node (keyOf la)).mode = 1 →
    s.eccBad = [] → old = s.mem.readN w0 (atomicBytes o) → o < 16 →
    res = atomicNew o old (s.me.rx 0 b).toNat ((s.me.rx 0 d).toNat % 2 ^ 32) →
    (d ≠ 0 → s.atomicNode d la b o = ({ s with mem := s.mem.writeN w0 (atomicBytes o) res.1 } : State).putX 14 d (BitVec.ofNat 64 old) res.2) ∧
    (d = 0 → s.atomicNode d la b o = ({ s with mem := s.mem.writeN w0 (atomicBytes o) res.1 } : State).putW 14 .flags
      [BitVec.ofNat 512 old] 0xFFFF (planesMask s.me.k) res.2)) ∧
  (∀ (s u : State) (d ea n : Nat) (q : NodeReq), (s.node (keyOf ea)).mode = 2 →
    u = { s.modNode (keyOf ea) (fun nd => { nd with queue := nd.queue ++ [q] }) with nextId := s.nextId + 1 } →
    (∀ sg, q = { s.reqAt 16 ea n with id := s.nextId, signed := sg, tans := if n = 4 then s.me.tansAt true (bits ea 12 0) else [] } →
      s.loadNode d ea n sg = u.putW 12 (.x d) [] 0xFFFF (planesMask s.me.k) 0 (some s.nextId)) ∧
    (q = { s.reqAt 17 ea n with id := s.nextId, val := (s.me.rx 0 d).setWidth 512, planes := if n = 4 then (s.tanWords d).1 else [], tans := if n = 4 then s.me.tansAt true (bits ea 12 0) else [] } →
      s.storeNode d ea n = u.flagsNow (if n = 4 then (s.tanWords d).2 else 0)) ∧
    (∀ b o, n = atomicBytes o → q = { s.reqAt o ea n with id := s.nextId, val := (s.me.rx 0 b).setWidth 512, expv := (s.me.rx 0 d).toNat % 2 ^ 32 } →
      s.atomicNode d ea b o = u.putW 14 (if d = 0 then .flags else .x d) [] 0xFFFF (planesMask s.me.k) 0 (some s.nextId))) ∧
  (∀ (s : State) (o ea n : Nat), (s.reqAt o ea n).op = o ∧ (s.reqAt o ea n).bytes = n ∧ (s.reqAt o ea n).off = bits ea 12 0 ∧
    (s.reqAt o ea n).src = s.cur ∧ (s.reqAt o ea n).time = s.dieNs (s.cur / 8) ∧ (s.reqAt o ea n).k = s.me.k) ∧
  (∀ (s : State) (lat m id : Nat) (dst : Dst), s.cur < s.cores.length → ∃ w : Wr,
    (s.putW lat dst [] 0xFFFF m 0 (some id)).me.pend = insWr w s.me.pend ∧ w.wait = some id ∧ w.due = s.me.step + lat ∧ w.dst = dst) ∧
  (∀ (s : State) (key : Nat) (q : NodeReq), (s.node key).mode = 2 →
    (s.nodeRequest key q none).mem = s.mem ∧ ((s.nodeRequest key q none).node key).queue = (s.node key).queue ++ [{ q with id := s.nextId }])

/-- NOP does nothing (R161). Outside a delay bundle, BR is taken when p[0] is set and BR !p when it is clear, to the bundle off21 bundles away;
JAL and JALR are taken and queue for xd, at +1, this bundle + 48 (R201). LOOP queues LC = xa[31:0], LSTART and LEND at +1 and, for a count
of 0, skips to the bundle after LEND (R202). -/
def Obligations.BranchesAndJumps : Prop :=
  (∀ s : State, s.fit [] [] → exec .nop s = .next s) ∧
  (∀ (s : State) (p o : Nat), s.fit [] [] → s.me.delayLeft = 0 → o < 2 ^ 21 →
    exec (.br p o) s = .next (if (s.me.rp p).getLsbD 0 = true
      then s.setCore s.cur { s.me with next := .taken (s.me.pc + 16 * (BitVec.ofNat 21 o).signExtend 64) } else s) ∧
    exec (.brNot p o) s = .next (if (s.me.rp p).getLsbD 0 = true then s
      else s.setCore s.cur { s.me with next := .taken (s.me.pc + 16 * (BitVec.ofNat 21 o).signExtend 64) })) ∧
  (∀ (s : State) (d i : Nat), s.fit [d] [] → s.me.delayLeft = 0 → i < 2 ^ 19 →
    exec (.jal d i) s = .next ((s.putX 1 d (s.me.pc + 48)).modMe
      (fun c => { c with next := .taken (s.me.pc + 16 * (BitVec.ofNat 19 i).signExtend 64) }))) ∧
  (∀ (s : State) (d a : Nat), s.fit [d, a] [] → s.me.delayLeft = 0 → (s.me.rx 0 a).toNat % 16 = 0 →
    exec (.jalr d a) s = .next ((s.putX 1 d (s.me.pc + 48)).modMe (fun c => { c with next := .taken (s.me.rx 0 a) }))) ∧
  (∀ (s : State) (a n : Nat) (cnt : DWord), s.fit [a] [] → s.me.delayLeft = 0 → s.me.lc = 0 → 1 ≤ n → n < 4096 → cnt = s.me.rx 0 a &&& 0xFFFFFFFF →
    ∃ t, exec (.loop a n) s = .next t ∧
      t.me.next = (if cnt = 0 ∧ s.cur < s.cores.length then .loopSkip (s.me.pc + BitVec.ofNat 64 (16 * n) + 16) else s.me.next) ∧
      (s.cur < s.cores.length → s.me.pend = [] →
        ∀ r : Core, r = ({ t.me with step := s.me.step + 1 } : Core).land →
          r.lc = cnt ∧ r.lstart = s.me.pc + 16 ∧ r.lend = s.me.pc + BitVec.ofNat 64 (16 * n)))

/-- RVSET with xa from 1 to 255 sends the setting to the hub, RVARR an arrival, each once, with its core's time and number, and changes nothing
else. RVARR with a destination, once the hub has replied, gives xd the phase before the arrival in the step in which it issues; before that
it holds. RVWAIT issues, with no effect, when the phase differs from xa[0], and holds while it does not (R170, R203). -/
def Obligations.Rendezvous : Prop :=
  (∀ (s : State) (a r : Nat), s.fit [a] [] → 0 < s.xval a → s.xval a ≤ 255 →
    exec (.rvset a r) s = .next { s with rvq := s.rvq ++ [{ time := s.dieNs (s.cur / 8), src := s.cur, team := s.me.team.getD 0, point := r, set := some (s.xval a), holds := false, loc := coxLoc s.cur s.me.pc.toNat 0, core := s.cur, syl := encode (.rvset a r) }] }) ∧
  (∀ (s : State) (r : Nat), s.fit [] [] → s.me.hold.refusal = none →
    exec (.rvarr 0 r) s = .next { s with rvq := s.rvq ++ [{ time := s.dieNs (s.cur / 8), src := s.cur, team := s.me.team.getD 0, point := r, set := none, holds := false, loc := coxLoc s.cur s.me.pc.toNat 0, core := s.cur, syl := encode (.rvarr 0 r) }] }) ∧
  (∀ (s : State) (d r : Nat) (ph : Bool), s.fit [d] [] → d ≠ 0 → s.me.hold.refusal = none → s.me.hold.reply = some ph →
    exec (.rvarr d r) s = .next (s.putX 0 d (if ph then 1 else 0))) ∧
  (∀ (s : State) (d r : Nat), s.checked = false → s.named [d] [] → s.me.inFlight < 32 → d ≠ 0 → s.me.hold = Held.none → s.cur < s.cores.length →
    ∃ t, exec (.rvarr d r) s = .next t ∧ t.rvq.length = s.rvq.length + 1 ∧ t.me.hold = { Held.none with sent := true } ∧ t.me.pend = s.me.pend) ∧
  (∀ (s : State) (a r : Nat), s.fit [a] [] → (s.point r).ph ≠ bit (s.xval a) 0 → exec (.rvwait a r) s = .next s) ∧
  (∀ (s : State) (a r : Nat), s.checked = false → s.named [a] [] → s.me.inFlight < 32 → (s.point r).ph = bit (s.xval a) 0 →
    s.holdStep (.rvwait a r) = some s)

/-- With its registers in the allotment and its address aligned and reachable, a WAITSTAMP whose word has met its condition issues and queues
that word for xd in its own step (R170, R204). The condition is that the word differs from xb (.ne), that its bits 63:48 are xb[15:0]
(.tag), that its bits 63:56 are not 0 (.any). One whose word meets the condition now remembers the word and holds one step more; one whose
word does not holds on, and after STIMEO microseconds of it fails with STAMP_TIMEOUT. -/
def Obligations.WaitStamp : Prop :=
  (∀ (s : State) (d a b : Nat) (w : DWord), s.me.hold.met = some w →
    (s.fitAt [d, a, b] [] { addr := s.xval a, width := 8, bytes := 8 } → exec (.waitstampNe d a b) s = .next (s.putX 0 d w) ∧
      exec (.waitstampTag d a b) s = .next (s.putX 0 d w)) ∧
    (s.fitAt [d, a] [] { addr := s.xval a, width := 8, bytes := 8 } → exec (.waitstampAny d a) s = .next (s.putX 0 d w))) ∧
  (∀ (s : State) (d a b : Nat), s.checked = false → s.fitAt [d, a, b] [] { addr := s.xval a, width := 8, bytes := 8 } → s.me.hold = Held.none →
    (s.stampAt (s.xval a) ≠ s.me.rx 0 b → exec (.waitstampNe d a b) s =
      .next (s.modMe (fun c => { c with hold := { c.hold with met := some (s.stampAt (s.xval a)) } }))) ∧
    (s.stampAt (s.xval a) = s.me.rx 0 b → exec (.waitstampNe d a b) s =
      .next (s.modMe (fun c => { c with hold := { c.hold with since := some s.ns } }))) ∧
    ((s.stampAt (s.xval a)).toNat / 2 ^ 48 = s.xval b % 2 ^ 16 → exec (.waitstampTag d a b) s =
      .next (s.modMe (fun c => { c with hold := { c.hold with met := some (s.stampAt (s.xval a)) } }))) ∧
    ((s.stampAt (s.xval a)).toNat / 2 ^ 48 ≠ s.xval b % 2 ^ 16 → exec (.waitstampTag d a b) s =
      .next (s.modMe (fun c => { c with hold := { c.hold with since := some s.ns } })))) ∧
  (∀ (s : State) (d a : Nat), s.checked = false → s.fitAt [d, a] [] { addr := s.xval a, width := 8, bytes := 8 } → s.me.hold = Held.none →
    ((s.stampAt (s.xval a)).toNat / 2 ^ 56 ≠ 0 → exec (.waitstampAny d a) s =
      .next (s.modMe (fun c => { c with hold := { c.hold with met := some (s.stampAt (s.xval a)) } }))) ∧
    ((s.stampAt (s.xval a)).toNat / 2 ^ 56 = 0 → exec (.waitstampAny d a) s =
      .next (s.modMe (fun c => { c with hold := { c.hold with since := some s.ns } })))) ∧
  (∀ (s : State) (d a t : Nat), s.fitAt [d, a] [] { addr := s.xval a, width := 8, bytes := 8 } → s.checked = false → s.me.hold.met = none →
    s.me.hold.since = some t → (s.stampAt (s.xval a)).toNat / 2 ^ 56 = 0 → s.me.stimeo ≠ 0 → t + 1000 * s.me.stimeo.toNat ≤ s.ns →
    s.checkIns (.waitstampAny d a) (encode (.waitstampAny d a)) none =
      some ⟨0x1B, s.xval a, (s.stampAt (s.xval a)).toNat, s.me.stimeo.toNat⟩) ∧
  (∀ (s : State) (d a b t : Nat), s.fitAt [d, a, b] [] { addr := s.xval a, width := 8, bytes := 8 } → s.checked = false → s.me.hold.met = none →
    s.me.hold.since = some t → s.me.stimeo ≠ 0 → t + 1000 * s.me.stimeo.toNat ≤ s.ns →
    (s.stampAt (s.xval a) = s.me.rx 0 b → s.checkIns (.waitstampNe d a b) (encode (.waitstampNe d a b)) none =
      some ⟨0x1B, s.xval a, (s.stampAt (s.xval a)).toNat, s.me.stimeo.toNat⟩) ∧
    ((s.stampAt (s.xval a)).toNat / 2 ^ 48 ≠ s.xval b % 2 ^ 16 → s.checkIns (.waitstampTag d a b) (encode (.waitstampTag d a b)) none =
      some ⟨0x1B, s.xval a, (s.stampAt (s.xval a)).toNat, s.me.stimeo.toNat⟩))

/-- A fence issues, with no effect of its own, when every access, arrival and token of its core is performed and the last admission result has
landed; FENCE.d also waits for the stamps of its core's riders, sequence instructions and streams, FENCE.s also for its peer packets. Until
then it holds (R155, R205). -/
def Obligations.Fences : Prop :=
  (∀ s : State, s.fit [] [] → s.performed s.cur = true → s.me.admDue ≤ s.me.step → exec .fenceT s = .next s) ∧
  (∀ s : State, s.fit [] [] → s.performed s.cur = true → s.me.admDue ≤ s.me.step → s.unstamped s.cur = false → exec .fenceD s = .next s) ∧
  (∀ s : State, s.fit [] [] → s.performed s.cur = true → s.me.admDue ≤ s.me.step → s.unstamped s.cur = false → s.packetsOut s.cur = false →
    exec .fenceS s = .next s) ∧
  (∀ s : State, (s.performed s.cur = false ∨ s.me.step < s.me.admDue) →
    s.holdStep .fenceT = some s ∧ s.holdStep .fenceD = some s ∧ s.holdStep .fenceS = some s) ∧
  (∀ s : State, s.unstamped s.cur = true → s.holdStep .fenceD = some s ∧ s.holdStep .fenceS = some s) ∧
  (∀ s : State, s.packetsOut s.cur = true → s.holdStep .fenceS = some s)

/-- TRAP n issues and its bundle, when it retires, takes the trap 0x80 + n with TVAL n. RETT outside a delay bundle, its TEPC a multiple of 16,
issues and its bundle retires into the return of R211. EXIT issues and, when its bundle retires, the core has exited, every trap that still
waits for it escalates (R363) and its team's completion is looked at (R214). -/
def Obligations.TrapReturnExit : Prop :=
  (∀ (s : State) (n : Nat), s.fit [] [] → (s.checked = true ∨ s.me.canTrap = true) → s.cur < s.cores.length →
    ∃ t, exec (.trap n) s = .next t ∧ t = s.setCore s.cur { s.me with next := .trap n } ∧
      t.retire = (((t.doStores.modMe (fun c => { c.land with hold := Held.none })).modMe Core.advance).takeTrap
        s.cur (0x80 + n) 0 (BitVec.ofNat 64 n) none).endStep) ∧
  (∀ s : State, s.fit [] [] → s.me.delayLeft = 0 → s.me.tepc.toNat % 16 = 0 → s.cur < s.cores.length →
    ∃ t, exec .rett s = .next t ∧ t = s.setCore s.cur { s.me with next := .rett } ∧
      t.retire = ((t.doStores.modMe (fun c => { c.land with hold := Held.none })).modMe Core.returnTrap).endStep) ∧
  (∀ (s : State) (n : Nat), s.fit [] [] → s.cur < s.cores.length → s.me.team = some n →
    ∃ t, exec .exit s = .next t ∧ t = s.setCore s.cur { s.me with next := .exit } ∧
      ∃ u : State, (u.core s.cur).run = .exited ∧ u.turns = ⟨0, .event .completionStamp [n]⟩ :: s.turns ∧
        t.retire = s.me.trapq.foldl (fun (v : State) x => v.escalate v.me.team x.rcd) u)

/-- CSRR queues the CSR for xd at +2; CSRW, CSRS and CSRC queue xa at +1, to replace, set or clear the bits of the CSR as it then stands (R208).
DUAL, alone in its bundle outside tangent mode with nothing in flight, and DUALEND inside it, queue the new k at +1; a landed DUAL zeroes
planes 1 to k of every allotted register (R301). TGET and TSET move one plane, TPLANE queues its declaration, which lands as PRES, PFMT,
CDISP and NDISP of the plane, REGSHRINK and REGGROW the allotment 8m, at +1 (R213, R305, R306). -/
def Obligations.CsrAndTangent : Prop :=
  (∀ (s : State) (d c : Nat), s.fit [d] [] → exec (.csrr d c) s = .next (s.putX 2 d (s.me.getCsr c (s.dieNs (s.cur / 8)) s.cur (((s.teamOf s.cur).map (fun t => t.cores.length)).getD 0)))) ∧
  (∀ (s : State) (a c : Nat) (x : DWord), s.fit [a] [] → x = s.me.rx 0 a →
    exec (.csrw a c) s = .next (s.putCsr 1 c x) ∧ exec (.csrs a c) s = .next (s.putCsr 2 c x) ∧ exec (.csrc a c) s = .next (s.putCsr 3 c x)) ∧
  (∀ (c : Core) (w : Wr) (n fn : Nat) (v old : DWord), w.poison = false → w.fl = 0 → w.dst = .csr n fn → v = w.p0.setWidth 64 → old = c.getCsr n 0 0 0 →
    (fn = 1 → c.land1 w = c.putCsr n v) ∧ (fn = 2 → c.land1 w = c.putCsr n (old ||| v)) ∧ (fn = 3 → c.land1 w = c.putCsr n (old &&& ~~~v))) ∧
  (∀ (s : State) (k : Nat), s.fit [] [] → s.bundle.toNat / 2 ^ 32 = 0 → s.me.k = 0 → s.me.pend = [] →
    exec (.dual k) s = .next (s.putW 1 (.dual k) [] 0 0 0)) ∧
  (∀ s : State, s.fit [] [] → s.bundle.toNat / 2 ^ 32 = 0 → s.me.k ≠ 0 → s.me.pend = [] → exec .dualend s = .next (s.putW 1 (.dual 0) [] 0 0 0)) ∧
  (∀ (s : State) (d a t : Nat), 1 ≤ t → t ≤ s.me.k →
    (s.fit [d, a] [] → exec (.tget d a t) s = .next (s.putX 1 d (s.me.rx t a)) ∧
      exec (.tset d a t) s = .next (if d = 0 then s else s.putPlane 1 (.x d) t ((s.me.rx 0 a).setWidth 512))) ∧
    (s.fit [] [d, a] → exec (.tgetV d a t) s = .next (s.putV 3 d 0xFFFF [s.me.rv t a]) ∧
      exec (.tsetV d a t) s = .next (s.putPlane 3 (.v d) t (s.me.rv 0 a)))) ∧
  (∀ (s : State) (p a b : Nat), s.fit [a, b] [] → s.badValue (.tplane p a b) = none →
    exec (.tplane p a b) s = .next (s.putW 1 (.tplane p) [(s.me.rx 0 a).setWidth 512, (s.me.rx 0 b).setWidth 512] 0 0 0)) ∧
  (∀ (s : State) (m : Nat), s.fit [] [] →
    exec (.regshrinkX m) s = .next (s.putW 1 (.allotX (8 * m) false) [] 0 0 0) ∧
    exec (.regshrinkV m) s = .next (s.putW 1 (.allotV (8 * m) false) [] 0 0 0) ∧
    exec (.reggrowX m) s = .next (s.putW 1 (.allotX (8 * m) true) [] 0 0 0) ∧
    exec (.reggrowV m) s = .next (s.putW 1 (.allotV (8 * m) true) [] 0 0 0)) ∧
  (∀ (c : Core) (w : Wr) (k : Nat), w.poison = false → w.dst = .dual k → k ≤ 3 → c.ax ≤ 128 →
    (c.land1 w).k = k ∧ ∀ n < c.ax, (c.land1 w).rx 0 n = c.rx 0 n ∧ ∀ p, 1 ≤ p → p ≤ k → (c.land1 w).rx p n = 0) ∧
  (∀ (c : Core) (w : Wr) (k : Nat), w.poison = false → w.dst = .dual k → k ≤ 3 → c.av ≤ 64 →
    ∀ n < c.av, (c.land1 w).rv 0 n = c.rv 0 n ∧ ∀ p, 1 ≤ p → p ≤ k → (c.land1 w).rv p n = 0) ∧
  (∀ (c : Core) (w : Wr) (p x y : Nat), w.poison = false → w.dst = .tplane p → x = w.p0.toNat → y = w.p1.toNat →
    Tab.get TPlane.absent (c.land1 w).tplane p = { pres := x.testBit 63, pfmt := x / 2 ^ 48 % 4, cdisp := x % 2 ^ 20, ndisp := y % 2 ^ 13 } ∧
    (∀ q, q ≠ p → Tab.get TPlane.absent (c.land1 w).tplane q = Tab.get TPlane.absent c.tplane q) ∧ (c.land1 w).x = c.x ∧ (c.land1 w).v = c.v)

/-- RYSAVE stores the 32 replay registers, 512 bytes apart, from a 512-aligned offset, and RYLOAD reads them back, with every plane, at +4
(R211). TKTAKE gives xd the port's count at +2, and the count falls by one unless zero; TKSEND sends a start token to an island, not yet
started, of a load in force in Run or Resident; FCFG with no region at its origin opens one with its command, at its own region it queues
the command, a frozen load there being discarded (R361), and at a region of another running team it is refused; FREL marks the team's region
for release (R206, R207). -/
def Obligations.ReplayTokensRegions : Prop :=
  (∀ (s : State) (a off : Nat), off = bits (s.xval a) 19 0 → s.fitAt [a] [] { addr := s.xval a, width := 512, bytes := 16384, sp := 0 } →
    exec (.rysave a) s = .next (s.setCore s.cur { s.me with stores := s.me.stores ++ (List.range 32).map (fun n =>
      (coxBase s.cur + off + 512 * n, 512, (Tab.get Ry.empty s.me.ry n).toNat)) }) ∧
    ∃ t, exec (.ryload a) s = .next t ∧ t.mem = s.mem ∧
      (s.cur < s.cores.length → s.me.pend = [] → ∀ r : Core, r = ({ t.me with step := s.me.step + 4 } : Core).land →
        ∀ n < 32, (Tab.get Ry.empty r.ry n).p0.toNat = s.mem.readN (coxBase s.cur + (off + 512 * n) + 64) 64 ∧
          (Tab.get Ry.empty r.ry n).p1.toNat = s.mem.readN (coxBase s.cur + (off + 512 * n) + 128) 64 ∧
          (Tab.get Ry.empty r.ry n).p2.toNat = s.mem.readN (coxBase s.cur + (off + 512 * n) + 192) 64 ∧
          (Tab.get Ry.empty r.ry n).p3.toNat = s.mem.readN (coxBase s.cur + (off + 512 * n) + 256) 64 ∧
          (Tab.get Ry.empty r.ry n).hdr.toNat / 2 ^ 19 = s.mem.readN (coxBase s.cur + (off + 512 * n)) 8 / 2 ^ 19)) ∧
  (∀ (s : State) (d n : Nat) (c : BitVec 16), s.fit [d] [] → c = Tab.get 0 s.me.ports n →
    exec (.tktake d n) s = .next ((s.modMe (fun k => { k with ports := Tab.set 0 k.ports n (if c = 0 then 0 else c - 1) })).putX 2 d (c.setWidth 64))) ∧
  (∀ (s : State) (a b n : Nat) (r : Region) (l : Load), s.fit [a, b] [] → originBad (s.xval b) = false →
    s.regionAt (s.me.team.getD 0) (s.xval b) = some n → s.active n = some (r, l) → r.phase.clocked = true → l.discarded = false →
    s.xval a % 64 < l.isl.length → (l.isl.getD (s.xval a % 64) Isl.idle).started = false →
    exec (.tksend a b) s = .next { s with toks := s.toks ++
      [⟨.island n (s.xval a % 64), s.dieNs (s.cur / 8), s.cur, s.cur, s.cycle (r.clock l (s.xval a % 64)) + 2⟩] }) ∧
  (∀ (s : State) (d a b o m : Nat) (cmd : Cmd), s.fitAt [d, a, b] [] { addr := s.xval d, width := 8, bytes := 8 } → originBad (s.xval b) = false →
    o = s.xval b → m = s.me.team.getD 0 → cmd = { fl := s.xval a % 256, stamp := s.xval d, core := s.cur, team := m, k := s.me.k, tp := (List.range 4).map (fun p => Tab.get TPlane.absent s.me.tplane p), handler := none } →
    (s.regionAt m o = none → s.regions.any (fun r => r.isAt o && (s.team? r.team).any (fun t => decide (t.st = .running))) = false →
      exec (.fcfg d a b) s = .next (({ s with regions := s.regions ++ [{ Region.fresh (bits o 17 16) (bits o 4 0) (bits o 13 8) m with cmds := [cmd] }] } : State).nextCommand s.regions.length)) ∧
    (s.regionAt m o = none → s.regions.any (fun r => r.isAt o && (s.team? r.team).any (fun t => decide (t.st = .running))) = true →
      exec (.fcfg d a b) s = .next (s.refuseCmd (bits o 17 16) cmd { reason := 4, op0 := o })) ∧
    (∀ (n : Nat) (r : Region), s.regionAt m o = some n → s.region n = some r →
      (r.active.all (fun l => l.rcd.isNone || l.discarded) = true →
        exec (.fcfg d a b) s = .next ((s.modRegion n (fun r => { r with team := m, cmds := r.cmds ++ [cmd] })).nextCommand n)) ∧
      (∀ l, r.active = some l → l.rcd.isSome = true → l.discarded = false →
        exec (.fcfg d a b) s = .next ((((s.modRegion n (fun r => { r with team := m, cmds := r.cmds ++ [cmd] })).dropHandler n).discardRegion n true).nextCommand n)))) ∧
  (∀ (s : State) (b n : Nat) (r : Region), s.fit [b] [] → originBad (s.xval b) = false → s.regionAt (s.me.team.getD 0) (s.xval b) = some n →
    s.region n = some r → some r.team = s.me.team → r.idle = false → r.active = none →
    exec (.frel b) s = .next ((s.modRegion n (fun r => { r with frel := true })).nextCommand n))

/-- With vd, va and vb in the allotment, VADD to VFNMA, VDIV, VSQRT and the functions of R226 queue for vd, under pg, lane by lane the rounded
result at +3, +5, +10 or +16, with the tangents of R218, R219, R226 and R227. A lane form writes to every governed lane of plane 0 its
result and of plane p its tangent (a NaN where the result is one, +0.0 where every tangent input is a zero, else the formula), and raises
exactly the flags of the governed lanes (R215, R217). -/
def Obligations.VectorArithmetic : Prop :=
  (∀ (s : State) (d a b g : Nat), s.fit [] [d, a, b] →
    exec (.vadd d a b g) s = .next (s.lanes2 3 d a b g add32 (fun _ _ ta tb => tanAdd (f32 ta) (f32 tb))) ∧
    exec (.vsub d a b g) s = .next (s.lanes2 3 d a b g sub32 (fun _ _ ta tb => tanAdd (f32 ta) (f32 tb).neg)) ∧
    exec (.vmul d a b g) s = .next (s.lanes2 5 d a b g mul32 (fun x y ta tb => sumOfProducts [(f32 ta, f32 y), (f32 x, f32 tb)])) ∧
    exec (.vmin d a b g) s = .next (s.lanes2 3 d a b g (fun x y => (min32 x y, 0)) tanMin) ∧
    exec (.vmax d a b g) s = .next (s.lanes2 3 d a b g (fun x y => (max32 x y, 0)) tanMax) ∧
    exec (.vfma d a b g) s = .next (s.lanes3 5 d a b g fma32
      (fun x y ta tb td => sumOfProducts [(f32 ta, f32 y), (f32 x, f32 tb), (f32 td, .one)])) ∧
    exec (.vfnma d a b g) s = .next (s.lanes3 5 d a b g fnma32
      (fun x y ta tb td => sumOfProducts [(f32 td, .one), ((f32 ta).neg, f32 y), ((f32 x).neg, f32 tb)])) ∧
    exec (.vdiv d a b g) s = .next (s.lanes2 16 d a b g div32 tanDiv)) ∧
  (∀ (s : State) (d a g : Nat), s.fit [] [d, a] →
    exec (.vabs d a g) s = .next (s.lanes1 3 d a g (fun x => (abs32 x, 0)) tanAbs) ∧
    exec (.vneg d a g) s = .next (s.lanes1 3 d a g (fun x => (neg32 x, 0)) (fun _ ta => rne32 ((f32 ta).neg, 0))) ∧
    exec (.vexp2 d a g) s = .next (s.lanes1 10 d a g (fun x => fnExp2 0 (f32 x)) (fun x ta => tanExp2 (f32 x) (f32 ta))) ∧
    exec (.vlog2 d a g) s = .next (s.lanes1 10 d a g (fun x => fnLog2 0 (f32 x)) (fun x ta => tanLog2 (f32 x) (f32 ta))) ∧
    exec (.vrcp d a g) s = .next (s.lanes1 10 d a g (fun x => fnRcp 0 (f32 x)) (fun x ta => tanRcp (f32 x) (f32 ta))) ∧
    exec (.vrsqrt d a g) s = .next (s.lanes1 10 d a g (fun x => fnRsqrt 0 (f32 x)) (fun x ta => tanRsqrt (f32 x) (f32 ta))) ∧
    exec (.vtanh d a g) s = .next (s.lanes1 10 d a g (fun x => fnTanh 0 (f32 x)) (fun x ta => tanTanh (f32 x) (f32 ta))) ∧
    exec (.vsigm d a g) s = .next (s.lanes1 10 d a g (fun x => fnSigm 0 (f32 x)) (fun x ta => tanSigm (f32 x) (f32 ta))) ∧
    exec (.vsqrt d a g) s = .next (s.lanes1 16 d a g (fun x => fnSqrt 0 (f32 x)) (fun x ta => tanSqrt (f32 x) (f32 ta)))) ∧
  (∀ (s : State) (lat d a b g : Nat) (f : Nat → Nat → LaneRes) (t : Nat → Nat → Nat → Nat → LaneRes),
    s.lanes2 lat d a b g f t = s.putLanes lat d (s.me.rp g).toNat (fun n => f (s.ln 0 a n) (s.ln 0 b n))
      (fun p n r => tangentLane r [s.ln p a n, s.ln p b n] (fun _ => t (s.ln 0 a n) (s.ln 0 b n) (s.ln p a n) (s.ln p b n)))) ∧
  (∀ (s : State) (lat d a g : Nat) (f : Nat → LaneRes) (t : Nat → Nat → LaneRes),
    s.lanes1 lat d a g f t = s.putLanes lat d (s.me.rp g).toNat (fun n => f (s.ln 0 a n))
      (fun p n r => tangentLane r [s.ln p a n] (fun _ => t (s.ln 0 a n) (s.ln p a n)))) ∧
  (∀ (s : State) (lat d a b g : Nat) (f : Nat → Nat → Nat → LaneRes) (t : Nat → Nat → Nat → Nat → Nat → LaneRes),
    s.lanes3 lat d a b g f t = s.putLanes lat d (s.me.rp g).toNat (fun n => f (s.ln 0 a n) (s.ln 0 b n) (s.ln 0 d n))
      (fun p n r => tangentLane r [s.ln p a n, s.ln p b n, s.ln p d n]
        (fun _ => t (s.ln 0 a n) (s.ln 0 b n) (s.ln p a n) (s.ln p b n) (s.ln p d n)))) ∧
  (∀ (y : Nat) (l : List Nat) (f : Unit → LaneRes),
    tangentLane y l f = if (f32 y).isNan = true then (nan32, 0) else if ∀ x ∈ l, x % 2 ^ 31 = 0 then (0, 0) else f ()) ∧
  (∀ (s : State) (lat d m : Nat) (f : Nat → LaneRes) (t : Nat → Nat → Nat → LaneRes),
    ∃ (vs : List VWord) (fl : FlagSet), s.putLanes lat d m f t = s.putV lat d m vs fl ∧
      (∀ n < 16, bit m n = true → lane (vs.getD 0 0) n = (f n).1 % 2 ^ 32 ∧
        ∀ p, 1 ≤ p → p ≤ s.me.k → lane (vs.getD p 0) n = (t p n (f n).1).1 % 2 ^ 32) ∧
      ∀ j < 7, fl.getLsbD j = (List.range 16).any (fun n => bit m n &&
        ((f n).2.getLsbD j || (List.range s.me.k).any (fun p => (t (p + 1) n (f n).1).2.getLsbD j))))

/-- VIADD to VSRA queue for the governed lanes the wrapped 32-bit result, VIMUL at +5 and the others at +3, with tangent +0.0 and no flag
(R220); VAND to VANDN act bitwise on every plane, at +3 (R221); VCMP queues pd at +3, bit n set where pg[n] is set and the comparison of
lane n holds, other bits clear, signed for integers and false for a NaN (R222). -/
def Obligations.VectorInteger : Prop :=
  (∀ (s : State) (d a b g : Nat), s.fit [] [d, a, b] →
    exec (.viadd d a b g) s = .next (s.lanesI 3 d a b g (fun x y => (x + y) % 2 ^ 32)) ∧
    exec (.visub d a b g) s = .next (s.lanesI 3 d a b g (fun x y => (x + 2 ^ 32 - y) % 2 ^ 32)) ∧
    exec (.vimul d a b g) s = .next (s.lanesI 5 d a b g (fun x y => x * y % 2 ^ 32)) ∧
    exec (.vimin d a b g) s = .next (s.lanesI 3 d a b g (fun x y => if sint 32 y < sint 32 x then y else x)) ∧
    exec (.vimax d a b g) s = .next (s.lanesI 3 d a b g (fun x y => if sint 32 x < sint 32 y then y else x)) ∧
    exec (.vsll d a b g) s = .next (s.lanesI 3 d a b g (fun x y => x * 2 ^ (y % 32) % 2 ^ 32)) ∧
    exec (.vsrl d a b g) s = .next (s.lanesI 3 d a b g (fun x y => x / 2 ^ (y % 32))) ∧
    exec (.vsra d a b g) s = .next (s.lanesI 3 d a b g (fun x y => ((BitVec.ofNat 32 x).sshiftRight (y % 32)).toNat)) ∧
    exec (.vand d a b g) s = .next (s.lanesL d a b g (fun x y => x &&& y)) ∧ exec (.vor d a b g) s = .next (s.lanesL d a b g (fun x y => x ||| y)) ∧
    exec (.vxor d a b g) s = .next (s.lanesL d a b g (fun x y => x ^^^ y)) ∧
    exec (.vandn d a b g) s = .next (s.lanesL d a b g (fun x y => x &&& ~~~y))) ∧
  (∀ (s : State) (p a b g : Nat), s.fit [] [a, b] →
    (∃ w, exec (.vcmpEqF p a b g) s = .next (s.putP 3 p w) ∧ ∀ n < 16, w.getLsbD n = ((s.me.rp g).getLsbD n && eq32 (s.ln 0 a n) (s.ln 0 b n))) ∧
    (∃ w, exec (.vcmpLtF p a b g) s = .next (s.putP 3 p w) ∧ ∀ n < 16, w.getLsbD n = ((s.me.rp g).getLsbD n && lt32 (s.ln 0 a n) (s.ln 0 b n))) ∧
    (∃ w, exec (.vcmpLeF p a b g) s = .next (s.putP 3 p w) ∧ ∀ n < 16, w.getLsbD n = ((s.me.rp g).getLsbD n && le32 (s.ln 0 a n) (s.ln 0 b n))) ∧
    (∃ w, exec (.vcmpEqI p a b g) s = .next (s.putP 3 p w) ∧
      ∀ n < 16, w.getLsbD n = ((s.me.rp g).getLsbD n && decide (s.ln 0 a n = s.ln 0 b n))) ∧
    (∃ w, exec (.vcmpLtI p a b g) s = .next (s.putP 3 p w) ∧
      ∀ n < 16, w.getLsbD n = ((s.me.rp g).getLsbD n && decide (sint 32 (s.ln 0 a n) < sint 32 (s.ln 0 b n))))) ∧
  (∀ (s : State) (lat d a b g : Nat) (f : Nat → Nat → Nat), (∀ x y, x < 2 ^ 32 → y < 2 ^ 32 → f x y < 2 ^ 32) →
    ∃ vs : List VWord, s.lanesI lat d a b g f = s.putV lat d (s.mask g) vs 0 ∧
      (∀ n < 16, bit (s.mask g) n = true → lane (vs.getD 0 0) n = f (s.ln 0 a n) (s.ln 0 b n)) ∧
      (∀ p n, 1 ≤ p → n < 16 → lane (vs.getD p 0) n = 0)) ∧
  (∀ (s : State) (d a b g : Nat) (f : VWord → VWord → VWord), ∃ vs : List VWord, s.lanesL d a b g f = s.putV 3 d (s.me.rp g).toNat vs 0 ∧
    ∀ p ≤ s.me.k, vs.getD p 0 = f (s.me.rv p a) (s.me.rv p b))

/-- VSEL has opcode 0x06, format V.R and fn 0, the other fn values being reserved, with the selector in the pg field; at +3 every lane n of vd
takes va's lane when pS[n] is set and vb's otherwise, and each tangent lane follows from the same source. (frasm's VMOV is the case va = vb
with pg 0.) -/
def Obligations.VectorSelect : Prop :=
  (∀ d a b q, d < 64 → a < 64 → b < 64 → q < 16 →
    decodeV (6 * 2 ^ 26 + d * 2 ^ 20 + a * 2 ^ 14 + b * 2 ^ 8 + q * 2 ^ 4) = .ok (.vsel d a b q) ∧
    ∀ fn, 1 ≤ fn → fn < 16 → (decodeV (6 * 2 ^ 26 + d * 2 ^ 20 + a * 2 ^ 14 + b * 2 ^ 8 + q * 2 ^ 4 + fn)).instr = none) ∧
  (∀ (s : State) (d a b q : Nat), s.fit [] [d, a, b] → ∃ vs : List VWord, exec (.vsel d a b q) s = .next (s.putV 3 d 0xFFFF vs 0) ∧
    ∀ p n, p ≤ s.me.k → n < 16 → lane (vs.getD p 0) n = if (s.me.rp q).getLsbD n = true then lane (s.me.rv p a) n else lane (s.me.rv p b) n)

/-- VREDADD sums the 16 lanes with every step RNE, lanes i and i + d for d = 8, 4, 2, 1, a lane excluded by the predicate entering as +0.0; the
value and every lane's flags land in lane 0 of vd at +8 with the other lanes zero. Each tangent is the sum of the governed tangents by the
same tree, under the cases of R217, its flags with it (R225). -/
def Obligations.VectorSumTree : Prop :=
  ∀ (s : State) (d a g : Nat) (x : Nat → Nat → Nat) (l0 l1 l2 l3 : Nat → Nat → LaneRes) (w t : Nat → LaneRes), s.fit [] [d, a] →
    (∀ p n, x p n = if bit (s.mask g) n then s.ln p a n else 0) →
    (∀ p i, l0 p i = add32 (x p i) (x p (i + 8))) → (∀ p i, l1 p i = add32 (l0 p i).1 (l0 p (i + 4)).1) →
    (∀ p i, l2 p i = add32 (l1 p i).1 (l1 p (i + 2)).1) → (∀ p i, l3 p i = add32 (l2 p i).1 (l2 p (i + 1)).1) →
    (∀ p, w p = ((l3 p 0).1, (l3 p 0).2 ||| orAll ((List.range 2).map (fun i => (l2 p i).2)) ||| orAll ((List.range 4).map (fun i => (l1 p i).2)) |||
      orAll ((List.range 8).map (fun i => (l0 p i).2)))) →
    (∀ p, t p = tangentLane (w 0).1 ((List.range 16).map (x p)) (fun _ => w p)) →
    ∃ (ts : List VWord) (fl : FlagSet), exec (.vredadd d a g) s = .next (s.putV 8 d 0xFFFF (BitVec.ofNat 512 (w 0).1 :: ts) fl) ∧
      (∀ p, 1 ≤ p → p ≤ s.me.k → ts.getD (p - 1) 0 = BitVec.ofNat 512 (t p).1) ∧
      fl = (w 0).2 ||| orAll ((List.range s.me.k).map (fun p => (t (p + 1)).2))

/-- VPERM takes for lane n the lane named by vb's lane n, VBCAST one lane, VINS and VSPLAT the low word of xa, VEXT and VEXTS give xd one lane
extended; VREDIADD sums into lane 0 at +8 with tangents +0.0, VREDMAX keeps there the greatest by the tree of R141, an excluded lane
entering as −∞, with the tangent of the lane kept; VCVT converts lane by lane at +4, with the tangents of R228 and R310, zero for integers;
VSCALE gives every lane the scale code, with tangent +0.0, and VQUANT the packet of every plane, at +6. -/
def Obligations.VectorMoves : Prop :=
  (∀ (s : State) (d a b g : Nat), s.fit [] [d, a, b] → ∃ vs : List VWord, exec (.vperm d a b g) s = .next (s.putV 3 d (s.mask g) vs 0) ∧
    ∀ p n, p ≤ s.me.k → n < 16 → lane (vs.getD p 0) n = lane (s.me.rv p a) (lane (s.me.rv 0 b) n % 16)) ∧
  (∀ (s : State) (d a m g : Nat), s.fit [] [d, a] → m < 16 → ∃ vs : List VWord, exec (.vbcast d a m g) s = .next (s.putV 3 d (s.mask g) vs 0) ∧
    ∀ p n, p ≤ s.me.k → n < 16 → lane (vs.getD p 0) n = lane (s.me.rv p a) m) ∧
  (∀ (s : State) (d a m : Nat), s.fit [a] [d] → m < 16 → ∃ vs : List VWord, exec (.vins d a m) s = .next (s.putV 3 d (2 ^ m) vs 0) ∧
    ∀ p, p ≤ s.me.k → lane (vs.getD p 0) m = (s.me.rx p a).toNat % 2 ^ 32) ∧
  (∀ (s : State) (d a g : Nat), s.fit [a] [d] → ∃ vs : List VWord, exec (.vsplat d a g) s = .next (s.putV 3 d (s.mask g) vs 0) ∧
    ∀ p n, p ≤ s.me.k → n < 16 → lane (vs.getD p 0) n = (s.me.rx p a).toNat % 2 ^ 32) ∧
  (∀ (s : State) (v d m : Nat), s.fit [d] [v] → m < 16 →
    (∃ ts : List DWord, exec (.vext v d m) s = .next (s.putX 3 d (BitVec.ofNat 64 (lane (s.me.rv 0 v) m)) 0 ts) ∧
      ∀ p, 1 ≤ p → p ≤ s.me.k → ts.getD (p - 1) 0 = BitVec.ofNat 64 (lane (s.me.rv p v) m)) ∧
    (∃ ts : List DWord, exec (.vexts v d m) s = .next (s.putX 3 d ((BitVec.ofNat 32 (lane (s.me.rv 0 v) m)).signExtend 64) 0 ts) ∧
      ∀ p, 1 ≤ p → p ≤ s.me.k → ts.getD (p - 1) 0 = (BitVec.ofNat 32 (lane (s.me.rv p v) m)).signExtend 64)) ∧
  (∀ (s : State) (d a g : Nat), s.fit [] [d, a] → ∃ ts : List VWord, exec (.vrediadd d a g) s = .next (s.putV 8 d 0xFFFF
      (BitVec.ofNat 512 (((List.range 16).map (fun n => if bit (s.mask g) n then s.ln 0 a n else 0)).sum % 2 ^ 32) :: ts) 0) ∧ ∀ p, ts.getD p 0 = 0) ∧
  (∀ (s : State) (d a g y : Nat) (pk : Nat × Nat → Nat × Nat → Nat × Nat) (x l0 l1 l2 l3 : Nat → Nat × Nat) (t : Nat → LaneRes), s.fit [] [d, a] →
    (∀ u v, pk u v = if anyNan32 u.1 v.1 = true then (nan32, u.2) else if maxTakesB u.1 v.1 = true then v else u) →
    (∀ n, x n = (if bit (s.mask g) n then s.ln 0 a n else 0xFF800000, n)) →
    (∀ i, l0 i = pk (x i) (x (i + 8))) → (∀ i, l1 i = pk (l0 i) (l0 (i + 4))) → (∀ i, l2 i = pk (l1 i) (l1 (i + 2))) →
    (∀ i, l3 i = pk (l2 i) (l2 (i + 1))) → y = (if (f32 (l3 0).1).isNan = true then nan32 else (l3 0).1) →
    (∀ p, t p = tangentLane y ((List.range 16).map (fun n => if bit (s.mask g) n then s.ln p a n else 0))
      (fun _ => tanPass (if bit (s.mask g) (l3 0).2 then s.ln p a (l3 0).2 else 0))) →
    ∃ (ts : List VWord) (fl : FlagSet), exec (.vredmax d a g) s = .next (s.putV 8 d 0xFFFF (BitVec.ofNat 512 y :: ts) fl) ∧
      (∀ p, 1 ≤ p → p ≤ s.me.k → ts.getD (p - 1) 0 = BitVec.ofNat 512 (t p).1) ∧
      ∀ j < 7, fl.getLsbD j = (List.range s.me.k).any (fun p => (t (p + 1)).2.getLsbD j)) ∧
  (∀ (s : State) (d a t g r : Nat), s.fit [] [d, a] →
    exec (.vcvtTo d a t g r) s = .next (s.putLanes 4 d (s.mask g) (fun n => cvtTo t r (s.ln 0 a n)) (fun p n y => s.cvtTan t a p n (cvtFrom t 0 y).1)) ∧
    exec (.vcvtFrom d a t g r) s = .next (s.putLanes 4 d (s.mask g) (fun n => cvtFrom t r (s.ln 0 a n)) (fun p n y => s.cvtTan t a p n y)) ∧
    (∀ p n y, cvtInt t = true → s.cvtTan t a p n y = (0, 0)) ∧
    (∀ p n y, cvtInt t = false → s.cvtTan t a p n y = tangentLane y [s.ln p a n] (fun _ => (s.ln p a n, 0)))) ∧
  (∀ (s : State) (d a n f r : Nat), s.fit [] (d :: a :: if 16 ≤ n then [a + 1] else []) →
    (∃ v : VWord, exec (.vscale d a n f) s = .next (s.putV 6 d 0xFFFF [v] 0) ∧
      ∀ j < 16, lane v j = blockScale (14 + f) (((List.range (n + 1)).map (fun i => s.ln 0 (a + i / 16) (i % 16))).map f32) % 2 ^ 32) ∧
    ∃ fl, exec (.vquant d a n f r) s = .next (s.putV 6 d 0xFFFF ((0 :: s.tans).map (fun p =>
      (packBlock (14 + f) (s.ln 0 d 0 % 1024) r p ((List.range (n + 1)).map (fun i => s.ln p (a + i / 16) (i % 16)))).1)) fl))

/-- With its registers in the allotment and ea = xa + m × imm5 aligned and reachable: VLD queues for vd under pg, at +6, the 64 bytes at ea,
VLDB one word in every lane; VST adds to the bundle's stores the governed words; VLDN queues at +14 and VSTN writes the governed words of a
random-mode node and no other byte (R232). Stated outside tangent mode and without bad check codes; the forms with tangents are named. -/
def Obligations.VectorMemory : Prop :=
  (∀ (s : State) (d a i g off : Nat), off = bits (s.eaVec a i 64) 19 0 → s.fitAt [a] [d] (s.access (s.eaVec a i 64) 64 16 0) →
    exec (.vld d a i g) s = .next (s.vload d (s.eaVec a i 64) g 16) ∧ exec (.vst d a i g) s = .next (s.vstore d (s.eaVec a i 64) g) ∧
    (s.eccBad = [] → s.me.k = 0 → s.vload d (s.eaVec a i 64) g 16 =
      s.putV 6 d (s.mask g) [BitVec.ofNat 512 (s.mem.readN (coxBase s.cur + off) 64)]) ∧
    (s.me.k = 0 → s.cur < s.cores.length → (s.vstore d (s.eaVec a i 64) g).me.stores = s.me.stores ++
      ((List.range 16).filter (fun n => bit (s.mask g) n)).map (fun n => (coxBase s.cur + (off + 4 * n), 4, s.ln 0 d n)))) ∧
  (∀ (s : State) (d a i g off : Nat), off = bits (s.eaVec a i 4) 19 0 → s.fitAt [a] [d] (s.access (s.eaVec a i 4) 4 1 0) →
    exec (.vldb d a i g) s = .next (s.vload d (s.eaVec a i 4) g 1) ∧
    (s.eccBad = [] → s.me.k = 0 → s.vload d (s.eaVec a i 4) g 1 =
      s.putV 6 d (s.mask g) [ofLanes (List.replicate 16 (s.mem.readN (coxBase s.cur + off) 4))])) ∧
  (∀ (s : State) (d a i g ea w0 : Nat), ea = s.eaVec a i 64 → w0 = nodeBase (keyOf ea) + bits ea 12 0 → s.fitAt [a] [d] (s.access ea 64 16 1) →
    exec (.vldn d a i g) s = .next (s.vloadNode d ea g) ∧ exec (.vstn d a i g) s = .next (s.vstoreNode d ea g) ∧
    ((s.node (keyOf ea)).mode ≠ 2 → s.me.k = 0 → s.eccBad = [] →
      s.vloadNode d ea g = s.putV 14 d (s.mask g) [BitVec.ofNat 512 (s.mem.readN w0 64)]) ∧
    ((s.node (keyOf ea)).mode ≠ 2 → s.me.k = 0 →
      (∀ adr, adr < w0 ∨ w0 + 64 ≤ adr → (s.vstoreNode d ea g).mem.read adr = s.mem.read adr) ∧
      (∀ n j, n < 16 → j < 4 → (s.vstoreNode d ea g).mem.read (w0 + 4 * n + j) =
        if bit (s.mask g) n then BitVec.ofNat 8 (s.ln 0 d n / 256 ^ j) else s.mem.read (w0 + 4 * n + j)) ∧
      ({ s.vstoreNode d ea g with mem := s.mem } : State) = s))

/-- Where it issues, an M-slot instruction that drives an X tile appends to that tile's queue one entry of its kind with its operands and the
record its pointer names as read at issue, accepted two steps on (R236), and nothing else; MXSAVE with STOP is noted at the tile with the
entries that it holds, and acts once the K steps under way have landed: those entries stand in the save area and leave the queue, the stamp
is written (R248); MXSTAT queues the status word at +4 (R245); XFWD and XINV append a command to their transform node (R255). -/
def Obligations.MatrixAndTransform : Prop :=
  (∀ (s : State) (a b c u t g : Nat) (add : XKind → Nat → Nat → Nat → State → State),
    (∀ (k : XKind) (imm xb n : Nat) (v : State), add k imm xb n v = v.modTile (tileNo v.cur (v.xval a % 32)) (fun x => { x with
      queue := x.queue ++ [{ kind := k, imm := imm, xa := v.xval a % 65536, rcd := BitVec.ofNat 256 (if n = 0 then 0 else v.recAt (v.xval xb) n), xb := v.xval xb, core := v.cur, team := v.me.team, acc := v.me.step + 2, accepted := false, begun := false }],
      user := some (v.cur, v.me.team) })) →
    (s.issues (.mxstep a b) → exec (.mxstep a b) s = .next (add .step 0 b 16 s)) ∧
    (s.issues (.mxdrain a b c) → exec (.mxdrain a b c) s = .next (add .drain c b 32 s)) ∧
    (s.issues (.mxzero a c) → exec (.mxzero a c) s = .next (add .zero c 0 0 s)) ∧
    (s.issues (.mxsave a b u t) → t ≠ 1 → exec (.mxsave a b u t) s = .next (add .save (2 * u) b 0 s)) ∧
    (s.issues (.mxsave a b u 1) → exec (.mxsave a b u 1) s =
      .next (s.tileStop (tileNo s.cur (s.xval a % 32)) s.cur s.me.team (s.xval b) (decide (u = 1)))) ∧
    (s.issues (.mxrest a b u) → exec (.mxrest a b u) s = .next (add .rest (2 * u) b 0 s)) ∧
    (s.issues (.mxpair a b g) → exec (.mxpair a b g) s = .next (add .pair g b 16 s))) ∧
  (∀ (s : State) (u core la : Nat) (team : Option Nat) (buf : Bool), s.tileStop u core team la buf = ((s.tileSettle u).modTile u (fun t =>
    { t with stops := t.stops ++ [⟨core, team, la, buf, t.queue.length - (t.stops.map XStop.n).sum⟩] })).stopSaves u) ∧
  (∀ (s : State) (u : Nat), (s.xtile u).lands ≠ [] ∨ s.tilePaused u = true → s.stopSaves u = s) ∧
  (∀ (s v : State) (u base : Nat) (x : XStop), s.tilePaused u = false → (s.xtile u).stops = [x] → (s.xtile u).lands = [] → s.eccBad = [] →
    s.present x.team x.core = true → s.paused (coreIsl x.core) = false → x.la % 2 ^ 20 + 0x10240 ≤ 2 ^ 20 → x.la < 2 ^ 31 →
    base = coxBase x.core + x.la % 2 ^ 20 → v = s.stopSaves u →
    (v.xtile u).queue = (s.xtile u).queue.drop x.n ∧ (v.xtile u).stops = [] ∧ (v.xtile u).stopped = false ∧ (v.xtile u).k = 0 ∧
    v.mem.readN base 8 = stampWord 0x01 0 (s.dieNs (x.core / 8)) ∧
    ∀ i < 8, v.mem.readN (base + 0x40 + 64 * i) 64 = ((((s.xtile u).queue.take x.n)[i]?).map XEnt.save).getD 0 % 2 ^ 512) ∧
  (∀ (s : State) (a d : Nat), s.issues (.mxstat a d) →
    exec (.mxstat a d) s = .next (s.putX 4 d (BitVec.ofNat 64 (s.tileStatus (tileNo s.cur (s.xval a % 32)))))) ∧
  (∀ (s : State) (a b q sh : Nat) (inv : Bool) (i : Instr), (i = .xfwd a b q ∧ inv = false ∧ sh = q) ∨ (i = .xinv a b ∧ inv = true ∧ sh = 0) →
    s.issues i → exec i s = .next (s.setXforms (24 * s.cur + s.xval a % 32) (Tab.get [] s.xforms (24 * s.cur + s.xval a % 32) ++
      [{ rcd := BitVec.ofNat 256 (s.recAt (s.xval b) 32), inv := inv, s := sh, core := s.cur, team := s.me.team, load := none, begun := false, out := [], fl := 0, bad := none, due := 0 }]))) ∧
  (∀ (s : State) (a b q : Nat), (s.issues (.xfwd a b q) → exec (.xfwd a b q) s = .next (s.pushXform a b false q)) ∧
    (s.issues (.xinv a b) → exec (.xinv a b) s = .next (s.pushXform a b true 0)))

/-- Where it issues, a rider instruction asks for the rider of its record, virtual start and stamp address (R256, R257); the result is queued
for p15 at +16. A rider with no missing page that is admitted (ADM) takes its place at the end of the boarding order with its timestamp and
account sequence and changes no memory, and one that is not admitted changes nothing (R75, R79, R392). -/
def Obligations.RiderAdmission : Prop :=
  (∀ (s : State) (d a b : Nat),
    (s.issues (.rdstr d a b) → exec (.rdstr d a b) s = .next (s.issueRider .rdstr d a b)) ∧
    (s.issues (.rdsieve d a b) → exec (.rdsieve d a b) s = .next (s.issueRider .rdsieve d a b)) ∧
    (s.issues (.rdfold d a b) → exec (.rdfold d a b) s = .next (s.issueRider .rdfold d a b)) ∧
    (s.issues (.rdmat d a b) → exec (.rdmat d a b) s = .next (s.issueRider .rdmat d a b)) ∧
    (s.issues (.rdfp d a b) → exec (.rdfp d a b) s = .next (s.issueRider .rdfp d a b)) ∧
    (s.issues (.rdcmp d a b) → exec (.rdcmp d a b) s = .next (s.issueRider .rdcmp d a b)) ∧
    (s.issues (.upd d a b) → exec (.upd d a b) s = .next (s.issueRider .upd d a b)) ∧
    (s.issues (.dep d a b) → exec (.dep d a b) s = .next (s.issueRider .dep d a b)) ∧
    (s.issues (.land d a b) → exec (.land d a b) s = .next (s.issueRider .land d a b)) ∧
    (s.issues (.bvload d a b) → exec (.bvload d a b) s = .next (s.issueRider .bvload d a b)) ∧
    (s.issues (.importHost d a b) → exec (.importHost d a b) s = .next (s.issueRider .imp d a b)) ∧
    (s.issues (.exportHost d a b) → exec (.exportHost d a b) s = .next (s.issueRider .exp d a b)) ∧
    (s.issues (.stream d a b) → exec (.stream d a b) s = .next (s.issueRider .stream d a b)) ∧
    (s.issues (.crsmode d a b) → exec (.crsmode d a b) s = .next (s.issueRider .crsmode d a b)) ∧
    (s.issues (.cursor d a b) → exec (.cursor d a b) s = .next (s.issueRider .cursor d a b))) ∧
  (∀ (s : State) (k : RKind) (d a b : Nat), (s.askOf k d a b).acct = s.cur ∧ (s.askOf k d a b).xa = s.xval a ∧ (s.askOf k d a b).stamp = s.xval d ∧
    (s.askOf k d a b).rcd = BitVec.ofNat 256 (s.coxRead s.cur (bits (s.xval b) 19 0) 32)) ∧
  (∀ (s u : State) (k : RKind) (d a b x : Nat), k ≠ .stream → (k = .rdstr → (s.askOf k d a b).f 255 252 ≠ 3) →
    s.admitCore (s.askOf k d a b) = (x, u) →
    s.issueRider k d a b = (((if x = 1 then u.fillSource.askNewest else u).putP 16 15 (BitVec.ofNat 16 x)).modMe (fun c => { c with admDue := c.step + 16 }))) ∧
  (∀ (s u : State) (r : Rider) (die tile x : Nat), (s.find tile r).miss = [] → s.tryAdmit r die tile = (x, u) →
    (x ≠ 1 → u = s) ∧ (x = 1 → u.mem = s.mem ∧ ∃ r' : Rider, u.riders = s.riders ++ [r'] ∧ r'.id = s.nextId ∧ r'.time = s.dieNs die ∧
      r'.seq = Tab.get 0 s.acct r.acct + 1 ∧ r'.rcd = r.rcd ∧ r'.xa = r.xa ∧ r'.stamp = r.stamp ∧ u.nextId = s.nextId + 1))

/-- Where it issues, a sequence instruction with fewer than 512 riders and turns of its core in flight and fewer than 16 turns on each stream it
names appends its turn, with the record, stream number, stamp address and the source words of KVDEP and STATECK read at issue, and queues
ADM for p15 at +16; otherwise it queues the reason and changes nothing else (R318). That the words read at issue have the stores of the same
bundle is the model's reading (log entry 80, DEDUCED). KVFORK names two streams. Stated without bad check codes among the words read. -/
def Obligations.SequenceAdmission : Prop :=
  (∀ (s : State) (d a b : Nat),
    (s.issues (.kvlook d a b) → exec (.kvlook d a b) s = .next (s.issueSeq 0 d a b)) ∧
    (s.issues (.kvapp d a b) → exec (.kvapp d a b) s = .next (s.issueSeq 1 d a b)) ∧
    (s.issues (.kvfork d a b) → exec (.kvfork d a b) s = .next (s.issueSeq 2 d a b)) ∧
    (s.issues (.kvtrunc d a b) → exec (.kvtrunc d a b) s = .next (s.issueSeq 3 d a b)) ∧
    (s.issues (.kvflat d a b) → exec (.kvflat d a b) s = .next (s.issueSeq 4 d a b)) ∧
    (s.issues (.kvdep d a b) → exec (.kvdep d a b) s = .next (s.issueSeq 5 d a b)) ∧
    (s.issues (.playset d a b) → exec (.playset d a b) s = .next (s.issueSeq 6 d a b)) ∧
    (s.issues (.framein d a b) → exec (.framein d a b) s = .next (s.issueSeq 7 d a b)) ∧
    (s.issues (.stateck d a b) → exec (.stateck d a b) s = .next (s.issueSeq 8 d a b))) ∧
  (∀ (s : State) (kind d a b n : Nat) (rcd : BitVec 256) (on : List Nat), n = s.xval a % 4096 →
    rcd = BitVec.ofNat 256 (s.coxRead s.cur (bits (s.xval b) 19 0) 32) → on = (if kind = 2 then [n, bits rcd.toNat 139 128] else [n]) → s.eccBad = [] →
    (s.coreFlight s.cur < 512 → (∀ m ∈ on, s.onStream m < 16) → ∃ (t : Turn) (u : State), u = { s with seqs := s.seqs ++ [t], nextId := s.nextId + 1 } ∧
      s.issueSeq kind d a b = (u.putP 16 15 1).modMe (fun k => { k with admDue := k.step + 16 }) ∧ t.id = s.nextId ∧ t.kind = kind ∧ t.core = s.cur ∧
      t.team = s.me.team ∧ t.stream = n ∧ t.on = on ∧ t.stamp = s.xval d ∧ t.rcd = rcd ∧ t.time = s.dieNs (s.cur / 8) ∧ t.held = none ∧ t.begun = false ∧
      (kind ≠ 5 → kind ≠ 8 → t.src = []) ∧
      (kind = 5 ∨ kind = 8 → ∀ la base, la = bits rcd.toNat 191 128 →
        base = (if la.testBit 31 = true then nodeBase (keyOf la) + bits la 12 0 else coxBase s.cur + bits la 19 0) →
        t.src = (List.range (bits rcd.toNat 63 32)).map (fun i => BitVec.ofNat 32 (s.memStored.readN (base + 4 * i) 4)))) ∧
    ((512 ≤ s.coreFlight s.cur ∨ ∃ m ∈ on, 16 ≤ s.onStream m) →
      s.issueSeq kind d a b = (s.putP 16 15 (BitVec.ofNat 16 (8 * b2n (decide (512 ≤ s.coreFlight s.cur)) +
        2 * b2n (on.any (fun m => decide (16 ≤ s.onStream m)))))).modMe (fun k => { k with admDue := k.step + 16 })))

/-- In a slot that is not squashed, with no domain fault among its operands (R401), an operation starts its result toward its landing at the
latency of R280 under its DMODE and ORs its flags into its load (R136); with DMODE 3 only the flags come about. TEMIT marks the token of its
element, which leaves in the step after (R286). A squashed slot does nothing, whatever the operation (R30). Raw unscaled FP32 lanes are
added, subtracted and multiplied as in the V slot; AND, OR and XOR act on all bits. -/
def Obligations.ComputeElements : Prop :=
  (∀ (s : State) (t m r c : Nat), s.el.squash = false → domFault .none s.opA = none →
    exec (.ceAbs t m) s = .next (s.ceIssue 1 m (ceAbsR s.ceK t false s.el.a)) ∧ exec (.ceNeg t m) s = .next (s.ceIssue 1 m (ceAbsR s.ceK t true s.el.a)) ∧
    exec (.ceRelu t m) s = .next (s.ceIssue 1 m (ceReluR s.ceK t s.el.a)) ∧
    ((t = 7 → lgReserved s.el.a = none) → exec (.ceCvt t m r c) s = .next (s.ceIssue 3 m (ceCvtR s.ceK t r c s.el.a))) ∧
    exec (.ceHsum t m r) s = .next (s.ceIssue 4 m (ceHsumR s.ceK t r s.el.a)) ∧ exec (.ceHmax t m) s = .next (s.ceIssue 4 m (ceHmaxR s.ceK t s.el.a)) ∧
    exec (.ceExp2 m r) s = .next (s.ceIssue 8 m (ceFnR s.ceK (fnExp2 r) tanExp2 s.el.a)) ∧
    exec (.ceLog2 m r) s = .next (s.ceIssue 8 m (ceFnR s.ceK (fnLog2 r) tanLog2 s.el.a)) ∧
    exec (.ceRcp m r) s = .next (s.ceIssue 8 m (ceFnR s.ceK (fnRcp r) tanRcp s.el.a)) ∧
    exec (.ceRsqrt m r) s = .next (s.ceIssue 8 m (ceFnR s.ceK (fnRsqrt r) tanRsqrt s.el.a)) ∧
    exec (.ceTanh m r) s = .next (s.ceIssue 8 m (ceFnR s.ceK (fnTanh r) tanTanh s.el.a)) ∧
    exec (.ceSigm m r) s = .next (s.ceIssue 8 m (ceFnR s.ceK (fnSigm r) tanSigm s.el.a)) ∧
    exec (.ceHdr m) s = .next (s.ceIssue 1 m (ceHdrR s.ceK s.el.a))) ∧
  (∀ (s : State) (m : Nat), s.el.squash = false → domFault .both s.opA = none →
    exec (.ceMov m) s = .next (s.ceIssue 1 m (ceMovR s.ceK s.el.a)) ∧ exec (.ceCconj m) s = .next (s.ceIssue 1 m (ceConjR s.ceK s.el.a)) ∧
    exec (.cePay m) s = .next (s.ceIssue 1 m (cePayR s.ceK s.el.a))) ∧
  (∀ (s : State) (t m r : Nat), s.el.squash = false → domFault .none s.opAB = none →
    exec (.ceMin t m) s = .next (s.ceIssue 2 m (ceMinR s.ceK t false s.el.a s.el.b)) ∧
    exec (.ceMax t m) s = .next (s.ceIssue 2 m (ceMinR s.ceK t true s.el.a s.el.b)) ∧
    exec (.ceAnd m) s = .next (s.ceIssue 1 m (ceBitR s.ceK (· &&& ·) s.el.a s.el.b)) ∧
    exec (.ceOr m) s = .next (s.ceIssue 1 m (ceBitR s.ceK (· ||| ·) s.el.a s.el.b)) ∧
    exec (.ceXor m) s = .next (s.ceIssue 1 m (ceBitR s.ceK (· ^^^ ·) s.el.a s.el.b)) ∧
    exec (.ceCmpeq t m) s = .next (s.ceIssue 1 m (ceCmpR t Val.eq s.el.a s.el.b)) ∧
    exec (.ceCmplt t m) s = .next (s.ceIssue 1 m (ceCmpR t Val.lt s.el.a s.el.b)) ∧
    exec (.ceCmple t m) s = .next (s.ceIssue 1 m (ceCmpR t (fun x y => x.lt y || x.eq y) s.el.a s.el.b)) ∧
    exec (.ceTmerge m r) s = .next (s.ceIssue 10 m (ceTmergeR s.ceK r s.el.a s.el.b)) ∧
    (lgFaults s.el.a s.el.b = none → exec (.ceLmul m) s = .next (s.ceIssue 3 m (ceLmulR s.el.a s.el.b)))) ∧
  (∀ (s : State) (t m i : Nat), s.el.squash = false → domFault .none s.opA = none → (bit i 5 = false → domFault .none s.opAB = none) →
    exec (.ceShl t m i) s = .next (s.ceIssue 1 m (ceShiftR t 0 i s.el.a s.el.b)) ∧
    exec (.ceShr t m i) s = .next (s.ceIssue 1 m (ceShiftR t 1 i s.el.a s.el.b)) ∧
    exec (.ceSra t m i) s = .next (s.ceIssue 1 m (ceShiftR t 2 i s.el.a s.el.b))) ∧
  (∀ (s : State) (t m r : Nat), s.el.squash = false →
    (domFault .both s.opAB = none → exec (.ceAdd t m r) s = .next (s.ceIssue 2 m (ceAddR s.ceK t r false s.el.a s.el.b)) ∧
      exec (.ceSub t m r) s = .next (s.ceIssue 2 m (ceAddR s.ceK t r true s.el.a s.el.b))) ∧
    (domFault .mul s.opAB = none → exec (.ceMul t m r) s = .next (s.ceIssue 3 m (ceMulR s.ceK t r s.el.a s.el.b))) ∧
    (domFault .mul s.opABC = none → exec (.ceFma t m r) s = .next (s.ceIssue 3 m (ceFmaR s.ceK t r false s.el.a s.el.b s.el.c)) ∧
      exec (.ceFms t m r) s = .next (s.ceIssue 3 m (ceFmaR s.ceK t r true s.el.a s.el.b s.el.c))) ∧
    (domFault .freq s.opAB = none → exec (.ceCmul m r) s = .next (s.ceIssue 4 m (ceCmulR s.ceK r s.el.a s.el.b none))) ∧
    (domFault .freq s.opABC = none → exec (.ceCmac m r) s = .next (s.ceIssue 4 m (ceCmulR s.ceK r s.el.a s.el.b (some s.el.c)))) ∧
    (domFault .none s.opABC = none → exec (.ceSel t m) s = .next (s.ceIssue 1 m (ceSelR s.ceK t s.el.a s.el.b s.el.c)) ∧
      (lgFaults s.el.a s.el.b = none → exec (.ceLmac m r) s = .next (s.ceIssue 4 m (ceLmacR s.ceK r s.el.a s.el.b s.el.c)) ∧
        exec (.ceLdot4 m r) s = .next (s.ceIssue 4 m (ceLdotR s.ceK r s.el.a s.el.b s.el.c))))) ∧
  (∀ (s : State) (r : Region) (l : Load), s.el.squash = false → s.active s.el.reg = some (r, l) →
    (∀ m, exec (.ceIdx m) s = .next (s.ceIssue 1 m (ceIdxR l.img s.el.isl s.el.iter))) ∧
    exec (.ceTemit 0) s = .next (s.modEl s.el.pos (fun e => { e with tok := true })) ∧
    (domFault .none s.opA = none → exec (.ceTemit 1) s =
      .next (if s.el.a.lane 0 0 = 0 then s else s.modEl s.el.pos (fun e => { e with tok := true }))) ∧
    (∀ k base, (s.elem k).tok = true → s.sendToks s.el.reg l ([k], base) =
      (s.modEl k (fun e => { e with tok := false })).sendToken s.el.reg k (l.at (base k) 0x128 8))) ∧
  (∀ s : State, exec .ceNop s = .next s) ∧ (∀ (i : Instr) (s : State), i.place = .ce → s.el.squash = true → exec i s = .next s) ∧
  (∀ (s u : State) (lat m : Nat) (b : Beat) (fl : FlagSet), u = s.loadFlags s.el.reg fl →
    s.ceIssue lat m (b, fl) = (if m = 3 then u else u.modEl s.el.pos (fun e => { e with res := e.res ++ [⟨lat, m, b⟩] })) ∧
    (fl = 0 → u = s) ∧ ({ u with regions := s.regions } : State) = s ∧
    ∀ r l l', s.active s.el.reg = some (r, l) → l' = { l with flags := l.flags ||| fl } → u.active s.el.reg = some ({ r with active := some l' }, l')) ∧
  (∀ (a b : Beat) (i : Nat), i < 4 → a.fmt = 32 → b.fmt = 32 → a.scale = plainScale → b.scale = plainScale →
    (ceAddR 0 0 0 false a b).1.lane 0 i = (add32 (a.lane 0 i) (b.lane 0 i)).1 % 2 ^ 32 ∧
    (ceAddR 0 0 0 true a b).1.lane 0 i = (sub32 (a.lane 0 i) (b.lane 0 i)).1 % 2 ^ 32 ∧
    (ceMulR 0 0 0 a b).1.lane 0 i = (mul32 (a.lane 0 i) (b.lane 0 i)).1 % 2 ^ 32 ∧
    (ceBitR 0 (· &&& ·) a b).1.v0 = a.v0 &&& b.v0 ∧ (ceBitR 0 (· ||| ·) a b).1.v0 = a.v0 ||| b.v0 ∧
    (ceBitR 0 (· ^^^ ·) a b).1.v0 = a.v0 ^^^ b.v0)

/-- In a slot that is not squashed: NR of a streaming view takes the oldest value read ahead and presents it in the next step; NW and NAT of a
random-mode node act at the view's next address and no other byte; NWR acts on both views where their banks differ and freezes where they
meet (R397); GEMIT gives the address to its port. Of the converter entries IN takes a new source value into the block, OUT presents the next
beat of the oldest ready packet at the next step, and CLOSE, or a block that is full, packs the block, ready 4 steps on, with the next tag
and the flags of its rounding (R291 to R298). NNOP, GNOP and CNOP do nothing. -/
def Obligations.RingEntries : Prop :=
  (∀ s : State, exec .nnop s = .next s ∧ exec .gnop s = .next s ∧ exec .cnop s = .next s) ∧
  (∀ s : State, s.el.squash = true → exec .nw s = .next s ∧ exec .nr s = .next s ∧ exec .nwr s = .next s ∧ exec .cin s = .next s) ∧
  (∀ (s : State) (o p : Nat), s.el.squash = false → exec .nw s = .next s.nodeWrite ∧ exec .nr s = .next s.nodeRead ∧
    exec (.nat o) s = .next (s.nodeAtomic o) ∧ exec (.gemit p) s = .next (s.genEmit p) ∧
    (s.bankFault = none → exec .nwr s = .next s.nodeRead.nodeWrite) ∧ (∀ f, s.bankFault = some f → exec .nwr s = .next (s.elFault f)) ∧
    exec .cin s = .next (s.convert true false false) ∧ exec .cout s = .next (s.convert false true false) ∧
    exec .cinCout s = .next (s.convert true true false) ∧
    exec .cclose s = .next (s.convert false false true) ∧ exec .cinCclose s = .next (s.convert true false true) ∧
    exec .coutCclose s = .next (s.convert false true true) ∧ exec .cinCoutCclose s = .next (s.convert true true true)) ∧
  (∀ (s : State) (r : Region) (l : Load) (v : Beat) (t : List Beat), s.active s.el.reg = some (r, l) → (s.node (elNode s.el.pos)).mode = 0 →
    (s.node (elNode s.el.pos)).ahead = v :: t →
    s.nodeRead = (s.modNode (elNode s.el.pos) (fun nd => { nd with ahead := t })).portIn s.el.pos 1 v) ∧
  (∀ (s : State) (r : Region) (l : Load) (off w : Nat), s.active s.el.reg = some (r, l) → (s.node (elNode s.el.pos)).mode = 1 → l.k = 0 →
    r.portOf l s.el.pos 0 = none → (s.node (elNode s.el.pos)).wport.mark = 0 → w = l.viewWidth (r.elAt l s.el.pos) false → (s.viewOff r l s.el.pos false).1 = (off : Int) →
    off % w = 0 → off + w ≤ 8192 →
    s.nodeWrite.mem = s.mem.writeN (nodeBase (elNode s.el.pos) + off) w (s.node (elNode s.el.pos)).wport.v0.toNat) ∧
  (∀ (s : State) (r : Region) (l : Load) (o off : Nat), s.active s.el.reg = some (r, l) → (s.node (elNode s.el.pos)).mode = 1 → s.eccBad = [] →
    r.portOf l s.el.pos 0 = none → (s.viewOff r l s.el.pos false).1 = (off : Int) → off % atomicBytes o = 0 → off + atomicBytes o ≤ 8192 →
    (s.nodeAtomic o).mem = s.mem.writeN (nodeBase (elNode s.el.pos) + off) (atomicBytes o)
      (atomicNew o (s.mem.readN (nodeBase (elNode s.el.pos) + off) (atomicBytes o)) ((s.node (elNode s.el.pos)).wport.v0.toNat % 2 ^ 64)
        ((s.node (elNode s.el.pos)).wport.lane 0 1)).1) ∧
  (∀ (s u : State) (r : Region) (l : Load) (inn out close : Bool) (e : El) (f cap : Nat) (blk : List Beat) (shown : List Res) (packs : List Packet) (x : List Beat × FlagSet),
    s.active s.el.reg = some (r, l) → bit (l.at s.el.base 0x045 1) 3 = false → e = s.elem s.el.pos → f = l.at s.el.base 0x044 1 % 32 →
    cap = l.at s.el.base 0x048 1 + 1 → blk = (if inn = true ∧ s.el.a.new = true then e.blk ++ [s.el.a] else e.blk) →
    (e.packs.length < 2 ∨ (convHeld f blk < cap ∧ (close = false ∨ convHeld f blk = 0))) →
    ((∃ p t v w, out = true ∧ e.packs = p :: t ∧ p.left = 0 ∧ p.beats = v :: w ∧ shown = [⟨1, 0, v⟩] ∧ packs = (if w = [] then t else { p with beats := w } :: t)) ∨
      ((out = true → ∀ p t, e.packs = p :: t → p.left ≠ 0 ∨ p.beats = []) ∧ shown = [] ∧ packs = e.packs)) →
    x = convPacket l s.el.base e.ctag blk → u = s.convert inn out close →
    (∀ j, j ≠ s.el.pos → u.elem j = s.elem j) ∧
    (convHeld f blk < cap → (close = false ∨ convHeld f blk = 0) →
      u.elem s.el.pos = { e with blk := blk, res := e.res ++ shown, packs := packs } ∧ ({ u with els := s.els } : State) = s) ∧
    ((cap ≤ convHeld f blk ∨ (close = true ∧ convHeld f blk ≠ 0)) →
      u.elem s.el.pos = { e with blk := [], res := e.res ++ shown, packs := packs ++ [⟨4, x.1⟩], ctag := (e.ctag + 1) % 4096 } ∧
      ({ u with els := s.els } : State) = s.loadFlags s.el.reg x.2)) ∧
  (∀ (s : State) (r : Region) (l : Load) (p : Nat), s.active s.el.reg = some (r, l) → bits (r.binding l s.el.pos p) 31 30 = 1 →
    (s.elem s.el.pos).j = [] → bit (l.at s.el.base 0x043 1) 0 = false →
    ((s.genEmit p).node (r.bindNode (r.binding l s.el.pos p))).gw = sint 32 (l.at s.el.base 0x044 4))

/-- What is due lands (R169). A waiting fault reaches a core that may trap, with nothing in flight: it is in its handler, TEPC and TCAUSE set,
and its record stands in the last 64 bytes of its cox store (R209, R356); a hub's refusal enters in the same way (R203). A waiting core
whose accesses are performed starts its handler. A timed-out WAITSTAMP takes its precise trap (R204); none of these comes to a core whose
clock pauses (R24), which then stays as it is. A rendezvous setting or arrival with no earlier one on its way is applied once 5 ns have
passed since its time (the model's reading of R6 and R46, which give only a bound of 60 ns: DEDUCED, log entry 34) and while its die link
takes packets (log entry 108). -/
def Obligations.CoreEvents : Prop :=
  (∀ s : State, exec .resultLanding s = .next (s.setCore (s.arg 0) (s.core (s.arg 0)).land)) ∧
  (∀ (s : State) (c : Nat) (k : Core) (t : Trap) (r : List Trap), s.arg 0 = c → c < s.cores.length → s.core c = k → k.run = .running → k.trapq = t :: r →
    k.pend = [] → k.tvec ≠ 0 → k.tstat.getLsbD 0 = false → s.quiet c = true → s.coreStill c = false →
    ∃ u, exec .trapEntry s = .next u ∧ (u.core c).run = .running ∧ (u.core c).pc = k.tvec ∧ (u.core c).tepc = k.pc ∧ (u.core c).trapq = r ∧
      (u.core c).tcause = BitVec.ofNat 64 (t.code % 256 + 256 * t.slot) ∧ (u.core c).tval = BitVec.ofNat 64 (recBits t.rcd 63 0) ∧
      (u.core c).tstat = BitVec.ofNat 64 (1 + 2 * k.k) ∧ u.mem.readN (coxBase c + 0xFFFC0) 64 = t.rcd.toNat ∧
      (t.code = 1 → k.hold.refusal = none → exec .hubRefusal s = .next u)) ∧
  (∀ (s : State) (c code slot : Nat) (k : Core) (tv : DWord), s.arg 0 = c → c < s.cores.length → s.core c = k → k.run = .trapWait → s.quiet c = true → s.coreStill c = false →
    k.pend = [] → k.taking = some (code, slot, tv) →
    ∃ u, exec .handlerStart s = .next u ∧ (u.core c).run = .running ∧ (u.core c).pc = k.tvec ∧ (u.core c).tepc = k.pc ∧ (u.core c).idle = 3 ∧
      (u.core c).taking = none ∧ u.mem = s.mem) ∧
  (∀ (s : State) (c : Nat), s.arg 0 = c → s.coreStill c = true → exec .trapEntry s = .next s ∧ exec .handlerStart s = .next s ∧ exec .stampTimeout s = .next s) ∧
  (∀ (s s1 : State) (c n : Nat) (b : BitVec 128) (x : Bad), s.arg 0 = c → (s.core c).run = .running → s.coreStill c = false →
    ({ s.setCore c (s.core c).land with cur := c } : State).cached (s.asidOf c) (s.funcOf c) (s.core c).pc.toNat = some (b, s1) →
    ({ s1 with bundle := b } : State).firstBad = some (n, x) → x.code = 0x1B →
    exec .stampTimeout s = .next ((({ s1 with bundle := b } : State).precise x n).endStep)) ∧
  (∀ (s : State) (q : RvReq) (tm : Team) (v : Rv), s.rvq = [q] → q.time + 5 ≤ s.dieNs 4 → s.toks = [] →
    s.dieHeld (tokenDie q.src) 4 q.time = false → s.team? q.team = some tm → v = Tab.get Rv.unset tm.rv q.point →
    (∀ n, q.set = some n → v.exp = 0 → exec .rvArrival s =
      .next (({ s with rvq := [] } : State).modTeam q.team (fun m => { m with rv := Tab.set Rv.unset m.rv q.point ⟨n, 0, false⟩ }))) ∧
    (q.set = none → q.holds = false → v.exp ≠ 0 → exec .rvArrival s =
      .next (({ s with rvq := [] } : State).modTeam q.team (fun m => { m with rv := Tab.set Rv.unset m.rv q.point (if v.arr + 1 = v.exp then ⟨v.exp, 0, !v.ph⟩ else ⟨v.exp, v.arr + 1, v.ph⟩) }))))

/-- A 64-byte write to the window of an enabled queue with room joins it, one with a malformed record gets a stamp with STATUS 0x03 (LAUNCH_REC,
R54, R59), one to a full queue is counted (R51), one that no link in service can bring, for the physical function either link, does not come
(R332, R407). A round at a multiple of 250 ns takes the configuration written and dispatches the one eligible record on the lowest of its
free cores (R49, R57). The last save releases a team's cores, the last fill starts it again (R64, R66). With nothing left a team ends and
its stamp is written (R54, R214, R364). An abort and an exceeded limit stop the members, queue their record and are followed by TEAM_END
(R408). The model's readings: the cores are free with the stamp (log entry 15), what the watchdog counts (32), the queue word in force at a
round (33), the records of WATCHDOG and HOST_ABORT (77), all DEDUCED. -/
def Obligations.DispatchEvents : Prop :=
  (∀ (s : State) (f q data : Nat) (l : Launch) (up : Bool), up = (if f = 0 then s.hostLinkUp.any (fun x => x) else s.hostLinkUp.getD (s.linkOf f) true) → s.arg 0 = f → s.arg 1 = q → s.arg 2 = 0 → s.arg 3 = 64 → s.arg 4 = data → q < 256 →
    s.responds = true → bits (s.queue q) 47 40 = f →
    (up = false → exec .launch s = .next s) ∧
    (up = true → l = ⟨q, s.dieNs 4, BitVec.ofNat 512 data, []⟩ →
    (bit (s.queue q) 34 = true → s.held q < 64 → l.f 399 384 ≤ 8191 → l.bad (bits (s.queue q) 31 0) = false →
      exec .launch s = .next { s with launches := s.launches ++ [l] }) ∧
    (bit (s.queue q) 34 = true → s.held q < 64 → l.f 399 384 ≤ 8191 → l.bad (bits (s.queue q) 31 0) = true →
      exec .launch s = .next (s.launchStamp f (l.f 399 384) 0x03 (l.f 511 504))) ∧
    (s.held q = 64 → Tab.get 0 s.drops q < 0xFFFFFFFF →
      exec .launch s = .next { s with drops := Tab.set 0 s.drops q (Tab.get 0 s.drops q + 1) }))) ∧
  (∀ s : State, s.dieNs 4 % 250 = 0 → s.launches = [] → s.teams = [] → exec .dispatchRound s = .next { s with qcfg := s.qnew }) ∧
  (∀ s : State, s.dieNs 4 % 250 ≠ 0 → exec .dispatchRound s = .next s) ∧
  (∀ (s s0 s1 : State) (l : Launch) (h : Nat) (cs : List Nat), s.dieNs 4 % 250 = 0 → s.launches = [l] → s.teams = [] → l.claim = [] →
    s0 = { s with qcfg := s.qnew } → s0.met s.mem l = true → l.need ≠ 0 → cs = s0.freeCores.filter (bit (s0.queue l.queue)) → l.need ≤ cs.length →
    ({ s0 with launches := [] } : State).cachedN (bits (s0.queue l.queue) 59 48) (s0.launchFunc l) (l.f 63 0) 4 = some (h, s1) →
    headerOk h (l.f 489 488) (l.f 63 0) = true →
    ∃ u tm, exec .dispatchRound s = .next u ∧ u.launches = [] ∧ u.teams = [tm] ∧ tm.cores = cs.take l.need ∧ tm.func = s0.launchFunc l ∧ tm.st = .running ∧
      (∀ i < l.need, cs.getD i 0 < s.cores.length → (u.core (cs.getD i 0)).run = .running ∧ (u.core (cs.getD i 0)).member = i ∧
        (u.core (cs.getD i 0)).pc = BitVec.ofNat 64 (l.f 63 0 + bits h 63 0))) ∧
  (∀ (s : State) (c t : Nat) (tm : Team), s.arg 0 = c → (s.core c).run = .switchedOut → (s.core c).team = some t → s.team? t = some tm → tm.st = .leaving →
    tm.cores.all (fun d => decide ((s.core d).run = .switchedOut) && !s.moving t d) = true →
    ∃ u, exec .switchOutComplete s = .next u ∧ (∀ d ∈ tm.cores, u.core d = Core.empty) ∧
      ∃ m, u.team? t = some m ∧ m.st = .out ∧ m.ran = tm.ran + (s.ns - tm.since)) ∧
  (∀ (s : State) (c t : Nat) (tm : Team), s.arg 0 = c → c < s.cores.length → (s.core c).run = .switchedOut → (s.core c).team = some t → s.team? t = some tm →
    tm.st = .returning → tm.cores = [c] → s.moving t c = false → tm.held = [] → s.regions = [] →
    ∃ u, exec .contextRestored s = .next u ∧ u.core c = tm.saved.getD 0 Core.empty ∧ ∃ m, u.team? t = some m ∧ m.st = .running ∧ m.since = s.ns) ∧
  (∀ (s : State) (t : Nat) (tm : Team), s.arg 0 = t → s.team? t = some tm → tm.st = .running → tm.ending = none → s.regions = [] → s.teamBusy t = false →
    s.flr = [] → tm.cores.all (fun c => decide ((s.core c).run = .exited) && (s.core c).pend.isEmpty && (s.core c).trapq.isEmpty) = true →
    ∃ u, exec .completionStamp s = .next u ∧ (u.team? t).map Team.st = some .ended ∧ (∀ c ∈ tm.cores, (s.core c).team = some t → u.core c = Core.empty) ∧
      u.mem.readN (cellAddr tm.func tm.csidx) 8 = stampWord (if tm.failed then 0x04 else 0x01) tm.seq (s.dieNs 4)) ∧
  (∀ (s : State) (t st code : Nat) (tm : Team), s.arg 0 = t → s.team? t = some tm → tm.st = .running → tm.ending = some (st, code) → s.regions = [] →
    s.riders = [] → s.waiting = [] → s.streams = [] → s.seqs = [] → s.xtiles = [] → s.xforms = [] → s.flr = [] →
    s.oars.all (fun o => (o.unacked ++ o.sendq).all (fun p => decide (p.team ≠ some t))) = true →
    ∃ u, exec .teamEnd s = .next u ∧ (u.team? t).map Team.st = some .ended ∧ (∀ c ∈ tm.cores, (s.core c).team = some t → u.core c = Core.empty) ∧
      (∀ q ∈ u.rvq, q.team ≠ t) ∧ u.mem.readN (cellAddr tm.func tm.csidx) 8 = stampWord st tm.seq (s.dieNs 4)) ∧
  (∀ (s : State) (t : Nat) (tm : Team), s.arg 0 = t → s.team? t = some tm → tm.limit ≠ 0 → tm.st = .running → tm.ending = none →
    1000 * tm.limit < tm.ran + (s.ns - tm.since) → tm.func < 256 → (Tab.get [] s.fq tm.func).length < 64 → s.waitingRecs t tm = [] →
    ∃ u, exec .watchdog s = .next u ∧ u.turns = ⟨0, .event .teamEnd [t]⟩ :: s.turns ∧ (u.team? t).bind Team.ending = some (0x04, 0x19) ∧
      (∀ c ∈ tm.cores, c < s.cores.length → (u.core c).run = .stopped) ∧
      Tab.get [] u.fq tm.func = Tab.get [] s.fq tm.func ++ [({ time := s.dieNs 4, code := 0x19, sk := 6, func := tm.func : RecF }).pack]) ∧
  (∀ (s : State) (f cell : Nat) (tm : Team), s.arg 0 = f → s.arg 1 = cell → s.responds = true → f ≤ 64 → cell < 8192 → s.teams = [tm] → tm.func = f →
    tm.csidx = cell → tm.st ≠ .ended → tm.ending = none →
    exec .hostAbort s = .next ((s.queueRec ({ time := s.dieNs 4, code := 0x18, sk := 6, func := f : RecF }).pack).endTeam 0 0x05 0x18))

/-- A fetch whose image is whole and passes its checks leaves its region Armed, with no image the command is refused (R40, R368). A region Armed
with no load waits for its token; the token puts the new load in force with Fill, Fill lets it run (R39, R41, R42). A start token starts an
idle island, a port token is counted (R37, R207); a step whose needs are met runs every element's ring word and else counts a cycle (R29 to
R31). A finished island ends; one drained to its fold point waits there (R38, R44). A fault's clock gating freezes an island, the others
follow, and the load takes its edge once it is not held (R358, R361, R362). The model's readings: a step of 1 + k cycles acts in its last
(log entry 92), gating counts whole cycles and a held load's record is that of its edge (51), an AFTER edge holds an island's start (101),
all DEDUCED. -/
def Obligations.LoadEvents : Prop :=
  (∀ (s s1 : State) (n va : Nat) (r : Region) (c : Cmd) (t : Team), s.arg 0 = n → s.region n = some r → r.fetching = some c → r.phase = .fetch →
    (s.riders ++ s.waiting).any (fun q => decide (q.owner = .fetch n)) = false → s.team? c.team = some t →
    (∀ l, s.listVa t c.fl = .inr (va, s1) → s1.fetchState n r c t va = .ready l → s1.heldTiles n r l.img = [] →
      exec .fetchComplete s = .next ((({ s1 with nextId := s1.nextId + 1 } : State).modRegion n (fun r => { r with shadow := some l, phase := .armed })).post .drain [n])) ∧
    (∀ v, s.listVa t c.fl = .inl v → exec .fetchComplete s = .next (s.refuseFetch n { reason := 1, op0 := v }))) ∧
  (∀ (s : State) (n : Nat) (r : Region) (l : Load), s.arg 0 = n → s.region n = some r → r.phase = .armed → r.shadow = some l → l.handler = none →
    (s.team? l.team).any (fun tm => decide (tm.st ≠ .running)) = false →
    (r.active = none → exec .drain s = .next ((s.modRegion n (fun r => { r with phase := .token })).post .reconfigurationToken [n])) ∧
    (∀ o, r.active = some o → o.discarded = false → o.reported = false → exec .drain s = .next s)) ∧
  (∀ (s : State) (n : Nat) (r : Region) (l : Load), s.arg 0 = n → s.region n = some r → r.phase = .token → r.shadow = some l →
    ∃ u, exec .reconfigurationToken s = .next u ∧ u.turns = ⟨0, .event .fill [n]⟩ :: s.turns ∧ u.mem = s.mem ∧
      u.region n = some { r with w := imgW l.img, h := imgH l.img, active := some l, shadow := none, fetching := none, phase := .fill, prev := r.active }) ∧
  (∀ (s : State) (n : Nat) (r : Region) (l : Load), s.arg 0 = n → s.active n = some (r, l) → r.phase = .fill → r.cmds = [] → r.frel = false → r.fetching = none →
    l.handler = none → l.carry = [] → s.eccBad = [] → l.isl.all (fun x => !x.startPend) = true →
    ∃ u, exec .fill s = .next u ∧ u.region n = some { r with phase := .run }) ∧
  (∀ (s : State) (t c p time src due : Nat) (a : BitVec 16), s.arg 0 = 0 → s.toks = [⟨.port t c p, time, src, c, due⟩] → s.present (some t) c = true →
    s.paused (coreIsl c) = false → s.dieHeld (tokenDie src) (c / 8) time = false → c < s.cores.length → a = Tab.get 0 (s.core c).ports p →
    exec .tokenArrival s = .next { s with toks := [], cores := s.cores.set c { s.core c with ports := Tab.set 0 (s.core c).ports p (if a = 0xFFFF then 0xFFFF else a + 1) } }) ∧
  (∀ (s : State) (n i time src c due : Nat) (r : Region) (l : Load), s.arg 0 = 0 → s.toks = [⟨.island n i, time, src, c, due⟩] → s.active n = some (r, l) →
    r.phase.clocked = true → s.paused (r.clock l i) = false → due ≤ s.cycle (r.clock l i) → l.edgesOpen r i = true → (l.isl.getD i Isl.idle).frozen = false → (l.isl.getD i Isl.idle).fold = none → (l.isl.getD i Isl.idle).started = false →
    i < l.isl.length →
    ∃ u l', exec .tokenArrival s = .next u ∧ u.toks = [] ∧ u.active n = some ({ r with active := some l' }, l') ∧
      l'.isl.getD i Isl.idle = { l.isl.getD i Isl.idle with started := true, startPend := false, s := (l.isl.getD i Isl.idle).from? * islII l.img i, cyc := 0 }) ∧
  (∀ (s : State) (n i : Nat) (r : Region) (l : Load) (x : Isl), s.arg 0 = n → s.arg 1 = i → s.active n = some (r, l) → x = l.isl.getD i Isl.idle →
    x.started = true → x.ended = false → x.frozen = false → l.total i ≤ x.s → s.islandQuiet n r l i = true →
    (l.discarded = false → x.fold = none → exec .finishToken s = .next (((s.modIsl n i (fun x => { x with ended := true })).modActive n (fun l => { l with finAt := s.dieNs r.die })).finishLoad n)) ∧
    (x.fold ≠ none → r.refold = none → exec .foldPointReached s = .next (s.modIsl n i (fun x => { x with atFold := true })))) ∧
  (∀ (s s1 : State) (n i : Nat) (r : Region) (l : Load) (x : Isl), s.arg 0 = n → s.arg 1 = i → s.active n = some (r, l) → x = l.isl.getD i Isl.idle →
    r.phase.clocked = true → s.paused (r.clock l i) = false → l.discarded = false → x.frozen = false → x.freezeIn = none → x.started = true → x.ended = false → x.atFold = false →
    x.s < l.total i → l.spread.any (fun t => decide (t ≤ s.ns)) = false → s1 = (s.modIsl n i (fun x => { x with freezeIn := x.freezeIn.map (· - 1) })).ageLinks r l i →
    (l.k ≤ x.cyc → s1.stepReady r l i x.s = true → s1.deadPort r l i x.s = none → ∃ u, exec .islandStep s = .next u ∧ u.turns = stepTurns n r l i x.s ++ s.turns) ∧
    (l.k ≤ x.cyc → s1.stepReady r l i x.s = false → s1.deadPort r l i x.s = none →
      exec .islandStep s = .next (s1.modIsl n i (fun x => { x with cyc := x.cyc + 1 })))) ∧
  (∀ (s : State) (n i : Nat) (r : Region) (l : Load), s.arg 0 = n → s.arg 1 = i → s.active n = some (r, l) → (l.isl.getD i Isl.idle).freezeIn = some 0 →
    (l.isl.getD i Isl.idle).frozen = false → i < l.isl.length →
    ∃ u l', exec .islandFreeze s = .next u ∧ u.turns = ⟨0, .event .faultEdge [n]⟩ :: s.turns ∧ (u.active n).map Prod.snd = some l' ∧
      (l'.isl.getD i Isl.idle).frozen = true ∧ ∀ j, j ≠ i → l'.isl.getD j Isl.idle = l.isl.getD j Isl.idle) ∧
  (∀ (s : State) (n t : Nat) (r : Region) (l : Load), s.arg 0 = n → s.active n = some (r, l) → l.spread = some t → t ≤ s.ns →
    exec .freezeSpread s = .next (s.modActive n (fun l => { l with spread := none, isl := l.isl.map (fun x => if x.freezeIn.isNone then { x with freezeIn := some 1 } else x) }))) ∧
  (∀ (s : State) (r : Region) (l : Load) (q : BitVec 512), s.regions = [r] → r.active = some l → l.rcd = some q → l.isFrozen = true → l.edged = false →
    l.discarded = false → hd l.img 79 79 = 1 →
    (s.arg 0 = 0 → l.held = false → exec .faultEdge s = .next (((s.modActive 0 (fun l => { l with edged := true })).trapTo (some l.team) l.core q).nextCommand 0)) ∧
    exec .frzctlRel s = .next ((({ s with regions := [{ r with active := some { l with held := false, edged := true } }] } : State).trapTo (some l.team) l.core q).nextCommand 0))

/-- With no rider a tick counts, takes at every 64th the grant tables written, advances the cursor of the valid course that each channel grants
it to, by the step width of its mode, and no other, and touches no byte (R71, R72). A finished rider delivers, buffer by buffer, and stamps,
a failed one queues its record and ends FAULTED, a stopped one KILLED (R82, R382, R394). A walk's end fills its cache of 4,096 entries
(R92). An emission, a waiting rider or a contribution is taken in when there is room (R75, R88, R271); a late landing fails, an expired
contribution is dropped with its record (R393). Host completions and failures reach their transfers (R336, R407). Which entry a full cache
drops, the oldest or the one that the event names, is the model's choice (log entry 40, DESIGN CHOICE), as is the event's argument that says
how many words a delivery brings, all of them where it is 0 (log entry 94, DESIGN CHOICE); that a delivery goes buffer by buffer is its
reading (log entry 46, DEDUCED). -/
def Obligations.MemoryEvents : Prop :=
  (∀ (s : State) (p c : Nat), s.riders = [] → Tab.get 0 s.pendMode (crsKey p c) = 0 →
    s.courseStep p c = { s with cursor := Tab.set 0 s.cursor (crsKey p c) (if (s.crs p c).words ≤ s.cur? p c + modeW (s.crs p c).mode then 0 else s.cur? p c + modeW (s.crs p c).mode), courseSteps := Tab.mod 0 s.courseSteps (crsKey p c) (· + 1) }) ∧
  (∀ (s : State) (st : Nat), s.arg 0 = st → s.riders = [] → s.pendMode = [] → s.eccTime = [] →
    ∃ u, exec .sweepTick s = .next u ∧ Tab.get 0 u.tick st = Tab.get 0 s.tick st + 1 ∧
      u = { s with tick := u.tick, grant := u.grant, cursor := u.cursor, courseSteps := u.courseSteps } ∧
      (∀ i, Tab.get 0 u.grant i = if Tab.get 0 s.tick st % 64 = 0 ∧ i / 256 = st then Tab.get 0 s.grantNew i else Tab.get 0 s.grant i) ∧
      ∀ p c, c < 8 →
        (p / 64 = st ∧ u.grantAt p (Tab.get 0 s.tick st % 64) = c ∧ (s.crs p c).valid = true →
          Tab.get 0 u.cursor (crsKey p c) = Tab.get 0 (s.courseStep p c).cursor (crsKey p c) ∧
          Tab.get 0 u.courseSteps (crsKey p c) = Tab.get 0 s.courseSteps (crsKey p c) + 1) ∧
        (¬ (p / 64 = st ∧ u.grantAt p (Tab.get 0 s.tick st % 64) = c ∧ (s.crs p c).valid = true) →
          Tab.get 0 u.cursor (crsKey p c) = Tab.get 0 s.cursor (crsKey p c) ∧
          Tab.get 0 u.courseSteps (crsKey p c) = Tab.get 0 s.courseSteps (crsKey p c))) ∧
  (∀ (s : State) (id : Nat) (r : Rider), s.arg 0 = id → s.rider? id = some r → r.parts.all Part.done = true → r.fail = none → r.stopped = false → r.owner = .core → s.deliveryHeld r = false →
    (r.void = true → exec .riderDelivery s = .next (s.stampRider r 0x04 r.fin)) ∧
    (r.void = false → r.kind = .upd → r.flags = 0 → exec .riderDelivery s = .next (s.stampRider r 0x01 r.fin)) ∧
    (r.void = false → r.kind = .rdstr → r.f 255 252 = 0 → r.flags = 0 → r.sent = 0 → s.arg 1 = 0 → r.words ≠ [] → r.words.length ≤ 2 ^ 32 →
      bit (r.f 127 64) 31 = false →
      exec .riderDelivery s = .next ((s.deliverWords r.team r.acct (r.f 127 64) r.words).stampRider r 0x01 r.fin)) ∧
    (∀ (key b : Nat), r.void = false → r.kind = .rdstr → r.f 255 252 = 0 → r.flags = 0 → r.sent = 0 → s.arg 1 = 0 → bit (r.f 127 64) 31 = true →
      key = keyOf (r.f 127 64) → (s.node key).bufAt (bits (r.f 127 64) 12 0 + 4 * 0) = some b → r.words ≠ [] →
      r.words.length = ((b + 1) * bufBytes (s.node key).depth - (bits (r.f 127 64) 12 0 + 4 * 0)) / 4 → r.words.length ≤ 2 ^ 32 →
      (bit (s.node key).f b = false → exec .riderDelivery s = .next (((s.deliverWords r.team r.acct (r.f 127 64) r.words).modNode key
        (fun nd => { nd with f := nd.f + 2 ^ b })).stampRider r 0x01 r.fin)) ∧
      (bit (s.node key).f b = true → exec .riderDelivery s = .next (s.modRider id (fun q => { q with sent := 0 }))))) ∧
  (∀ (s : State) (id : Nat) (r : Rider), s.arg 0 = id → s.rider? id = some r → s.overNow r = true → r.owner = .core → s.deliveryHeld r = false → r.kind ≠ .land → r.parts ≠ [] → r.flags = 0 →
    (r.kind = .rdstr → r.f 255 252 ≠ 4) →
    (∀ q, r.fail = some q → exec .faultedRiderStamp s = .next ((s.queueRec (s.failRec r q)).stampRider r 0x04 r.fin)) ∧
    (r.fail = none → exec .faultedRiderStamp s =
      .next ((s.deliver r.team r.acct r.stamp 8 (0x05 * 2 ^ 56 + r.sq * 2 ^ 48 + r.nact % 2 ^ 32)).dropRider r.id))) ∧
  (∀ (s : State) (w : Walk) (e : Tlb) (l : List Tlb), s.arg 0 = 0 → s.walks = [w] → w.found = some e →
    l = s.tlb.filter (fun x => !decide (x.tile = w.tile ∧ x.asid = w.asid ∧ x.va = e.va)) →
    (s.arg 1 = 0 → (l.filter (fun x => decide (x.tile = w.tile))).length < 4096 → exec .walkFill s = .next { s with walks := [], tlb := l ++ [e] }) ∧
    (s.arg 1 = 0 → 4096 ≤ (l.filter (fun x => decide (x.tile = w.tile))).length →
      exec .walkFill s = .next { s with walks := [], tlb := dropTlb w.tile 0 l ++ [e] }) ∧
    (s.arg 1 ≠ 0 → exec .walkFill s = .next { s with walks := [], tlb := dropTlb w.tile (s.arg 1 - 1) l ++ [e] })) ∧
  (∀ (s u : State) (c p m : Nat) (t : Strm) (tm : Team), s.arg 0 = c → s.arg 1 = p → s.portStream c p = some t → t.next < t.total → t.team = some m →
    s.team? m = some tm → tm.st = .running → tm.ending = none → s.boundRegion t.team p = none →
    s.admitCore (Rider.ask .stream (.stream c p) c tm.func tm.asid (some m) (mkRecord t.n p 0 (bits t.rcd.toNat 199 192) 0) (t.va t.next) 0) = (1, u) →
    exec .streamEmissionAdmit s = .next (({ u with streams := modStream c p (fun t => { t with next := t.next + 1, rid := t.rid ++ [s.nextId] }) u.streams } : State).post
      .streamEmissionAdmit [c, p])) ∧
  (∀ (s : State) (n : Nat) (c : Contrib), s.arg 0 = n → s.contribs[n]? = some c → c.arrived = 0 → c.unit = none → s.window c.stack c.win = none → c.half = 0 →
    s.dieHeld 4 (c.stack / 3) c.time = false →
    s.landBytes c.stack + 4 ≤ 262144 →
    exec .landingContribution s = .next { s with contribs := s.contribs.set n { c with arrived := s.ns + 1 } }) ∧
  (∀ (s : State) (id : Nat) (r : Rider) (p : Part) (t : List Part), s.arg 0 = id → s.rider? id = some r → r.parts = p :: t → r.kind = .land → r.fail = none →
    p.boarded = false → s.landReady r p = false → r.time + 1000 * (s.lnd (p.pc / 64) / 65536) ≤ s.pcNs p.pc →
    exec .landTimeout s = .next (s.modRider id (fun q => { q with parts := q.parts.map (fun z => { z.idle with gave := z.runs }), fail := some (s.landRec r.func r.acct (s.partPa p p.first) (r.f 255 250) 0x2A) }))) ∧
  (∀ (s : State) (st : Nat) (c : Contrib), s.arg 0 = st → s.contribs = [c] → c.stack = st → c.arrived ≠ 0 → c.arrived - 1 + 1000 * (s.lnd st % 65536) ≤ s.ns →
    s.window c.stack c.win = none → c.unit = none →
    exec .contributionHoldExpiry s = .next (({ s with contribs := [] } : State).queueRec (s.landRec (s.funcOfAddr c.pa) 0 c.pa c.win 0x28))) ∧
  (∀ (s u : State) (q : Rider) (d n : Nat), s.arg 0 = 0 → s.waiting = [q] → q.owner = .drain d n → s.tryAdmit q q.die (s.admitTile q) = (1, u) →
    exec .engineAdmissionRetry s = .next { u with waiting := u.waiting.eraseIdx 0 }) ∧
  (∀ (s : State) (id : Nat) (r : Rider), s.arg 0 = id → s.rider? id = some r → r.host = true →
    (r.kind = .exp → r.sent ≠ 0 → exec .hostCompletion s = .next ((s.modRider id (fun q => { q with host := false })).post .riderDelivery [id])) ∧
    (r.kind = .imp → r.n = 1 → r.seen = [] → r.sent = 0 → s.arg 1 = 0 → s.arg 2 = 4 → ∃ u q, exec .hostCompletion s = .next u ∧ u.rider? id = some q ∧
      q.src = [BitVec.ofNat 32 (s.arg 3)] ∧ q.host = false) ∧
    ((r.kind = .imp ∨ r.kind = .exp) → r.fail = none → ∃ u q, exec .completionTimeout s = .next u ∧ u.rider? id = some q ∧ q.host = false ∧ q.fail ≠ none))

/-- An ordered-update node performs its request, a streaming view reads ahead (R102, R103). An X tile accepts and begins entries, makes K steps,
lands their sums in the accumulators, combines pairs, stops a faulted half's partner and a late pair, and copies and writes drains (R236 to
R250, R369, R370). A transform node reads its input, and at its end writes its outputs and its stamp (R255). A sequence turn begins in
order, goes on and ends; a held KVLOOK looks again (R318, R406). The model's readings: the cycle from which the next K step counts (log
entry 20), operand words 0 of PAIR_LATE (56), the checks of a turn at its first stage (61), all DEDUCED. -/
def Obligations.UnitEvents : Prop :=
  (∀ (s : State) (key : Nat) (q : NodeReq), s.arg 0 = key → (s.node key).queue = [q] → Nat.max q.due (s.node key).next ≤ s.cycle (coreIsl (keyCore key)) →
    s.paused (coreIsl (keyCore key)) = false → q.load = none → q.src ≠ 32 → s.eccBad = [] →
    ∃ u, exec .orderedUpdateExecute s = .next u ∧ u.mem = (performReq s.mem (nodeBase key) q).mem ∧ (u.node key).queue = []) ∧
  (∀ (s s1 : State) (key n : Nat) (r : Region) (l : Load) (v : Beat), s.arg 0 = key → (s.node key).owner = some n → s.active n = some (r, l) →
    (s.node key).mode = 0 → (s.node key).ahead.length < 8 → s.paused (coreIsl (keyCore key)) = false → bit (s.node key).f (s.node key).rbuf = true →
    (l.isl.getD ((r.isl l (nodeEl key)).getD 0) Isl.idle).started = true → (l.isl.getD ((r.isl l (nodeEl key)).getD 0) Isl.idle).frozen = false →
    l.discarded = false → s.viewRead r l (nodeEl key) = .inr (v, s1) →
    exec .readAhead s = .next (s1.modNode key (fun nd => { nd with ahead := nd.ahead ++ [v] }))) ∧
  (∀ (s s1 : State) (x : Nat) (e : XEnt) (r : List XEnt), s.arg 0 = x → s.tilePaused x = false → s1 = s.tileSettle x → e.begun = false →
    ((s.xtile x).queue = e :: r → e.accepted = false → e.kind ≠ .pair → e.acc ≤ (s.core e.core).step →
      exec .xqEntryAccept s = .next (s.modTile x (fun t => { t with queue := { e with accepted := true } :: r }))) ∧
    ((s1.xtile x).queue = e :: r → e.accepted = true → (s1.xtile x).live = true → e.kind = .step → exec .xqEntryBegin s = .next (s1.rowBegin x e))) ∧
  (∀ (s s1 : State) (x : Nat) (e : XEnt) (r : List XEnt) (a b : List KRow × XTile), s.arg 0 = x → s1 = s.tileSettle x → (s1.xtile x).queue = e :: r →
    (s1.xtile x).live = true → s.tilePaused x = false → e.begun = true → e.kind = .step → (s1.xtile x).busy = false → (s1.xtile x).k < e.steps →
    (s1.xtile x).due ≤ s.tileCycle x → s1.operandA x (s1.xtile x) e = some (.inr a) → s1.operandB x a.2 e = some (.inr b) →
    s1.accBad x (if (s1.xtile x).fromZero x e then [] else e.offsets) = false →
    ∃ u, exec .kStep s = .next u ∧ (u.xtile x).busy = true ∧ ((u.xtile x).lands.getLast?).map XLand.kprog = some ((s1.xtile x).k + 1) ∧
      (u.xtile x).due = s1.goOn (tileCore x) (s1.xtile x).due + e.stepCycles ∧ u.mem = s.mem) ∧
  (∀ (t : XTile) (e : XEnt) (r : List XEnt) (now : Nat), t.queue = e :: r → t.busy = true → t.due ≤ now →
    t.settle now = { t.advance e with k := t.k + 1, busy := false }) ∧
  (∀ (s s1 : State) (x : Nat) (l : XLand) (r : List XLand), s.arg 0 = x → s1 = s.tileSettle x → s.tilePaused x = false → (s1.xtile x).lands = l :: r →
    l.due ≤ s.tileCycle x → l.pair = none → (s1.xtile x).stops = [] →
    ∃ u, exec .kStepLanding s = .next u ∧ (u.xtile x).lands = r ∧ (u.xtile x).kprog = l.kprog ∧
      u.mem = l.upd.foldl (fun (m : Memory) (p : Nat × Word) => m.writeN (accBase x 0 + p.1) 4 p.2.toNat) s.mem) ∧
  (∀ (s : State) (x : Nat) (t : XTile) (e : XEnt) (r : List XEnt) (q : Pair), s.arg 0 = x → t = s.tileNow x → t.queue = e :: r → e.kind = .pair →
    e.begun = true → t.live = true → s.tilePaused x = false → t.k = e.steps → t.lands = [] → pairUpper x = false →
    t.pairs.find? (fun q => decide (q.partner = pairPartner x e.xa ∧ q.tag = e.imm) && q.lower && q.upper.isSome && !s.dieHeld (pairPartner x e.xa / 256) (x / 256) q.sent) = some q → s.accBad x e.offsets = false →
    ∃ u, exec .pairCombine s = .next u ∧ (u.xtile x).queue = r ∧ (u.xtile x).pairs = t.pairs.erase q) ∧
  (∀ (s s1 : State) (x p : Nat) (l : List Nat), s.arg 0 = x → (s.xtile x).tell = p :: l → s.tilePaused p = false →
    s1 = s.modTile x (fun t => { t with tell := l }) → (s1.xtile p).stopped = false →
    exec .pairFault s = .next (s1.tileFault p (0x0D, tileLoc x, 0, 0) (tell := false))) ∧
  (∀ (s : State) (x : Nat) (q : Pair), s.arg 0 = x → (s.xtile x).pairs = [q] → q.lower = true → q.upper = none → q.late = false →
    s.tilePaused x = false → s.tilePaused q.partner = false → 1000 * bits s.frzctl.toNat 31 16 ≤ s.pairTime q →
    exec .pairLate s = .next (((s.modTile x (fun t => { t with pairs := [{ q with late := true }] })).tileFault x (0x0C, 0, 0, 0)
      (tell := false)).tileFault q.partner (0x0C, 0, 0, 0) (tell := false))) ∧
  (∀ (s : State) (x : Nat) (e : XEnt) (r : List XEnt), s.arg 0 = x → (s.xtile x).queue = e :: r → e.kind = .drain → e.begun = true →
    (s.xtile x).stops = [] → s.tilePaused x = false → (s.xtile x).drains.all (fun d => !d.copying || decide (d.due ≤ s.tileCycle x)) = true →
    ∃ u, exec .drainCopyEnd s = .next u ∧ (u.xtile x).queue = r ∧ (u.xtile x).drains.all (fun d => !d.copying) = true ∧
      u.turns = ⟨0, .event .drainWrite [x]⟩ :: s.turns ∧ u.mem = s.mem) ∧
  (∀ (s : State) (x : Nat) (d : Drain), s.arg 0 = x → (s.xtile x).drains = [d] → d.copying = false → d.written = false → s.tilePaused x = false →
    (d.ent.f 23 22 = 0 → d.rows = [] → exec .drainWrite s = .next (s.drainEnd x d false)) ∧
    (d.ent.f 23 22 = 2 → exec .drainWrite s = .next (s.drainNode x d)) ∧
    (∀ (c : Contrib) (cs : List Contrib), d.ent.f 23 22 = 1 → s.drainContribs x d = (some ((c :: cs).map some), []) →
      ∃ u, exec .drainWrite s = .next u ∧ u.contribs = s.contribs ++ c :: cs ∧ u.mem = s.mem)) ∧
  (∀ (s : State) (y : Nat) (x : Xform) (r : List Xform), s.arg 0 = y → Tab.get [] s.xforms y = x :: r → s.xformHolds y x = false →
    s.paused (coreIsl (y / 24)) = false →
    (x.begun = false → ∃ u z, exec .transformBegin s = .next u ∧ Tab.get [] u.xforms y = z :: r ∧ z.begun = true ∧ z.rcd = x.rcd ∧ u.mem = s.mem) ∧
    (x.begun = true → x.due ≤ s.cycle (coreIsl (y / 24)) → x.bad = none → x.load = none → x.fl = 0 → exec .transformEnd s =
      .next ((({ s with mem := ((List.range x.out.length).zip x.out).foldl (fun (m : Memory) (p : Nat × Nat) => m.writeN (nodeBase (keyOf (x.f 223 192)) + bits (x.f 223 192) 12 0 + 16 * p.1) 16 p.2) s.mem } : State).setXforms y r).deliver
        x.team x.core (x.f 191 160) 8 (stampWord 0x01 (x.f 159 152) (s.dieNs (x.core / 8)))))) ∧
  (∀ (s s1 : State) (n : Nat) (t : Turn), s.arg 0 = n → s.seqs = [t] → t.stream = n →
    (s.mayBegin t = true → t.kind = 6 → t.busy = false → t.held = none → t.got = [] → s1 = s.modTurn t.id (fun x => { x with begun := true }) →
      s1.turnBad { t with begun := true } = none → exec .sequenceTurnBegin s =
        .next (((s1.sqSet n 14 31 0 (t.f 151 128)).sqSet n 15 63 0 t.time).endTurn { t with begun := true } 0x01)) ∧
    exec .sequenceTurnEnd s = .next (s.advanceTurn t.id) ∧
    (t.held = some 0x10 → t.busy = true → exec .heldTurnResume s = .next { s with seqs := [{ t with again := true }] }))

/-- While registers respond: FQPOP removes the oldest record (R357); INTST bits are cleared by ones and INTEN is written (R335); a descriptor,
grant table or OARCFG piece that passes its checks takes effect and a failing one is counted in WREJ (R70, R71, R338, R386); TRINV starts,
or is held while one runs, and is done once no rider of before uses its range, whereupon the oldest one held starts over the range that came
with it (R94); reports and WREJ are returned and cleared by their reads (R95, R386). A virtual function's write to BAR0 is rejected (log
entry 74), and while registers do not respond an access leaves the state as it is (75), both DEDUCED. -/
def Obligations.RegisterEvents : Prop :=
  (∀ (s : State) (f : Nat), s.arg 0 = f → f ≤ 64 → s.responds = true →
    exec .fqpop s = .next { s with fq := Tab.set [] s.fq f ((Tab.get [] s.fq f).drop 1) }) ∧
  (∀ (s : State) (f v : Nat), s.arg 0 = f → s.arg 1 = v → f ≤ 64 → s.responds = true → (v < 32 ∧ (f = 0 ∨ v &&& 0x12 = 0)) →
    exec .intstClear s = .next (s.setInt f (Tab.get 0 s.intst f &&& ~~~(BitVec.ofNat 64 v)) (Tab.get 0 s.inten f)) ∧
    exec .intenWrite s = .next (s.setInt f (Tab.get 0 s.intst f) (BitVec.ofNat 64 v))) ∧
  (∀ (s : State) (p c v : Nat) (up : Bool), s.arg 0 = 0 → s.arg 1 = 0x80000 + 0x100 * p + 16 * c + (if up then 8 else 0) → s.arg 2 = v → v < 2 ^ 64 →
    p < 768 → c < 8 → s.responds = true →
    (∀ u, s.descPiece p c up v = some u → exec .courseDescriptorWrite s = .next u) ∧
    (s.descPiece p c up v = none → exec .courseDescriptorWrite s = .next (s.reject (s.arg 1)))) ∧
  (∀ (s : State) (p w v : Nat), s.arg 0 = 0 → s.arg 1 = 0x80080 + 0x100 * p + 8 * w → s.arg 2 = v → v < 2 ^ 64 → p < 768 → w < 4 → s.responds = true →
    ((∀ i < 16, v / 16 ^ i % 16 ≤ 8) → exec .grantTableWrite s =
      .next { s with grantNew := Tab.set 0 s.grantNew (4 * p + w) (BitVec.ofNat 64 v ^^^ 0x8888888888888888) }) ∧
    ((∃ i < 16, 8 < v / 16 ^ i % 16) → exec .grantTableWrite s = .next (s.reject (s.arg 1)))) ∧
  (∀ (s u : State) (n v : Nat) (up : Bool), s.arg 0 = 0 → s.arg 1 = 0x6000 + 16 * n + (if up then 8 else 0) → s.arg 2 = v → v < 2 ^ 64 → n < 18 →
    s.responds = true → s.oarPiece (s.arg 1) v = some u → exec .oarcfgWrite s = .next u) ∧
  (∀ (s : State) (n v : Nat) (up : Bool), s.arg 0 = 0 → s.arg 1 = 0x6000 + 16 * n + (if up then 8 else 0) → s.arg 2 = v → v < 2 ^ 64 → n < 18 →
    s.responds = true → s.oarPiece (s.arg 1) v = none → exec .oarcfgWrite s = .next (s.reject (s.arg 1))) ∧
  (∀ (s : State) (v : Nat), s.arg 0 = v → s.responds = true →
    (v < 2 ^ 49 → exec .trinvLower s = .next (s.setReg 0x3F000 v)) ∧
    (s.arg 1 = 0 → v < 2 ^ 64 → v % 2 ^ 52 ≤ 1 → exec .trinvStart s =
      .next (if s.trinvDone = true then s.trinvGo v (s.reg 0x3F000)
        else { s with trinvHeld := s.trinvHeld ++ [(BitVec.ofNat 64 v, BitVec.ofNat 64 (s.reg 0x3F000))] })) ∧
    (∀ lo, s.arg 1 = 1 + lo → s.trinvDone = true → exec .trinvStart s = .next (s.trinvGo v lo))) ∧
  (∀ s : State, s.trinvDone = false → s.riders = [] →
    (s.trinvHeld = [] → exec .trinvDone s = .next { s with trinvDone := true }) ∧
    (∀ h t, s.trinvHeld = h :: t → exec .trinvDone s =
      .next (({ s with trinvDone := true, trinvHeld := t } : State).post .trinvStart [h.1.toNat, 1 + h.2.toNat]))) ∧
  (∀ (s : State) (st p : Nat) (t : List Nat), s.arg 0 = st → s.responds = true → Tab.get [] s.reports st = p :: t → p < 2 ^ 24 →
    exec .accessReportRead s = .next { s with hostRead := BitVec.ofNat 64 (2 ^ 63 + b2n (Tab.get false s.ovf st) * 2 ^ 62 + p), reports := Tab.set [] s.reports st t, ovf := Tab.set false s.ovf st false }) ∧
  (∀ s : State, s.responds = true → exec .wrejRead s = .next { s with hostRead := s.wrej, wrej := s.wrej &&& 0xFFFFFFFF }) ∧
  (∀ s : State, s.responds = false → exec .wrejRead s = .next s ∧ exec .accessReportRead s = .next s ∧ exec .launch s = .next s) ∧
  (∀ (s : State) (f v : Nat), s.arg 1 = f → s.arg 4 = v → s.responds = true →
    (s.arg 0 = 4 → s.arg 2 = 0x28 → s.arg 3 = 8 → f ≤ 64 → v < 2 ^ 32 →
      exec .registerWrite s = .next { s with wdog := Tab.set 0 s.wdog f (BitVec.ofNat 64 v) }) ∧
    (s.arg 0 = 0 → s.arg 2 = 0x20000 → s.arg 3 = 8 → f = 0 → v < 2 ^ 64 →
      exec .registerWrite s = .next (if v < 2 ^ 16 then s.setReg 0x20000 v else s.reject 0x20000)) ∧
    (s.arg 0 = 0 → s.arg 2 = 0x20000 → s.arg 3 = 8 → f ≠ 0 → exec .registerWrite s = .next (s.reject 0x20000)))

/-- Losing and regaining a host link sets its state, with a LINK_DOWN record and INTST.LINK of the functions carried at the loss (R407). A
packet is sent with the next SEQN and kept until it is acknowledged (R339); a received one with translations present becomes a deposit of
its words where no window is open, and is acknowledged when it is done (R340); a link that is down or has EN 0 takes none. The 16th retry of
one flit running starts retraining; within 2 ms the link comes back, later it goes down: packets are dropped and its launches fail, or the
teams on a die link's dies end (R337, R409, R410). Packets and acknowledgements by events, the numbers of the links with the flit that an
event names, and the interrupt of a link are the model's readings (log entries 62, 63, 64, DEDUCED). -/
def Obligations.LinkEvents : Prop :=
  (∀ (s : State) (l : Nat), s.arg 0 = l → l < 2 → l < s.hostLinkUp.length →
    (s.hostLinkUp.getD l true = true → ∃ u, exec .dlDown s = .next u ∧ u.hostLinkUp.getD l true = false ∧ u.mem = s.mem ∧
      ((Tab.get [] s.fq 0).length < 64 → Tab.get [] u.fq 0 = Tab.get [] s.fq 0 ++ [({ time := s.dieNs 4, code := 0x17, sk := 4, loc := 32 + l } : RecF).pack]) ∧
      ∀ f < 65, s.linkOf f = l → (Tab.get 0 u.intst f).getLsbD 3 = true) ∧
    (s.hostLinkUp.getD l true = false → ∃ u, exec .dlUp s = .next u ∧ u.hostLinkUp.getD l false = true ∧ u.mem = s.mem)) ∧
  (∀ (s : State) (n : Nat) (o : Oar) (p : OarPkt), s.arg 0 = n → n < s.oars.length → s.oar n = o → o.sendq = [p] → o.lup = true → s.oarEn n = true →
    o.unacked.length < 1024 → s.rider? p.rider = none → o.nextSeq < 2 ^ 16 →
    ∃ u q, exec .oarPacketSend s = .next u ∧ (u.oar n).sendq = [] ∧ (u.oar n).nextSeq = (o.nextSeq + 1) % 2 ^ 16 ∧ (u.oar n).unacked = o.unacked ++ [q] ∧
      q.seqn = o.nextSeq ∧ q.words = p.words ∧ u.mem = s.mem) ∧
  (∀ (s : State) (n : Nat) (o : Oar) (p : OarPkt) (t : List OarPkt), s.arg 0 = n → s.ev = [n] → s.oar n = o → o.recv = p :: t → s.waiting = [] →
    (bits p.hdr.toNat 175 172 ≠ 1 → (bits p.hdr.toNat 175 172 = 2 → p.stale = true) →
      exec .oarPacketReceive s = .next (s.modOar n (fun o => { o with recv := t }))) ∧
    (bits p.hdr.toNat 175 172 = 2 → p.stale = false → exec .oarPacketReceive s = .next ((s.modOar n (fun o => { o with recv := t })).oarAck n p.seqn))) ∧
  (∀ (s : State) (n : Nat) (o : Oar) (p : OarPkt) (t : List OarPkt), s.arg 0 = n → s.ev = [n] → s.oar n = o → o.recv = p :: t → s.waiting = [] → bits p.hdr.toNat 175 172 = 1 → n < s.oars.length →
    (s.xlate 48 (bits (s.reg (0x6000 + 16 * n + 8)) 47 36) true (bits p.hdr.toNat 48 0) (bits p.hdr.toNat 171 166 + 1) 0 1025).miss = [] →
    ∃ u, exec .oarPacketReceive s = .next u ∧ (u.oar n).recv = t ∧
      (u.oar n).taken = (if p.stale = true then o.taken else o.taken ++ [(p.seqn, [])]) ∧ u.mem = s.mem ∧
      (s.riders = [] → u = ((s.modOar n (fun o => { o with recv := t, taken := if p.stale then o.taken else o.taken ++ [(p.seqn, [])] })).admitOrWait
        { Rider.ask .dep (.oar n) 36 (bits (s.reg (0x6000 + 16 * n + 8)) 35 28) (bits (s.reg (0x6000 + 16 * n + 8)) 47 36) none
            (mkRecord (bits p.hdr.toNat 171 166 + 1) 0 0 0 0) (bits p.hdr.toNat 48 0) p.seqn with
          src := (List.range (bits p.hdr.toNat 171 166 + 1)).map (fun i => p.words.getD i 0) } 4 48).post .oarAckSend [n])) ∧
  (∀ (s : State) (n : Nat), s.carries n = ((s.oar n).lup && s.oarEn n)) ∧
  (∀ (s : State) (n h : Nat) (ws : List Nat), s.ev = n :: h :: ws → s.waiting.any (fun q => decide (q.owner = .oar n)) = true →
    (s.carries n = false → exec .oarPacketReceive s = .next s) ∧
    (s.carries n = true → exec .oarPacketReceive s =
      .next (s.modOar n (fun o => { o with recv := o.recv ++ [(⟨BitVec.ofNat 256 h, ws.map (BitVec.ofNat 32), 0, 36, none⟩ : OarPkt)] })))) ∧
  (∀ (s : State) (n q : Nat), s.arg 0 = n → s.arg 1 = q → s.carries n = false → exec .oarAckSend s = .next s ∧ exec .oarAckReceive s = .next s) ∧
  (∀ (s : State) (n : Nat), s.arg 0 = n → s.carries n = true →
    exec .oarAckSend s = .next (s.modOar n (fun o => { o with
      taken := o.taken.filter (fun x => !s.oarDone n x.1)
      acks := o.acks ++ ((s.oar n).taken.filter (fun x => s.oarDone n x.1)).map (fun x => ackHeader (s.dieNs 4) x.1) }))) ∧
  (∀ (s : State) (n q : Nat), s.arg 0 = n → s.arg 1 = q → n < s.oars.length → s.carries n = true → (s.oar n).sendq = [] →
    ∃ u, exec .oarAckReceive s = .next u ∧ (u.oar n).unacked = (s.oar n).unacked.filter (fun p => decide (p.seqn ≠ q)) ∧
      (∀ p ∈ (s.oar n).unacked, ∀ t, p.seqn = q → p.team = some t → ⟨0, .event .completionStamp [t]⟩ ∈ u.turns)) ∧
  (∀ (s : State) (n p : Nat) (o : Oar), s.arg 0 = n → s.arg 1 = p → n < s.oars.length → s.oar n = o →
    (o.lup = true → exec .oarRetrain s = .next { s with oars := s.oars.set n { o with retrain := true, since := s.ns, retries := 0 } }) ∧
    (o.retrain = true → s.ns ≤ o.since + 2000000 → ∃ u, exec .oarRetrainComplete s = .next u ∧ (u.oar n).lup = true ∧ (u.oar n).peer = p % 2 ^ 16 ∧
      (u.oar n).unacked = o.unacked) ∧
    (o.retrain = true → o.up = true → o.since + 2000000 ≤ s.ns → ∃ u, exec .linkDown s = .next u ∧ (u.oar n).up = false ∧ (u.oar n).unacked = [] ∧
      ∀ q ∈ o.unacked, ∀ t tm, q.team = some t → s.team? t = some tm → (u.team? t).map Team.failed = some true)) ∧
  (∀ (s : State) (l : Nat), s.arg 0 = l → l < s.dieRetrain.length →
    (s.dieLinkUp.getD l false = true → s.dieRetrain.getD l false = false → exec .dieLinkRetrain s =
      .next { s with dieRetrain := s.dieRetrain.set l true, dieSince := Tab.set 0 s.dieSince l s.ns, dieRetries := Tab.set 0 s.dieRetries l 0 }) ∧
    (s.dieRetrain.getD l false = true → s.ns ≤ Tab.get 0 s.dieSince l + 2000000 → exec .dieLinkRetrainComplete s =
      .next (({ s with dieRetrain := s.dieRetrain.set l false, dieRetries := Tab.set 0 s.dieRetries l 0 } : State).raiseInt 0 3)) ∧
    (s.dieRetrain.getD l false = true → Tab.get 0 s.dieSince l + 2000000 ≤ s.ns → ∃ u, exec .dieLinkDown s = .next u ∧
      u.dieLinkUp = s.dieLinkUp.set l false ∧ u.dieRetrain = s.dieRetrain.set l false ∧ u.mem = s.mem ∧ (Tab.get 0 u.intst 0).getLsbD 3 = true ∧
      ∀ t tm, s.team? t = some tm → tm.st ≠ .ended → tm.ending = none → s.teamOnDie t tm (dieLinkEnds l).1 = true ∨ s.teamOnDie t tm (dieLinkEnds l).2 = true →
        (u.team? t).bind Team.ending = some (0x04, 0x17))) ∧
  (∀ (s u : State) (l q n : Nat), s.arg 0 = l → s.arg 1 = q → l < 18 → n = (if (s.oar l).flit = q then (s.oar l).retries + 1 else 1) →
    u = s.modOar l (fun o => { o with retries := n, flit := q }) →
    exec .flitRetry s = .next (if 16 ≤ n then u.post .oarRetrain [l] else u)) ∧
  (∀ (s u : State) (l q n : Nat), s.arg 0 = 40 + l → s.arg 1 = q → l < 10 → n = (if Tab.get 0 s.dieFlit l = q then Tab.get 0 s.dieRetries l + 1 else 1) →
    u = { s with dieRetries := Tab.set 0 s.dieRetries l n, dieFlit := Tab.set 0 s.dieFlit l q } →
    exec .flitRetry s = .next (if 16 ≤ n then u.post .dieLinkRetrain [l] else u))

/-- Release, a verified image and the firmware bring the hub to Ready, a first failing image to the second check and a second to Halted (R341).
A report stands once it is asked for and signed, ERR when the key is spent (R342, R343), a signature counting at GO (the model's reading,
log entry 67, DEDUCED); a key command on a slot runs and GO reads 0 again (R344). An alarm queues its record, SK 6 and code 0x1C with the
sensors in OP0, and with ERASE ends every team and erases the keys (R416, R417). Resets leave what no reset reaches, with DRAM or without,
where memory reads 0 after a power loss or a reset by the model's choice (log entry 5, DESIGN CHOICE); above 125 °C the hub halts until its
restart (R396, R412). Points and pauses change at reassignments and caps, and what came for a core during a pause enters at its end (R23,
R24, R411). The device's key pair and erased slots are free values. The verdict that ROM_CHECK brings and the raised minimum version are the
model's choice (log entry 96, DESIGN CHOICE); the point that a cap sets with its publication (65) and what resets keep (76) are its
readings. -/
def Obligations.PlatformEvents : Prop :=
  (∀ s : State, s.boot = .reset → ∃ u, exec .hubResetRelease s = .next u ∧ u.boot = .romCheckA ∧ u.now = 0 ∧ u.mem = s.mem ∧ u.teams = s.teams ∧
    (∀ i < 20, u.islIfreq i = if s.thermCap.getD (i / 5) false = true then 12 else 24) ∧ (∀ i, u.paused i = false)) ∧
  (∀ (s : State) (ok svn dg : Nat), s.arg 0 = ok → ok ≠ 2 → s.arg 1 = svn → s.arg 2 = dg →
    ((s.boot = .romCheckA ∨ s.boot = .romCheckB) → ok = 1 → s.minSvn ≤ svn →
      exec .romCheck s = .next { s with boot := .fwStart, fwsvn := svn, meas0 := BitVec.ofNat 256 dg }) ∧
    (s.boot = .romCheckA → (ok ≠ 1 ∨ svn < s.minSvn) → exec .romCheck s = .next { s with boot := .romCheckB }) ∧
    (s.boot = .romCheckB → (ok ≠ 1 ∨ svn < s.minSvn) → exec .romCheck s = .next { s with boot := .halted })) ∧
  (∀ (s : State) (svn : Nat) (img pub sig : List Byte), s.ev = 2 :: svn :: img.length :: (img ++ pub ++ sig).map BitVec.toNat → pub.length = 60 →
    exec .romCheck s = .next (s.romCheck (b2n (s.imageOk img pub sig)) svn (digestNum img))) ∧
  (∀ s : State, s.boot = .fwStart → exec .firmwareReady s = .next { s with
    boot := .ready, meas1 := BitVec.ofNat 256 (s.arg 0), minSvn := Nat.max s.minSvn (Nat.min (s.arg 1) s.fwsvn) }) ∧
  (∀ s : State, s.responds = false → exec .attestGo s = .next s) ∧
  (∀ s : State, s.responds = true → s.attest.testBit 0 = false → s.sigUsed ≤ 2 ^ 30 → exec .attestGo s = .next { s with attest := 1, sigUsed := s.sigUsed + 1 }) ∧
  (∀ s : State, s.attest.testBit 0 = true →
    (2 ^ 30 < s.sigUsed → exec .attestDone s = .next { s with attest := 4 }) ∧
    (s.sigUsed ≤ 2 ^ 30 → ∃ u, exec .attestDone s = .next u ∧ u.attest = 2 ∧ u.mem = s.mem ∧ u.report.readN 0 32 = s.nonce.toNat ∧
      u.report.readN 32 8 = s.dieNs 4 % 2 ^ 64 ∧ u.report.readN 48 32 = s.meas0.toNat ∧ u.report.readN 80 32 = s.meas1.toNat ∧
      ∀ m sig : List Byte, m = (List.range 112).map (fun i => u.report.read i) → sig = hssSign (s.sigUsed - 1) m →
        ∀ i < sig.length, u.report.read (112 + i) = sig.getD i 0)) ∧
  (∀ (s : State) (n : Nat), s.arg 0 = n →
    (s.keyRuns 0 n = true → ∃ u, exec .keyGenerate s = .next u ∧ u.turns = ⟨0, .event .keycmdDone []⟩ :: s.turns ∧ ∀ m, m ≠ n → Tab.get 0 u.keySlots m = Tab.get 0 s.keySlots m) ∧
    (s.keyRuns 1 n = true → ∃ u, exec .keyErase s = .next u ∧ u.turns = ⟨0, .event .keycmdDone []⟩ :: s.turns ∧ ∀ m, m ≠ n → Tab.get 0 u.keySlots m = Tab.get 0 s.keySlots m)) ∧
  (∀ (s : State) (v : DWord), s.keyBusy = some v → exec .keycmdDone s = .next (if v.getLsbD 62 = true then { s with keyBusy := none } else s)) ∧
  (∀ (s : State) (n : Nat), s.arg 0 = n → n < 4 → ∃ u, exec .alarm s = .next u ∧ u.alarm = s.alarm ||| BitVec.ofNat 64 (2 ^ (16 + n) + 2 ^ 8) ∧ u.mem = s.mem ∧
    ((Tab.get [] s.fq 0).length < 64 → ∃ l, Tab.get [] u.fq 0 = Tab.get [] s.fq 0 ++
      ({ time := s.dieNs 4, code := 0x1C, sk := 6, loc := 2, op0 := bits u.alarm.toNat 19 16 } : RecF).pack :: l ∧ (s.alarm.getLsbD 0 = false → l = [])) ∧
    (s.alarm.getLsbD 0 = true → u.treeKey = [] ∧ (∀ q, ((Tab.get 0 u.qcfg q).getLsbD 34 = false)) ∧
      ∀ t tm, s.team? t = some tm → tm.st ≠ .ended → tm.ending = none → (u.team? t).bind Team.ending = some (0x04, 0x1C))) ∧
  (∀ (s : State) (f : Nat), s.arg 0 = f → 0 < f → f ≤ 64 → s.teams = [] →
    ∃ u, exec .vfFlr s = .next u ∧ u.launches = s.launches.filter (fun l => decide (s.launchFunc l ≠ f)) ∧ f ∉ u.flr ∧ Tab.get 0 u.intst f = 0 ∧
      Tab.get [] u.fq f = [] ∧ ∀ i < 65536, u.mem.read (cellAddr f 0 + i) = 0) ∧
  (∀ s : State, ∃ u v w, exec .deviceReset s = .next u ∧ exec .powerLoss s = .next v ∧ exec .thermalHalt s = .next w ∧ u.boot = .reset ∧ v.boot = .reset ∧
    w.boot = .thermHalt ∧ (∀ a < 2 ^ 40, u.mem.read a = s.mem.read a ∧ w.mem.read a = s.mem.read a) ∧ v.mem = [] ∧ u.teams = [] ∧ v.teams = [] ∧ w.teams = [] ∧
    u.riders = [] ∧ v.riders = [] ∧ u.sigUsed = s.sigUsed ∧ v.sigUsed = s.sigUsed ∧ w.sigUsed = s.sigUsed ∧ u.cores = List.replicate 32 Core.empty ∧
    u.alarm = (if s.arg 0 = 0 then 0 else s.alarm) ∧ w.alarm = 0 ∧
    (∀ a, 2 ^ 40 ≤ a → u.mem.read a = 0)) ∧
  (∀ s : State, s.boot = .thermHalt → exec .thermalRestart s = .next (({ s with boot := .reset } : State).post .hubResetRelease [])) ∧
  (∀ s : State, exec .thermalCapLift s = .next { s with thermCap := s.thermCap.set (s.arg 0) false }) ∧
  (∀ (s : State) (d : Nat), s.arg 0 = d → d < 4 → s.thermCap.length = 4 → ∃ u, exec .thermalCap s = .next u ∧ u.thermCap = s.thermCap.set d true ∧
    ∀ i < 20, Tab.get 0 u.islFreq i = if i / 5 = d ∧ s.islIfreq i ≠ 12 then 12 else Tab.get 0 s.islFreq i) ∧
  (∀ s : State, s.reassigned = some (s.dieNs 4) → exec .powerReassignment s = .next s) ∧
  (∀ s : State, s.dieNs 4 % 1000 = 0 → s.reassigned ≠ some (s.dieNs 4) → ∃ u, exec .powerReassignment s = .next u ∧
    (∀ i < 20, (12 ≤ u.islIfreq i ∧ u.islIfreq i ≤ 24 ∧ u.islEntry i = u.islIfreq i ∧ (s.thermCap.getD (i / 5) false = true ∨ s.overload = true → u.islIfreq i = 12))) ∧
    (∀ i < 24, Tab.get 0 u.islStamp i = s.dieNs 4) ∧ u.reassigned = some (s.dieNs 4)) ∧
  (∀ s : State, s.dieNs 4 % 1000 ≠ 0 → exec .powerReassignment s = .next s) ∧
  (∀ (s u : State) (i c la n v : Nat) (t : Option Nat), s.arg 0 = i → Tab.get 0 s.islHold i ≠ 0 → Tab.get 0 s.islHold i ≤ s.ps →
    Tab.get 0 s.islFrom i ≤ Tab.get 0 s.islHold i → s.retime = [(t, c, la, n, v)] → coreIsl c = i →
    u = { s with islHold := Tab.set 0 s.islHold i 0, retime := [] } → u.paused i = false → exec .clockResume s = .next (u.deliverNow t c la n v)) ∧
  (∀ (s : State) (i : Nat), s.arg 0 = i → Tab.get 0 s.islHold i ≠ 0 → Tab.get 0 s.islHold i ≤ s.ps → s.retime = [] →
    exec .clockResume s = .next { s with islHold := Tab.set 0 s.islHold i (if Tab.get 0 s.islHold i < Tab.get 0 s.islFrom i then Tab.get 0 s.islFrom i else 0) })
end

