-- ==== Sys2Proof/Machine/Codec.lean ====
section
/-! DEFINITION. The cell codec (R97): the header and payload under which a cell of 16 words crosses the link between a base die and a memory
E tile, and its expansion. The codec changes the bits on the link and nothing else, so that the rest of the model sees expanded cells alone. -/

namespace Sys2Proof.Machine

/-- Modes of a coded cell, by header; 0b11 is reserved and never produced (R97). -/
inductive CellMode where
  | zero | const | raw
deriving DecidableEq, Repr

/-- The 2-bit header of a mode (R97). -/
def CellMode.header : CellMode → Nat
  | .zero => 0
  | .const => 1
  | .raw => 2

/-- The first mode in table order that applies to the words of a cell (R97). -/
def cellMode (ws : List (BitVec 32)) : CellMode :=
  if ws.all (fun w => decide (w = 0)) then .zero
  else if ws.all (fun w => decide (w = ws.headD 0)) then .const
  else .raw

/-- The words that follow the header (R97). -/
def cellPayload (ws : List (BitVec 32)) : List (BitVec 32) :=
  match cellMode ws with
  | .zero => []
  | .const => [ws.headD 0]
  | .raw => ws

/-- The 16 words that an E tile expands from a header and its payload; none for the reserved header (R97). -/
def expandCell (header : Nat) (payload : List (BitVec 32)) : Option (List (BitVec 32)) :=
  match header with
  | 0 => some (List.replicate 16 0)
  | 1 => some (List.replicate 16 (payload.headD 0))
  | 2 => some payload
  | _ => none

/-- Bits of a coded cell on the die link (R97). -/
def cellLinkBits (ws : List (BitVec 32)) : Nat := 2 + 32 * (cellPayload ws).length

/-- The cell at `pa` as it crosses the link: the plaintext side of its encryption (R97). -/
def State.codedCell (s : State) (pa : Nat) (key : Option Nat) : Nat × List (BitVec 32) :=
  let ws := (List.range 16).map (fun i => BitVec.ofNat 32 (s.wordAt (pa / 64 * 64 + 4 * i) key))
  ((cellMode ws).header, cellPayload ws)

end Sys2Proof.Machine
end

