-- ==== Sys2Proof/Laws/Codec.lean ====
section
/-! SUPPORT. The cell codec loses nothing (R97). -/

namespace Sys2Proof.Machine

/-- A list whose words are all equal. -/
theorem replicate_of_all {n : Nat} {x : BitVec 32} {ws : List (BitVec 32)} (h : ws.length = n) (ha : ∀ w ∈ ws, w = x) :
    ws = List.replicate n x := List.eq_replicate_iff.mpr ⟨h, ha⟩

/-- A cell survives the codec (R97). -/
theorem expandCell_of_coded {ws : List (BitVec 32)} (h : ws.length = 16) :
    expandCell (cellMode ws).header (cellPayload ws) = some ws := by
  unfold cellPayload cellMode
  split
  · rename_i hz
    simp only [CellMode.header, expandCell, Option.some.injEq]
    exact (replicate_of_all h (by simpa using hz)).symm
  · split
    · rename_i hc
      simp only [CellMode.header, expandCell, Option.some.injEq, List.headD_cons]
      exact (replicate_of_all h (by simpa using hc)).symm
    · rfl

/-- The reserved header is never produced (R97). -/
theorem cellMode_header_lt (ws : List (BitVec 32)) : (cellMode ws).header < 3 := by
  cases cellMode ws <;> decide

end Sys2Proof.Machine
end

