-- ==== Sys2Proof/Laws/Issue.lean ====
section
/-! SUPPORT. When a syllable issues: the checks of R371, the limit of R192 and the conditions of R170, each named once. -/

namespace Sys2Proof.Machine

/-- A register in the allotment passes (R374). -/
theorem regCode_x (c : Core) (n : Nat) (h : n = 0 ∨ n < c.ax) : c.regCode (0, n) = 0 := by
  unfold Core.regCode; simp; omega

theorem regCode_v (c : Core) (k n : Nat) (hk : k ≠ 0) (h : n < c.av) : c.regCode (k, n) = 0 := by
  unfold Core.regCode; simp [hk, h]

/-- A syllable whose bundle has passed, or that nothing stops, has its effect. -/
theorem coxIssue_issues (i : Instr) (eff : State → State) (s : State) (h : s.issues i) : coxIssue i eff s = .next (eff s) := by
  unfold coxIssue
  rcases h with h | h
  · simp [h]
  · rw [h]; split <;> rfl

/-- A syllable always answers a next state. -/
theorem coxIssue_total (i : Instr) (eff : State → State) (s : State) : ∃ t, coxIssue i eff s = .next t := by
  unfold coxIssue
  split
  · exact ⟨_, rfl⟩
  · split <;> exact ⟨_, rfl⟩

/-- A syllable that fails a check takes the precise fault (R371). -/
theorem coxIssue_bad (i : Instr) (eff : State → State) (s : State) (b : Bad) (hc : s.checked = false) (h : s.checkIns i (encode i) none = some b) :
    coxIssue i eff s = .next (s.precise b (slotNo i)) := by
  simp [coxIssue, hc, State.stopBefore, h]

/-- A syllable that its own condition holds does not issue (R170). -/
theorem coxIssue_held (i : Instr) (eff : State → State) (s t : State) (hc : s.checked = false) (h : s.checkIns i (encode i) none = none)
    (ht : s.trapEsc i = none) (hf : s.me.inFlight + addsWrites i ≤ 32) (hh : s.holdStep i = some t) : coxIssue i eff s = .next t := by
  simp [coxIssue, hc, State.stopBefore, h, ht, hh, Nat.not_lt.mpr hf]

/-- Every check of R371 passes when the registers are in the allotment, no field offends and every address is aligned and reachable. -/
theorem checkIns_none (i : Instr) (s : State) (syl : Nat) (hs : s.badState i = none) (hv : s.badValue i = none) (hrc : s.badRecord i = none)
    (hr : ∀ r ∈ namedRegs i, s.me.regCode r = 0) (ha : ∀ a ∈ s.addrs i, a.addr % a.width = 0 ∧ (a.bytes ≠ 0 → s.reachable s.cur a = true))
    (hl : s.stampLate i = none) : s.checkIns i syl none = none := by
  have hn : (namedRegs i).all (fun r => decide (s.me.regCode r = 0)) = true := by
    simp only [List.all_eq_true, decide_eq_true_eq]; exact hr
  have hill : s.illegal i none = none := by simp [State.illegal, hs, hv, hrc, lowerOf]
  have h2 : (namedRegs i).find? (fun r => s.me.regCode r = 2) = none := by
    simp only [List.find?_eq_none, decide_eq_true_eq]; intro r h; simp [hr r h]
  have h3 : (namedRegs i).find? (fun r => s.me.regCode r = 3) = none := by
    simp only [List.find?_eq_none, decide_eq_true_eq]; intro r h; simp [hr r h]
  have h4 : (s.addrs i).find? (fun a => a.addr % a.width ≠ 0) = none := by
    simp only [List.find?_eq_none, decide_eq_true_eq]; intro a h; exact fun hc => hc (ha a h).1
  have h5 : (s.addrs i).find? (fun a => a.bytes ≠ 0 && !s.reachable s.cur a) = none := by
    simp only [List.find?_eq_none, Bool.and_eq_true, decide_eq_true_eq, Bool.not_eq_true', not_and, Bool.not_eq_false]
    intro a h hb; exact (ha a h).2 hb
  unfold State.checkIns
  simp only [hill, h2, h3, h4, h5, hl]

/-- Nothing stops a syllable that passes its checks, escalates no trap, keeps to the limit of writes in flight and does not hold. -/
theorem stopBefore_none (i : Instr) (s : State) (h : s.checkIns i (encode i) none = none) (ht : s.trapEsc i = none)
    (hf : s.me.inFlight + addsWrites i ≤ 32) (hh : s.holdStep i = none) : s.stopBefore i = none := by
  simp [State.stopBefore, h, ht, hh, Nat.not_lt.mpr hf]

/-- The registers that a syllable names are among those given. -/
def namesIn (i : Instr) (xs vs : List Nat) : Prop := ∀ r ∈ namedRegs i, (r.1 = 0 ∧ r.2 ∈ xs) ∨ (r.1 ≠ 0 ∧ r.2 ∈ vs)

theorem regCode_named (i : Instr) (s : State) (xs vs : List Nat) (hn : namesIn i xs vs) (h : s.named xs vs) :
    ∀ r ∈ namedRegs i, s.me.regCode r = 0 := by
  intro ⟨k, n⟩ hr
  rcases hn (k, n) hr with ⟨hk, hx⟩ | ⟨hk, hv⟩
  · simp only at hk hx; subst hk; exact regCode_x _ _ (h.1 n hx)
  · exact regCode_v _ _ _ hk (h.2 n hv)

/-- A register or predicate instruction that is fit has its effect. -/
theorem coxIssue_fit (i : Instr) (eff : State → State) (s : State) (xs vs : List Nat) (hn : namesIn i xs vs) (hs : s.badState i = none)
    (hv : s.badValue i = none) (hrc : s.badRecord i = none) (had : s.addrs i = []) (hw : s.waiting? i = none) (ht : s.trapEsc i = none)
    (hh : s.holdStep i = none) (ha : addsWrites i ≤ 1) (h : s.fit xs vs) : coxIssue i eff s = .next (eff s) := by
  refine coxIssue_issues i eff s ?_
  rcases h with h | ⟨hnm, hf⟩
  · exact Or.inl h
  · refine Or.inr (stopBefore_none i s (checkIns_none i s _ hs hv hrc (regCode_named i s xs vs hn hnm) ?_ ?_) ht (by omega) hh)
    · rw [had]; simp
    · simp [State.stampLate, hw]

/-- An instruction with one address that is fit has its effect. -/
theorem coxIssue_fitAt (i : Instr) (eff : State → State) (s : State) (xs vs : List Nat) (a : AddrReq) (hn : namesIn i xs vs) (hs : s.badState i = none)
    (hv : s.badValue i = none) (hrc : s.badRecord i = none) (had : s.addrs i = [a]) (hw : s.waiting? i = none) (ht : s.trapEsc i = none)
    (hh : s.holdStep i = none) (ha : addsWrites i ≤ 1) (h : s.fitAt xs vs a) : coxIssue i eff s = .next (eff s) := by
  refine coxIssue_issues i eff s ?_
  rcases h with h | ⟨hnm, hf, hal, hre⟩
  · exact Or.inl h
  · refine Or.inr (stopBefore_none i s (checkIns_none i s _ hs hv hrc (regCode_named i s xs vs hn hnm) ?_ ?_) ht (by omega) hh)
    · rw [had]; intro b hb; simp only [List.mem_singleton] at hb; subst hb; exact ⟨hal, hre⟩
    · simp [State.stampLate, hw]

end Sys2Proof.Machine
end

