-- ==== Sys2Proof/Laws/State.lean ====
section
/-! SUPPORT. What each update of the state leaves in each field: every field but its own stands. -/

namespace Sys2Proof.Machine

/-! ## setCore -/
@[simp] theorem setCore_now (s : State) (c : Nat) (v : Core) : (s.setCore c v).now = s.now := rfl
@[simp] theorem setCore_skew (s : State) (c : Nat) (v : Core) : (s.setCore c v).skew = s.skew := rfl
@[simp] theorem setCore_turns (s : State) (c : Nat) (v : Core) : (s.setCore c v).turns = s.turns := rfl
@[simp] theorem setCore_ev (s : State) (c : Nat) (v : Core) : (s.setCore c v).ev = s.ev := rfl
@[simp] theorem setCore_fresh (s : State) (c : Nat) (v : Core) : (s.setCore c v).fresh = s.fresh := rfl
@[simp] theorem setCore_cur (s : State) (c : Nat) (v : Core) : (s.setCore c v).cur = s.cur := rfl
@[simp] theorem setCore_curSlot (s : State) (c : Nat) (v : Core) : (s.setCore c v).curSlot = s.curSlot := rfl
@[simp] theorem setCore_bundle (s : State) (c : Nat) (v : Core) : (s.setCore c v).bundle = s.bundle := rfl
@[simp] theorem setCore_checked (s : State) (c : Nat) (v : Core) : (s.setCore c v).checked = s.checked := rfl
@[simp] theorem setCore_el (s : State) (c : Nat) (v : Core) : (s.setCore c v).el = s.el := rfl
@[simp] theorem setCore_mem (s : State) (c : Nat) (v : Core) : (s.setCore c v).mem = s.mem := rfl
@[simp] theorem setCore_teams (s : State) (c : Nat) (v : Core) : (s.setCore c v).teams = s.teams := rfl
@[simp] theorem setCore_acct (s : State) (c : Nat) (v : Core) : (s.setCore c v).acct = s.acct := rfl
@[simp] theorem setCore_rvq (s : State) (c : Nat) (v : Core) : (s.setCore c v).rvq = s.rvq := rfl
@[simp] theorem setCore_qnew (s : State) (c : Nat) (v : Core) : (s.setCore c v).qnew = s.qnew := rfl
@[simp] theorem setCore_qcfg (s : State) (c : Nat) (v : Core) : (s.setCore c v).qcfg = s.qcfg := rfl
@[simp] theorem setCore_launches (s : State) (c : Nat) (v : Core) : (s.setCore c v).launches = s.launches := rfl
@[simp] theorem setCore_drops (s : State) (c : Nat) (v : Core) : (s.setCore c v).drops = s.drops := rfl
@[simp] theorem setCore_ccache (s : State) (c : Nat) (v : Core) : (s.setCore c v).ccache = s.ccache := rfl
@[simp] theorem setCore_bar0 (s : State) (c : Nat) (v : Core) : (s.setCore c v).bar0 = s.bar0 := rfl
@[simp] theorem setCore_grantNew (s : State) (c : Nat) (v : Core) : (s.setCore c v).grantNew = s.grantNew := rfl
@[simp] theorem setCore_grant (s : State) (c : Nat) (v : Core) : (s.setCore c v).grant = s.grant := rfl
@[simp] theorem setCore_lndctl (s : State) (c : Nat) (v : Core) : (s.setCore c v).lndctl = s.lndctl := rfl
@[simp] theorem setCore_frzctl (s : State) (c : Nat) (v : Core) : (s.setCore c v).frzctl = s.frzctl := rfl
@[simp] theorem setCore_wrej (s : State) (c : Nat) (v : Core) : (s.setCore c v).wrej = s.wrej := rfl
@[simp] theorem setCore_flr (s : State) (c : Nat) (v : Core) : (s.setCore c v).flr = s.flr := rfl
@[simp] theorem setCore_intst (s : State) (c : Nat) (v : Core) : (s.setCore c v).intst = s.intst := rfl
@[simp] theorem setCore_inten (s : State) (c : Nat) (v : Core) : (s.setCore c v).inten = s.inten := rfl
@[simp] theorem setCore_wdog (s : State) (c : Nat) (v : Core) : (s.setCore c v).wdog = s.wdog := rfl
@[simp] theorem setCore_msix (s : State) (c : Nat) (v : Core) : (s.setCore c v).msix = s.msix := rfl
@[simp] theorem setCore_fq (s : State) (c : Nat) (v : Core) : (s.setCore c v).fq = s.fq := rfl
@[simp] theorem setCore_lost (s : State) (c : Nat) (v : Core) : (s.setCore c v).lost = s.lost := rfl
@[simp] theorem setCore_hostRead (s : State) (c : Nat) (v : Core) : (s.setCore c v).hostRead = s.hostRead := rfl
@[simp] theorem setCore_hostReqs (s : State) (c : Nat) (v : Core) : (s.setCore c v).hostReqs = s.hostReqs := rfl
@[simp] theorem setCore_hostTag (s : State) (c : Nat) (v : Core) : (s.setCore c v).hostTag = s.hostTag := rfl
@[simp] theorem setCore_mps (s : State) (c : Nat) (v : Core) : (s.setCore c v).mps = s.mps := rfl
@[simp] theorem setCore_mrrs (s : State) (c : Nat) (v : Core) : (s.setCore c v).mrrs = s.mrrs := rfl
@[simp] theorem setCore_trinvDone (s : State) (c : Nat) (v : Core) : (s.setCore c v).trinvDone = s.trinvDone := rfl
@[simp] theorem setCore_trinvTime (s : State) (c : Nat) (v : Core) : (s.setCore c v).trinvTime = s.trinvTime := rfl
@[simp] theorem setCore_trinvHeld (s : State) (c : Nat) (v : Core) : (s.setCore c v).trinvHeld = s.trinvHeld := rfl
@[simp] theorem setCore_trinvSpan (s : State) (c : Nat) (v : Core) : (s.setCore c v).trinvSpan = s.trinvSpan := rfl
@[simp] theorem setCore_reports (s : State) (c : Nat) (v : Core) : (s.setCore c v).reports = s.reports := rfl
@[simp] theorem setCore_ovf (s : State) (c : Nat) (v : Core) : (s.setCore c v).ovf = s.ovf := rfl
@[simp] theorem setCore_acc16 (s : State) (c : Nat) (v : Core) : (s.setCore c v).acc16 = s.acc16 := rfl
@[simp] theorem setCore_tick (s : State) (c : Nat) (v : Core) : (s.setCore c v).tick = s.tick := rfl
@[simp] theorem setCore_courseSteps (s : State) (c : Nat) (v : Core) : (s.setCore c v).courseSteps = s.courseSteps := rfl
@[simp] theorem setCore_cursor (s : State) (c : Nat) (v : Core) : (s.setCore c v).cursor = s.cursor := rfl
@[simp] theorem setCore_phase (s : State) (c : Nat) (v : Core) : (s.setCore c v).phase = s.phase := rfl
@[simp] theorem setCore_pendMode (s : State) (c : Nat) (v : Core) : (s.setCore c v).pendMode = s.pendMode := rfl
@[simp] theorem setCore_bv (s : State) (c : Nat) (v : Core) : (s.setCore c v).bv = s.bv := rfl
@[simp] theorem setCore_contribs (s : State) (c : Nat) (v : Core) : (s.setCore c v).contribs = s.contribs := rfl
@[simp] theorem setCore_riders (s : State) (c : Nat) (v : Core) : (s.setCore c v).riders = s.riders := rfl
@[simp] theorem setCore_nextId (s : State) (c : Nat) (v : Core) : (s.setCore c v).nextId = s.nextId := rfl
@[simp] theorem setCore_tlb (s : State) (c : Nat) (v : Core) : (s.setCore c v).tlb = s.tlb := rfl
@[simp] theorem setCore_walks (s : State) (c : Nat) (v : Core) : (s.setCore c v).walks = s.walks := rfl
@[simp] theorem setCore_streams (s : State) (c : Nat) (v : Core) : (s.setCore c v).streams = s.streams := rfl
@[simp] theorem setCore_waiting (s : State) (c : Nat) (v : Core) : (s.setCore c v).waiting = s.waiting := rfl
@[simp] theorem setCore_eccBad (s : State) (c : Nat) (v : Core) : (s.setCore c v).eccBad = s.eccBad := rfl
@[simp] theorem setCore_eccTime (s : State) (c : Nat) (v : Core) : (s.setCore c v).eccTime = s.eccTime := rfl
@[simp] theorem setCore_nodes (s : State) (c : Nat) (v : Core) : (s.setCore c v).nodes = s.nodes := rfl
@[simp] theorem setCore_xtiles (s : State) (c : Nat) (v : Core) : (s.setCore c v).xtiles = s.xtiles := rfl
@[simp] theorem setCore_xforms (s : State) (c : Nat) (v : Core) : (s.setCore c v).xforms = s.xforms := rfl
@[simp] theorem setCore_regions (s : State) (c : Nat) (v : Core) : (s.setCore c v).regions = s.regions := rfl
@[simp] theorem setCore_els (s : State) (c : Nat) (v : Core) : (s.setCore c v).els = s.els := rfl
@[simp] theorem setCore_fifos (s : State) (c : Nat) (v : Core) : (s.setCore c v).fifos = s.fifos := rfl
@[simp] theorem setCore_portWords (s : State) (c : Nat) (v : Core) : (s.setCore c v).portWords = s.portWords := rfl
@[simp] theorem setCore_portStop (s : State) (c : Nat) (v : Core) : (s.setCore c v).portStop = s.portStop := rfl
@[simp] theorem setCore_toks (s : State) (c : Nat) (v : Core) : (s.setCore c v).toks = s.toks := rfl
@[simp] theorem setCore_retime (s : State) (c : Nat) (v : Core) : (s.setCore c v).retime = s.retime := rfl
@[simp] theorem setCore_seqs (s : State) (c : Nat) (v : Core) : (s.setCore c v).seqs = s.seqs := rfl
@[simp] theorem setCore_oars (s : State) (c : Nat) (v : Core) : (s.setCore c v).oars = s.oars := rfl
@[simp] theorem setCore_hostLinkUp (s : State) (c : Nat) (v : Core) : (s.setCore c v).hostLinkUp = s.hostLinkUp := rfl
@[simp] theorem setCore_dieLinkUp (s : State) (c : Nat) (v : Core) : (s.setCore c v).dieLinkUp = s.dieLinkUp := rfl
@[simp] theorem setCore_dieRetrain (s : State) (c : Nat) (v : Core) : (s.setCore c v).dieRetrain = s.dieRetrain := rfl
@[simp] theorem setCore_dieRetries (s : State) (c : Nat) (v : Core) : (s.setCore c v).dieRetries = s.dieRetries := rfl
@[simp] theorem setCore_dieFlit (s : State) (c : Nat) (v : Core) : (s.setCore c v).dieFlit = s.dieFlit := rfl
@[simp] theorem setCore_dieSince (s : State) (c : Nat) (v : Core) : (s.setCore c v).dieSince = s.dieSince := rfl
@[simp] theorem setCore_boot (s : State) (c : Nat) (v : Core) : (s.setCore c v).boot = s.boot := rfl
@[simp] theorem setCore_fwsvn (s : State) (c : Nat) (v : Core) : (s.setCore c v).fwsvn = s.fwsvn := rfl
@[simp] theorem setCore_minSvn (s : State) (c : Nat) (v : Core) : (s.setCore c v).minSvn = s.minSvn := rfl
@[simp] theorem setCore_fuseKey (s : State) (c : Nat) (v : Core) : (s.setCore c v).fuseKey = s.fuseKey := rfl
@[simp] theorem setCore_meas0 (s : State) (c : Nat) (v : Core) : (s.setCore c v).meas0 = s.meas0 := rfl
@[simp] theorem setCore_meas1 (s : State) (c : Nat) (v : Core) : (s.setCore c v).meas1 = s.meas1 := rfl
@[simp] theorem setCore_nonce (s : State) (c : Nat) (v : Core) : (s.setCore c v).nonce = s.nonce := rfl
@[simp] theorem setCore_attest (s : State) (c : Nat) (v : Core) : (s.setCore c v).attest = s.attest := rfl
@[simp] theorem setCore_report (s : State) (c : Nat) (v : Core) : (s.setCore c v).report = s.report := rfl
@[simp] theorem setCore_sigUsed (s : State) (c : Nat) (v : Core) : (s.setCore c v).sigUsed = s.sigUsed := rfl
@[simp] theorem setCore_keySlots (s : State) (c : Nat) (v : Core) : (s.setCore c v).keySlots = s.keySlots := rfl
@[simp] theorem setCore_keyBusy (s : State) (c : Nat) (v : Core) : (s.setCore c v).keyBusy = s.keyBusy := rfl
@[simp] theorem setCore_cellCc (s : State) (c : Nat) (v : Core) : (s.setCore c v).cellCc = s.cellCc := rfl
@[simp] theorem setCore_cellMac (s : State) (c : Nat) (v : Core) : (s.setCore c v).cellMac = s.cellMac := rfl
@[simp] theorem setCore_pageGen (s : State) (c : Nat) (v : Core) : (s.setCore c v).pageGen = s.pageGen := rfl
@[simp] theorem setCore_treeCtr (s : State) (c : Nat) (v : Core) : (s.setCore c v).treeCtr = s.treeCtr := rfl
@[simp] theorem setCore_treeKey (s : State) (c : Nat) (v : Core) : (s.setCore c v).treeKey = s.treeKey := rfl
@[simp] theorem setCore_treeWait (s : State) (c : Nat) (v : Core) : (s.setCore c v).treeWait = s.treeWait := rfl
@[simp] theorem setCore_alarm (s : State) (c : Nat) (v : Core) : (s.setCore c v).alarm = s.alarm := rfl
@[simp] theorem setCore_islFreq (s : State) (c : Nat) (v : Core) : (s.setCore c v).islFreq = s.islFreq := rfl
@[simp] theorem setCore_islBudget (s : State) (c : Nat) (v : Core) : (s.setCore c v).islBudget = s.islBudget := rfl
@[simp] theorem setCore_islThrot (s : State) (c : Nat) (v : Core) : (s.setCore c v).islThrot = s.islThrot := rfl
@[simp] theorem setCore_islStamp (s : State) (c : Nat) (v : Core) : (s.setCore c v).islStamp = s.islStamp := rfl
@[simp] theorem setCore_islHold (s : State) (c : Nat) (v : Core) : (s.setCore c v).islHold = s.islHold := rfl
@[simp] theorem setCore_islFrom (s : State) (c : Nat) (v : Core) : (s.setCore c v).islFrom = s.islFrom := rfl
@[simp] theorem setCore_islCount (s : State) (c : Nat) (v : Core) : (s.setCore c v).islCount = s.islCount := rfl
@[simp] theorem setCore_islShown (s : State) (c : Nat) (v : Core) : (s.setCore c v).islShown = s.islShown := rfl
@[simp] theorem setCore_reassigned (s : State) (c : Nat) (v : Core) : (s.setCore c v).reassigned = s.reassigned := rfl
@[simp] theorem setCore_thermCap (s : State) (c : Nat) (v : Core) : (s.setCore c v).thermCap = s.thermCap := rfl

/-! ## modCore -/
@[simp] theorem modCore_now (s : State) (c : Nat) (f : Core → Core) : (s.modCore c f).now = s.now := rfl
@[simp] theorem modCore_skew (s : State) (c : Nat) (f : Core → Core) : (s.modCore c f).skew = s.skew := rfl
@[simp] theorem modCore_turns (s : State) (c : Nat) (f : Core → Core) : (s.modCore c f).turns = s.turns := rfl
@[simp] theorem modCore_ev (s : State) (c : Nat) (f : Core → Core) : (s.modCore c f).ev = s.ev := rfl
@[simp] theorem modCore_fresh (s : State) (c : Nat) (f : Core → Core) : (s.modCore c f).fresh = s.fresh := rfl
@[simp] theorem modCore_cur (s : State) (c : Nat) (f : Core → Core) : (s.modCore c f).cur = s.cur := rfl
@[simp] theorem modCore_curSlot (s : State) (c : Nat) (f : Core → Core) : (s.modCore c f).curSlot = s.curSlot := rfl
@[simp] theorem modCore_bundle (s : State) (c : Nat) (f : Core → Core) : (s.modCore c f).bundle = s.bundle := rfl
@[simp] theorem modCore_checked (s : State) (c : Nat) (f : Core → Core) : (s.modCore c f).checked = s.checked := rfl
@[simp] theorem modCore_el (s : State) (c : Nat) (f : Core → Core) : (s.modCore c f).el = s.el := rfl
@[simp] theorem modCore_mem (s : State) (c : Nat) (f : Core → Core) : (s.modCore c f).mem = s.mem := rfl
@[simp] theorem modCore_teams (s : State) (c : Nat) (f : Core → Core) : (s.modCore c f).teams = s.teams := rfl
@[simp] theorem modCore_acct (s : State) (c : Nat) (f : Core → Core) : (s.modCore c f).acct = s.acct := rfl
@[simp] theorem modCore_rvq (s : State) (c : Nat) (f : Core → Core) : (s.modCore c f).rvq = s.rvq := rfl
@[simp] theorem modCore_qnew (s : State) (c : Nat) (f : Core → Core) : (s.modCore c f).qnew = s.qnew := rfl
@[simp] theorem modCore_qcfg (s : State) (c : Nat) (f : Core → Core) : (s.modCore c f).qcfg = s.qcfg := rfl
@[simp] theorem modCore_launches (s : State) (c : Nat) (f : Core → Core) : (s.modCore c f).launches = s.launches := rfl
@[simp] theorem modCore_drops (s : State) (c : Nat) (f : Core → Core) : (s.modCore c f).drops = s.drops := rfl
@[simp] theorem modCore_ccache (s : State) (c : Nat) (f : Core → Core) : (s.modCore c f).ccache = s.ccache := rfl
@[simp] theorem modCore_bar0 (s : State) (c : Nat) (f : Core → Core) : (s.modCore c f).bar0 = s.bar0 := rfl
@[simp] theorem modCore_grantNew (s : State) (c : Nat) (f : Core → Core) : (s.modCore c f).grantNew = s.grantNew := rfl
@[simp] theorem modCore_grant (s : State) (c : Nat) (f : Core → Core) : (s.modCore c f).grant = s.grant := rfl
@[simp] theorem modCore_lndctl (s : State) (c : Nat) (f : Core → Core) : (s.modCore c f).lndctl = s.lndctl := rfl
@[simp] theorem modCore_frzctl (s : State) (c : Nat) (f : Core → Core) : (s.modCore c f).frzctl = s.frzctl := rfl
@[simp] theorem modCore_wrej (s : State) (c : Nat) (f : Core → Core) : (s.modCore c f).wrej = s.wrej := rfl
@[simp] theorem modCore_flr (s : State) (c : Nat) (f : Core → Core) : (s.modCore c f).flr = s.flr := rfl
@[simp] theorem modCore_intst (s : State) (c : Nat) (f : Core → Core) : (s.modCore c f).intst = s.intst := rfl
@[simp] theorem modCore_inten (s : State) (c : Nat) (f : Core → Core) : (s.modCore c f).inten = s.inten := rfl
@[simp] theorem modCore_wdog (s : State) (c : Nat) (f : Core → Core) : (s.modCore c f).wdog = s.wdog := rfl
@[simp] theorem modCore_msix (s : State) (c : Nat) (f : Core → Core) : (s.modCore c f).msix = s.msix := rfl
@[simp] theorem modCore_fq (s : State) (c : Nat) (f : Core → Core) : (s.modCore c f).fq = s.fq := rfl
@[simp] theorem modCore_lost (s : State) (c : Nat) (f : Core → Core) : (s.modCore c f).lost = s.lost := rfl
@[simp] theorem modCore_hostRead (s : State) (c : Nat) (f : Core → Core) : (s.modCore c f).hostRead = s.hostRead := rfl
@[simp] theorem modCore_hostReqs (s : State) (c : Nat) (f : Core → Core) : (s.modCore c f).hostReqs = s.hostReqs := rfl
@[simp] theorem modCore_hostTag (s : State) (c : Nat) (f : Core → Core) : (s.modCore c f).hostTag = s.hostTag := rfl
@[simp] theorem modCore_mps (s : State) (c : Nat) (f : Core → Core) : (s.modCore c f).mps = s.mps := rfl
@[simp] theorem modCore_mrrs (s : State) (c : Nat) (f : Core → Core) : (s.modCore c f).mrrs = s.mrrs := rfl
@[simp] theorem modCore_trinvDone (s : State) (c : Nat) (f : Core → Core) : (s.modCore c f).trinvDone = s.trinvDone := rfl
@[simp] theorem modCore_trinvTime (s : State) (c : Nat) (f : Core → Core) : (s.modCore c f).trinvTime = s.trinvTime := rfl
@[simp] theorem modCore_trinvHeld (s : State) (c : Nat) (f : Core → Core) : (s.modCore c f).trinvHeld = s.trinvHeld := rfl
@[simp] theorem modCore_trinvSpan (s : State) (c : Nat) (f : Core → Core) : (s.modCore c f).trinvSpan = s.trinvSpan := rfl
@[simp] theorem modCore_reports (s : State) (c : Nat) (f : Core → Core) : (s.modCore c f).reports = s.reports := rfl
@[simp] theorem modCore_ovf (s : State) (c : Nat) (f : Core → Core) : (s.modCore c f).ovf = s.ovf := rfl
@[simp] theorem modCore_acc16 (s : State) (c : Nat) (f : Core → Core) : (s.modCore c f).acc16 = s.acc16 := rfl
@[simp] theorem modCore_tick (s : State) (c : Nat) (f : Core → Core) : (s.modCore c f).tick = s.tick := rfl
@[simp] theorem modCore_courseSteps (s : State) (c : Nat) (f : Core → Core) : (s.modCore c f).courseSteps = s.courseSteps := rfl
@[simp] theorem modCore_cursor (s : State) (c : Nat) (f : Core → Core) : (s.modCore c f).cursor = s.cursor := rfl
@[simp] theorem modCore_phase (s : State) (c : Nat) (f : Core → Core) : (s.modCore c f).phase = s.phase := rfl
@[simp] theorem modCore_pendMode (s : State) (c : Nat) (f : Core → Core) : (s.modCore c f).pendMode = s.pendMode := rfl
@[simp] theorem modCore_bv (s : State) (c : Nat) (f : Core → Core) : (s.modCore c f).bv = s.bv := rfl
@[simp] theorem modCore_contribs (s : State) (c : Nat) (f : Core → Core) : (s.modCore c f).contribs = s.contribs := rfl
@[simp] theorem modCore_riders (s : State) (c : Nat) (f : Core → Core) : (s.modCore c f).riders = s.riders := rfl
@[simp] theorem modCore_nextId (s : State) (c : Nat) (f : Core → Core) : (s.modCore c f).nextId = s.nextId := rfl
@[simp] theorem modCore_tlb (s : State) (c : Nat) (f : Core → Core) : (s.modCore c f).tlb = s.tlb := rfl
@[simp] theorem modCore_walks (s : State) (c : Nat) (f : Core → Core) : (s.modCore c f).walks = s.walks := rfl
@[simp] theorem modCore_streams (s : State) (c : Nat) (f : Core → Core) : (s.modCore c f).streams = s.streams := rfl
@[simp] theorem modCore_waiting (s : State) (c : Nat) (f : Core → Core) : (s.modCore c f).waiting = s.waiting := rfl
@[simp] theorem modCore_eccBad (s : State) (c : Nat) (f : Core → Core) : (s.modCore c f).eccBad = s.eccBad := rfl
@[simp] theorem modCore_eccTime (s : State) (c : Nat) (f : Core → Core) : (s.modCore c f).eccTime = s.eccTime := rfl
@[simp] theorem modCore_nodes (s : State) (c : Nat) (f : Core → Core) : (s.modCore c f).nodes = s.nodes := rfl
@[simp] theorem modCore_xtiles (s : State) (c : Nat) (f : Core → Core) : (s.modCore c f).xtiles = s.xtiles := rfl
@[simp] theorem modCore_xforms (s : State) (c : Nat) (f : Core → Core) : (s.modCore c f).xforms = s.xforms := rfl
@[simp] theorem modCore_regions (s : State) (c : Nat) (f : Core → Core) : (s.modCore c f).regions = s.regions := rfl
@[simp] theorem modCore_els (s : State) (c : Nat) (f : Core → Core) : (s.modCore c f).els = s.els := rfl
@[simp] theorem modCore_fifos (s : State) (c : Nat) (f : Core → Core) : (s.modCore c f).fifos = s.fifos := rfl
@[simp] theorem modCore_portWords (s : State) (c : Nat) (f : Core → Core) : (s.modCore c f).portWords = s.portWords := rfl
@[simp] theorem modCore_portStop (s : State) (c : Nat) (f : Core → Core) : (s.modCore c f).portStop = s.portStop := rfl
@[simp] theorem modCore_toks (s : State) (c : Nat) (f : Core → Core) : (s.modCore c f).toks = s.toks := rfl
@[simp] theorem modCore_retime (s : State) (c : Nat) (f : Core → Core) : (s.modCore c f).retime = s.retime := rfl
@[simp] theorem modCore_seqs (s : State) (c : Nat) (f : Core → Core) : (s.modCore c f).seqs = s.seqs := rfl
@[simp] theorem modCore_oars (s : State) (c : Nat) (f : Core → Core) : (s.modCore c f).oars = s.oars := rfl
@[simp] theorem modCore_hostLinkUp (s : State) (c : Nat) (f : Core → Core) : (s.modCore c f).hostLinkUp = s.hostLinkUp := rfl
@[simp] theorem modCore_dieLinkUp (s : State) (c : Nat) (f : Core → Core) : (s.modCore c f).dieLinkUp = s.dieLinkUp := rfl
@[simp] theorem modCore_dieRetrain (s : State) (c : Nat) (f : Core → Core) : (s.modCore c f).dieRetrain = s.dieRetrain := rfl
@[simp] theorem modCore_dieRetries (s : State) (c : Nat) (f : Core → Core) : (s.modCore c f).dieRetries = s.dieRetries := rfl
@[simp] theorem modCore_dieFlit (s : State) (c : Nat) (f : Core → Core) : (s.modCore c f).dieFlit = s.dieFlit := rfl
@[simp] theorem modCore_dieSince (s : State) (c : Nat) (f : Core → Core) : (s.modCore c f).dieSince = s.dieSince := rfl
@[simp] theorem modCore_boot (s : State) (c : Nat) (f : Core → Core) : (s.modCore c f).boot = s.boot := rfl
@[simp] theorem modCore_fwsvn (s : State) (c : Nat) (f : Core → Core) : (s.modCore c f).fwsvn = s.fwsvn := rfl
@[simp] theorem modCore_minSvn (s : State) (c : Nat) (f : Core → Core) : (s.modCore c f).minSvn = s.minSvn := rfl
@[simp] theorem modCore_fuseKey (s : State) (c : Nat) (f : Core → Core) : (s.modCore c f).fuseKey = s.fuseKey := rfl
@[simp] theorem modCore_meas0 (s : State) (c : Nat) (f : Core → Core) : (s.modCore c f).meas0 = s.meas0 := rfl
@[simp] theorem modCore_meas1 (s : State) (c : Nat) (f : Core → Core) : (s.modCore c f).meas1 = s.meas1 := rfl
@[simp] theorem modCore_nonce (s : State) (c : Nat) (f : Core → Core) : (s.modCore c f).nonce = s.nonce := rfl
@[simp] theorem modCore_attest (s : State) (c : Nat) (f : Core → Core) : (s.modCore c f).attest = s.attest := rfl
@[simp] theorem modCore_report (s : State) (c : Nat) (f : Core → Core) : (s.modCore c f).report = s.report := rfl
@[simp] theorem modCore_sigUsed (s : State) (c : Nat) (f : Core → Core) : (s.modCore c f).sigUsed = s.sigUsed := rfl
@[simp] theorem modCore_keySlots (s : State) (c : Nat) (f : Core → Core) : (s.modCore c f).keySlots = s.keySlots := rfl
@[simp] theorem modCore_keyBusy (s : State) (c : Nat) (f : Core → Core) : (s.modCore c f).keyBusy = s.keyBusy := rfl
@[simp] theorem modCore_cellCc (s : State) (c : Nat) (f : Core → Core) : (s.modCore c f).cellCc = s.cellCc := rfl
@[simp] theorem modCore_cellMac (s : State) (c : Nat) (f : Core → Core) : (s.modCore c f).cellMac = s.cellMac := rfl
@[simp] theorem modCore_pageGen (s : State) (c : Nat) (f : Core → Core) : (s.modCore c f).pageGen = s.pageGen := rfl
@[simp] theorem modCore_treeCtr (s : State) (c : Nat) (f : Core → Core) : (s.modCore c f).treeCtr = s.treeCtr := rfl
@[simp] theorem modCore_treeKey (s : State) (c : Nat) (f : Core → Core) : (s.modCore c f).treeKey = s.treeKey := rfl
@[simp] theorem modCore_treeWait (s : State) (c : Nat) (f : Core → Core) : (s.modCore c f).treeWait = s.treeWait := rfl
@[simp] theorem modCore_alarm (s : State) (c : Nat) (f : Core → Core) : (s.modCore c f).alarm = s.alarm := rfl
@[simp] theorem modCore_islFreq (s : State) (c : Nat) (f : Core → Core) : (s.modCore c f).islFreq = s.islFreq := rfl
@[simp] theorem modCore_islBudget (s : State) (c : Nat) (f : Core → Core) : (s.modCore c f).islBudget = s.islBudget := rfl
@[simp] theorem modCore_islThrot (s : State) (c : Nat) (f : Core → Core) : (s.modCore c f).islThrot = s.islThrot := rfl
@[simp] theorem modCore_islStamp (s : State) (c : Nat) (f : Core → Core) : (s.modCore c f).islStamp = s.islStamp := rfl
@[simp] theorem modCore_islHold (s : State) (c : Nat) (f : Core → Core) : (s.modCore c f).islHold = s.islHold := rfl
@[simp] theorem modCore_islFrom (s : State) (c : Nat) (f : Core → Core) : (s.modCore c f).islFrom = s.islFrom := rfl
@[simp] theorem modCore_islCount (s : State) (c : Nat) (f : Core → Core) : (s.modCore c f).islCount = s.islCount := rfl
@[simp] theorem modCore_islShown (s : State) (c : Nat) (f : Core → Core) : (s.modCore c f).islShown = s.islShown := rfl
@[simp] theorem modCore_reassigned (s : State) (c : Nat) (f : Core → Core) : (s.modCore c f).reassigned = s.reassigned := rfl
@[simp] theorem modCore_thermCap (s : State) (c : Nat) (f : Core → Core) : (s.modCore c f).thermCap = s.thermCap := rfl

/-! ## modMe -/
@[simp] theorem modMe_now (s : State) (f : Core → Core) : (s.modMe f).now = s.now := rfl
@[simp] theorem modMe_skew (s : State) (f : Core → Core) : (s.modMe f).skew = s.skew := rfl
@[simp] theorem modMe_turns (s : State) (f : Core → Core) : (s.modMe f).turns = s.turns := rfl
@[simp] theorem modMe_ev (s : State) (f : Core → Core) : (s.modMe f).ev = s.ev := rfl
@[simp] theorem modMe_fresh (s : State) (f : Core → Core) : (s.modMe f).fresh = s.fresh := rfl
@[simp] theorem modMe_cur (s : State) (f : Core → Core) : (s.modMe f).cur = s.cur := rfl
@[simp] theorem modMe_curSlot (s : State) (f : Core → Core) : (s.modMe f).curSlot = s.curSlot := rfl
@[simp] theorem modMe_bundle (s : State) (f : Core → Core) : (s.modMe f).bundle = s.bundle := rfl
@[simp] theorem modMe_checked (s : State) (f : Core → Core) : (s.modMe f).checked = s.checked := rfl
@[simp] theorem modMe_el (s : State) (f : Core → Core) : (s.modMe f).el = s.el := rfl
@[simp] theorem modMe_mem (s : State) (f : Core → Core) : (s.modMe f).mem = s.mem := rfl
@[simp] theorem modMe_teams (s : State) (f : Core → Core) : (s.modMe f).teams = s.teams := rfl
@[simp] theorem modMe_acct (s : State) (f : Core → Core) : (s.modMe f).acct = s.acct := rfl
@[simp] theorem modMe_rvq (s : State) (f : Core → Core) : (s.modMe f).rvq = s.rvq := rfl
@[simp] theorem modMe_qnew (s : State) (f : Core → Core) : (s.modMe f).qnew = s.qnew := rfl
@[simp] theorem modMe_qcfg (s : State) (f : Core → Core) : (s.modMe f).qcfg = s.qcfg := rfl
@[simp] theorem modMe_launches (s : State) (f : Core → Core) : (s.modMe f).launches = s.launches := rfl
@[simp] theorem modMe_drops (s : State) (f : Core → Core) : (s.modMe f).drops = s.drops := rfl
@[simp] theorem modMe_ccache (s : State) (f : Core → Core) : (s.modMe f).ccache = s.ccache := rfl
@[simp] theorem modMe_bar0 (s : State) (f : Core → Core) : (s.modMe f).bar0 = s.bar0 := rfl
@[simp] theorem modMe_grantNew (s : State) (f : Core → Core) : (s.modMe f).grantNew = s.grantNew := rfl
@[simp] theorem modMe_grant (s : State) (f : Core → Core) : (s.modMe f).grant = s.grant := rfl
@[simp] theorem modMe_lndctl (s : State) (f : Core → Core) : (s.modMe f).lndctl = s.lndctl := rfl
@[simp] theorem modMe_frzctl (s : State) (f : Core → Core) : (s.modMe f).frzctl = s.frzctl := rfl
@[simp] theorem modMe_wrej (s : State) (f : Core → Core) : (s.modMe f).wrej = s.wrej := rfl
@[simp] theorem modMe_flr (s : State) (f : Core → Core) : (s.modMe f).flr = s.flr := rfl
@[simp] theorem modMe_intst (s : State) (f : Core → Core) : (s.modMe f).intst = s.intst := rfl
@[simp] theorem modMe_inten (s : State) (f : Core → Core) : (s.modMe f).inten = s.inten := rfl
@[simp] theorem modMe_wdog (s : State) (f : Core → Core) : (s.modMe f).wdog = s.wdog := rfl
@[simp] theorem modMe_msix (s : State) (f : Core → Core) : (s.modMe f).msix = s.msix := rfl
@[simp] theorem modMe_fq (s : State) (f : Core → Core) : (s.modMe f).fq = s.fq := rfl
@[simp] theorem modMe_lost (s : State) (f : Core → Core) : (s.modMe f).lost = s.lost := rfl
@[simp] theorem modMe_hostRead (s : State) (f : Core → Core) : (s.modMe f).hostRead = s.hostRead := rfl
@[simp] theorem modMe_hostReqs (s : State) (f : Core → Core) : (s.modMe f).hostReqs = s.hostReqs := rfl
@[simp] theorem modMe_hostTag (s : State) (f : Core → Core) : (s.modMe f).hostTag = s.hostTag := rfl
@[simp] theorem modMe_mps (s : State) (f : Core → Core) : (s.modMe f).mps = s.mps := rfl
@[simp] theorem modMe_mrrs (s : State) (f : Core → Core) : (s.modMe f).mrrs = s.mrrs := rfl
@[simp] theorem modMe_trinvDone (s : State) (f : Core → Core) : (s.modMe f).trinvDone = s.trinvDone := rfl
@[simp] theorem modMe_trinvTime (s : State) (f : Core → Core) : (s.modMe f).trinvTime = s.trinvTime := rfl
@[simp] theorem modMe_trinvHeld (s : State) (f : Core → Core) : (s.modMe f).trinvHeld = s.trinvHeld := rfl
@[simp] theorem modMe_trinvSpan (s : State) (f : Core → Core) : (s.modMe f).trinvSpan = s.trinvSpan := rfl
@[simp] theorem modMe_reports (s : State) (f : Core → Core) : (s.modMe f).reports = s.reports := rfl
@[simp] theorem modMe_ovf (s : State) (f : Core → Core) : (s.modMe f).ovf = s.ovf := rfl
@[simp] theorem modMe_acc16 (s : State) (f : Core → Core) : (s.modMe f).acc16 = s.acc16 := rfl
@[simp] theorem modMe_tick (s : State) (f : Core → Core) : (s.modMe f).tick = s.tick := rfl
@[simp] theorem modMe_courseSteps (s : State) (f : Core → Core) : (s.modMe f).courseSteps = s.courseSteps := rfl
@[simp] theorem modMe_cursor (s : State) (f : Core → Core) : (s.modMe f).cursor = s.cursor := rfl
@[simp] theorem modMe_phase (s : State) (f : Core → Core) : (s.modMe f).phase = s.phase := rfl
@[simp] theorem modMe_pendMode (s : State) (f : Core → Core) : (s.modMe f).pendMode = s.pendMode := rfl
@[simp] theorem modMe_bv (s : State) (f : Core → Core) : (s.modMe f).bv = s.bv := rfl
@[simp] theorem modMe_contribs (s : State) (f : Core → Core) : (s.modMe f).contribs = s.contribs := rfl
@[simp] theorem modMe_riders (s : State) (f : Core → Core) : (s.modMe f).riders = s.riders := rfl
@[simp] theorem modMe_nextId (s : State) (f : Core → Core) : (s.modMe f).nextId = s.nextId := rfl
@[simp] theorem modMe_tlb (s : State) (f : Core → Core) : (s.modMe f).tlb = s.tlb := rfl
@[simp] theorem modMe_walks (s : State) (f : Core → Core) : (s.modMe f).walks = s.walks := rfl
@[simp] theorem modMe_streams (s : State) (f : Core → Core) : (s.modMe f).streams = s.streams := rfl
@[simp] theorem modMe_waiting (s : State) (f : Core → Core) : (s.modMe f).waiting = s.waiting := rfl
@[simp] theorem modMe_eccBad (s : State) (f : Core → Core) : (s.modMe f).eccBad = s.eccBad := rfl
@[simp] theorem modMe_eccTime (s : State) (f : Core → Core) : (s.modMe f).eccTime = s.eccTime := rfl
@[simp] theorem modMe_nodes (s : State) (f : Core → Core) : (s.modMe f).nodes = s.nodes := rfl
@[simp] theorem modMe_xtiles (s : State) (f : Core → Core) : (s.modMe f).xtiles = s.xtiles := rfl
@[simp] theorem modMe_xforms (s : State) (f : Core → Core) : (s.modMe f).xforms = s.xforms := rfl
@[simp] theorem modMe_regions (s : State) (f : Core → Core) : (s.modMe f).regions = s.regions := rfl
@[simp] theorem modMe_els (s : State) (f : Core → Core) : (s.modMe f).els = s.els := rfl
@[simp] theorem modMe_fifos (s : State) (f : Core → Core) : (s.modMe f).fifos = s.fifos := rfl
@[simp] theorem modMe_portWords (s : State) (f : Core → Core) : (s.modMe f).portWords = s.portWords := rfl
@[simp] theorem modMe_portStop (s : State) (f : Core → Core) : (s.modMe f).portStop = s.portStop := rfl
@[simp] theorem modMe_toks (s : State) (f : Core → Core) : (s.modMe f).toks = s.toks := rfl
@[simp] theorem modMe_retime (s : State) (f : Core → Core) : (s.modMe f).retime = s.retime := rfl
@[simp] theorem modMe_seqs (s : State) (f : Core → Core) : (s.modMe f).seqs = s.seqs := rfl
@[simp] theorem modMe_oars (s : State) (f : Core → Core) : (s.modMe f).oars = s.oars := rfl
@[simp] theorem modMe_hostLinkUp (s : State) (f : Core → Core) : (s.modMe f).hostLinkUp = s.hostLinkUp := rfl
@[simp] theorem modMe_dieLinkUp (s : State) (f : Core → Core) : (s.modMe f).dieLinkUp = s.dieLinkUp := rfl
@[simp] theorem modMe_dieRetrain (s : State) (f : Core → Core) : (s.modMe f).dieRetrain = s.dieRetrain := rfl
@[simp] theorem modMe_dieRetries (s : State) (f : Core → Core) : (s.modMe f).dieRetries = s.dieRetries := rfl
@[simp] theorem modMe_dieFlit (s : State) (f : Core → Core) : (s.modMe f).dieFlit = s.dieFlit := rfl
@[simp] theorem modMe_dieSince (s : State) (f : Core → Core) : (s.modMe f).dieSince = s.dieSince := rfl
@[simp] theorem modMe_boot (s : State) (f : Core → Core) : (s.modMe f).boot = s.boot := rfl
@[simp] theorem modMe_fwsvn (s : State) (f : Core → Core) : (s.modMe f).fwsvn = s.fwsvn := rfl
@[simp] theorem modMe_minSvn (s : State) (f : Core → Core) : (s.modMe f).minSvn = s.minSvn := rfl
@[simp] theorem modMe_fuseKey (s : State) (f : Core → Core) : (s.modMe f).fuseKey = s.fuseKey := rfl
@[simp] theorem modMe_meas0 (s : State) (f : Core → Core) : (s.modMe f).meas0 = s.meas0 := rfl
@[simp] theorem modMe_meas1 (s : State) (f : Core → Core) : (s.modMe f).meas1 = s.meas1 := rfl
@[simp] theorem modMe_nonce (s : State) (f : Core → Core) : (s.modMe f).nonce = s.nonce := rfl
@[simp] theorem modMe_attest (s : State) (f : Core → Core) : (s.modMe f).attest = s.attest := rfl
@[simp] theorem modMe_report (s : State) (f : Core → Core) : (s.modMe f).report = s.report := rfl
@[simp] theorem modMe_sigUsed (s : State) (f : Core → Core) : (s.modMe f).sigUsed = s.sigUsed := rfl
@[simp] theorem modMe_keySlots (s : State) (f : Core → Core) : (s.modMe f).keySlots = s.keySlots := rfl
@[simp] theorem modMe_keyBusy (s : State) (f : Core → Core) : (s.modMe f).keyBusy = s.keyBusy := rfl
@[simp] theorem modMe_cellCc (s : State) (f : Core → Core) : (s.modMe f).cellCc = s.cellCc := rfl
@[simp] theorem modMe_cellMac (s : State) (f : Core → Core) : (s.modMe f).cellMac = s.cellMac := rfl
@[simp] theorem modMe_pageGen (s : State) (f : Core → Core) : (s.modMe f).pageGen = s.pageGen := rfl
@[simp] theorem modMe_treeCtr (s : State) (f : Core → Core) : (s.modMe f).treeCtr = s.treeCtr := rfl
@[simp] theorem modMe_treeKey (s : State) (f : Core → Core) : (s.modMe f).treeKey = s.treeKey := rfl
@[simp] theorem modMe_treeWait (s : State) (f : Core → Core) : (s.modMe f).treeWait = s.treeWait := rfl
@[simp] theorem modMe_alarm (s : State) (f : Core → Core) : (s.modMe f).alarm = s.alarm := rfl
@[simp] theorem modMe_islFreq (s : State) (f : Core → Core) : (s.modMe f).islFreq = s.islFreq := rfl
@[simp] theorem modMe_islBudget (s : State) (f : Core → Core) : (s.modMe f).islBudget = s.islBudget := rfl
@[simp] theorem modMe_islThrot (s : State) (f : Core → Core) : (s.modMe f).islThrot = s.islThrot := rfl
@[simp] theorem modMe_islStamp (s : State) (f : Core → Core) : (s.modMe f).islStamp = s.islStamp := rfl
@[simp] theorem modMe_islHold (s : State) (f : Core → Core) : (s.modMe f).islHold = s.islHold := rfl
@[simp] theorem modMe_islFrom (s : State) (f : Core → Core) : (s.modMe f).islFrom = s.islFrom := rfl
@[simp] theorem modMe_islCount (s : State) (f : Core → Core) : (s.modMe f).islCount = s.islCount := rfl
@[simp] theorem modMe_islShown (s : State) (f : Core → Core) : (s.modMe f).islShown = s.islShown := rfl
@[simp] theorem modMe_reassigned (s : State) (f : Core → Core) : (s.modMe f).reassigned = s.reassigned := rfl
@[simp] theorem modMe_thermCap (s : State) (f : Core → Core) : (s.modMe f).thermCap = s.thermCap := rfl

/-! ## post -/
@[simp] theorem post_now (s : State) (i : Instr) (a : List Nat) : (s.post i a).now = s.now := rfl
@[simp] theorem post_skew (s : State) (i : Instr) (a : List Nat) : (s.post i a).skew = s.skew := rfl
@[simp] theorem post_ev (s : State) (i : Instr) (a : List Nat) : (s.post i a).ev = s.ev := rfl
@[simp] theorem post_fresh (s : State) (i : Instr) (a : List Nat) : (s.post i a).fresh = s.fresh := rfl
@[simp] theorem post_cur (s : State) (i : Instr) (a : List Nat) : (s.post i a).cur = s.cur := rfl
@[simp] theorem post_curSlot (s : State) (i : Instr) (a : List Nat) : (s.post i a).curSlot = s.curSlot := rfl
@[simp] theorem post_bundle (s : State) (i : Instr) (a : List Nat) : (s.post i a).bundle = s.bundle := rfl
@[simp] theorem post_checked (s : State) (i : Instr) (a : List Nat) : (s.post i a).checked = s.checked := rfl
@[simp] theorem post_el (s : State) (i : Instr) (a : List Nat) : (s.post i a).el = s.el := rfl
@[simp] theorem post_mem (s : State) (i : Instr) (a : List Nat) : (s.post i a).mem = s.mem := rfl
@[simp] theorem post_cores (s : State) (i : Instr) (a : List Nat) : (s.post i a).cores = s.cores := rfl
@[simp] theorem post_teams (s : State) (i : Instr) (a : List Nat) : (s.post i a).teams = s.teams := rfl
@[simp] theorem post_acct (s : State) (i : Instr) (a : List Nat) : (s.post i a).acct = s.acct := rfl
@[simp] theorem post_rvq (s : State) (i : Instr) (a : List Nat) : (s.post i a).rvq = s.rvq := rfl
@[simp] theorem post_qnew (s : State) (i : Instr) (a : List Nat) : (s.post i a).qnew = s.qnew := rfl
@[simp] theorem post_qcfg (s : State) (i : Instr) (a : List Nat) : (s.post i a).qcfg = s.qcfg := rfl
@[simp] theorem post_launches (s : State) (i : Instr) (a : List Nat) : (s.post i a).launches = s.launches := rfl
@[simp] theorem post_drops (s : State) (i : Instr) (a : List Nat) : (s.post i a).drops = s.drops := rfl
@[simp] theorem post_ccache (s : State) (i : Instr) (a : List Nat) : (s.post i a).ccache = s.ccache := rfl
@[simp] theorem post_bar0 (s : State) (i : Instr) (a : List Nat) : (s.post i a).bar0 = s.bar0 := rfl
@[simp] theorem post_grantNew (s : State) (i : Instr) (a : List Nat) : (s.post i a).grantNew = s.grantNew := rfl
@[simp] theorem post_grant (s : State) (i : Instr) (a : List Nat) : (s.post i a).grant = s.grant := rfl
@[simp] theorem post_lndctl (s : State) (i : Instr) (a : List Nat) : (s.post i a).lndctl = s.lndctl := rfl
@[simp] theorem post_frzctl (s : State) (i : Instr) (a : List Nat) : (s.post i a).frzctl = s.frzctl := rfl
@[simp] theorem post_wrej (s : State) (i : Instr) (a : List Nat) : (s.post i a).wrej = s.wrej := rfl
@[simp] theorem post_flr (s : State) (i : Instr) (a : List Nat) : (s.post i a).flr = s.flr := rfl
@[simp] theorem post_intst (s : State) (i : Instr) (a : List Nat) : (s.post i a).intst = s.intst := rfl
@[simp] theorem post_inten (s : State) (i : Instr) (a : List Nat) : (s.post i a).inten = s.inten := rfl
@[simp] theorem post_wdog (s : State) (i : Instr) (a : List Nat) : (s.post i a).wdog = s.wdog := rfl
@[simp] theorem post_msix (s : State) (i : Instr) (a : List Nat) : (s.post i a).msix = s.msix := rfl
@[simp] theorem post_fq (s : State) (i : Instr) (a : List Nat) : (s.post i a).fq = s.fq := rfl
@[simp] theorem post_lost (s : State) (i : Instr) (a : List Nat) : (s.post i a).lost = s.lost := rfl
@[simp] theorem post_hostRead (s : State) (i : Instr) (a : List Nat) : (s.post i a).hostRead = s.hostRead := rfl
@[simp] theorem post_hostReqs (s : State) (i : Instr) (a : List Nat) : (s.post i a).hostReqs = s.hostReqs := rfl
@[simp] theorem post_hostTag (s : State) (i : Instr) (a : List Nat) : (s.post i a).hostTag = s.hostTag := rfl
@[simp] theorem post_mps (s : State) (i : Instr) (a : List Nat) : (s.post i a).mps = s.mps := rfl
@[simp] theorem post_mrrs (s : State) (i : Instr) (a : List Nat) : (s.post i a).mrrs = s.mrrs := rfl
@[simp] theorem post_trinvDone (s : State) (i : Instr) (a : List Nat) : (s.post i a).trinvDone = s.trinvDone := rfl
@[simp] theorem post_trinvTime (s : State) (i : Instr) (a : List Nat) : (s.post i a).trinvTime = s.trinvTime := rfl
@[simp] theorem post_trinvHeld (s : State) (i : Instr) (a : List Nat) : (s.post i a).trinvHeld = s.trinvHeld := rfl
@[simp] theorem post_trinvSpan (s : State) (i : Instr) (a : List Nat) : (s.post i a).trinvSpan = s.trinvSpan := rfl
@[simp] theorem post_reports (s : State) (i : Instr) (a : List Nat) : (s.post i a).reports = s.reports := rfl
@[simp] theorem post_ovf (s : State) (i : Instr) (a : List Nat) : (s.post i a).ovf = s.ovf := rfl
@[simp] theorem post_acc16 (s : State) (i : Instr) (a : List Nat) : (s.post i a).acc16 = s.acc16 := rfl
@[simp] theorem post_tick (s : State) (i : Instr) (a : List Nat) : (s.post i a).tick = s.tick := rfl
@[simp] theorem post_courseSteps (s : State) (i : Instr) (a : List Nat) : (s.post i a).courseSteps = s.courseSteps := rfl
@[simp] theorem post_cursor (s : State) (i : Instr) (a : List Nat) : (s.post i a).cursor = s.cursor := rfl
@[simp] theorem post_phase (s : State) (i : Instr) (a : List Nat) : (s.post i a).phase = s.phase := rfl
@[simp] theorem post_pendMode (s : State) (i : Instr) (a : List Nat) : (s.post i a).pendMode = s.pendMode := rfl
@[simp] theorem post_bv (s : State) (i : Instr) (a : List Nat) : (s.post i a).bv = s.bv := rfl
@[simp] theorem post_contribs (s : State) (i : Instr) (a : List Nat) : (s.post i a).contribs = s.contribs := rfl
@[simp] theorem post_riders (s : State) (i : Instr) (a : List Nat) : (s.post i a).riders = s.riders := rfl
@[simp] theorem post_nextId (s : State) (i : Instr) (a : List Nat) : (s.post i a).nextId = s.nextId := rfl
@[simp] theorem post_tlb (s : State) (i : Instr) (a : List Nat) : (s.post i a).tlb = s.tlb := rfl
@[simp] theorem post_walks (s : State) (i : Instr) (a : List Nat) : (s.post i a).walks = s.walks := rfl
@[simp] theorem post_streams (s : State) (i : Instr) (a : List Nat) : (s.post i a).streams = s.streams := rfl
@[simp] theorem post_waiting (s : State) (i : Instr) (a : List Nat) : (s.post i a).waiting = s.waiting := rfl
@[simp] theorem post_eccBad (s : State) (i : Instr) (a : List Nat) : (s.post i a).eccBad = s.eccBad := rfl
@[simp] theorem post_eccTime (s : State) (i : Instr) (a : List Nat) : (s.post i a).eccTime = s.eccTime := rfl
@[simp] theorem post_nodes (s : State) (i : Instr) (a : List Nat) : (s.post i a).nodes = s.nodes := rfl
@[simp] theorem post_xtiles (s : State) (i : Instr) (a : List Nat) : (s.post i a).xtiles = s.xtiles := rfl
@[simp] theorem post_xforms (s : State) (i : Instr) (a : List Nat) : (s.post i a).xforms = s.xforms := rfl
@[simp] theorem post_regions (s : State) (i : Instr) (a : List Nat) : (s.post i a).regions = s.regions := rfl
@[simp] theorem post_els (s : State) (i : Instr) (a : List Nat) : (s.post i a).els = s.els := rfl
@[simp] theorem post_fifos (s : State) (i : Instr) (a : List Nat) : (s.post i a).fifos = s.fifos := rfl
@[simp] theorem post_portWords (s : State) (i : Instr) (a : List Nat) : (s.post i a).portWords = s.portWords := rfl
@[simp] theorem post_portStop (s : State) (i : Instr) (a : List Nat) : (s.post i a).portStop = s.portStop := rfl
@[simp] theorem post_toks (s : State) (i : Instr) (a : List Nat) : (s.post i a).toks = s.toks := rfl
@[simp] theorem post_retime (s : State) (i : Instr) (a : List Nat) : (s.post i a).retime = s.retime := rfl
@[simp] theorem post_seqs (s : State) (i : Instr) (a : List Nat) : (s.post i a).seqs = s.seqs := rfl
@[simp] theorem post_oars (s : State) (i : Instr) (a : List Nat) : (s.post i a).oars = s.oars := rfl
@[simp] theorem post_hostLinkUp (s : State) (i : Instr) (a : List Nat) : (s.post i a).hostLinkUp = s.hostLinkUp := rfl
@[simp] theorem post_dieLinkUp (s : State) (i : Instr) (a : List Nat) : (s.post i a).dieLinkUp = s.dieLinkUp := rfl
@[simp] theorem post_dieRetrain (s : State) (i : Instr) (a : List Nat) : (s.post i a).dieRetrain = s.dieRetrain := rfl
@[simp] theorem post_dieRetries (s : State) (i : Instr) (a : List Nat) : (s.post i a).dieRetries = s.dieRetries := rfl
@[simp] theorem post_dieFlit (s : State) (i : Instr) (a : List Nat) : (s.post i a).dieFlit = s.dieFlit := rfl
@[simp] theorem post_dieSince (s : State) (i : Instr) (a : List Nat) : (s.post i a).dieSince = s.dieSince := rfl
@[simp] theorem post_boot (s : State) (i : Instr) (a : List Nat) : (s.post i a).boot = s.boot := rfl
@[simp] theorem post_fwsvn (s : State) (i : Instr) (a : List Nat) : (s.post i a).fwsvn = s.fwsvn := rfl
@[simp] theorem post_minSvn (s : State) (i : Instr) (a : List Nat) : (s.post i a).minSvn = s.minSvn := rfl
@[simp] theorem post_fuseKey (s : State) (i : Instr) (a : List Nat) : (s.post i a).fuseKey = s.fuseKey := rfl
@[simp] theorem post_meas0 (s : State) (i : Instr) (a : List Nat) : (s.post i a).meas0 = s.meas0 := rfl
@[simp] theorem post_meas1 (s : State) (i : Instr) (a : List Nat) : (s.post i a).meas1 = s.meas1 := rfl
@[simp] theorem post_nonce (s : State) (i : Instr) (a : List Nat) : (s.post i a).nonce = s.nonce := rfl
@[simp] theorem post_attest (s : State) (i : Instr) (a : List Nat) : (s.post i a).attest = s.attest := rfl
@[simp] theorem post_report (s : State) (i : Instr) (a : List Nat) : (s.post i a).report = s.report := rfl
@[simp] theorem post_sigUsed (s : State) (i : Instr) (a : List Nat) : (s.post i a).sigUsed = s.sigUsed := rfl
@[simp] theorem post_keySlots (s : State) (i : Instr) (a : List Nat) : (s.post i a).keySlots = s.keySlots := rfl
@[simp] theorem post_keyBusy (s : State) (i : Instr) (a : List Nat) : (s.post i a).keyBusy = s.keyBusy := rfl
@[simp] theorem post_cellCc (s : State) (i : Instr) (a : List Nat) : (s.post i a).cellCc = s.cellCc := rfl
@[simp] theorem post_cellMac (s : State) (i : Instr) (a : List Nat) : (s.post i a).cellMac = s.cellMac := rfl
@[simp] theorem post_pageGen (s : State) (i : Instr) (a : List Nat) : (s.post i a).pageGen = s.pageGen := rfl
@[simp] theorem post_treeCtr (s : State) (i : Instr) (a : List Nat) : (s.post i a).treeCtr = s.treeCtr := rfl
@[simp] theorem post_treeKey (s : State) (i : Instr) (a : List Nat) : (s.post i a).treeKey = s.treeKey := rfl
@[simp] theorem post_treeWait (s : State) (i : Instr) (a : List Nat) : (s.post i a).treeWait = s.treeWait := rfl
@[simp] theorem post_alarm (s : State) (i : Instr) (a : List Nat) : (s.post i a).alarm = s.alarm := rfl
@[simp] theorem post_islFreq (s : State) (i : Instr) (a : List Nat) : (s.post i a).islFreq = s.islFreq := rfl
@[simp] theorem post_islBudget (s : State) (i : Instr) (a : List Nat) : (s.post i a).islBudget = s.islBudget := rfl
@[simp] theorem post_islThrot (s : State) (i : Instr) (a : List Nat) : (s.post i a).islThrot = s.islThrot := rfl
@[simp] theorem post_islStamp (s : State) (i : Instr) (a : List Nat) : (s.post i a).islStamp = s.islStamp := rfl
@[simp] theorem post_islHold (s : State) (i : Instr) (a : List Nat) : (s.post i a).islHold = s.islHold := rfl
@[simp] theorem post_islFrom (s : State) (i : Instr) (a : List Nat) : (s.post i a).islFrom = s.islFrom := rfl
@[simp] theorem post_islCount (s : State) (i : Instr) (a : List Nat) : (s.post i a).islCount = s.islCount := rfl
@[simp] theorem post_islShown (s : State) (i : Instr) (a : List Nat) : (s.post i a).islShown = s.islShown := rfl
@[simp] theorem post_reassigned (s : State) (i : Instr) (a : List Nat) : (s.post i a).reassigned = s.reassigned := rfl
@[simp] theorem post_thermCap (s : State) (i : Instr) (a : List Nat) : (s.post i a).thermCap = s.thermCap := rfl

/-! ## modTeam -/
@[simp] theorem modTeam_now (s : State) (t : Nat) (f : Team → Team) : (s.modTeam t f).now = s.now := rfl
@[simp] theorem modTeam_skew (s : State) (t : Nat) (f : Team → Team) : (s.modTeam t f).skew = s.skew := rfl
@[simp] theorem modTeam_turns (s : State) (t : Nat) (f : Team → Team) : (s.modTeam t f).turns = s.turns := rfl
@[simp] theorem modTeam_ev (s : State) (t : Nat) (f : Team → Team) : (s.modTeam t f).ev = s.ev := rfl
@[simp] theorem modTeam_fresh (s : State) (t : Nat) (f : Team → Team) : (s.modTeam t f).fresh = s.fresh := rfl
@[simp] theorem modTeam_cur (s : State) (t : Nat) (f : Team → Team) : (s.modTeam t f).cur = s.cur := rfl
@[simp] theorem modTeam_curSlot (s : State) (t : Nat) (f : Team → Team) : (s.modTeam t f).curSlot = s.curSlot := rfl
@[simp] theorem modTeam_bundle (s : State) (t : Nat) (f : Team → Team) : (s.modTeam t f).bundle = s.bundle := rfl
@[simp] theorem modTeam_checked (s : State) (t : Nat) (f : Team → Team) : (s.modTeam t f).checked = s.checked := rfl
@[simp] theorem modTeam_el (s : State) (t : Nat) (f : Team → Team) : (s.modTeam t f).el = s.el := rfl
@[simp] theorem modTeam_mem (s : State) (t : Nat) (f : Team → Team) : (s.modTeam t f).mem = s.mem := rfl
@[simp] theorem modTeam_cores (s : State) (t : Nat) (f : Team → Team) : (s.modTeam t f).cores = s.cores := rfl
@[simp] theorem modTeam_acct (s : State) (t : Nat) (f : Team → Team) : (s.modTeam t f).acct = s.acct := rfl
@[simp] theorem modTeam_rvq (s : State) (t : Nat) (f : Team → Team) : (s.modTeam t f).rvq = s.rvq := rfl
@[simp] theorem modTeam_qnew (s : State) (t : Nat) (f : Team → Team) : (s.modTeam t f).qnew = s.qnew := rfl
@[simp] theorem modTeam_qcfg (s : State) (t : Nat) (f : Team → Team) : (s.modTeam t f).qcfg = s.qcfg := rfl
@[simp] theorem modTeam_launches (s : State) (t : Nat) (f : Team → Team) : (s.modTeam t f).launches = s.launches := rfl
@[simp] theorem modTeam_drops (s : State) (t : Nat) (f : Team → Team) : (s.modTeam t f).drops = s.drops := rfl
@[simp] theorem modTeam_ccache (s : State) (t : Nat) (f : Team → Team) : (s.modTeam t f).ccache = s.ccache := rfl
@[simp] theorem modTeam_bar0 (s : State) (t : Nat) (f : Team → Team) : (s.modTeam t f).bar0 = s.bar0 := rfl
@[simp] theorem modTeam_grantNew (s : State) (t : Nat) (f : Team → Team) : (s.modTeam t f).grantNew = s.grantNew := rfl
@[simp] theorem modTeam_grant (s : State) (t : Nat) (f : Team → Team) : (s.modTeam t f).grant = s.grant := rfl
@[simp] theorem modTeam_lndctl (s : State) (t : Nat) (f : Team → Team) : (s.modTeam t f).lndctl = s.lndctl := rfl
@[simp] theorem modTeam_frzctl (s : State) (t : Nat) (f : Team → Team) : (s.modTeam t f).frzctl = s.frzctl := rfl
@[simp] theorem modTeam_wrej (s : State) (t : Nat) (f : Team → Team) : (s.modTeam t f).wrej = s.wrej := rfl
@[simp] theorem modTeam_flr (s : State) (t : Nat) (f : Team → Team) : (s.modTeam t f).flr = s.flr := rfl
@[simp] theorem modTeam_intst (s : State) (t : Nat) (f : Team → Team) : (s.modTeam t f).intst = s.intst := rfl
@[simp] theorem modTeam_inten (s : State) (t : Nat) (f : Team → Team) : (s.modTeam t f).inten = s.inten := rfl
@[simp] theorem modTeam_wdog (s : State) (t : Nat) (f : Team → Team) : (s.modTeam t f).wdog = s.wdog := rfl
@[simp] theorem modTeam_msix (s : State) (t : Nat) (f : Team → Team) : (s.modTeam t f).msix = s.msix := rfl
@[simp] theorem modTeam_fq (s : State) (t : Nat) (f : Team → Team) : (s.modTeam t f).fq = s.fq := rfl
@[simp] theorem modTeam_lost (s : State) (t : Nat) (f : Team → Team) : (s.modTeam t f).lost = s.lost := rfl
@[simp] theorem modTeam_hostRead (s : State) (t : Nat) (f : Team → Team) : (s.modTeam t f).hostRead = s.hostRead := rfl
@[simp] theorem modTeam_hostReqs (s : State) (t : Nat) (f : Team → Team) : (s.modTeam t f).hostReqs = s.hostReqs := rfl
@[simp] theorem modTeam_hostTag (s : State) (t : Nat) (f : Team → Team) : (s.modTeam t f).hostTag = s.hostTag := rfl
@[simp] theorem modTeam_mps (s : State) (t : Nat) (f : Team → Team) : (s.modTeam t f).mps = s.mps := rfl
@[simp] theorem modTeam_mrrs (s : State) (t : Nat) (f : Team → Team) : (s.modTeam t f).mrrs = s.mrrs := rfl
@[simp] theorem modTeam_trinvDone (s : State) (t : Nat) (f : Team → Team) : (s.modTeam t f).trinvDone = s.trinvDone := rfl
@[simp] theorem modTeam_trinvTime (s : State) (t : Nat) (f : Team → Team) : (s.modTeam t f).trinvTime = s.trinvTime := rfl
@[simp] theorem modTeam_trinvHeld (s : State) (t : Nat) (f : Team → Team) : (s.modTeam t f).trinvHeld = s.trinvHeld := rfl
@[simp] theorem modTeam_trinvSpan (s : State) (t : Nat) (f : Team → Team) : (s.modTeam t f).trinvSpan = s.trinvSpan := rfl
@[simp] theorem modTeam_reports (s : State) (t : Nat) (f : Team → Team) : (s.modTeam t f).reports = s.reports := rfl
@[simp] theorem modTeam_ovf (s : State) (t : Nat) (f : Team → Team) : (s.modTeam t f).ovf = s.ovf := rfl
@[simp] theorem modTeam_acc16 (s : State) (t : Nat) (f : Team → Team) : (s.modTeam t f).acc16 = s.acc16 := rfl
@[simp] theorem modTeam_tick (s : State) (t : Nat) (f : Team → Team) : (s.modTeam t f).tick = s.tick := rfl
@[simp] theorem modTeam_courseSteps (s : State) (t : Nat) (f : Team → Team) : (s.modTeam t f).courseSteps = s.courseSteps := rfl
@[simp] theorem modTeam_cursor (s : State) (t : Nat) (f : Team → Team) : (s.modTeam t f).cursor = s.cursor := rfl
@[simp] theorem modTeam_phase (s : State) (t : Nat) (f : Team → Team) : (s.modTeam t f).phase = s.phase := rfl
@[simp] theorem modTeam_pendMode (s : State) (t : Nat) (f : Team → Team) : (s.modTeam t f).pendMode = s.pendMode := rfl
@[simp] theorem modTeam_bv (s : State) (t : Nat) (f : Team → Team) : (s.modTeam t f).bv = s.bv := rfl
@[simp] theorem modTeam_contribs (s : State) (t : Nat) (f : Team → Team) : (s.modTeam t f).contribs = s.contribs := rfl
@[simp] theorem modTeam_riders (s : State) (t : Nat) (f : Team → Team) : (s.modTeam t f).riders = s.riders := rfl
@[simp] theorem modTeam_nextId (s : State) (t : Nat) (f : Team → Team) : (s.modTeam t f).nextId = s.nextId := rfl
@[simp] theorem modTeam_tlb (s : State) (t : Nat) (f : Team → Team) : (s.modTeam t f).tlb = s.tlb := rfl
@[simp] theorem modTeam_walks (s : State) (t : Nat) (f : Team → Team) : (s.modTeam t f).walks = s.walks := rfl
@[simp] theorem modTeam_streams (s : State) (t : Nat) (f : Team → Team) : (s.modTeam t f).streams = s.streams := rfl
@[simp] theorem modTeam_waiting (s : State) (t : Nat) (f : Team → Team) : (s.modTeam t f).waiting = s.waiting := rfl
@[simp] theorem modTeam_eccBad (s : State) (t : Nat) (f : Team → Team) : (s.modTeam t f).eccBad = s.eccBad := rfl
@[simp] theorem modTeam_eccTime (s : State) (t : Nat) (f : Team → Team) : (s.modTeam t f).eccTime = s.eccTime := rfl
@[simp] theorem modTeam_nodes (s : State) (t : Nat) (f : Team → Team) : (s.modTeam t f).nodes = s.nodes := rfl
@[simp] theorem modTeam_xtiles (s : State) (t : Nat) (f : Team → Team) : (s.modTeam t f).xtiles = s.xtiles := rfl
@[simp] theorem modTeam_xforms (s : State) (t : Nat) (f : Team → Team) : (s.modTeam t f).xforms = s.xforms := rfl
@[simp] theorem modTeam_regions (s : State) (t : Nat) (f : Team → Team) : (s.modTeam t f).regions = s.regions := rfl
@[simp] theorem modTeam_els (s : State) (t : Nat) (f : Team → Team) : (s.modTeam t f).els = s.els := rfl
@[simp] theorem modTeam_fifos (s : State) (t : Nat) (f : Team → Team) : (s.modTeam t f).fifos = s.fifos := rfl
@[simp] theorem modTeam_portWords (s : State) (t : Nat) (f : Team → Team) : (s.modTeam t f).portWords = s.portWords := rfl
@[simp] theorem modTeam_portStop (s : State) (t : Nat) (f : Team → Team) : (s.modTeam t f).portStop = s.portStop := rfl
@[simp] theorem modTeam_toks (s : State) (t : Nat) (f : Team → Team) : (s.modTeam t f).toks = s.toks := rfl
@[simp] theorem modTeam_retime (s : State) (t : Nat) (f : Team → Team) : (s.modTeam t f).retime = s.retime := rfl
@[simp] theorem modTeam_seqs (s : State) (t : Nat) (f : Team → Team) : (s.modTeam t f).seqs = s.seqs := rfl
@[simp] theorem modTeam_oars (s : State) (t : Nat) (f : Team → Team) : (s.modTeam t f).oars = s.oars := rfl
@[simp] theorem modTeam_hostLinkUp (s : State) (t : Nat) (f : Team → Team) : (s.modTeam t f).hostLinkUp = s.hostLinkUp := rfl
@[simp] theorem modTeam_dieLinkUp (s : State) (t : Nat) (f : Team → Team) : (s.modTeam t f).dieLinkUp = s.dieLinkUp := rfl
@[simp] theorem modTeam_dieRetrain (s : State) (t : Nat) (f : Team → Team) : (s.modTeam t f).dieRetrain = s.dieRetrain := rfl
@[simp] theorem modTeam_dieRetries (s : State) (t : Nat) (f : Team → Team) : (s.modTeam t f).dieRetries = s.dieRetries := rfl
@[simp] theorem modTeam_dieFlit (s : State) (t : Nat) (f : Team → Team) : (s.modTeam t f).dieFlit = s.dieFlit := rfl
@[simp] theorem modTeam_dieSince (s : State) (t : Nat) (f : Team → Team) : (s.modTeam t f).dieSince = s.dieSince := rfl
@[simp] theorem modTeam_boot (s : State) (t : Nat) (f : Team → Team) : (s.modTeam t f).boot = s.boot := rfl
@[simp] theorem modTeam_fwsvn (s : State) (t : Nat) (f : Team → Team) : (s.modTeam t f).fwsvn = s.fwsvn := rfl
@[simp] theorem modTeam_minSvn (s : State) (t : Nat) (f : Team → Team) : (s.modTeam t f).minSvn = s.minSvn := rfl
@[simp] theorem modTeam_fuseKey (s : State) (t : Nat) (f : Team → Team) : (s.modTeam t f).fuseKey = s.fuseKey := rfl
@[simp] theorem modTeam_meas0 (s : State) (t : Nat) (f : Team → Team) : (s.modTeam t f).meas0 = s.meas0 := rfl
@[simp] theorem modTeam_meas1 (s : State) (t : Nat) (f : Team → Team) : (s.modTeam t f).meas1 = s.meas1 := rfl
@[simp] theorem modTeam_nonce (s : State) (t : Nat) (f : Team → Team) : (s.modTeam t f).nonce = s.nonce := rfl
@[simp] theorem modTeam_attest (s : State) (t : Nat) (f : Team → Team) : (s.modTeam t f).attest = s.attest := rfl
@[simp] theorem modTeam_report (s : State) (t : Nat) (f : Team → Team) : (s.modTeam t f).report = s.report := rfl
@[simp] theorem modTeam_sigUsed (s : State) (t : Nat) (f : Team → Team) : (s.modTeam t f).sigUsed = s.sigUsed := rfl
@[simp] theorem modTeam_keySlots (s : State) (t : Nat) (f : Team → Team) : (s.modTeam t f).keySlots = s.keySlots := rfl
@[simp] theorem modTeam_keyBusy (s : State) (t : Nat) (f : Team → Team) : (s.modTeam t f).keyBusy = s.keyBusy := rfl
@[simp] theorem modTeam_cellCc (s : State) (t : Nat) (f : Team → Team) : (s.modTeam t f).cellCc = s.cellCc := rfl
@[simp] theorem modTeam_cellMac (s : State) (t : Nat) (f : Team → Team) : (s.modTeam t f).cellMac = s.cellMac := rfl
@[simp] theorem modTeam_pageGen (s : State) (t : Nat) (f : Team → Team) : (s.modTeam t f).pageGen = s.pageGen := rfl
@[simp] theorem modTeam_treeCtr (s : State) (t : Nat) (f : Team → Team) : (s.modTeam t f).treeCtr = s.treeCtr := rfl
@[simp] theorem modTeam_treeKey (s : State) (t : Nat) (f : Team → Team) : (s.modTeam t f).treeKey = s.treeKey := rfl
@[simp] theorem modTeam_treeWait (s : State) (t : Nat) (f : Team → Team) : (s.modTeam t f).treeWait = s.treeWait := rfl
@[simp] theorem modTeam_alarm (s : State) (t : Nat) (f : Team → Team) : (s.modTeam t f).alarm = s.alarm := rfl
@[simp] theorem modTeam_islFreq (s : State) (t : Nat) (f : Team → Team) : (s.modTeam t f).islFreq = s.islFreq := rfl
@[simp] theorem modTeam_islBudget (s : State) (t : Nat) (f : Team → Team) : (s.modTeam t f).islBudget = s.islBudget := rfl
@[simp] theorem modTeam_islThrot (s : State) (t : Nat) (f : Team → Team) : (s.modTeam t f).islThrot = s.islThrot := rfl
@[simp] theorem modTeam_islStamp (s : State) (t : Nat) (f : Team → Team) : (s.modTeam t f).islStamp = s.islStamp := rfl
@[simp] theorem modTeam_islHold (s : State) (t : Nat) (f : Team → Team) : (s.modTeam t f).islHold = s.islHold := rfl
@[simp] theorem modTeam_islFrom (s : State) (t : Nat) (f : Team → Team) : (s.modTeam t f).islFrom = s.islFrom := rfl
@[simp] theorem modTeam_islCount (s : State) (t : Nat) (f : Team → Team) : (s.modTeam t f).islCount = s.islCount := rfl
@[simp] theorem modTeam_islShown (s : State) (t : Nat) (f : Team → Team) : (s.modTeam t f).islShown = s.islShown := rfl
@[simp] theorem modTeam_reassigned (s : State) (t : Nat) (f : Team → Team) : (s.modTeam t f).reassigned = s.reassigned := rfl
@[simp] theorem modTeam_thermCap (s : State) (t : Nat) (f : Team → Team) : (s.modTeam t f).thermCap = s.thermCap := rfl

/-! ## modRider -/
@[simp] theorem modRider_now (s : State) (n : Nat) (f : Rider → Rider) : (s.modRider n f).now = s.now := rfl
@[simp] theorem modRider_skew (s : State) (n : Nat) (f : Rider → Rider) : (s.modRider n f).skew = s.skew := rfl
@[simp] theorem modRider_turns (s : State) (n : Nat) (f : Rider → Rider) : (s.modRider n f).turns = s.turns := rfl
@[simp] theorem modRider_ev (s : State) (n : Nat) (f : Rider → Rider) : (s.modRider n f).ev = s.ev := rfl
@[simp] theorem modRider_fresh (s : State) (n : Nat) (f : Rider → Rider) : (s.modRider n f).fresh = s.fresh := rfl
@[simp] theorem modRider_cur (s : State) (n : Nat) (f : Rider → Rider) : (s.modRider n f).cur = s.cur := rfl
@[simp] theorem modRider_curSlot (s : State) (n : Nat) (f : Rider → Rider) : (s.modRider n f).curSlot = s.curSlot := rfl
@[simp] theorem modRider_bundle (s : State) (n : Nat) (f : Rider → Rider) : (s.modRider n f).bundle = s.bundle := rfl
@[simp] theorem modRider_checked (s : State) (n : Nat) (f : Rider → Rider) : (s.modRider n f).checked = s.checked := rfl
@[simp] theorem modRider_el (s : State) (n : Nat) (f : Rider → Rider) : (s.modRider n f).el = s.el := rfl
@[simp] theorem modRider_mem (s : State) (n : Nat) (f : Rider → Rider) : (s.modRider n f).mem = s.mem := rfl
@[simp] theorem modRider_cores (s : State) (n : Nat) (f : Rider → Rider) : (s.modRider n f).cores = s.cores := rfl
@[simp] theorem modRider_teams (s : State) (n : Nat) (f : Rider → Rider) : (s.modRider n f).teams = s.teams := rfl
@[simp] theorem modRider_acct (s : State) (n : Nat) (f : Rider → Rider) : (s.modRider n f).acct = s.acct := rfl
@[simp] theorem modRider_rvq (s : State) (n : Nat) (f : Rider → Rider) : (s.modRider n f).rvq = s.rvq := rfl
@[simp] theorem modRider_qnew (s : State) (n : Nat) (f : Rider → Rider) : (s.modRider n f).qnew = s.qnew := rfl
@[simp] theorem modRider_qcfg (s : State) (n : Nat) (f : Rider → Rider) : (s.modRider n f).qcfg = s.qcfg := rfl
@[simp] theorem modRider_launches (s : State) (n : Nat) (f : Rider → Rider) : (s.modRider n f).launches = s.launches := rfl
@[simp] theorem modRider_drops (s : State) (n : Nat) (f : Rider → Rider) : (s.modRider n f).drops = s.drops := rfl
@[simp] theorem modRider_ccache (s : State) (n : Nat) (f : Rider → Rider) : (s.modRider n f).ccache = s.ccache := rfl
@[simp] theorem modRider_bar0 (s : State) (n : Nat) (f : Rider → Rider) : (s.modRider n f).bar0 = s.bar0 := rfl
@[simp] theorem modRider_grantNew (s : State) (n : Nat) (f : Rider → Rider) : (s.modRider n f).grantNew = s.grantNew := rfl
@[simp] theorem modRider_grant (s : State) (n : Nat) (f : Rider → Rider) : (s.modRider n f).grant = s.grant := rfl
@[simp] theorem modRider_lndctl (s : State) (n : Nat) (f : Rider → Rider) : (s.modRider n f).lndctl = s.lndctl := rfl
@[simp] theorem modRider_frzctl (s : State) (n : Nat) (f : Rider → Rider) : (s.modRider n f).frzctl = s.frzctl := rfl
@[simp] theorem modRider_wrej (s : State) (n : Nat) (f : Rider → Rider) : (s.modRider n f).wrej = s.wrej := rfl
@[simp] theorem modRider_flr (s : State) (n : Nat) (f : Rider → Rider) : (s.modRider n f).flr = s.flr := rfl
@[simp] theorem modRider_intst (s : State) (n : Nat) (f : Rider → Rider) : (s.modRider n f).intst = s.intst := rfl
@[simp] theorem modRider_inten (s : State) (n : Nat) (f : Rider → Rider) : (s.modRider n f).inten = s.inten := rfl
@[simp] theorem modRider_wdog (s : State) (n : Nat) (f : Rider → Rider) : (s.modRider n f).wdog = s.wdog := rfl
@[simp] theorem modRider_msix (s : State) (n : Nat) (f : Rider → Rider) : (s.modRider n f).msix = s.msix := rfl
@[simp] theorem modRider_fq (s : State) (n : Nat) (f : Rider → Rider) : (s.modRider n f).fq = s.fq := rfl
@[simp] theorem modRider_lost (s : State) (n : Nat) (f : Rider → Rider) : (s.modRider n f).lost = s.lost := rfl
@[simp] theorem modRider_hostRead (s : State) (n : Nat) (f : Rider → Rider) : (s.modRider n f).hostRead = s.hostRead := rfl
@[simp] theorem modRider_hostReqs (s : State) (n : Nat) (f : Rider → Rider) : (s.modRider n f).hostReqs = s.hostReqs := rfl
@[simp] theorem modRider_hostTag (s : State) (n : Nat) (f : Rider → Rider) : (s.modRider n f).hostTag = s.hostTag := rfl
@[simp] theorem modRider_mps (s : State) (n : Nat) (f : Rider → Rider) : (s.modRider n f).mps = s.mps := rfl
@[simp] theorem modRider_mrrs (s : State) (n : Nat) (f : Rider → Rider) : (s.modRider n f).mrrs = s.mrrs := rfl
@[simp] theorem modRider_trinvDone (s : State) (n : Nat) (f : Rider → Rider) : (s.modRider n f).trinvDone = s.trinvDone := rfl
@[simp] theorem modRider_trinvTime (s : State) (n : Nat) (f : Rider → Rider) : (s.modRider n f).trinvTime = s.trinvTime := rfl
@[simp] theorem modRider_trinvHeld (s : State) (n : Nat) (f : Rider → Rider) : (s.modRider n f).trinvHeld = s.trinvHeld := rfl
@[simp] theorem modRider_trinvSpan (s : State) (n : Nat) (f : Rider → Rider) : (s.modRider n f).trinvSpan = s.trinvSpan := rfl
@[simp] theorem modRider_reports (s : State) (n : Nat) (f : Rider → Rider) : (s.modRider n f).reports = s.reports := rfl
@[simp] theorem modRider_ovf (s : State) (n : Nat) (f : Rider → Rider) : (s.modRider n f).ovf = s.ovf := rfl
@[simp] theorem modRider_acc16 (s : State) (n : Nat) (f : Rider → Rider) : (s.modRider n f).acc16 = s.acc16 := rfl
@[simp] theorem modRider_tick (s : State) (n : Nat) (f : Rider → Rider) : (s.modRider n f).tick = s.tick := rfl
@[simp] theorem modRider_courseSteps (s : State) (n : Nat) (f : Rider → Rider) : (s.modRider n f).courseSteps = s.courseSteps := rfl
@[simp] theorem modRider_cursor (s : State) (n : Nat) (f : Rider → Rider) : (s.modRider n f).cursor = s.cursor := rfl
@[simp] theorem modRider_phase (s : State) (n : Nat) (f : Rider → Rider) : (s.modRider n f).phase = s.phase := rfl
@[simp] theorem modRider_pendMode (s : State) (n : Nat) (f : Rider → Rider) : (s.modRider n f).pendMode = s.pendMode := rfl
@[simp] theorem modRider_bv (s : State) (n : Nat) (f : Rider → Rider) : (s.modRider n f).bv = s.bv := rfl
@[simp] theorem modRider_contribs (s : State) (n : Nat) (f : Rider → Rider) : (s.modRider n f).contribs = s.contribs := rfl
@[simp] theorem modRider_nextId (s : State) (n : Nat) (f : Rider → Rider) : (s.modRider n f).nextId = s.nextId := rfl
@[simp] theorem modRider_tlb (s : State) (n : Nat) (f : Rider → Rider) : (s.modRider n f).tlb = s.tlb := rfl
@[simp] theorem modRider_walks (s : State) (n : Nat) (f : Rider → Rider) : (s.modRider n f).walks = s.walks := rfl
@[simp] theorem modRider_streams (s : State) (n : Nat) (f : Rider → Rider) : (s.modRider n f).streams = s.streams := rfl
@[simp] theorem modRider_waiting (s : State) (n : Nat) (f : Rider → Rider) : (s.modRider n f).waiting = s.waiting := rfl
@[simp] theorem modRider_eccBad (s : State) (n : Nat) (f : Rider → Rider) : (s.modRider n f).eccBad = s.eccBad := rfl
@[simp] theorem modRider_eccTime (s : State) (n : Nat) (f : Rider → Rider) : (s.modRider n f).eccTime = s.eccTime := rfl
@[simp] theorem modRider_nodes (s : State) (n : Nat) (f : Rider → Rider) : (s.modRider n f).nodes = s.nodes := rfl
@[simp] theorem modRider_xtiles (s : State) (n : Nat) (f : Rider → Rider) : (s.modRider n f).xtiles = s.xtiles := rfl
@[simp] theorem modRider_xforms (s : State) (n : Nat) (f : Rider → Rider) : (s.modRider n f).xforms = s.xforms := rfl
@[simp] theorem modRider_regions (s : State) (n : Nat) (f : Rider → Rider) : (s.modRider n f).regions = s.regions := rfl
@[simp] theorem modRider_els (s : State) (n : Nat) (f : Rider → Rider) : (s.modRider n f).els = s.els := rfl
@[simp] theorem modRider_fifos (s : State) (n : Nat) (f : Rider → Rider) : (s.modRider n f).fifos = s.fifos := rfl
@[simp] theorem modRider_portWords (s : State) (n : Nat) (f : Rider → Rider) : (s.modRider n f).portWords = s.portWords := rfl
@[simp] theorem modRider_portStop (s : State) (n : Nat) (f : Rider → Rider) : (s.modRider n f).portStop = s.portStop := rfl
@[simp] theorem modRider_toks (s : State) (n : Nat) (f : Rider → Rider) : (s.modRider n f).toks = s.toks := rfl
@[simp] theorem modRider_retime (s : State) (n : Nat) (f : Rider → Rider) : (s.modRider n f).retime = s.retime := rfl
@[simp] theorem modRider_seqs (s : State) (n : Nat) (f : Rider → Rider) : (s.modRider n f).seqs = s.seqs := rfl
@[simp] theorem modRider_oars (s : State) (n : Nat) (f : Rider → Rider) : (s.modRider n f).oars = s.oars := rfl
@[simp] theorem modRider_hostLinkUp (s : State) (n : Nat) (f : Rider → Rider) : (s.modRider n f).hostLinkUp = s.hostLinkUp := rfl
@[simp] theorem modRider_dieLinkUp (s : State) (n : Nat) (f : Rider → Rider) : (s.modRider n f).dieLinkUp = s.dieLinkUp := rfl
@[simp] theorem modRider_dieRetrain (s : State) (n : Nat) (f : Rider → Rider) : (s.modRider n f).dieRetrain = s.dieRetrain := rfl
@[simp] theorem modRider_dieRetries (s : State) (n : Nat) (f : Rider → Rider) : (s.modRider n f).dieRetries = s.dieRetries := rfl
@[simp] theorem modRider_dieFlit (s : State) (n : Nat) (f : Rider → Rider) : (s.modRider n f).dieFlit = s.dieFlit := rfl
@[simp] theorem modRider_dieSince (s : State) (n : Nat) (f : Rider → Rider) : (s.modRider n f).dieSince = s.dieSince := rfl
@[simp] theorem modRider_boot (s : State) (n : Nat) (f : Rider → Rider) : (s.modRider n f).boot = s.boot := rfl
@[simp] theorem modRider_fwsvn (s : State) (n : Nat) (f : Rider → Rider) : (s.modRider n f).fwsvn = s.fwsvn := rfl
@[simp] theorem modRider_minSvn (s : State) (n : Nat) (f : Rider → Rider) : (s.modRider n f).minSvn = s.minSvn := rfl
@[simp] theorem modRider_fuseKey (s : State) (n : Nat) (f : Rider → Rider) : (s.modRider n f).fuseKey = s.fuseKey := rfl
@[simp] theorem modRider_meas0 (s : State) (n : Nat) (f : Rider → Rider) : (s.modRider n f).meas0 = s.meas0 := rfl
@[simp] theorem modRider_meas1 (s : State) (n : Nat) (f : Rider → Rider) : (s.modRider n f).meas1 = s.meas1 := rfl
@[simp] theorem modRider_nonce (s : State) (n : Nat) (f : Rider → Rider) : (s.modRider n f).nonce = s.nonce := rfl
@[simp] theorem modRider_attest (s : State) (n : Nat) (f : Rider → Rider) : (s.modRider n f).attest = s.attest := rfl
@[simp] theorem modRider_report (s : State) (n : Nat) (f : Rider → Rider) : (s.modRider n f).report = s.report := rfl
@[simp] theorem modRider_sigUsed (s : State) (n : Nat) (f : Rider → Rider) : (s.modRider n f).sigUsed = s.sigUsed := rfl
@[simp] theorem modRider_keySlots (s : State) (n : Nat) (f : Rider → Rider) : (s.modRider n f).keySlots = s.keySlots := rfl
@[simp] theorem modRider_keyBusy (s : State) (n : Nat) (f : Rider → Rider) : (s.modRider n f).keyBusy = s.keyBusy := rfl
@[simp] theorem modRider_cellCc (s : State) (n : Nat) (f : Rider → Rider) : (s.modRider n f).cellCc = s.cellCc := rfl
@[simp] theorem modRider_cellMac (s : State) (n : Nat) (f : Rider → Rider) : (s.modRider n f).cellMac = s.cellMac := rfl
@[simp] theorem modRider_pageGen (s : State) (n : Nat) (f : Rider → Rider) : (s.modRider n f).pageGen = s.pageGen := rfl
@[simp] theorem modRider_treeCtr (s : State) (n : Nat) (f : Rider → Rider) : (s.modRider n f).treeCtr = s.treeCtr := rfl
@[simp] theorem modRider_treeKey (s : State) (n : Nat) (f : Rider → Rider) : (s.modRider n f).treeKey = s.treeKey := rfl
@[simp] theorem modRider_treeWait (s : State) (n : Nat) (f : Rider → Rider) : (s.modRider n f).treeWait = s.treeWait := rfl
@[simp] theorem modRider_alarm (s : State) (n : Nat) (f : Rider → Rider) : (s.modRider n f).alarm = s.alarm := rfl
@[simp] theorem modRider_islFreq (s : State) (n : Nat) (f : Rider → Rider) : (s.modRider n f).islFreq = s.islFreq := rfl
@[simp] theorem modRider_islBudget (s : State) (n : Nat) (f : Rider → Rider) : (s.modRider n f).islBudget = s.islBudget := rfl
@[simp] theorem modRider_islThrot (s : State) (n : Nat) (f : Rider → Rider) : (s.modRider n f).islThrot = s.islThrot := rfl
@[simp] theorem modRider_islStamp (s : State) (n : Nat) (f : Rider → Rider) : (s.modRider n f).islStamp = s.islStamp := rfl
@[simp] theorem modRider_islHold (s : State) (n : Nat) (f : Rider → Rider) : (s.modRider n f).islHold = s.islHold := rfl
@[simp] theorem modRider_islFrom (s : State) (n : Nat) (f : Rider → Rider) : (s.modRider n f).islFrom = s.islFrom := rfl
@[simp] theorem modRider_islCount (s : State) (n : Nat) (f : Rider → Rider) : (s.modRider n f).islCount = s.islCount := rfl
@[simp] theorem modRider_islShown (s : State) (n : Nat) (f : Rider → Rider) : (s.modRider n f).islShown = s.islShown := rfl
@[simp] theorem modRider_reassigned (s : State) (n : Nat) (f : Rider → Rider) : (s.modRider n f).reassigned = s.reassigned := rfl
@[simp] theorem modRider_thermCap (s : State) (n : Nat) (f : Rider → Rider) : (s.modRider n f).thermCap = s.thermCap := rfl

/-! ## modRegion -/
@[simp] theorem modRegion_now (s : State) (n : Nat) (f : Region → Region) : (s.modRegion n f).now = s.now := rfl
@[simp] theorem modRegion_skew (s : State) (n : Nat) (f : Region → Region) : (s.modRegion n f).skew = s.skew := rfl
@[simp] theorem modRegion_turns (s : State) (n : Nat) (f : Region → Region) : (s.modRegion n f).turns = s.turns := rfl
@[simp] theorem modRegion_ev (s : State) (n : Nat) (f : Region → Region) : (s.modRegion n f).ev = s.ev := rfl
@[simp] theorem modRegion_fresh (s : State) (n : Nat) (f : Region → Region) : (s.modRegion n f).fresh = s.fresh := rfl
@[simp] theorem modRegion_cur (s : State) (n : Nat) (f : Region → Region) : (s.modRegion n f).cur = s.cur := rfl
@[simp] theorem modRegion_curSlot (s : State) (n : Nat) (f : Region → Region) : (s.modRegion n f).curSlot = s.curSlot := rfl
@[simp] theorem modRegion_bundle (s : State) (n : Nat) (f : Region → Region) : (s.modRegion n f).bundle = s.bundle := rfl
@[simp] theorem modRegion_checked (s : State) (n : Nat) (f : Region → Region) : (s.modRegion n f).checked = s.checked := rfl
@[simp] theorem modRegion_el (s : State) (n : Nat) (f : Region → Region) : (s.modRegion n f).el = s.el := rfl
@[simp] theorem modRegion_mem (s : State) (n : Nat) (f : Region → Region) : (s.modRegion n f).mem = s.mem := rfl
@[simp] theorem modRegion_cores (s : State) (n : Nat) (f : Region → Region) : (s.modRegion n f).cores = s.cores := rfl
@[simp] theorem modRegion_teams (s : State) (n : Nat) (f : Region → Region) : (s.modRegion n f).teams = s.teams := rfl
@[simp] theorem modRegion_acct (s : State) (n : Nat) (f : Region → Region) : (s.modRegion n f).acct = s.acct := rfl
@[simp] theorem modRegion_rvq (s : State) (n : Nat) (f : Region → Region) : (s.modRegion n f).rvq = s.rvq := rfl
@[simp] theorem modRegion_qnew (s : State) (n : Nat) (f : Region → Region) : (s.modRegion n f).qnew = s.qnew := rfl
@[simp] theorem modRegion_qcfg (s : State) (n : Nat) (f : Region → Region) : (s.modRegion n f).qcfg = s.qcfg := rfl
@[simp] theorem modRegion_launches (s : State) (n : Nat) (f : Region → Region) : (s.modRegion n f).launches = s.launches := rfl
@[simp] theorem modRegion_drops (s : State) (n : Nat) (f : Region → Region) : (s.modRegion n f).drops = s.drops := rfl
@[simp] theorem modRegion_ccache (s : State) (n : Nat) (f : Region → Region) : (s.modRegion n f).ccache = s.ccache := rfl
@[simp] theorem modRegion_bar0 (s : State) (n : Nat) (f : Region → Region) : (s.modRegion n f).bar0 = s.bar0 := rfl
@[simp] theorem modRegion_grantNew (s : State) (n : Nat) (f : Region → Region) : (s.modRegion n f).grantNew = s.grantNew := rfl
@[simp] theorem modRegion_grant (s : State) (n : Nat) (f : Region → Region) : (s.modRegion n f).grant = s.grant := rfl
@[simp] theorem modRegion_lndctl (s : State) (n : Nat) (f : Region → Region) : (s.modRegion n f).lndctl = s.lndctl := rfl
@[simp] theorem modRegion_frzctl (s : State) (n : Nat) (f : Region → Region) : (s.modRegion n f).frzctl = s.frzctl := rfl
@[simp] theorem modRegion_wrej (s : State) (n : Nat) (f : Region → Region) : (s.modRegion n f).wrej = s.wrej := rfl
@[simp] theorem modRegion_flr (s : State) (n : Nat) (f : Region → Region) : (s.modRegion n f).flr = s.flr := rfl
@[simp] theorem modRegion_intst (s : State) (n : Nat) (f : Region → Region) : (s.modRegion n f).intst = s.intst := rfl
@[simp] theorem modRegion_inten (s : State) (n : Nat) (f : Region → Region) : (s.modRegion n f).inten = s.inten := rfl
@[simp] theorem modRegion_wdog (s : State) (n : Nat) (f : Region → Region) : (s.modRegion n f).wdog = s.wdog := rfl
@[simp] theorem modRegion_msix (s : State) (n : Nat) (f : Region → Region) : (s.modRegion n f).msix = s.msix := rfl
@[simp] theorem modRegion_fq (s : State) (n : Nat) (f : Region → Region) : (s.modRegion n f).fq = s.fq := rfl
@[simp] theorem modRegion_lost (s : State) (n : Nat) (f : Region → Region) : (s.modRegion n f).lost = s.lost := rfl
@[simp] theorem modRegion_hostRead (s : State) (n : Nat) (f : Region → Region) : (s.modRegion n f).hostRead = s.hostRead := rfl
@[simp] theorem modRegion_hostReqs (s : State) (n : Nat) (f : Region → Region) : (s.modRegion n f).hostReqs = s.hostReqs := rfl
@[simp] theorem modRegion_hostTag (s : State) (n : Nat) (f : Region → Region) : (s.modRegion n f).hostTag = s.hostTag := rfl
@[simp] theorem modRegion_mps (s : State) (n : Nat) (f : Region → Region) : (s.modRegion n f).mps = s.mps := rfl
@[simp] theorem modRegion_mrrs (s : State) (n : Nat) (f : Region → Region) : (s.modRegion n f).mrrs = s.mrrs := rfl
@[simp] theorem modRegion_trinvDone (s : State) (n : Nat) (f : Region → Region) : (s.modRegion n f).trinvDone = s.trinvDone := rfl
@[simp] theorem modRegion_trinvTime (s : State) (n : Nat) (f : Region → Region) : (s.modRegion n f).trinvTime = s.trinvTime := rfl
@[simp] theorem modRegion_trinvHeld (s : State) (n : Nat) (f : Region → Region) : (s.modRegion n f).trinvHeld = s.trinvHeld := rfl
@[simp] theorem modRegion_trinvSpan (s : State) (n : Nat) (f : Region → Region) : (s.modRegion n f).trinvSpan = s.trinvSpan := rfl
@[simp] theorem modRegion_reports (s : State) (n : Nat) (f : Region → Region) : (s.modRegion n f).reports = s.reports := rfl
@[simp] theorem modRegion_ovf (s : State) (n : Nat) (f : Region → Region) : (s.modRegion n f).ovf = s.ovf := rfl
@[simp] theorem modRegion_acc16 (s : State) (n : Nat) (f : Region → Region) : (s.modRegion n f).acc16 = s.acc16 := rfl
@[simp] theorem modRegion_tick (s : State) (n : Nat) (f : Region → Region) : (s.modRegion n f).tick = s.tick := rfl
@[simp] theorem modRegion_courseSteps (s : State) (n : Nat) (f : Region → Region) : (s.modRegion n f).courseSteps = s.courseSteps := rfl
@[simp] theorem modRegion_cursor (s : State) (n : Nat) (f : Region → Region) : (s.modRegion n f).cursor = s.cursor := rfl
@[simp] theorem modRegion_phase (s : State) (n : Nat) (f : Region → Region) : (s.modRegion n f).phase = s.phase := rfl
@[simp] theorem modRegion_pendMode (s : State) (n : Nat) (f : Region → Region) : (s.modRegion n f).pendMode = s.pendMode := rfl
@[simp] theorem modRegion_bv (s : State) (n : Nat) (f : Region → Region) : (s.modRegion n f).bv = s.bv := rfl
@[simp] theorem modRegion_contribs (s : State) (n : Nat) (f : Region → Region) : (s.modRegion n f).contribs = s.contribs := rfl
@[simp] theorem modRegion_riders (s : State) (n : Nat) (f : Region → Region) : (s.modRegion n f).riders = s.riders := rfl
@[simp] theorem modRegion_nextId (s : State) (n : Nat) (f : Region → Region) : (s.modRegion n f).nextId = s.nextId := rfl
@[simp] theorem modRegion_tlb (s : State) (n : Nat) (f : Region → Region) : (s.modRegion n f).tlb = s.tlb := rfl
@[simp] theorem modRegion_walks (s : State) (n : Nat) (f : Region → Region) : (s.modRegion n f).walks = s.walks := rfl
@[simp] theorem modRegion_streams (s : State) (n : Nat) (f : Region → Region) : (s.modRegion n f).streams = s.streams := rfl
@[simp] theorem modRegion_waiting (s : State) (n : Nat) (f : Region → Region) : (s.modRegion n f).waiting = s.waiting := rfl
@[simp] theorem modRegion_eccBad (s : State) (n : Nat) (f : Region → Region) : (s.modRegion n f).eccBad = s.eccBad := rfl
@[simp] theorem modRegion_eccTime (s : State) (n : Nat) (f : Region → Region) : (s.modRegion n f).eccTime = s.eccTime := rfl
@[simp] theorem modRegion_nodes (s : State) (n : Nat) (f : Region → Region) : (s.modRegion n f).nodes = s.nodes := rfl
@[simp] theorem modRegion_xtiles (s : State) (n : Nat) (f : Region → Region) : (s.modRegion n f).xtiles = s.xtiles := rfl
@[simp] theorem modRegion_xforms (s : State) (n : Nat) (f : Region → Region) : (s.modRegion n f).xforms = s.xforms := rfl
@[simp] theorem modRegion_els (s : State) (n : Nat) (f : Region → Region) : (s.modRegion n f).els = s.els := rfl
@[simp] theorem modRegion_fifos (s : State) (n : Nat) (f : Region → Region) : (s.modRegion n f).fifos = s.fifos := rfl
@[simp] theorem modRegion_portWords (s : State) (n : Nat) (f : Region → Region) : (s.modRegion n f).portWords = s.portWords := rfl
@[simp] theorem modRegion_portStop (s : State) (n : Nat) (f : Region → Region) : (s.modRegion n f).portStop = s.portStop := rfl
@[simp] theorem modRegion_toks (s : State) (n : Nat) (f : Region → Region) : (s.modRegion n f).toks = s.toks := rfl
@[simp] theorem modRegion_retime (s : State) (n : Nat) (f : Region → Region) : (s.modRegion n f).retime = s.retime := rfl
@[simp] theorem modRegion_seqs (s : State) (n : Nat) (f : Region → Region) : (s.modRegion n f).seqs = s.seqs := rfl
@[simp] theorem modRegion_oars (s : State) (n : Nat) (f : Region → Region) : (s.modRegion n f).oars = s.oars := rfl
@[simp] theorem modRegion_hostLinkUp (s : State) (n : Nat) (f : Region → Region) : (s.modRegion n f).hostLinkUp = s.hostLinkUp := rfl
@[simp] theorem modRegion_dieLinkUp (s : State) (n : Nat) (f : Region → Region) : (s.modRegion n f).dieLinkUp = s.dieLinkUp := rfl
@[simp] theorem modRegion_dieRetrain (s : State) (n : Nat) (f : Region → Region) : (s.modRegion n f).dieRetrain = s.dieRetrain := rfl
@[simp] theorem modRegion_dieRetries (s : State) (n : Nat) (f : Region → Region) : (s.modRegion n f).dieRetries = s.dieRetries := rfl
@[simp] theorem modRegion_dieFlit (s : State) (n : Nat) (f : Region → Region) : (s.modRegion n f).dieFlit = s.dieFlit := rfl
@[simp] theorem modRegion_dieSince (s : State) (n : Nat) (f : Region → Region) : (s.modRegion n f).dieSince = s.dieSince := rfl
@[simp] theorem modRegion_boot (s : State) (n : Nat) (f : Region → Region) : (s.modRegion n f).boot = s.boot := rfl
@[simp] theorem modRegion_fwsvn (s : State) (n : Nat) (f : Region → Region) : (s.modRegion n f).fwsvn = s.fwsvn := rfl
@[simp] theorem modRegion_minSvn (s : State) (n : Nat) (f : Region → Region) : (s.modRegion n f).minSvn = s.minSvn := rfl
@[simp] theorem modRegion_fuseKey (s : State) (n : Nat) (f : Region → Region) : (s.modRegion n f).fuseKey = s.fuseKey := rfl
@[simp] theorem modRegion_meas0 (s : State) (n : Nat) (f : Region → Region) : (s.modRegion n f).meas0 = s.meas0 := rfl
@[simp] theorem modRegion_meas1 (s : State) (n : Nat) (f : Region → Region) : (s.modRegion n f).meas1 = s.meas1 := rfl
@[simp] theorem modRegion_nonce (s : State) (n : Nat) (f : Region → Region) : (s.modRegion n f).nonce = s.nonce := rfl
@[simp] theorem modRegion_attest (s : State) (n : Nat) (f : Region → Region) : (s.modRegion n f).attest = s.attest := rfl
@[simp] theorem modRegion_report (s : State) (n : Nat) (f : Region → Region) : (s.modRegion n f).report = s.report := rfl
@[simp] theorem modRegion_sigUsed (s : State) (n : Nat) (f : Region → Region) : (s.modRegion n f).sigUsed = s.sigUsed := rfl
@[simp] theorem modRegion_keySlots (s : State) (n : Nat) (f : Region → Region) : (s.modRegion n f).keySlots = s.keySlots := rfl
@[simp] theorem modRegion_keyBusy (s : State) (n : Nat) (f : Region → Region) : (s.modRegion n f).keyBusy = s.keyBusy := rfl
@[simp] theorem modRegion_cellCc (s : State) (n : Nat) (f : Region → Region) : (s.modRegion n f).cellCc = s.cellCc := rfl
@[simp] theorem modRegion_cellMac (s : State) (n : Nat) (f : Region → Region) : (s.modRegion n f).cellMac = s.cellMac := rfl
@[simp] theorem modRegion_pageGen (s : State) (n : Nat) (f : Region → Region) : (s.modRegion n f).pageGen = s.pageGen := rfl
@[simp] theorem modRegion_treeCtr (s : State) (n : Nat) (f : Region → Region) : (s.modRegion n f).treeCtr = s.treeCtr := rfl
@[simp] theorem modRegion_treeKey (s : State) (n : Nat) (f : Region → Region) : (s.modRegion n f).treeKey = s.treeKey := rfl
@[simp] theorem modRegion_treeWait (s : State) (n : Nat) (f : Region → Region) : (s.modRegion n f).treeWait = s.treeWait := rfl
@[simp] theorem modRegion_alarm (s : State) (n : Nat) (f : Region → Region) : (s.modRegion n f).alarm = s.alarm := rfl
@[simp] theorem modRegion_islFreq (s : State) (n : Nat) (f : Region → Region) : (s.modRegion n f).islFreq = s.islFreq := rfl
@[simp] theorem modRegion_islBudget (s : State) (n : Nat) (f : Region → Region) : (s.modRegion n f).islBudget = s.islBudget := rfl
@[simp] theorem modRegion_islThrot (s : State) (n : Nat) (f : Region → Region) : (s.modRegion n f).islThrot = s.islThrot := rfl
@[simp] theorem modRegion_islStamp (s : State) (n : Nat) (f : Region → Region) : (s.modRegion n f).islStamp = s.islStamp := rfl
@[simp] theorem modRegion_islHold (s : State) (n : Nat) (f : Region → Region) : (s.modRegion n f).islHold = s.islHold := rfl
@[simp] theorem modRegion_islFrom (s : State) (n : Nat) (f : Region → Region) : (s.modRegion n f).islFrom = s.islFrom := rfl
@[simp] theorem modRegion_islCount (s : State) (n : Nat) (f : Region → Region) : (s.modRegion n f).islCount = s.islCount := rfl
@[simp] theorem modRegion_islShown (s : State) (n : Nat) (f : Region → Region) : (s.modRegion n f).islShown = s.islShown := rfl
@[simp] theorem modRegion_reassigned (s : State) (n : Nat) (f : Region → Region) : (s.modRegion n f).reassigned = s.reassigned := rfl
@[simp] theorem modRegion_thermCap (s : State) (n : Nat) (f : Region → Region) : (s.modRegion n f).thermCap = s.thermCap := rfl

/-! ## modNode -/
@[simp] theorem modNode_now (s : State) (k : Nat) (f : Node → Node) : (s.modNode k f).now = s.now := rfl
@[simp] theorem modNode_skew (s : State) (k : Nat) (f : Node → Node) : (s.modNode k f).skew = s.skew := rfl
@[simp] theorem modNode_turns (s : State) (k : Nat) (f : Node → Node) : (s.modNode k f).turns = s.turns := rfl
@[simp] theorem modNode_ev (s : State) (k : Nat) (f : Node → Node) : (s.modNode k f).ev = s.ev := rfl
@[simp] theorem modNode_fresh (s : State) (k : Nat) (f : Node → Node) : (s.modNode k f).fresh = s.fresh := rfl
@[simp] theorem modNode_cur (s : State) (k : Nat) (f : Node → Node) : (s.modNode k f).cur = s.cur := rfl
@[simp] theorem modNode_curSlot (s : State) (k : Nat) (f : Node → Node) : (s.modNode k f).curSlot = s.curSlot := rfl
@[simp] theorem modNode_bundle (s : State) (k : Nat) (f : Node → Node) : (s.modNode k f).bundle = s.bundle := rfl
@[simp] theorem modNode_checked (s : State) (k : Nat) (f : Node → Node) : (s.modNode k f).checked = s.checked := rfl
@[simp] theorem modNode_el (s : State) (k : Nat) (f : Node → Node) : (s.modNode k f).el = s.el := rfl
@[simp] theorem modNode_mem (s : State) (k : Nat) (f : Node → Node) : (s.modNode k f).mem = s.mem := rfl
@[simp] theorem modNode_cores (s : State) (k : Nat) (f : Node → Node) : (s.modNode k f).cores = s.cores := rfl
@[simp] theorem modNode_teams (s : State) (k : Nat) (f : Node → Node) : (s.modNode k f).teams = s.teams := rfl
@[simp] theorem modNode_acct (s : State) (k : Nat) (f : Node → Node) : (s.modNode k f).acct = s.acct := rfl
@[simp] theorem modNode_rvq (s : State) (k : Nat) (f : Node → Node) : (s.modNode k f).rvq = s.rvq := rfl
@[simp] theorem modNode_qnew (s : State) (k : Nat) (f : Node → Node) : (s.modNode k f).qnew = s.qnew := rfl
@[simp] theorem modNode_qcfg (s : State) (k : Nat) (f : Node → Node) : (s.modNode k f).qcfg = s.qcfg := rfl
@[simp] theorem modNode_launches (s : State) (k : Nat) (f : Node → Node) : (s.modNode k f).launches = s.launches := rfl
@[simp] theorem modNode_drops (s : State) (k : Nat) (f : Node → Node) : (s.modNode k f).drops = s.drops := rfl
@[simp] theorem modNode_ccache (s : State) (k : Nat) (f : Node → Node) : (s.modNode k f).ccache = s.ccache := rfl
@[simp] theorem modNode_bar0 (s : State) (k : Nat) (f : Node → Node) : (s.modNode k f).bar0 = s.bar0 := rfl
@[simp] theorem modNode_grantNew (s : State) (k : Nat) (f : Node → Node) : (s.modNode k f).grantNew = s.grantNew := rfl
@[simp] theorem modNode_grant (s : State) (k : Nat) (f : Node → Node) : (s.modNode k f).grant = s.grant := rfl
@[simp] theorem modNode_lndctl (s : State) (k : Nat) (f : Node → Node) : (s.modNode k f).lndctl = s.lndctl := rfl
@[simp] theorem modNode_frzctl (s : State) (k : Nat) (f : Node → Node) : (s.modNode k f).frzctl = s.frzctl := rfl
@[simp] theorem modNode_wrej (s : State) (k : Nat) (f : Node → Node) : (s.modNode k f).wrej = s.wrej := rfl
@[simp] theorem modNode_flr (s : State) (k : Nat) (f : Node → Node) : (s.modNode k f).flr = s.flr := rfl
@[simp] theorem modNode_intst (s : State) (k : Nat) (f : Node → Node) : (s.modNode k f).intst = s.intst := rfl
@[simp] theorem modNode_inten (s : State) (k : Nat) (f : Node → Node) : (s.modNode k f).inten = s.inten := rfl
@[simp] theorem modNode_wdog (s : State) (k : Nat) (f : Node → Node) : (s.modNode k f).wdog = s.wdog := rfl
@[simp] theorem modNode_msix (s : State) (k : Nat) (f : Node → Node) : (s.modNode k f).msix = s.msix := rfl
@[simp] theorem modNode_fq (s : State) (k : Nat) (f : Node → Node) : (s.modNode k f).fq = s.fq := rfl
@[simp] theorem modNode_lost (s : State) (k : Nat) (f : Node → Node) : (s.modNode k f).lost = s.lost := rfl
@[simp] theorem modNode_hostRead (s : State) (k : Nat) (f : Node → Node) : (s.modNode k f).hostRead = s.hostRead := rfl
@[simp] theorem modNode_hostReqs (s : State) (k : Nat) (f : Node → Node) : (s.modNode k f).hostReqs = s.hostReqs := rfl
@[simp] theorem modNode_hostTag (s : State) (k : Nat) (f : Node → Node) : (s.modNode k f).hostTag = s.hostTag := rfl
@[simp] theorem modNode_mps (s : State) (k : Nat) (f : Node → Node) : (s.modNode k f).mps = s.mps := rfl
@[simp] theorem modNode_mrrs (s : State) (k : Nat) (f : Node → Node) : (s.modNode k f).mrrs = s.mrrs := rfl
@[simp] theorem modNode_trinvDone (s : State) (k : Nat) (f : Node → Node) : (s.modNode k f).trinvDone = s.trinvDone := rfl
@[simp] theorem modNode_trinvTime (s : State) (k : Nat) (f : Node → Node) : (s.modNode k f).trinvTime = s.trinvTime := rfl
@[simp] theorem modNode_trinvHeld (s : State) (k : Nat) (f : Node → Node) : (s.modNode k f).trinvHeld = s.trinvHeld := rfl
@[simp] theorem modNode_trinvSpan (s : State) (k : Nat) (f : Node → Node) : (s.modNode k f).trinvSpan = s.trinvSpan := rfl
@[simp] theorem modNode_reports (s : State) (k : Nat) (f : Node → Node) : (s.modNode k f).reports = s.reports := rfl
@[simp] theorem modNode_ovf (s : State) (k : Nat) (f : Node → Node) : (s.modNode k f).ovf = s.ovf := rfl
@[simp] theorem modNode_acc16 (s : State) (k : Nat) (f : Node → Node) : (s.modNode k f).acc16 = s.acc16 := rfl
@[simp] theorem modNode_tick (s : State) (k : Nat) (f : Node → Node) : (s.modNode k f).tick = s.tick := rfl
@[simp] theorem modNode_courseSteps (s : State) (k : Nat) (f : Node → Node) : (s.modNode k f).courseSteps = s.courseSteps := rfl
@[simp] theorem modNode_cursor (s : State) (k : Nat) (f : Node → Node) : (s.modNode k f).cursor = s.cursor := rfl
@[simp] theorem modNode_phase (s : State) (k : Nat) (f : Node → Node) : (s.modNode k f).phase = s.phase := rfl
@[simp] theorem modNode_pendMode (s : State) (k : Nat) (f : Node → Node) : (s.modNode k f).pendMode = s.pendMode := rfl
@[simp] theorem modNode_bv (s : State) (k : Nat) (f : Node → Node) : (s.modNode k f).bv = s.bv := rfl
@[simp] theorem modNode_contribs (s : State) (k : Nat) (f : Node → Node) : (s.modNode k f).contribs = s.contribs := rfl
@[simp] theorem modNode_riders (s : State) (k : Nat) (f : Node → Node) : (s.modNode k f).riders = s.riders := rfl
@[simp] theorem modNode_nextId (s : State) (k : Nat) (f : Node → Node) : (s.modNode k f).nextId = s.nextId := rfl
@[simp] theorem modNode_tlb (s : State) (k : Nat) (f : Node → Node) : (s.modNode k f).tlb = s.tlb := rfl
@[simp] theorem modNode_walks (s : State) (k : Nat) (f : Node → Node) : (s.modNode k f).walks = s.walks := rfl
@[simp] theorem modNode_streams (s : State) (k : Nat) (f : Node → Node) : (s.modNode k f).streams = s.streams := rfl
@[simp] theorem modNode_waiting (s : State) (k : Nat) (f : Node → Node) : (s.modNode k f).waiting = s.waiting := rfl
@[simp] theorem modNode_eccBad (s : State) (k : Nat) (f : Node → Node) : (s.modNode k f).eccBad = s.eccBad := rfl
@[simp] theorem modNode_eccTime (s : State) (k : Nat) (f : Node → Node) : (s.modNode k f).eccTime = s.eccTime := rfl
@[simp] theorem modNode_xtiles (s : State) (k : Nat) (f : Node → Node) : (s.modNode k f).xtiles = s.xtiles := rfl
@[simp] theorem modNode_xforms (s : State) (k : Nat) (f : Node → Node) : (s.modNode k f).xforms = s.xforms := rfl
@[simp] theorem modNode_regions (s : State) (k : Nat) (f : Node → Node) : (s.modNode k f).regions = s.regions := rfl
@[simp] theorem modNode_els (s : State) (k : Nat) (f : Node → Node) : (s.modNode k f).els = s.els := rfl
@[simp] theorem modNode_fifos (s : State) (k : Nat) (f : Node → Node) : (s.modNode k f).fifos = s.fifos := rfl
@[simp] theorem modNode_portWords (s : State) (k : Nat) (f : Node → Node) : (s.modNode k f).portWords = s.portWords := rfl
@[simp] theorem modNode_portStop (s : State) (k : Nat) (f : Node → Node) : (s.modNode k f).portStop = s.portStop := rfl
@[simp] theorem modNode_toks (s : State) (k : Nat) (f : Node → Node) : (s.modNode k f).toks = s.toks := rfl
@[simp] theorem modNode_retime (s : State) (k : Nat) (f : Node → Node) : (s.modNode k f).retime = s.retime := rfl
@[simp] theorem modNode_seqs (s : State) (k : Nat) (f : Node → Node) : (s.modNode k f).seqs = s.seqs := rfl
@[simp] theorem modNode_oars (s : State) (k : Nat) (f : Node → Node) : (s.modNode k f).oars = s.oars := rfl
@[simp] theorem modNode_hostLinkUp (s : State) (k : Nat) (f : Node → Node) : (s.modNode k f).hostLinkUp = s.hostLinkUp := rfl
@[simp] theorem modNode_dieLinkUp (s : State) (k : Nat) (f : Node → Node) : (s.modNode k f).dieLinkUp = s.dieLinkUp := rfl
@[simp] theorem modNode_dieRetrain (s : State) (k : Nat) (f : Node → Node) : (s.modNode k f).dieRetrain = s.dieRetrain := rfl
@[simp] theorem modNode_dieRetries (s : State) (k : Nat) (f : Node → Node) : (s.modNode k f).dieRetries = s.dieRetries := rfl
@[simp] theorem modNode_dieFlit (s : State) (k : Nat) (f : Node → Node) : (s.modNode k f).dieFlit = s.dieFlit := rfl
@[simp] theorem modNode_dieSince (s : State) (k : Nat) (f : Node → Node) : (s.modNode k f).dieSince = s.dieSince := rfl
@[simp] theorem modNode_boot (s : State) (k : Nat) (f : Node → Node) : (s.modNode k f).boot = s.boot := rfl
@[simp] theorem modNode_fwsvn (s : State) (k : Nat) (f : Node → Node) : (s.modNode k f).fwsvn = s.fwsvn := rfl
@[simp] theorem modNode_minSvn (s : State) (k : Nat) (f : Node → Node) : (s.modNode k f).minSvn = s.minSvn := rfl
@[simp] theorem modNode_fuseKey (s : State) (k : Nat) (f : Node → Node) : (s.modNode k f).fuseKey = s.fuseKey := rfl
@[simp] theorem modNode_meas0 (s : State) (k : Nat) (f : Node → Node) : (s.modNode k f).meas0 = s.meas0 := rfl
@[simp] theorem modNode_meas1 (s : State) (k : Nat) (f : Node → Node) : (s.modNode k f).meas1 = s.meas1 := rfl
@[simp] theorem modNode_nonce (s : State) (k : Nat) (f : Node → Node) : (s.modNode k f).nonce = s.nonce := rfl
@[simp] theorem modNode_attest (s : State) (k : Nat) (f : Node → Node) : (s.modNode k f).attest = s.attest := rfl
@[simp] theorem modNode_report (s : State) (k : Nat) (f : Node → Node) : (s.modNode k f).report = s.report := rfl
@[simp] theorem modNode_sigUsed (s : State) (k : Nat) (f : Node → Node) : (s.modNode k f).sigUsed = s.sigUsed := rfl
@[simp] theorem modNode_keySlots (s : State) (k : Nat) (f : Node → Node) : (s.modNode k f).keySlots = s.keySlots := rfl
@[simp] theorem modNode_keyBusy (s : State) (k : Nat) (f : Node → Node) : (s.modNode k f).keyBusy = s.keyBusy := rfl
@[simp] theorem modNode_cellCc (s : State) (k : Nat) (f : Node → Node) : (s.modNode k f).cellCc = s.cellCc := rfl
@[simp] theorem modNode_cellMac (s : State) (k : Nat) (f : Node → Node) : (s.modNode k f).cellMac = s.cellMac := rfl
@[simp] theorem modNode_pageGen (s : State) (k : Nat) (f : Node → Node) : (s.modNode k f).pageGen = s.pageGen := rfl
@[simp] theorem modNode_treeCtr (s : State) (k : Nat) (f : Node → Node) : (s.modNode k f).treeCtr = s.treeCtr := rfl
@[simp] theorem modNode_treeKey (s : State) (k : Nat) (f : Node → Node) : (s.modNode k f).treeKey = s.treeKey := rfl
@[simp] theorem modNode_treeWait (s : State) (k : Nat) (f : Node → Node) : (s.modNode k f).treeWait = s.treeWait := rfl
@[simp] theorem modNode_alarm (s : State) (k : Nat) (f : Node → Node) : (s.modNode k f).alarm = s.alarm := rfl
@[simp] theorem modNode_islFreq (s : State) (k : Nat) (f : Node → Node) : (s.modNode k f).islFreq = s.islFreq := rfl
@[simp] theorem modNode_islBudget (s : State) (k : Nat) (f : Node → Node) : (s.modNode k f).islBudget = s.islBudget := rfl
@[simp] theorem modNode_islThrot (s : State) (k : Nat) (f : Node → Node) : (s.modNode k f).islThrot = s.islThrot := rfl
@[simp] theorem modNode_islStamp (s : State) (k : Nat) (f : Node → Node) : (s.modNode k f).islStamp = s.islStamp := rfl
@[simp] theorem modNode_islHold (s : State) (k : Nat) (f : Node → Node) : (s.modNode k f).islHold = s.islHold := rfl
@[simp] theorem modNode_islFrom (s : State) (k : Nat) (f : Node → Node) : (s.modNode k f).islFrom = s.islFrom := rfl
@[simp] theorem modNode_islCount (s : State) (k : Nat) (f : Node → Node) : (s.modNode k f).islCount = s.islCount := rfl
@[simp] theorem modNode_islShown (s : State) (k : Nat) (f : Node → Node) : (s.modNode k f).islShown = s.islShown := rfl
@[simp] theorem modNode_reassigned (s : State) (k : Nat) (f : Node → Node) : (s.modNode k f).reassigned = s.reassigned := rfl
@[simp] theorem modNode_thermCap (s : State) (k : Nat) (f : Node → Node) : (s.modNode k f).thermCap = s.thermCap := rfl

/-! ## modTile -/
@[simp] theorem modTile_now (s : State) (u : Nat) (f : XTile → XTile) : (s.modTile u f).now = s.now := rfl
@[simp] theorem modTile_skew (s : State) (u : Nat) (f : XTile → XTile) : (s.modTile u f).skew = s.skew := rfl
@[simp] theorem modTile_turns (s : State) (u : Nat) (f : XTile → XTile) : (s.modTile u f).turns = s.turns := rfl
@[simp] theorem modTile_ev (s : State) (u : Nat) (f : XTile → XTile) : (s.modTile u f).ev = s.ev := rfl
@[simp] theorem modTile_fresh (s : State) (u : Nat) (f : XTile → XTile) : (s.modTile u f).fresh = s.fresh := rfl
@[simp] theorem modTile_cur (s : State) (u : Nat) (f : XTile → XTile) : (s.modTile u f).cur = s.cur := rfl
@[simp] theorem modTile_curSlot (s : State) (u : Nat) (f : XTile → XTile) : (s.modTile u f).curSlot = s.curSlot := rfl
@[simp] theorem modTile_bundle (s : State) (u : Nat) (f : XTile → XTile) : (s.modTile u f).bundle = s.bundle := rfl
@[simp] theorem modTile_checked (s : State) (u : Nat) (f : XTile → XTile) : (s.modTile u f).checked = s.checked := rfl
@[simp] theorem modTile_el (s : State) (u : Nat) (f : XTile → XTile) : (s.modTile u f).el = s.el := rfl
@[simp] theorem modTile_mem (s : State) (u : Nat) (f : XTile → XTile) : (s.modTile u f).mem = s.mem := rfl
@[simp] theorem modTile_cores (s : State) (u : Nat) (f : XTile → XTile) : (s.modTile u f).cores = s.cores := rfl
@[simp] theorem modTile_teams (s : State) (u : Nat) (f : XTile → XTile) : (s.modTile u f).teams = s.teams := rfl
@[simp] theorem modTile_acct (s : State) (u : Nat) (f : XTile → XTile) : (s.modTile u f).acct = s.acct := rfl
@[simp] theorem modTile_rvq (s : State) (u : Nat) (f : XTile → XTile) : (s.modTile u f).rvq = s.rvq := rfl
@[simp] theorem modTile_qnew (s : State) (u : Nat) (f : XTile → XTile) : (s.modTile u f).qnew = s.qnew := rfl
@[simp] theorem modTile_qcfg (s : State) (u : Nat) (f : XTile → XTile) : (s.modTile u f).qcfg = s.qcfg := rfl
@[simp] theorem modTile_launches (s : State) (u : Nat) (f : XTile → XTile) : (s.modTile u f).launches = s.launches := rfl
@[simp] theorem modTile_drops (s : State) (u : Nat) (f : XTile → XTile) : (s.modTile u f).drops = s.drops := rfl
@[simp] theorem modTile_ccache (s : State) (u : Nat) (f : XTile → XTile) : (s.modTile u f).ccache = s.ccache := rfl
@[simp] theorem modTile_bar0 (s : State) (u : Nat) (f : XTile → XTile) : (s.modTile u f).bar0 = s.bar0 := rfl
@[simp] theorem modTile_grantNew (s : State) (u : Nat) (f : XTile → XTile) : (s.modTile u f).grantNew = s.grantNew := rfl
@[simp] theorem modTile_grant (s : State) (u : Nat) (f : XTile → XTile) : (s.modTile u f).grant = s.grant := rfl
@[simp] theorem modTile_lndctl (s : State) (u : Nat) (f : XTile → XTile) : (s.modTile u f).lndctl = s.lndctl := rfl
@[simp] theorem modTile_frzctl (s : State) (u : Nat) (f : XTile → XTile) : (s.modTile u f).frzctl = s.frzctl := rfl
@[simp] theorem modTile_wrej (s : State) (u : Nat) (f : XTile → XTile) : (s.modTile u f).wrej = s.wrej := rfl
@[simp] theorem modTile_flr (s : State) (u : Nat) (f : XTile → XTile) : (s.modTile u f).flr = s.flr := rfl
@[simp] theorem modTile_intst (s : State) (u : Nat) (f : XTile → XTile) : (s.modTile u f).intst = s.intst := rfl
@[simp] theorem modTile_inten (s : State) (u : Nat) (f : XTile → XTile) : (s.modTile u f).inten = s.inten := rfl
@[simp] theorem modTile_wdog (s : State) (u : Nat) (f : XTile → XTile) : (s.modTile u f).wdog = s.wdog := rfl
@[simp] theorem modTile_msix (s : State) (u : Nat) (f : XTile → XTile) : (s.modTile u f).msix = s.msix := rfl
@[simp] theorem modTile_fq (s : State) (u : Nat) (f : XTile → XTile) : (s.modTile u f).fq = s.fq := rfl
@[simp] theorem modTile_lost (s : State) (u : Nat) (f : XTile → XTile) : (s.modTile u f).lost = s.lost := rfl
@[simp] theorem modTile_hostRead (s : State) (u : Nat) (f : XTile → XTile) : (s.modTile u f).hostRead = s.hostRead := rfl
@[simp] theorem modTile_hostReqs (s : State) (u : Nat) (f : XTile → XTile) : (s.modTile u f).hostReqs = s.hostReqs := rfl
@[simp] theorem modTile_hostTag (s : State) (u : Nat) (f : XTile → XTile) : (s.modTile u f).hostTag = s.hostTag := rfl
@[simp] theorem modTile_mps (s : State) (u : Nat) (f : XTile → XTile) : (s.modTile u f).mps = s.mps := rfl
@[simp] theorem modTile_mrrs (s : State) (u : Nat) (f : XTile → XTile) : (s.modTile u f).mrrs = s.mrrs := rfl
@[simp] theorem modTile_trinvDone (s : State) (u : Nat) (f : XTile → XTile) : (s.modTile u f).trinvDone = s.trinvDone := rfl
@[simp] theorem modTile_trinvTime (s : State) (u : Nat) (f : XTile → XTile) : (s.modTile u f).trinvTime = s.trinvTime := rfl
@[simp] theorem modTile_trinvHeld (s : State) (u : Nat) (f : XTile → XTile) : (s.modTile u f).trinvHeld = s.trinvHeld := rfl
@[simp] theorem modTile_trinvSpan (s : State) (u : Nat) (f : XTile → XTile) : (s.modTile u f).trinvSpan = s.trinvSpan := rfl
@[simp] theorem modTile_reports (s : State) (u : Nat) (f : XTile → XTile) : (s.modTile u f).reports = s.reports := rfl
@[simp] theorem modTile_ovf (s : State) (u : Nat) (f : XTile → XTile) : (s.modTile u f).ovf = s.ovf := rfl
@[simp] theorem modTile_acc16 (s : State) (u : Nat) (f : XTile → XTile) : (s.modTile u f).acc16 = s.acc16 := rfl
@[simp] theorem modTile_tick (s : State) (u : Nat) (f : XTile → XTile) : (s.modTile u f).tick = s.tick := rfl
@[simp] theorem modTile_courseSteps (s : State) (u : Nat) (f : XTile → XTile) : (s.modTile u f).courseSteps = s.courseSteps := rfl
@[simp] theorem modTile_cursor (s : State) (u : Nat) (f : XTile → XTile) : (s.modTile u f).cursor = s.cursor := rfl
@[simp] theorem modTile_phase (s : State) (u : Nat) (f : XTile → XTile) : (s.modTile u f).phase = s.phase := rfl
@[simp] theorem modTile_pendMode (s : State) (u : Nat) (f : XTile → XTile) : (s.modTile u f).pendMode = s.pendMode := rfl
@[simp] theorem modTile_bv (s : State) (u : Nat) (f : XTile → XTile) : (s.modTile u f).bv = s.bv := rfl
@[simp] theorem modTile_contribs (s : State) (u : Nat) (f : XTile → XTile) : (s.modTile u f).contribs = s.contribs := rfl
@[simp] theorem modTile_riders (s : State) (u : Nat) (f : XTile → XTile) : (s.modTile u f).riders = s.riders := rfl
@[simp] theorem modTile_nextId (s : State) (u : Nat) (f : XTile → XTile) : (s.modTile u f).nextId = s.nextId := rfl
@[simp] theorem modTile_tlb (s : State) (u : Nat) (f : XTile → XTile) : (s.modTile u f).tlb = s.tlb := rfl
@[simp] theorem modTile_walks (s : State) (u : Nat) (f : XTile → XTile) : (s.modTile u f).walks = s.walks := rfl
@[simp] theorem modTile_streams (s : State) (u : Nat) (f : XTile → XTile) : (s.modTile u f).streams = s.streams := rfl
@[simp] theorem modTile_waiting (s : State) (u : Nat) (f : XTile → XTile) : (s.modTile u f).waiting = s.waiting := rfl
@[simp] theorem modTile_eccBad (s : State) (u : Nat) (f : XTile → XTile) : (s.modTile u f).eccBad = s.eccBad := rfl
@[simp] theorem modTile_eccTime (s : State) (u : Nat) (f : XTile → XTile) : (s.modTile u f).eccTime = s.eccTime := rfl
@[simp] theorem modTile_nodes (s : State) (u : Nat) (f : XTile → XTile) : (s.modTile u f).nodes = s.nodes := rfl
@[simp] theorem modTile_xforms (s : State) (u : Nat) (f : XTile → XTile) : (s.modTile u f).xforms = s.xforms := rfl
@[simp] theorem modTile_regions (s : State) (u : Nat) (f : XTile → XTile) : (s.modTile u f).regions = s.regions := rfl
@[simp] theorem modTile_els (s : State) (u : Nat) (f : XTile → XTile) : (s.modTile u f).els = s.els := rfl
@[simp] theorem modTile_fifos (s : State) (u : Nat) (f : XTile → XTile) : (s.modTile u f).fifos = s.fifos := rfl
@[simp] theorem modTile_portWords (s : State) (u : Nat) (f : XTile → XTile) : (s.modTile u f).portWords = s.portWords := rfl
@[simp] theorem modTile_portStop (s : State) (u : Nat) (f : XTile → XTile) : (s.modTile u f).portStop = s.portStop := rfl
@[simp] theorem modTile_toks (s : State) (u : Nat) (f : XTile → XTile) : (s.modTile u f).toks = s.toks := rfl
@[simp] theorem modTile_retime (s : State) (u : Nat) (f : XTile → XTile) : (s.modTile u f).retime = s.retime := rfl
@[simp] theorem modTile_seqs (s : State) (u : Nat) (f : XTile → XTile) : (s.modTile u f).seqs = s.seqs := rfl
@[simp] theorem modTile_oars (s : State) (u : Nat) (f : XTile → XTile) : (s.modTile u f).oars = s.oars := rfl
@[simp] theorem modTile_hostLinkUp (s : State) (u : Nat) (f : XTile → XTile) : (s.modTile u f).hostLinkUp = s.hostLinkUp := rfl
@[simp] theorem modTile_dieLinkUp (s : State) (u : Nat) (f : XTile → XTile) : (s.modTile u f).dieLinkUp = s.dieLinkUp := rfl
@[simp] theorem modTile_dieRetrain (s : State) (u : Nat) (f : XTile → XTile) : (s.modTile u f).dieRetrain = s.dieRetrain := rfl
@[simp] theorem modTile_dieRetries (s : State) (u : Nat) (f : XTile → XTile) : (s.modTile u f).dieRetries = s.dieRetries := rfl
@[simp] theorem modTile_dieFlit (s : State) (u : Nat) (f : XTile → XTile) : (s.modTile u f).dieFlit = s.dieFlit := rfl
@[simp] theorem modTile_dieSince (s : State) (u : Nat) (f : XTile → XTile) : (s.modTile u f).dieSince = s.dieSince := rfl
@[simp] theorem modTile_boot (s : State) (u : Nat) (f : XTile → XTile) : (s.modTile u f).boot = s.boot := rfl
@[simp] theorem modTile_fwsvn (s : State) (u : Nat) (f : XTile → XTile) : (s.modTile u f).fwsvn = s.fwsvn := rfl
@[simp] theorem modTile_minSvn (s : State) (u : Nat) (f : XTile → XTile) : (s.modTile u f).minSvn = s.minSvn := rfl
@[simp] theorem modTile_fuseKey (s : State) (u : Nat) (f : XTile → XTile) : (s.modTile u f).fuseKey = s.fuseKey := rfl
@[simp] theorem modTile_meas0 (s : State) (u : Nat) (f : XTile → XTile) : (s.modTile u f).meas0 = s.meas0 := rfl
@[simp] theorem modTile_meas1 (s : State) (u : Nat) (f : XTile → XTile) : (s.modTile u f).meas1 = s.meas1 := rfl
@[simp] theorem modTile_nonce (s : State) (u : Nat) (f : XTile → XTile) : (s.modTile u f).nonce = s.nonce := rfl
@[simp] theorem modTile_attest (s : State) (u : Nat) (f : XTile → XTile) : (s.modTile u f).attest = s.attest := rfl
@[simp] theorem modTile_report (s : State) (u : Nat) (f : XTile → XTile) : (s.modTile u f).report = s.report := rfl
@[simp] theorem modTile_sigUsed (s : State) (u : Nat) (f : XTile → XTile) : (s.modTile u f).sigUsed = s.sigUsed := rfl
@[simp] theorem modTile_keySlots (s : State) (u : Nat) (f : XTile → XTile) : (s.modTile u f).keySlots = s.keySlots := rfl
@[simp] theorem modTile_keyBusy (s : State) (u : Nat) (f : XTile → XTile) : (s.modTile u f).keyBusy = s.keyBusy := rfl
@[simp] theorem modTile_cellCc (s : State) (u : Nat) (f : XTile → XTile) : (s.modTile u f).cellCc = s.cellCc := rfl
@[simp] theorem modTile_cellMac (s : State) (u : Nat) (f : XTile → XTile) : (s.modTile u f).cellMac = s.cellMac := rfl
@[simp] theorem modTile_pageGen (s : State) (u : Nat) (f : XTile → XTile) : (s.modTile u f).pageGen = s.pageGen := rfl
@[simp] theorem modTile_treeCtr (s : State) (u : Nat) (f : XTile → XTile) : (s.modTile u f).treeCtr = s.treeCtr := rfl
@[simp] theorem modTile_treeKey (s : State) (u : Nat) (f : XTile → XTile) : (s.modTile u f).treeKey = s.treeKey := rfl
@[simp] theorem modTile_treeWait (s : State) (u : Nat) (f : XTile → XTile) : (s.modTile u f).treeWait = s.treeWait := rfl
@[simp] theorem modTile_alarm (s : State) (u : Nat) (f : XTile → XTile) : (s.modTile u f).alarm = s.alarm := rfl
@[simp] theorem modTile_islFreq (s : State) (u : Nat) (f : XTile → XTile) : (s.modTile u f).islFreq = s.islFreq := rfl
@[simp] theorem modTile_islBudget (s : State) (u : Nat) (f : XTile → XTile) : (s.modTile u f).islBudget = s.islBudget := rfl
@[simp] theorem modTile_islThrot (s : State) (u : Nat) (f : XTile → XTile) : (s.modTile u f).islThrot = s.islThrot := rfl
@[simp] theorem modTile_islStamp (s : State) (u : Nat) (f : XTile → XTile) : (s.modTile u f).islStamp = s.islStamp := rfl
@[simp] theorem modTile_islHold (s : State) (u : Nat) (f : XTile → XTile) : (s.modTile u f).islHold = s.islHold := rfl
@[simp] theorem modTile_islFrom (s : State) (u : Nat) (f : XTile → XTile) : (s.modTile u f).islFrom = s.islFrom := rfl
@[simp] theorem modTile_islCount (s : State) (u : Nat) (f : XTile → XTile) : (s.modTile u f).islCount = s.islCount := rfl
@[simp] theorem modTile_islShown (s : State) (u : Nat) (f : XTile → XTile) : (s.modTile u f).islShown = s.islShown := rfl
@[simp] theorem modTile_reassigned (s : State) (u : Nat) (f : XTile → XTile) : (s.modTile u f).reassigned = s.reassigned := rfl
@[simp] theorem modTile_thermCap (s : State) (u : Nat) (f : XTile → XTile) : (s.modTile u f).thermCap = s.thermCap := rfl

/-! ## The updated field -/
@[simp] theorem setCore_cores (s : State) (c : Nat) (v : Core) : (s.setCore c v).cores = s.cores.set c v := rfl
@[simp] theorem modCore_cores (s : State) (c : Nat) (f : Core → Core) : (s.modCore c f).cores = s.cores.set c (f (s.core c)) := rfl
@[simp] theorem modMe_cores (s : State) (f : Core → Core) : (s.modMe f).cores = s.cores.set s.cur (f s.me) := rfl
@[simp] theorem post_turns (s : State) (i : Instr) (a : List Nat) : (s.post i a).turns = ⟨0, .event i a⟩ :: s.turns := rfl
@[simp] theorem modTeam_teams (s : State) (t : Nat) (f : Team → Team) : (s.modTeam t f).teams = s.teams.modify t f := rfl
@[simp] theorem modRegion_regions (s : State) (n : Nat) (f : Region → Region) : (s.modRegion n f).regions = s.regions.modify n f := rfl

/-- The core just set reads back. -/
theorem core_setCore_same (s : State) (c : Nat) (v : Core) (h : c < s.cores.length) : (s.setCore c v).core c = v := by
  simp [State.core, h]

/-- Every other core stands. -/
theorem core_setCore_other (s : State) (c d : Nat) (v : Core) (h : d ≠ c) : (s.setCore c v).core d = s.core d := by
  simp [State.core, Ne.symm h]

theorem core_modCore_same (s : State) (c : Nat) (f : Core → Core) (h : c < s.cores.length) : (s.modCore c f).core c = f (s.core c) :=
  core_setCore_same s c _ h

theorem core_modCore_other (s : State) (c d : Nat) (f : Core → Core) (h : d ≠ c) : (s.modCore c f).core d = s.core d :=
  core_setCore_other s c d _ h

/-- A core set to what it holds leaves the state. -/
theorem setCore_self (s : State) (c : Nat) : s.setCore c (s.core c) = s := by
  unfold State.setCore State.core
  by_cases h : c < s.cores.length
  · have : s.cores.set c (s.cores.getD c Core.empty) = s.cores := by
      rw [List.getD_eq_getElem?_getD, List.getElem?_eq_getElem h]; simp
    rw [this]
  · rw [List.set_eq_of_length_le (by omega)]

/-- The team just changed reads back. -/
theorem team_modTeam_same (s : State) (t : Nat) (f : Team → Team) : (s.modTeam t f).team? t = (s.team? t).map f := by
  simp [State.team?]

theorem team_modTeam_other (s : State) (t n : Nat) (f : Team → Team) (h : n ≠ t) : (s.modTeam t f).team? n = s.team? n := by
  simp [State.team?, Ne.symm h]

/-- The region just changed reads back. -/
theorem region_modRegion_same (s : State) (n : Nat) (f : Region → Region) : (s.modRegion n f).region n = (s.region n).map f := by
  simp [State.region]

theorem region_modRegion_other (s : State) (n m : Nat) (f : Region → Region) (h : m ≠ n) : (s.modRegion n f).region m = s.region m := by
  simp [State.region, Ne.symm h]

end Sys2Proof.Machine
end

