-- ==== Sys2Proof/Laws/Tab.lean ====
section
/-! SUPPORT. What reads of a table or a memory give after its operations, and that every operation keeps the canonical form. -/

namespace Sys2Proof.Machine

/-- No entry has key `k`. -/
def Tab.free {α : Type} (k : Nat) (t : Tab α) : Prop := ∀ e ∈ t, e.1 ≠ k

theorem Tab.free_del {α : Type} (k : Nat) (t : Tab α) : Tab.free k (Tab.del k t) := by
  induction t with
  | nil => simp [Tab.free, Tab.del]
  | cons e t ih =>
    obtain ⟨a, w⟩ := e
    by_cases h : a = k
    · simpa [Tab.del, h] using ih
    · intro x hx
      simp only [Tab.del, h, if_false, List.mem_cons] at hx
      rcases hx with rfl | hx
      · exact h
      · exact ih x hx

theorem Tab.get_del {α : Type} (d : α) (t : Tab α) (k j : Nat) :
    Tab.get d (Tab.del k t) j = if j = k then d else Tab.get d t j := by
  induction t with
  | nil => simp [Tab.get, Tab.del]
  | cons e t ih =>
    obtain ⟨a, w⟩ := e
    by_cases h : a = k <;> by_cases hj : a = j <;> simp_all [Tab.get, Tab.del]

theorem Tab.get_ins {α : Type} (d : α) (t : Tab α) (k j : Nat) (v : α) (h : Tab.free k t) :
    Tab.get d (Tab.ins k v t) j = if j = k then v else Tab.get d t j := by
  induction t with
  | nil => simp [Tab.get, Tab.ins, eq_comm]
  | cons e t ih =>
    obtain ⟨a, w⟩ := e
    have ha : a ≠ k := h (a, w) (by simp)
    have ht : Tab.free k t := fun x hx => h x (by simp [hx])
    by_cases hk : k < a
    · simp [Tab.ins, hk, Tab.get, eq_comm]
    · by_cases hj : a = j
      · subst hj; simp [Tab.ins, hk, Tab.get, ha]
      · simp [Tab.ins, hk, Tab.get, hj, ih ht]

/-- A table reads back what was set, and every other key as before. -/
theorem Tab.get_set {α : Type} [DecidableEq α] (d : α) (t : Tab α) (k j : Nat) (v : α) :
    Tab.get d (Tab.set d t k v) j = if j = k then v else Tab.get d t j := by
  unfold Tab.set
  split
  · next h => subst h; exact Tab.get_del _ _ _ _
  · rw [Tab.get_ins d _ _ _ _ (Tab.free_del k t), Tab.get_del]; split <;> simp_all

@[simp] theorem Tab.get_set_same {α : Type} [DecidableEq α] (d : α) (t : Tab α) (k : Nat) (v : α) :
    Tab.get d (Tab.set d t k v) k = v := by simp [Tab.get_set]

theorem Tab.get_set_other {α : Type} [DecidableEq α] (d : α) (t : Tab α) (k j : Nat) (v : α) (h : j ≠ k) :
    Tab.get d (Tab.set d t k v) j = Tab.get d t j := by simp [Tab.get_set, h]

@[simp] theorem Tab.get_mod_same {α : Type} [DecidableEq α] (d : α) (t : Tab α) (k : Nat) (f : α → α) :
    Tab.get d (Tab.mod d t k f) k = f (Tab.get d t k) := by simp [Tab.mod]

theorem Tab.get_mod_other {α : Type} [DecidableEq α] (d : α) (t : Tab α) (k j : Nat) (f : α → α) (h : j ≠ k) :
    Tab.get d (Tab.mod d t k f) j = Tab.get d t j := by simp [Tab.mod, Tab.get_set, h]

/-! ## The canonical form -/

theorem Tab.above_weaken {α : Type} (a b : Nat) (t : Tab α) (h : a ≤ b) (ht : Tab.above b t = true) : Tab.above a t = true := by
  induction t with
  | nil => rfl
  | cons e t ih =>
    obtain ⟨c, w⟩ := e
    simp only [Tab.above, Bool.and_eq_true, decide_eq_true_eq] at ht ⊢
    exact ⟨by omega, ih ht.2⟩

theorem Tab.above_del {α : Type} (a k : Nat) (t : Tab α) (ht : Tab.above a t = true) : Tab.above a (Tab.del k t) = true := by
  induction t with
  | nil => rfl
  | cons e t ih =>
    obtain ⟨c, w⟩ := e
    simp only [Tab.above, Bool.and_eq_true, decide_eq_true_eq] at ht
    unfold Tab.del
    split
    · exact ih ht.2
    · simp [Tab.above, ht.1, ih ht.2]

theorem Tab.above_ins {α : Type} (a k : Nat) (v : α) (t : Tab α) (hk : a < k) (ht : Tab.above a t = true) :
    Tab.above a (Tab.ins k v t) = true := by
  induction t with
  | nil => simp [Tab.ins, Tab.above, hk]
  | cons e t ih =>
    obtain ⟨c, w⟩ := e
    simp only [Tab.above, Bool.and_eq_true, decide_eq_true_eq] at ht
    unfold Tab.ins
    split
    · simp [Tab.above, hk, ht.1, ht.2]
    · simp [Tab.above, ht.1, ih ht.2]

theorem Tab.wf_del {α : Type} [DecidableEq α] (d : α) (k : Nat) (t : Tab α) (ht : Tab.wf d t = true) : Tab.wf d (Tab.del k t) = true := by
  induction t with
  | nil => rfl
  | cons e t ih =>
    obtain ⟨c, w⟩ := e
    simp only [Tab.wf, Bool.and_eq_true, decide_eq_true_eq] at ht
    unfold Tab.del
    split
    · exact ih ht.2
    · simp [Tab.wf, ht.1.1, Tab.above_del c k t ht.1.2, ih ht.2]

theorem Tab.wf_ins {α : Type} [DecidableEq α] (d : α) (k : Nat) (v : α) (t : Tab α) (hv : v ≠ d) (hf : Tab.free k t) (ht : Tab.wf d t = true) :
    Tab.wf d (Tab.ins k v t) = true := by
  induction t with
  | nil => simp [Tab.ins, Tab.wf, hv, Tab.above]
  | cons e t ih =>
    obtain ⟨c, w⟩ := e
    have hc : c ≠ k := hf (c, w) (by simp)
    have hft : Tab.free k t := fun x hx => hf x (by simp [hx])
    simp only [Tab.wf, Bool.and_eq_true, decide_eq_true_eq] at ht
    unfold Tab.ins
    split
    · next h => simp [Tab.wf, hv, Tab.above, h, ht.1.1, ht.1.2, ht.2, Tab.above_weaken k c t (by omega) ht.1.2]
    · next h => simp [Tab.wf, ht.1.1, Tab.above_ins c k v t (by omega) ht.1.2, ih hft ht.2]

/-- Setting a key keeps the canonical form. -/
theorem Tab.wf_set {α : Type} [DecidableEq α] (d : α) (t : Tab α) (k : Nat) (v : α) (ht : Tab.wf d t = true) : Tab.wf d (Tab.set d t k v) = true := by
  unfold Tab.set
  split
  · exact Tab.wf_del d k t ht
  · next h => exact Tab.wf_ins d k v _ h (Tab.free_del k t) (Tab.wf_del d k t ht)

/-! ## Memory -/

theorem Memory.wf_write (m : Memory) (a : Nat) (b : Byte) (h : m.wf = true) : (m.write a b).wf = true := Tab.wf_set _ m a b h

theorem Memory.wf_writeN (n : Nat) : ∀ (m : Memory) (a v : Nat), m.wf = true → (m.writeN a n v).wf = true := by
  induction n with
  | zero => intro m a v h; exact h
  | succ n ih => intro m a v h; exact ih _ _ _ (Memory.wf_write m a _ h)

theorem Memory.wf_copy (n : Nat) : ∀ (m : Memory) (a b : Nat), m.wf = true → (m.copy a b n).wf = true := by
  induction n with
  | zero => intro m a b h; exact h
  | succ n ih => intro m a b h; exact ih _ _ _ (Memory.wf_write m b _ h)

theorem Memory.wf_clear (n : Nat) : ∀ (m : Memory) (a : Nat), m.wf = true → (m.clear a n).wf = true := by
  induction n with
  | zero => intro m a h; exact h
  | succ n ih => intro m a h; exact ih _ _ (Memory.wf_write m a 0 h)

theorem Memory.wf_putBytes (l : List Byte) : ∀ (m : Memory) (a : Nat), m.wf = true → (m.putBytes a l).wf = true := by
  induction l with
  | nil => intro m a h; exact h
  | cons b t ih => intro m a h; exact ih _ _ (Memory.wf_write m a b h)

/-- Reset memory has the canonical form. -/
theorem reset_mem_wf : State.reset.mem.wf = true := rfl

@[simp] theorem Memory.read_write_same (m : Memory) (a : Nat) (b : Byte) : (m.write a b).read a = b := by
  simp [Memory.write, Memory.read]

theorem Memory.read_write_other (m : Memory) (a c : Nat) (b : Byte) (h : c ≠ a) : (m.write a b).read c = m.read c := by
  simp [Memory.write, Memory.read, Tab.get_set, h]

/-- A write of `n` bytes leaves every byte outside them. -/
theorem Memory.read_writeN_outside (n : Nat) : ∀ (m : Memory) (a v c : Nat), (c < a ∨ a + n ≤ c) → (m.writeN a n v).read c = m.read c := by
  induction n with
  | zero => intro m a v c _; rfl
  | succ n ih =>
    intro m a v c h
    rw [Memory.writeN, ih _ _ _ _ (by omega), Memory.read_write_other _ _ _ _ (by omega)]

/-- A clear leaves every byte outside its range. -/
theorem Memory.read_clear_outside (n : Nat) : ∀ (m : Memory) (a c : Nat), (c < a ∨ a + n ≤ c) → (m.clear a n).read c = m.read c := by
  induction n with
  | zero => intro m a c _; rfl
  | succ n ih =>
    intro m a c h
    rw [Memory.clear, ih _ _ _ (by omega), Memory.read_write_other _ _ _ _ (by omega)]

/-- A list of bytes written leaves every byte outside it. -/
theorem Memory.read_putBytes_outside (l : List Byte) : ∀ (m : Memory) (a c : Nat), (c < a ∨ a + l.length ≤ c) → (m.putBytes a l).read c = m.read c := by
  induction l with
  | nil => intro m a c _; rfl
  | cons b t ih =>
    intro m a c h
    simp only [List.length_cons] at h
    rw [Memory.putBytes, ih _ _ _ (by omega), Memory.read_write_other _ _ _ _ (by omega)]

end Sys2Proof.Machine
end

