-- ==== Sys2Proof/Laws/Ops.lean ====
section
/-! SUPPORT. What each shared operation can change, said once: the fields that it may change, all others as before. -/

namespace Sys2Proof.Machine

/-! ## Writes in flight -/

/-- A write queued changes the list of writes in flight of the core whose turn it is. -/
theorem putW_only (s : State) (lat : Nat) (d : Dst) (ps : List (BitVec 512)) (lm pm : Nat) (fl : FlagSet) (w : Option Nat) (po : Bool) :
    ∃ p, s.putW lat d ps lm pm fl w po = s.setCore s.cur { s.me with pend := p } := ⟨_, rfl⟩

theorem putX_only (s : State) (lat d : Nat) (v : DWord) (fl : FlagSet) (ts : List DWord) :
    ∃ p, s.putX lat d v fl ts = s.setCore s.cur { s.me with pend := p } := by
  unfold State.putX
  split
  · split
    · exact ⟨s.me.pend, (setCore_self s s.cur).symm⟩
    · exact putW_only ..
  · exact putW_only ..

theorem putV_only (s : State) (lat d m : Nat) (vs : List VWord) (fl : FlagSet) :
    ∃ p, s.putV lat d m vs fl = s.setCore s.cur { s.me with pend := p } := putW_only ..

theorem putP_only (s : State) (lat d : Nat) (v : BitVec 16) : ∃ p, s.putP lat d v = s.setCore s.cur { s.me with pend := p } := by
  unfold State.putP
  split
  · exact ⟨s.me.pend, (setCore_self s s.cur).symm⟩
  · exact putW_only ..

theorem putCsr_only (s : State) (fn n : Nat) (v : DWord) : ∃ p, s.putCsr fn n v = s.setCore s.cur { s.me with pend := p } := putW_only ..

/-- The result of a scalar write for a register other than x0, no flag raised or not. -/
theorem putX_pend (s : State) (lat d : Nat) (v : DWord) (fl : FlagSet) (ts : List DWord) (hd : d ≠ 0) (hp : s.me.pend = []) :
    s.putX lat d v fl ts = s.setCore s.cur { s.me with pend := [
      { due := s.me.step + lat, iss := s.me.step, slot := s.curSlot, dst := .x d, kp := s.me.k, lmask := 0xFFFF, pmask := planesMask s.me.k,
        p0 := v.setWidth 512, p1 := (ts.map (BitVec.setWidth 512)).getD 0 0, p2 := (ts.map (BitVec.setWidth 512)).getD 1 0,
        p3 := (ts.map (BitVec.setWidth 512)).getD 2 0, fl := fl, wait := none, poison := false }] } := by
  simp [State.putX, hd, State.putW, State.modMe, State.modCore, State.me] at hp ⊢
  simp [hp, insWr]

/-! ## Landing -/

/-- With nothing in flight nothing lands. -/
theorem land_nil (c : Core) (h : c.pend = []) : c.land = c := by
  have e : ({ c with pend := [] } : Core) = c := by rw [← h]
  simp [Core.land, h, e]

/-- One write in flight that is not yet due stays. -/
theorem land_early (c : Core) (w : Wr) (h : c.pend = [w]) (hd : c.step < w.due) : c.land = c := by
  have n : decide (w.due ≤ c.step) = false := by simp; omega
  have e : ({ c with pend := [w] } : Core) = c := by rw [← h]
  unfold Core.land
  simp only [h, List.filter_cons, n, Bool.false_and, Bool.not_false, if_true, List.filter_nil]
  simpa using e

/-- One write in flight that is due lands. -/
theorem land_one (c : Core) (w : Wr) (h : c.pend = [w]) (hd : w.due ≤ c.step) (hw : w.wait = none) :
    c.land = ({ c with pend := [] } : Core).land1 w := by
  unfold Core.land
  cases ha : w.allots <;> simp [h, hd, hw, ha, insIss]

/-! ## Interrupts and records -/

theorem setInt_only (s : State) (f : Nat) (st en : DWord) :
    ∃ a b m, s.setInt f st en = { s with intst := a, inten := b, msix := m } := ⟨_, _, _, rfl⟩

theorem raiseInt_only (s : State) (f b : Nat) : ∃ a c m, s.raiseInt f b = { s with intst := a, inten := c, msix := m } := ⟨_, _, _, rfl⟩

theorem queueRec_only (s : State) (r : BitVec 512) :
    ∃ q l a b m, s.queueRec r = { s with fq := q, lost := l, intst := a, inten := b, msix := m } := by
  unfold State.queueRec; dsimp only; split
  · exact ⟨_, _, _, _, _, rfl⟩
  · exact ⟨_, _, _, _, _, rfl⟩

/-- A record with room in its queue is appended there; no other queue changes. -/
theorem queueRec_fq (s : State) (r : BitVec 512) (f : Nat) (h : (Tab.get [] s.fq (recBits r 423 416)).length < 64) :
    Tab.get [] (s.queueRec r).fq f = if f = recBits r 423 416 then Tab.get [] s.fq f ++ [r] else Tab.get [] s.fq f := by
  unfold State.queueRec; dsimp only
  rw [if_pos h]
  show Tab.get [] (Tab.set [] s.fq _ _) f = _
  rw [Tab.get_set]; split <;> simp_all

/-! ## Deliveries -/

theorem takeSlots_only (s : State) (r : Rider) (time : Nat) (ps : List Part) :
    ∃ rs n a, s.takeSlots r time ps = { s with riders := rs, nextId := n, acct := a } := ⟨_, _, _, rfl⟩

theorem admitPhys_only (s : State) (q : Rider) :
    ∃ rs n a w, s.admitPhys q = { s with riders := rs, nextId := n, acct := a, waiting := w } := by
  unfold State.admitPhys
  split
  · exact ⟨_, _, _, _, rfl⟩
  · split
    · exact ⟨_, _, _, _, rfl⟩
    · obtain ⟨rs, n, a, h⟩ := takeSlots_only s q (s.dieNs (q.acct / 8)) q.parts
      rw [h]; exact ⟨_, _, _, _, rfl⟩

theorem redirect_only (s : State) (t c : Nat) (tm : Team) (off n v : Nat) :
    ∃ rs n' a w, s.redirect t c tm off n v = { s with riders := rs, nextId := n', acct := a, waiting := w } := by
  unfold State.redirect; dsimp only
  split
  · exact ⟨_, _, _, _, rfl⟩
  · exact admitPhys_only ..

theorem coxDeliver_only (s : State) (t : Option Nat) (c off n v : Nat) :
    ∃ m ts rs n' a w, s.coxDeliver t c off n v = { s with mem := m, teams := ts, riders := rs, nextId := n', acct := a, waiting := w } := by
  unfold State.coxDeliver
  split
  · exact ⟨_, _, _, _, _, _, rfl⟩
  · split
    · rename_i t' tm _
      split
      · exact ⟨_, _, _, _, _, _, rfl⟩
      · split
        · exact ⟨_, _, _, _, _, _, rfl⟩
        · obtain ⟨rs, n', a, w, h⟩ := redirect_only s t' c tm off n v
          rw [h]; exact ⟨_, _, _, _, _, _, rfl⟩
    · exact ⟨_, _, _, _, _, _, rfl⟩

theorem deliverNow_only (s : State) (t : Option Nat) (c la n v : Nat) :
    ∃ m ts rs n' a w, s.deliverNow t c la n v = { s with mem := m, teams := ts, riders := rs, nextId := n', acct := a, waiting := w } := by
  unfold State.deliverNow; split
  · exact ⟨_, _, _, _, _, _, rfl⟩
  · exact coxDeliver_only ..

/-- A delivery to a core whose clock pauses waits in its island's retiming FIFO (R22, R24). -/
theorem deliver_only (s : State) (t : Option Nat) (c la n v : Nat) :
    ∃ m ts rs n' a w q, s.deliver t c la n v =
      { s with mem := m, teams := ts, riders := rs, nextId := n', acct := a, waiting := w, retime := q } := by
  unfold State.deliver; split
  · exact ⟨_, _, _, _, _, _, _, rfl⟩
  · obtain ⟨m, ts, rs, n', a, w, h⟩ := deliverNow_only s t c la n v
    rw [h]; exact ⟨_, _, _, _, _, _, _, rfl⟩

/-- Bytes for a member that is present on its core go to its store at once (R116). -/
theorem coxDeliver_present (s : State) (t : Option Nat) (c off n v : Nat) (h : s.present t c = true) :
    s.coxDeliver t c off n v = { s with mem := s.mem.writeN (coxBase c + off) n v } := by
  simp [State.coxDeliver, h]

theorem launchStamp_only (s : State) (f cell st seq : Nat) :
    ∃ a b m, s.launchStamp f cell st seq =
      { s with mem := s.mem.writeN (cellAddr f cell) 8 (stampWord st seq (s.dieNs 4)), intst := a, inten := b, msix := m } := ⟨_, _, _, rfl⟩

theorem modContext_only (s : State) (t : Option Nat) (c : Nat) (f : Core → Core) :
    ∃ cs ts, s.modContext t c f = { s with cores := cs, teams := ts } := by
  unfold State.modContext; split
  · exact ⟨_, _, rfl⟩
  · split
    · exact ⟨_, _, rfl⟩
    · exact ⟨_, _, rfl⟩

/-- Flags for a core whose clock pauses wait in its island's retiming FIFO (R22, R24). -/
theorem teamFlags_only (s : State) (t : Option Nat) (c : Nat) (fl : FlagSet) :
    ∃ cs ts q, s.teamFlags t c fl = { s with cores := cs, teams := ts, retime := q } := by
  unfold State.teamFlags; split
  · exact ⟨_, _, _, rfl⟩
  · split
    · exact ⟨_, _, _, rfl⟩
    · obtain ⟨cs, ts, h⟩ := modContext_only s t c (fun k => k.orFlags fl)
      rw [h]; exact ⟨_, _, _, rfl⟩

theorem stampRider_only (s : State) (r : Rider) (st time : Nat) :
    ∃ m ts rs n a w q g, s.stampRider r st time =
      { s with mem := m, teams := ts, riders := rs, nextId := n, acct := a, waiting := w, retime := q, regions := g } := by
  obtain ⟨m, ts, rs, n, a, w, q, h⟩ := deliver_only s r.team r.acct r.stamp 8 (stampWord st r.sq time)
  unfold State.stampRider
  rw [h]
  exact ⟨_, _, _, _, _, _, _, _, rfl⟩

/-! ## Traps and ends -/

theorem handlerStart_only (s : State) (c : Nat) : ∃ cs, s.handlerStart c = { s with cores := cs } := by
  unfold State.handlerStart; dsimp only; split
  · exact ⟨_, rfl⟩
  · exact ⟨_, rfl⟩

/-- Cores changed one by one: nothing else changes. -/
theorem foldl_modCore_only (f : Core → Core) (l : List Nat) : ∀ s : State, ∃ cs, l.foldl (fun s c => s.modCore c f) s = { s with cores := cs } := by
  induction l with
  | nil => intro s; exact ⟨_, rfl⟩
  | cons a t ih =>
    intro s
    obtain ⟨cs, h⟩ := ih (s.modCore a f)
    exact ⟨cs, by rw [List.foldl_cons, h]; rfl⟩

theorem queueRecs_only (l : List (BitVec 512)) : ∀ s : State,
    ∃ q n a b m, l.foldl State.queueRec s = { s with fq := q, lost := n, intst := a, inten := b, msix := m } := by
  induction l with
  | nil => intro s; exact ⟨_, _, _, _, _, rfl⟩
  | cons r t ih =>
    intro s
    obtain ⟨q, n, a, b, m, h⟩ := queueRec_only s r
    obtain ⟨q', n', a', b', m', h'⟩ := ih (s.queueRec r)
    exact ⟨q', n', a', b', m', by rw [List.foldl_cons, h', h]⟩

theorem endTeam_only (s : State) (t st code : Nat) :
    ∃ cs ts g q l a b x, s.endTeam t st code =
      { s with cores := cs, teams := ts, turns := g, fq := q, lost := l, intst := a, inten := b, msix := x } := by
  unfold State.endTeam
  split
  · exact ⟨_, _, _, _, _, _, _, _, rfl⟩
  · rename_i tm _
    split
    · exact ⟨_, _, _, _, _, _, _, _, rfl⟩
    · obtain ⟨q, l, a, b, x, hq⟩ := queueRecs_only (s.waitingRecs t tm) s
      dsimp only
      rw [hq]
      split
      · exact ⟨_, _, _, _, _, _, _, _, rfl⟩
      · obtain ⟨cs, h⟩ := foldl_modCore_only (fun k => { k with run := .stopped, pend := [], trapq := [] }) tm.cores
          (({ s with fq := q, lost := l, intst := a, inten := b, msix := x } : State).modTeam t
            (fun tm => { tm with ending := some (st, code), saved := tm.saved.map (fun k => { k with trapq := [] }) }))
        rw [h]
        exact ⟨_, _, _, _, _, _, _, _, rfl⟩

/-- A team not yet ending is marked, the records that wait for its members are queued, and TEAM_END follows at once (R357, R364). -/
theorem endTeam_ending (s : State) (t st code : Nat) (tm : Team) (h : s.team? t = some tm) (he : tm.ending = none) (hs : tm.st ≠ .ended) :
    (s.endTeam t st code).team? t =
        some { tm with ending := some (st, code), saved := tm.saved.map (fun k => { k with trapq := [] }) } ∧
      (s.endTeam t st code).turns = ⟨0, .event .teamEnd [t]⟩ :: s.turns := by
  obtain ⟨q, l, a, b, x, hq⟩ := queueRecs_only (s.waitingRecs t tm) s
  have hm : (({ s with fq := q, lost := l, intst := a, inten := b, msix := x } : State).modTeam t
      (fun tm => { tm with ending := some (st, code), saved := tm.saved.map (fun k => { k with trapq := [] }) })).team? t =
        some { tm with ending := some (st, code), saved := tm.saved.map (fun k => { k with trapq := [] }) } := by
    rw [team_modTeam_same]
    show Option.map _ (s.team? t) = _
    rw [h]; rfl
  unfold State.endTeam
  simp only [h, he, hs, Option.isSome_none, Bool.false_eq_true, or_self, if_false]
  rw [hq]
  split
  · exact ⟨hm, rfl⟩
  · obtain ⟨cs, hf⟩ := foldl_modCore_only (fun k => { k with run := .stopped, pend := [], trapq := [] }) tm.cores
      (({ s with fq := q, lost := l, intst := a, inten := b, msix := x } : State).modTeam t
        (fun tm => { tm with ending := some (st, code), saved := tm.saved.map (fun k => { k with trapq := [] }) }))
    rw [hf]
    exact ⟨hm, rfl⟩

/-- An escalated fault: its record, and the end of the team if there is one (R363). -/
theorem escalate_only (s : State) (t : Option Nat) (r : BitVec 512) :
    ∃ cs ts g m q l a b x, s.escalate t r =
      { s with cores := cs, teams := ts, turns := g, mem := m, fq := q, lost := l, intst := a, inten := b, msix := x } := by
  obtain ⟨q, l, a, b, x, hq⟩ := queueRec_only s (recRank7 r)
  unfold State.escalate
  cases t with
  | none => dsimp only; rw [hq]; exact ⟨_, _, _, _, _, _, _, _, _, rfl⟩
  | some t =>
    obtain ⟨cs, ts, g, q', l', a', b', x', he⟩ := endTeam_only (s.queueRec (recRank7 r)) t 0x04 (recBits r 447 440)
    dsimp only; rw [he, hq]; exact ⟨_, _, _, _, _, _, _, _, _, rfl⟩

/-- A record queued, in the terms of `escalate_only`. -/
theorem queueRec_trap (s : State) (r : BitVec 512) :
    (∃ cs ts g m q l a b x, s.queueRec r =
      { s with cores := cs, teams := ts, turns := g, mem := m, fq := q, lost := l, intst := a, inten := b, msix := x }) := by
  obtain ⟨q, l, a, b, x, hq⟩ := queueRec_only s r
  rw [hq]
  exact ⟨_, _, _, _, _, _, _, _, _, rfl⟩

/-- A trap changes cores, memory, the hub's records and, where it escalates, the team (R209, R357, R363). -/
theorem takeTrap_only (s : State) (c code slot : Nat) (tv : DWord) (r : Option (BitVec 512)) :
    ∃ cs ts g m q l a b x, s.takeTrap c code slot tv r =
      { s with cores := cs, teams := ts, turns := g, mem := m, fq := q, lost := l, intst := a, inten := b, msix := x } := by
  unfold State.takeTrap
  split
  · cases r with
    | none =>
      obtain ⟨cs, h⟩ := handlerStart_only (s.modCore c (fun k => { k.breakHold with run := .trapWait, taking := some (code, slot, tv) })) c
      dsimp only; rw [h]
      exact ⟨_, _, _, _, _, _, _, _, _, rfl⟩
    | some r =>
      obtain ⟨q, l, a, b, x, hq⟩ := queueRec_only s r
      dsimp only
      obtain ⟨cs, h⟩ := handlerStart_only (({ s.queueRec r with mem := (s.queueRec r).mem.writeN (coxBase c + 0xFFFC0) 64 r.toNat } : State).modCore c
        (fun k => { k.breakHold with run := .trapWait, taking := some (code, slot, tv) })) c
      rw [h, hq]
      exact ⟨_, _, _, _, _, _, _, _, _, rfl⟩
  · exact escalate_only ..

/-- A precise fault of a bundle is a trap. -/
theorem precise_only (s : State) (b : Bad) (slot : Nat) :
    ∃ cs ts g m q l a c x, s.precise b slot =
      { s with cores := cs, teams := ts, turns := g, mem := m, fq := q, lost := l, intst := a, inten := c, msix := x } := takeTrap_only ..

/-- A fault delivered to a team's member wherever it stands (R356). -/
theorem trapTo_only (s : State) (t : Option Nat) (c : Nat) (r : BitVec 512) :
    ∃ cs ts g m q l a b x, s.trapTo t c r =
      { s with cores := cs, teams := ts, turns := g, mem := m, fq := q, lost := l, intst := a, inten := b, msix := x } := by
  unfold State.trapTo
  split
  · unfold State.unitTrap
    split
    · exact escalate_only ..
    · split
      · exact queueRec_trap ..
      · exact ⟨_, _, _, _, _, _, _, _, _, rfl⟩
  · split
    · split
      · exact queueRec_trap ..
      · split
        · exact escalate_only ..
        · obtain ⟨cs, ts, h⟩ := modContext_only s t c (fun k => { k with trapq := k.trapq ++ [trapOf r] })
          rw [h]; exact ⟨_, _, _, _, _, _, _, _, _, rfl⟩
    · exact queueRec_trap ..

end Sys2Proof.Machine
end

