-- ==== Sys2Proof/Tests/Slice0.lean ====
section
/-! SUPPORT. The model's own tests: the decoding and encoding of one word of every row that has one, an ill-formed term
for each check of well-formedness, small steps on the spec's own examples, and for every statement with hypotheses a
state and operands that meet each group of them. -/

open Sys2Proof Sys2Proof.Machine

namespace Sys2Proof.Tests

set_option Elab.async false

/-! ## Small states for the witnesses -/

/-- A running core with its whole allotment: x1, x2 and x4 hold small numbers, x3 and x9 the last double word and word of its cox store, x5 the
start of a memory node that it serves, x6 and x8 the last 8 and 64 bytes of that node; x7 holds zero, and as an origin names die 0, tile
(0, 0). -/
def metC : Core :=
  { Core.empty with
    x := [(1, 3), (2, 5), (3, 0xFFFF8), (4, 64), (5, 0x81000000), (6, 0x81001FF8), (8, 0x81001FC0), (9, 0xFFFFC)], ax := 128, lx := 128, av := 64, lv := 64, run := .running, team := some 0 }

/-- A team of core 0, running. -/
def metT : Team :=
  { cores := [0], func := 0, asid := 0, queue := 0, csidx := 0, seq := 1, k := 0, flist := 0, csb := 0, prio := 0, round := 0, ran := 0, since := 0,
    limit := 0, st := .running, areas := [], saved := [], late := [], rv := [], held := [], failed := false, ending := none, overlaps := [] }

/-- A machine whose core 0 is `c`, with the hub in Ready. -/
def metS (c : Core) : State := { State.reset with cores := [c], boot := .ready, teams := [metT] }

/-- `metS` as an event with operands `a` finds it. -/
def metE (a : List Nat) : State := { metS metC with ev := a }

/-- A write in flight to `d`, due at step `n`. -/
def metW (d : Dst) (n : Nat) : Wr :=
  { due := n, iss := 0, slot := 0, dst := d, kp := 0, lmask := 0, pmask := 1, p0 := 9, p1 := 0, p2 := 0, p3 := 0, fl := 0, wait := none, poison := false }

/-- A record with every field small. -/
def metRec : RecF :=
  { time := 1, code := 2, sk := 3, rank := 0, fli := 0, func := 1, loc := 5, scnt := 6, cyc := 7, isl := 1, core := 2, op0 := 1, op1 := 2, op2 := 3, op3 := 4 }

/-- Whether an outcome is a next state, and that state. -/
def isNext : Host.Outcome State Fault Refusal → Bool
  | .next _ => true
  | _ => false

/-- The next state, where there is one. -/
def nextOf : Host.Outcome State Fault Refusal → State
  | .next t => t
  | _ => State.reset

theorem next_of {o : Host.Outcome State Fault Refusal} (h : isNext o = true) : o = .next (nextOf o) := by
  cases o <;> simp_all [isNext, nextOf]

theorem exec_next {i : Instr} {s : State} (h : isNext (exec i s) = true) : exec i s = .next (nextOf (exec i s)) := next_of h

/-- A bundle of one ADD. -/
def metB : BitVec 128 := BitVec.ofNat 128 (encode (.add 3 4 5))

/-- A machine about to run `metB` on core 0, and the states on its way. -/
def metF : State := { metS { metC with pc := 0x1000 } with turns := [⟨0, .core 0⟩], ccache := [(0x100, some metB)] }
def metU : State := { metS { metC with pc := 0x1000 } with ccache := [(0x100, some metB)] }
def metV : State := nextOf (exec (.add 3 4 5) { metU with bundle := metB, checked := true, curSlot := 0 })

/-- A load of one island on a region of one tile, fetched and not begun, and that region of the team. -/
def metL : Load :=
  { id := 0, img := [], fl := 0, core := 0, team := 0, func := 0, asid := 0, stamp := 64, k := 0, tp := [], flags := 0, isl := [Isl.idle], overlaps := 0,
    rcd := none, held := false, spread := none, handler := none, discarded := false, edged := false, reported := false, carry := [], inner := [], ran := [], finAt := 0 }

def metR : Region :=
  { die := 0, x := 0, y := 0, w := 1, h := 1, team := 0, phase := .run, active := some metL, shadow := none, cmds := [], fetching := none, frel := false,
    back := .run, refold := none, prev := none }

/-- `metS` with one region, and with the node at x5 in ordered-update mode. -/
def metG (r : Region) : State := { metS metC with regions := [r] }
def metN : State := { metS metC with nodes := [(2048, { Node.free with mode := 2 })] }
/-- `metS` with a bundle held and what it has found out. -/
def metH (h : Held) : State := metS { metC with hold := h }

/-- A rider of core 0 with no part left. -/
def metQ : Rider :=
  { id := 5, kind := .upd, owner := .core, acct := 0, func := 0, asid := 0, team := some 0, time := 0, seq := 0, cyc := 0, rcd := 0, xa := 0, stamp := 64, parts := [], pages := [],
    src := [], seen := [], seenB := [], order := [], acc := [], note := 0, fin := 0, flags := 0, fail := none, stopped := false, void := false,
    withdrawn := none, unread := false, host := false, link := 0, sent := 0, nact := 0 }

/-- A packet from core 0. -/
def metP : OarPkt := { hdr := 0, words := [1], rider := 5, core := 0, team := some 0 }

/-- A core in a bundle that has passed its checks. -/
def metK : State := { metS metC with checked := true }
/-- The same in tangent mode, plane 1 in memory as FP16. -/
def metKt : State := { metS { metC with k := 1, tplane := [(1, ⟨true, 1, 16, 0⟩)] } with checked := true }

/-- The lanes and the levels of a sum over v1 of `metS metC`. -/
def metX (p n : Nat) : Nat := if bit ((metS { metC with k := 3 }).mask 0) n then (metS { metC with k := 3 }).ln p 1 n else 0
def metX0 (p i : Nat) : LaneRes := add32 (metX p i) (metX p (i + 8))
def metX1 (p i : Nat) : LaneRes := add32 (metX0 p i).1 (metX0 p (i + 4)).1
def metX2 (p i : Nat) : LaneRes := add32 (metX1 p i).1 (metX1 p (i + 2)).1
def metX3 (p i : Nat) : LaneRes := add32 (metX2 p i).1 (metX2 p (i + 1)).1
def metXw (p : Nat) : LaneRes :=
  ((metX3 p 0).1, (metX3 p 0).2 ||| orAll ((List.range 2).map (fun i => (metX2 p i).2)) ||| orAll ((List.range 4).map (fun i => (metX1 p i).2)) |||
    orAll ((List.range 8).map (fun i => (metX0 p i).2)))
def metXl (p : Nat) : LaneRes := tangentLane (metXw 0).1 ((List.range 16).map (metX p)) (fun _ => metXw p)

/-- The lanes and the levels of a greatest lane over v1 of `metS metC`, that lane's value, and its tangents. -/
def metPk (u v : Nat × Nat) : Nat × Nat := if anyNan32 u.1 v.1 = true then (nan32, u.2) else if maxTakesB u.1 v.1 = true then v else u
def metMx (n : Nat) : Nat × Nat := (if bit ((metS metC).mask 0) n then (metS metC).ln 0 1 n else 0xFF800000, n)
def metM0 (i : Nat) : Nat × Nat := metPk (metMx i) (metMx (i + 8))
def metM1 (i : Nat) : Nat × Nat := metPk (metM0 i) (metM0 (i + 4))
def metM2 (i : Nat) : Nat × Nat := metPk (metM1 i) (metM1 (i + 2))
def metM3 (i : Nat) : Nat × Nat := metPk (metM2 i) (metM2 (i + 1))
def metMy : Nat := if (f32 (metM3 0).1).isNan = true then nan32 else (metM3 0).1
def metMt (p : Nat) : LaneRes := tangentLane metMy ((List.range 16).map (fun n => if bit ((metS metC).mask 0) n then (metS metC).ln p 1 n else 0))
  (fun _ => tanPass (if bit ((metS metC).mask 0) (metM3 0).2 then (metS metC).ln p 1 (metM3 0).2 else 0))

/-- Adding an entry to the queue of the X tile that register `a` names. -/
def metAdd (a : Nat) (k : XKind) (imm xb n : Nat) (v : State) : State :=
  v.modTile (tileNo v.cur (v.xval a % 32)) (fun x => { x with queue := x.queue ++ [{ kind := k, imm := imm, xa := v.xval a % 65536, rcd := BitVec.ofNat 256 (if n = 0 then 0 else v.recAt (v.xval xb) n), xb := v.xval xb, core := v.cur, team := v.me.team, acc := v.me.step + 2, accepted := false, begun := false }], user := some (v.cur, v.me.team) })

/-- `metK` with 512 riders of its core in flight. -/
def metJ : State := { metK with riders := List.replicate 512 metQ }

/-- A region of the tile of the memory node at x5, and one whose load binds port 0 of that node to a stream. -/
def metR2 : Region := { metR with x := 2 }
def metL3 : Load := { metL with img := [(107, 64)] }
def metR3 : Region := { metR2 with active := some metL3 }

/-- A machine at that node in region `r`, with the node's control `n`. -/
def metM (r : Region) (n : Node) : State :=
  { metG r with el := { ElCtx.none with pos := nodeEl 2048 }, nodes := Tab.set Node.free [] 2048 { n with owner := some 0 } }

/-- A core with a trap waiting, one that waits to take it, and a machine whose held WAITSTAMP has run out of time. -/
def metC1 : Core := { metC with tvec := 0x100, trapq := [⟨2, 0, 0⟩] }
def metC2 : Core := { metC with tvec := 0x100, run := .trapWait, taking := some (2, 0, 9) }
def metB2 : BitVec 128 := BitVec.ofNat 128 (encode (.waitstampAny 1 4))
def metB1 : State :=
  { metS { metC with pc := 0x1000, hold := { Held.none with since := some 0 }, stimeo := 1 } with ccache := [(0x100, some metB2)], now := 2000 }

/-- A request of core 0 to point 0 of its team, that has reached the hub, and a team whose point expects two. -/
def metRv (v : Option Nat) : RvReq := { time := 0, src := 0, team := 0, point := 0, set := v, holds := false, loc := 0, core := 0, syl := 0 }
def metT2 : Team := { metT with rv := [(0, ⟨2, 0, false⟩)] }

/-- A queue of function 0 that is enabled for core 0, a record in it for a team of one, and a machine that may dispatch that record. -/
def metA (n : Nat) : State := { metE [0, 0, 0, 64, n] with qcfg := [(0, 0x400000001)] }
def metY : Launch := ⟨0, 0, BitVec.ofNat 512 (2 ^ 480 + 0x10000), []⟩
def metD : State :=
  { metS Core.empty with teams := [], launches := [metY], qnew := [(0, 0x400000001)], bar0 := [(0x601, 1)], ccache := [(0x1000, some 0), (0x1001, some (2 ^ 56)), (0x1002, some 0), (0x1003, some 0)] }
def metD1 : State := { metD with qcfg := [(0, 0x400000001)], launches := [] }

/-- A region that fetches the image of one X tile through the configuration cache. -/
def metImg (n : Nat) : BitVec 128 :=
  if n = 0 then 0x80000000000000060001 else if n = 1 then 8661401212836283257 else if n = 2 then BitVec.ofNat 128 (2 ^ 64 * 128 + 2 ^ 96 * 160)
  else if n = 3 then BitVec.ofNat 128 (672 * (1 + 2 ^ 32 + 2 ^ 64) + 2 ^ 96 * 688) else 0
def metCmd : Cmd := ⟨1, 64, 0, 0, 0, [], none⟩
def metRq : Region := { metR with x := 6, phase := .fetch, active := none, fetching := some metCmd }
def metTq : Team := { metT with flist := 0x2000 }
def metSq : State :=
  { metG metRq with teams := [metTq], ccache := (0x200, some (BitVec.ofNat 128 (1 + 2 ^ 64 * 0x10000))) :: (List.range 43).map (fun i => (0x1000 + i, some (metImg i))) }

/-- Whether a fetch is ready, and its load. -/
def isReady : FetchRes → Bool
  | .ready _ => true
  | _ => false
def readyOf : FetchRes → Load
  | .ready l => l
  | _ => metL
theorem ready_of {o : FetchRes} (h : isReady o = true) : o = .ready (readyOf o) := by
  cases o <;> simp_all [isReady, readyOf]

/-- A region whose island is `x`. -/
def metLi (x : Isl) : Load := { metL with isl := [x] }
def metRi (x : Isl) : Region := { metR with active := some (metLi x) }
/-- An island that has run `n` steps. -/
def metIs (n : Nat) : Isl := { Isl.idle with started := true, s := n }
/-- A load whose node at x5 reads what is not there. -/
def metLw : Load := { metLi (metIs 0) with img := [(1, 0x40)] }
def metRw : Region := { metR2 with active := some metLw }
/-- A load frozen whole, whose fault edge sends a record. -/
def metLz : Load := { metLi { metIs 0 with frozen := true } with img := [(9, 0x80)], rcd := some 0 }
def metRz : Region := { metR with active := some metLz }
def metAw : State := { metG metRw with nodes := [(2048, { Node.free with mode := 0, owner := some 0 })] }

/-- A machine with one rider. -/
def metO (q : Rider) : State := { metS metC with riders := [q], ev := [5] }
/-- A part of one course that is at its end, and a rider of core 0 that delivers one word at `a`. -/
def metQd (a : Nat) : Rider := { metQ with kind := .rdstr, rcd := BitVec.ofNat 256 (2 ^ 32 + 2 ^ 64 * a) }
def metPt : Part := { pc := 0, crs := 0, runs := [], role := .data, catch? := none, boarded := false, acted := 0, missed := [], lost := [], counted := [], start := 0, gave := [], done := true }
/-- A translation, and a stream of one word on port 7 of core 0. -/
def metTl : Tlb := { tile := 0, asid := 0, va := 0, size := 16384, pa := 0, wr := true, enc := false, gen := 0, fault := none }
def metSt : Strm := { core := 0, port := 7, time := 0, team := some 0, rcd := 0, pat := 0, xa := 0, stamp := 64, next := 0, done := 0, words := 0, rid := [] }
def metSm : State := { metE [0, 7] with streams := [metSt], tlb := [metTl] }
/-- A contribution to a window that is not open. -/
def metCo (n : Nat) : Contrib := { stack := 0, win := 0, pa := 0, half := 0, word := 7, time := 0, src := 0, seq := 0, arrived := n, func := 0, unit := none }
/-- A LAND whose window waits for one contribution. -/
def metLd : Rider := { metQ with kind := .land, rcd := BitVec.ofNat 256 (2 ^ 32), parts := [{ metPt with done := false, runs := [⟨0, 1, 0, none⟩] }] }
/-- A request of core 1 to a node. -/
def metNq : NodeReq := { id := 1, time := 0, src := 1, op := 0, off := 0, bytes := 4, val := 7, expv := 0, mask := 0, signed := false, k := 0, planes := [], tans := [], fl := 0, load := none, due := 0, loc := 0 }
/-- An entry of an X tile, and a machine whose X tile 0 is `t`. -/
def metEnt (k : XKind) (r : Nat) : XEnt := { kind := k, imm := 0, xa := 0, rcd := BitVec.ofNat 256 r, xb := 0, core := 0, team := some 0, acc := 0, accepted := true, begun := true }
def metXt (t : XTile) : State := { metS metC with xtiles := [(0, t)], tlb := [metTl] }
def metDr (r : Nat) : Drain := { id := 1, ent := metEnt .drain r, copy := [7], copying := false, time := 0, written := false, left := 0, failed := false, killed := false, nact := 0, due := 0 }
def metPr (u : Option (List (Nat × Word))) : Pair := { partner := 256, tag := 0, upper := u, lower := true, counted := 100000, from? := none, team := some 0, late := false, sent := 0 }
def metXla : XLand := { kprog := 1, upd := [(0, 7)], fl := 0, last := false, core := 0, team := some 0, pair := none, due := 0 }
/-- A transform command. -/
def metXf (b : Bool) : Xform := { rcd := 0, inv := false, s := 0, core := 0, team := some 0, load := none, begun := b, out := [7], fl := 0, bad := none, due := 0 }
/-- A KVTRUNC of an empty sequence of function 0. -/
def metTn : Turn :=
  { id := 1, kind := 6, core := 0, team := some 0, func := 0, asid := 0, time := 0, seq := 0, stream := 0, rcd := 0, recAddr := 0, stamp := 64, src := [], begun := false,
    held := none, bypass := false, busy := false, got := [], lost := [], absent := [], again := false, out := none }
def metTs (t : Turn) : State := { metS metC with seqs := [t], now := 300, bar0 := [((0x300000 + 104) / 8, 0x800000)] }
/-- A record of a drain of one sum to a window. -/
def metDn : Nat := 2 ^ 120 + 2 ^ 140 + 2 ^ 22
/-- An X tile in a K step on its snapshot and its B buffer. -/
def metXk : State := metXt { XTile.empty with queue := [metEnt .step (3 * 2 ^ 9)], f := 15 }
def metXs : State := metXk.tileSettle 0
def metKb : List KRow × XTile := ((metXs.operandB 0 (metXs.xtile 0) (metEnt .step (3 * 2 ^ 9))).bind (fun r => match r with | .inr b => some b | .inl _ => none)).getD ([], XTile.empty)
/-- A node that a load reads, with its buffer full. -/
def metRvr : Region := { metR2 with active := some (metLi (metIs 0)) }
def metVr : State := { metG metRvr with ev := [2048], nodes := [(2048, { Node.free with mode := 0, owner := some 0, f := 1 })] }

/-- A machine whose oar link 0 is enabled and is `o`, as an event with operands `a` finds it. -/
def metOar (a : List Nat) (o : Oar) : State := { metE a with oars := [o], bar0 := [(0xC00, 1)], teams := [] }
def metOup : Oar := { Oar.down with up := true }
/-- A machine whose boot stands at `b`. -/
def metBt (b : Boot) (a : List Nat) : State := { metE a with boot := b }
/-- A deposit packet of one word for the page at 0. -/
def metPd : OarPkt := { metP with hdr := BitVec.ofNat 256 (2 ^ 172), rider := 0 }
/-- A machine whose node at x5 is one buffer of streaming mode, and a rider that delivers its last word. -/
def metOn (f : Nat) : State := { metO (metQd 0x81001FFC) with nodes := [(2048, { Node.free with mode := 0, f := f })] }
/-- The hub's cache with `n` pages. -/
def metWk (n a : Nat) : State :=
  { metE [0, a] with walks := [⟨1, 0, 0, 0, 0, some metTl⟩], tlb := List.replicate n { metTl with va := 16384 } }
/-- A request to the node at x6 of `metN`, and `metN` with one queued. -/
def metNr (o : Nat) : NodeReq := { metN.reqAt o 0x81001FF8 8 with id := metN.nextId }
def metNu (q : NodeReq) : State := { metN.modNode 2048 (fun nd => { nd with queue := nd.queue ++ [q] }) with nextId := metN.nextId + 1 }
/-- An X tile that is to save nothing at offset 64. -/
def metXp : State := metXt { XTile.empty with stops := [⟨0, some 0, 64, false, 0⟩] }
/-- A converter with a packet of one beat, and one with a new source value. -/
def metCp : State := { metG metR with els := [(0, { El.zero with packs := [⟨0, [Beat.zero]⟩] })] }
def metCv : State := { metG metR with el := { ElCtx.none with a := { Beat.zero with new := true } } }

/-! ## Decoding: one word of every row of the opcode table, its fields written out from the highest bit down -/

/-- Part of `spelled`. -/
def spelled0 : List (Nat × Instr) :=
  [(0b00000000000000000000000000000000, .nop), (0b000001_1011011_1011110_1100001_00000, .add 91 94 97),
   (0b000001_1011011_1011110_1100001_00001, .sub 91 94 97), (0b000001_1011011_1011110_1100001_00010, .and 91 94 97),
   (0b000001_1011011_1011110_1100001_00011, .or 91 94 97), (0b000001_1011011_1011110_1100001_00100, .xor 91 94 97),
   (0b000001_1011011_1011110_1100001_00101, .sll 91 94 97), (0b000001_1011011_1011110_1100001_00110, .srl 91 94 97),
   (0b000001_1011011_1011110_1100001_00111, .sra 91 94 97), (0b000001_1011011_1011110_1100001_01000, .min 91 94 97),
   (0b000001_1011011_1011110_1100001_01001, .max 91 94 97), (0b000001_1011011_1011110_1100001_01010, .minu 91 94 97),
   (0b000001_1011011_1011110_1100001_01011, .maxu 91 94 97), (0b000010_1011011_1011110_1100001_00000, .mul 91 94 97),
   (0b000010_1011011_1011110_1100001_00001, .mulh 91 94 97), (0b000010_1011011_1011110_1100001_00010, .mulhu 91 94 97),
   (0b000010_1011011_1011110_1100001_00011, .div 91 94 97), (0b000010_1011011_1011110_1100001_00100, .divu 91 94 97),
   (0b000010_1011011_1011110_1100001_00101, .rem 91 94 97), (0b000010_1011011_1011110_1100001_00110, .remu 91 94 97)]

/-- Part of `spelled`. -/
def spelled1 : List (Nat × Instr) :=
  [(0b000011000_1100_1011110_1100001_00000, .cmpEq 12 94 97), (0b000011000_1100_1011110_1100001_00001, .cmpNe 12 94 97),
   (0b000011000_1100_1011110_1100001_00010, .cmpLt 12 94 97), (0b000011000_1100_1011110_1100001_00011, .cmpGe 12 94 97),
   (0b000011000_1100_1011110_1100001_00100, .cmpLtu 12 94 97), (0b000011000_1100_1011110_1100001_00101, .cmpGeu 12 94 97),
   (0b000011000_1100_000_1111_000_0010_01000, .pand 12 15 2), (0b000011000_1100_000_1111_000_0010_01001, .por 12 15 2),
   (0b000011000_1100_000_1111_000_0010_01010, .pxor 12 15 2), (0b000011000_1100_000_1111_000_0010_01011, .pandn 12 15 2),
   (0b000011_1011011_000_1111_000000001100, .pmov 91 15), (0b000011000_1100_1011110_000000001101, .pset 12 94),
   (0b000100_1011011_1011110_1100001_00000, .extu 91 94 97), (0b000100_1011011_1011110_1100001_00001, .exts 91 94 97),
   (0b000100_1011011_1011110_1100001_00010, .ins 91 94 97), (0b000100_1011011_1011110_000000000011, .clz 91 94),
   (0b000100_1011011_1011110_000000000100, .ctz 91 94), (0b000100_1011011_1011110_000000000101, .popc 91 94),
   (0b001000_1011011_1011110_101101100001, .addi 91 94 2913), (0b001001_1011011_1011110_101101100001, .andi 91 94 2913)]

/-- Part of `spelled`. -/
def spelled2 : List (Nat × Instr) :=
  [(0b001010_1011011_1011110_101101100001, .ori 91 94 2913), (0b001011_1011011_1011110_101101100001, .xori 91 94 2913),
   (0b001100_1011011_1011110_000000_110100, .slli 91 94 52), (0b001100_1011011_1011110_010000_110100, .srli 91 94 52),
   (0b001100_1011011_1011110_100000_110100, .srai 91 94 52), (0b001101000_1100_1011110_000_101110010, .cmpiEq 12 94 370),
   (0b001101000_1100_1011110_001_101110010, .cmpiNe 12 94 370), (0b001101000_1100_1011110_010_101110010, .cmpiLt 12 94 370),
   (0b001101000_1100_1011110_011_101110010, .cmpiGe 12 94 370), (0b001101000_1100_1011110_100_101110010, .cmpiLtu 12 94 370),
   (0b001101000_1100_1011110_101_101110010, .cmpiGeu 12 94 370), (0b001110_1011011_1011010110101110001, .lui 91 372081),
   (0b010000_1011011_1011110_101101100001, .ldB 91 94 2913), (0b010001_1011011_1011110_101101100001, .ldH 91 94 2913),
   (0b010010_1011011_1011110_101101100001, .ldW 91 94 2913), (0b010011_1011011_1011110_101101100001, .ldD 91 94 2913),
   (0b010100_1011011_1011110_101101100001, .stB 91 94 2913), (0b010101_1011011_1011110_101101100001, .stH 91 94 2913),
   (0b010110_1011011_1011110_101101100001, .stW 91 94 2913), (0b010111_1011011_1011110_101101100001, .stD 91 94 2913)]

/-- Part of `spelled`. -/
def spelled3 : List (Nat × Instr) :=
  [(0b011000_1011011_1011110_1100001_00000, .ldnB 91 94 97), (0b011000_1011011_1011110_1100001_00001, .ldnH 91 94 97),
   (0b011000_1011011_1011110_1100001_00010, .ldnW 91 94 97), (0b011000_1011011_1011110_1100001_00011, .ldnD 91 94 97),
   (0b011000_1011011_1011110_1100001_00100, .ldnBu 91 94 97), (0b011000_1011011_1011110_1100001_00101, .ldnHu 91 94 97),
   (0b011000_1011011_1011110_1100001_00110, .ldnWu 91 94 97), (0b011001_1011011_1011110_1100001_00000, .stnB 91 94 97),
   (0b011001_1011011_1011110_1100001_00001, .stnH 91 94 97), (0b011001_1011011_1011110_1100001_00010, .stnW 91 94 97),
   (0b011001_1011011_1011110_1100001_00011, .stnD 91 94 97), (0b011010_1011011_1011110_1100001_01110, .atn 91 94 97 14),
   (0b100000_1100_0_101011010110101110001, .br 12 1420657), (0b100000_1100_1_101011010110101110001, .brNot 12 1420657),
   (0b100001_1011011_1011010110101110001, .jal 91 372081), (0b100010_1011011_1011110_000000000000, .jalr 91 94),
   (0b1000110000000_1011011_111111111111, .loop 91 4095), (0b1010000000000_1011011_0010111_00000, .rvset 91 23),
   (0b101000_1011011_0000000_0010110_00001, .rvarr 91 22), (0b1010000000000_1011011_0010101_00010, .rvwait 91 21)]

/-- Part of `spelled`. -/
def spelled4 : List (Nat × Instr) :=
  [(0b101001_1011011_1011110_1100001_00000, .waitstampNe 91 94 97),
   (0b101001_1011011_1011110_1100001_00001, .waitstampTag 91 94 97),
   (0b101001_1011011_1011110_000000000010, .waitstampAny 91 94), (0b10101000000000000000000000000000, .fenceT),
   (0b10101000000000000000000000000001, .fenceD), (0b10101000000000000000000000000010, .fenceS),
   (0b110000_1011011_1011110_1100001_00000, .fcfg 91 94 97), (0b11000000000000000000_1011011_00001, .frel 91),
   (0b1100010000000_1011011_1011110_00000, .tksend 91 94), (0b110001_1011011_0000000_0000111_00001, .tktake 91 7),
   (0b111000_1011011_0000000_0001001_00000, .csrr 91 9), (0b1110000000000_1011011_0001100_00001, .csrw 91 12),
   (0b1110000000000_1011011_0001100_00010, .csrs 91 12), (0b1110000000000_1011011_0001100_00011, .csrc 91 12),
   (0b11100100000000000000_0000011_00000, .dual 3), (0b11100100000000000000000000000001, .dualend),
   (0b111001_1011011_1011110_00000_10_00010, .tget 91 94 2), (0b1110010_101110_0_110001_00001_11_00010, .tgetV 46 49 3),
   (0b111001_1011011_1011110_00000_01_00011, .tset 91 94 1), (0b1110010_101110_0_110001_00001_10_00011, .tsetV 46 49 2)]

/-- Part of `spelled`. -/
def spelled5 : List (Nat × Instr) :=
  [(0b111001_0000011_1011110_1100001_00100, .tplane 3 94 97), (0b11110000000000000000_1011011_00000, .trap 91),
   (0b11110100000000000000000000000000, .rett), (0b1111010000000_1011011_000000000001, .rysave 91),
   (0b1111010000000_1011011_000000000010, .ryload 91), (0b11111000000000000000_0001001_00000, .regshrinkX 9),
   (0b11111000000000000000_0000101_00001, .regshrinkV 5), (0b11111000000000000000_0010000_00010, .reggrowX 16),
   (0b11111000000000000000_0001000_00011, .reggrowV 8), (0b11111100000000000000000000000000, .exit),
   (0b000001_101110_110001_110100_0101_0000, .vadd 46 49 52 5), (0b000001_101110_110001_110100_0101_0001, .vsub 46 49 52 5),
   (0b000001_101110_110001_110100_0101_0010, .vmul 46 49 52 5), (0b000001_101110_110001_110100_0101_0011, .vmin 46 49 52 5),
   (0b000001_101110_110001_110100_0101_0100, .vmax 46 49 52 5), (0b000001_101110_110001_000000_0010_0101, .vabs 46 49 2),
   (0b000001_101110_110001_000000_0010_0110, .vneg 46 49 2), (0b000010_101110_110001_110100_0101_0000, .vfma 46 49 52 5),
   (0b000010_101110_110001_110100_0101_0001, .vfnma 46 49 52 5), (0b000011_101110_110001_110100_0101_0000, .viadd 46 49 52 5)]

/-- Part of `spelled`. -/
def spelled6 : List (Nat × Instr) :=
  [(0b000011_101110_110001_110100_0101_0001, .visub 46 49 52 5), (0b000011_101110_110001_110100_0101_0010, .vimul 46 49 52 5),
   (0b000011_101110_110001_110100_0101_0011, .vimin 46 49 52 5), (0b000011_101110_110001_110100_0101_0100, .vimax 46 49 52 5),
   (0b000011_101110_110001_110100_0101_0101, .vsll 46 49 52 5), (0b000011_101110_110001_110100_0101_0110, .vsrl 46 49 52 5),
   (0b000011_101110_110001_110100_0101_0111, .vsra 46 49 52 5), (0b000100_101110_110001_110100_0101_0000, .vand 46 49 52 5),
   (0b000100_101110_110001_110100_0101_0001, .vor 46 49 52 5), (0b000100_101110_110001_110100_0101_0010, .vxor 46 49 52 5),
   (0b000100_101110_110001_110100_0101_0011, .vandn 46 49 52 5), (0b00010100_1100_110001_110100_0101_0000, .vcmpEqF 12 49 52 5),
   (0b00010100_1100_110001_110100_0101_0001, .vcmpLtF 12 49 52 5),
   (0b00010100_1100_110001_110100_0101_0010, .vcmpLeF 12 49 52 5),
   (0b00010100_1100_110001_110100_0101_0011, .vcmpEqI 12 49 52 5),
   (0b00010100_1100_110001_110100_0101_0100, .vcmpLtI 12 49 52 5), (0b000110_101110_110001_110100_0101_0000, .vsel 46 49 52 5),
   (0b000111_101110_110001_110100_0101_0000, .vperm 46 49 52 5), (0b000111_101110_110001_001101_0101_0001, .vbcast 46 49 13 5),
   (0b001000_101110_110001_000000_0010_0000, .vredadd 46 49 2)]

/-- Part of `spelled`. -/
def spelled7 : List (Nat × Instr) :=
  [(0b001000_101110_110001_000000_0010_0001, .vredmax 46 49 2), (0b001000_101110_110001_000000_0010_0010, .vrediadd 46 49 2),
   (0b001001_101110_110001_000000_0010_0000, .vexp2 46 49 2), (0b001001_101110_110001_000000_0010_0001, .vlog2 46 49 2),
   (0b001001_101110_110001_000000_0010_0010, .vrcp 46 49 2), (0b001001_101110_110001_000000_0010_0011, .vrsqrt 46 49 2),
   (0b001001_101110_110001_000000_0010_0100, .vtanh 46 49 2), (0b001001_101110_110001_000000_0010_0101, .vsigm 46 49 2),
   (0b001010_101110_110001_110100_0101_0000, .vdiv 46 49 52 5), (0b001010_101110_110001_000000_0010_0001, .vsqrt 46 49 2),
   (0b001011_101110_110001_0_00001_0101_00_10, .vcvtTo 46 49 1 5 2),
   (0b001011_101110_110001_0_10100_0101_01_10, .vcvtFrom 46 49 20 5 2),
   (0b001100_101110_101100_0_11101_0000_01_00, .vscale 46 44 29 1),
   (0b001101_101110_101110_0_11101_0000_01_10, .vquant 46 46 29 1 2), (0b010000_101110_1011110_11101_0101_0000, .vld 46 94 29 5),
   (0b010000_101110_1011110_11101_0101_0001, .vldb 46 94 29 5), (0b010001_101110_1011110_11101_0101_0000, .vst 46 94 29 5),
   (0b010010_101110_1011110_11101_0101_0000, .vldn 46 94 29 5), (0b010011_101110_1011110_11101_0101_0000, .vstn 46 94 29 5),
   (0b010100_101110_1011110_0_0010_00000000, .vins 46 94 2)]

/-- Part of `spelled`. -/
def spelled8 : List (Nat × Instr) :=
  [(0b010100_101110_1011110_00000_0010_0001, .vsplat 46 94 2), (0b010100_101110_1011110_0_0010_00000010, .vext 46 94 2),
   (0b010100_101110_1011110_0_0010_00000011, .vexts 46 94 2), (0b0000010000_1011011_1011110_00000000, .mxstep 91 94),
   (0b0000100000_1011011_1011110_0000000_1, .mxdrain 91 94 1), (0b0000110000_1011011_00000000000000_0, .mxzero 91 0),
   (0b0001000000_1011011_1011110_000000_1_0, .mxsave 91 94 1 0), (0b0001010000_1011011_1011110_000000_1_0, .mxrest 91 94 1),
   (0b0001100000_1011011_1011110_10111100, .mxpair 91 94 188), (0b0001110000_1011011_1011110_00000000, .mxstat 91 94),
   (0b0010000000_1011011_1011110_0000_0010, .xfwd 91 94 2), (0b0010010000_1011011_1011110_00000000, .xinv 91 94),
   (0b00000100000_1011011_1011110_1100001, .rdstr 91 94 97), (0b00000100001_1011011_1011110_1100001, .rdsieve 91 94 97),
   (0b00000100010_1011011_1011110_1100001, .rdfold 91 94 97), (0b00000100011_1011011_1011110_1100001, .rdmat 91 94 97),
   (0b00000100100_1011011_1011110_1100001, .rdfp 91 94 97), (0b00000100101_1011011_1011110_1100001, .rdcmp 91 94 97),
   (0b00000100110_1011011_1011110_1100001, .upd 91 94 97), (0b00000100111_1011011_1011110_1100001, .dep 91 94 97)]

/-- Part of `spelled`. -/
def spelled9 : List (Nat × Instr) :=
  [(0b00000101000_1011011_1011110_1100001, .land 91 94 97), (0b00000101001_1011011_1011110_1100001, .bvload 91 94 97),
   (0b00000101010_1011011_1011110_1100001, .importHost 91 94 97), (0b00000101011_1011011_1011110_1100001, .exportHost 91 94 97),
   (0b00000101100_1011011_1011110_1100001, .stream 91 94 97), (0b00000101101_1011011_1011110_1100001, .crsmode 91 94 97),
   (0b00000101110_1011011_1011110_1100001, .cursor 91 94 97), (0b00001000000_1011011_1011110_1100001, .kvlook 91 94 97),
   (0b00001000001_1011011_1011110_1100001, .kvapp 91 94 97), (0b00001000010_1011011_1011110_1100001, .kvfork 91 94 97),
   (0b00001000011_1011011_1011110_1100001, .kvtrunc 91 94 97), (0b00001000100_1011011_1011110_1100001, .kvflat 91 94 97),
   (0b00001000101_1011011_1011110_1100001, .kvdep 91 94 97), (0b00001000110_1011011_1011110_1100001, .playset 91 94 97),
   (0b00001000111_1011011_1011110_1100001, .framein 91 94 97), (0b00001001000_1011011_1011110_1100001, .stateck 91 94 97),
   (0b000000000000000000000000, .ceNop), (0b000001000_10_0000000000000, .ceMov 2),
   (0b000010_110_11_10_00000000000, .ceAdd 6 3 2), (0b000011_001_11_11_00000000000, .ceSub 1 3 3)]

/-- Part of `spelled`. -/
def spelled10 : List (Nat × Instr) :=
  [(0b000100_100_11_00_00000000000, .ceMul 4 3 0), (0b000101_010_11_01_00000000000, .ceFma 2 3 1),
   (0b000110_001_11_10_00000000000, .ceFms 1 3 2), (0b000111_101_11_0000000000000, .ceMin 5 3),
   (0b001000_011_11_0000000000000, .ceMax 3 3), (0b001001_100_11_0000000000000, .ceAbs 4 3),
   (0b001010_010_11_0000000000000, .ceNeg 2 3), (0b001011_001_11_0000000000000, .ceRelu 1 3),
   (0b001100011_10_0000000000000, .ceAnd 2), (0b001101011_10_0000000000000, .ceOr 2), (0b001110011_10_0000000000000, .ceXor 2),
   (0b001111_011_11_0000000_100101, .ceShl 3 3 37), (0b010000_101_11_0000000_111111, .ceShr 5 3 63),
   (0b010001_100_11_0000000_100000, .ceSra 4 3 32), (0b010010_101_11_0000000000000, .ceCmpeq 5 3),
   (0b010011_100_11_0000000000000, .ceCmplt 4 3), (0b010100_001_11_0000000000000, .ceCmple 1 3),
   (0b010101_011_11_0000000000000, .ceSel 3 3), (0b010110_111_11_11_000000000_10, .ceCvt 7 3 3 2),
   (0b010111_011_11_00_00000000000, .ceHsum 3 3 0)]

/-- Part of `spelled`. -/
def spelled11 : List (Nat × Instr) :=
  [(0b011000_011_11_0000000000000, .ceHmax 3 3), (0b011001000_10_11_00000000000, .ceExp2 2 3),
   (0b011010000_10_11_00000000000, .ceLog2 2 3), (0b011011000_10_11_00000000000, .ceRcp 2 3),
   (0b011100000_10_11_00000000000, .ceRsqrt 2 3), (0b011101000_10_11_00000000000, .ceTanh 2 3),
   (0b011110000_10_11_00000000000, .ceSigm 2 3), (0b100000110_10_11_00000000000, .ceCmul 2 3),
   (0b100001110_10_11_00000000000, .ceCmac 2 3), (0b100010110_10_0000000000000, .ceCconj 2),
   (0b100100111_10_0000000000000, .ceLmul 2), (0b100101111_10_11_00000000000, .ceLmac 2 3),
   (0b100110111_10_11_00000000000, .ceLdot4 2 3), (0b101000000_10_11_00000000000, .ceTmerge 2 3),
   (0b10110000011000000000000_1, .ceTemit 1), (0b101101011_10_0000000000000, .ceIdx 2), (0b101110000_10_0000000000000, .ceHdr 2),
   (0b101111000_10_0000000000000, .cePay 2), (0b0000000000000000, .nnop), (0b1000000000000000, .nw)]

/-- Part of `spelled`. -/
def spelled12 : List (Nat × Instr) :=
  [(0b0100000000000000, .nr), (0b1100000000000000, .nwr), (0b001_1010_000000000, .nat 10), (0b0000000000000000, .gnop),
   (0b1_110_000000000000, .gemit 6), (0b0000000000000000, .cnop), (0b1000000000000000, .cin), (0b0100000000000000, .cout),
   (0b1100000000000000, .cinCout), (0b0010000000000000, .cclose), (0b0110_0000_0000_0000, .coutCclose),
   (0b1010000000000000, .cinCclose), (0b1110_0000_0000_0000, .cinCoutCclose)]

/-- A word of every instruction that has one, with the instruction that the encoding tables give it (R163 to R176, R291 to R298, R372). -/
def spelled : List (Nat × Instr) :=
  spelled0 ++ spelled1 ++ spelled2 ++ spelled3 ++ spelled4 ++ spelled5 ++ spelled6 ++ spelled7 ++ spelled8 ++ spelled9 ++ spelled10 ++ spelled11 ++ spelled12

theorem test_decode_every_word : spelled.all (fun p => decide (decodeAt (if p.2 = .nop then .s else p.2.place) p.1 = some p.2)) = true := by decide +kernel

theorem test_encode_every_word : spelled.all (fun p => decide (encode p.2 = p.1) && p.2.wellFormed) = true := by decide +kernel

/-! ## Well-formedness: a term that fails each check -/

/-- Part of `illFormed`. -/
def illFormed0 : List Instr :=
  [.add 128 94 97, .add 91 128 97, .add 91 94 128, .sub 128 94 97, .sub 91 128 97, .sub 91 94 128, .and 128 94 97,
   .and 91 128 97, .and 91 94 128, .or 128 94 97, .or 91 128 97, .or 91 94 128, .xor 128 94 97, .xor 91 128 97, .xor 91 94 128,
   .sll 128 94 97, .sll 91 128 97, .sll 91 94 128, .srl 128 94 97, .srl 91 128 97, .srl 91 94 128, .sra 128 94 97,
   .sra 91 128 97, .sra 91 94 128, .min 128 94 97, .min 91 128 97, .min 91 94 128, .max 128 94 97, .max 91 128 97,
   .max 91 94 128, .minu 128 94 97, .minu 91 128 97, .minu 91 94 128, .maxu 128 94 97, .maxu 91 128 97, .maxu 91 94 128,
   .mul 128 94 97, .mul 91 128 97, .mul 91 94 128, .mulh 128 94 97, .mulh 91 128 97, .mulh 91 94 128, .mulhu 128 94 97,
   .mulhu 91 128 97, .mulhu 91 94 128, .div 128 94 97, .div 91 128 97, .div 91 94 128, .divu 128 94 97, .divu 91 128 97,
   .divu 91 94 128, .rem 128 94 97, .rem 91 128 97, .rem 91 94 128, .remu 128 94 97, .remu 91 128 97, .remu 91 94 128,
   .cmpEq 16 94 97, .cmpEq 12 128 97, .cmpEq 12 94 128]

/-- Part of `illFormed`. -/
def illFormed1 : List Instr :=
  [.cmpNe 16 94 97, .cmpNe 12 128 97, .cmpNe 12 94 128, .cmpLt 16 94 97, .cmpLt 12 128 97, .cmpLt 12 94 128, .cmpGe 16 94 97,
   .cmpGe 12 128 97, .cmpGe 12 94 128, .cmpLtu 16 94 97, .cmpLtu 12 128 97, .cmpLtu 12 94 128, .cmpGeu 16 94 97,
   .cmpGeu 12 128 97, .cmpGeu 12 94 128, .pand 16 15 2, .pand 12 16 2, .pand 12 15 16, .por 16 15 2, .por 12 16 2, .por 12 15 16,
   .pxor 16 15 2, .pxor 12 16 2, .pxor 12 15 16, .pandn 16 15 2, .pandn 12 16 2, .pandn 12 15 16, .pmov 128 15, .pmov 91 16,
   .pset 16 94, .pset 12 128, .extu 128 94 97, .extu 91 128 97, .extu 91 94 128, .exts 128 94 97, .exts 91 128 97,
   .exts 91 94 128, .ins 128 94 97, .ins 91 128 97, .ins 91 94 128, .clz 128 94, .clz 91 128, .ctz 128 94, .ctz 91 128,
   .popc 128 94, .popc 91 128, .addi 128 94 2913, .addi 91 128 2913, .addi 91 94 4096, .andi 128 94 2913, .andi 91 128 2913,
   .andi 91 94 4096, .ori 128 94 2913, .ori 91 128 2913, .ori 91 94 4096, .xori 128 94 2913, .xori 91 128 2913, .xori 91 94 4096,
   .slli 128 94 52, .slli 91 128 52]

/-- Part of `illFormed`. -/
def illFormed2 : List Instr :=
  [.slli 91 94 64, .srli 128 94 52, .srli 91 128 52, .srli 91 94 64, .srai 128 94 52, .srai 91 128 52, .srai 91 94 64,
   .cmpiEq 16 94 370, .cmpiEq 12 128 370, .cmpiEq 12 94 512, .cmpiNe 16 94 370, .cmpiNe 12 128 370, .cmpiNe 12 94 512,
   .cmpiLt 16 94 370, .cmpiLt 12 128 370, .cmpiLt 12 94 512, .cmpiGe 16 94 370, .cmpiGe 12 128 370, .cmpiGe 12 94 512,
   .cmpiLtu 16 94 370, .cmpiLtu 12 128 370, .cmpiLtu 12 94 512, .cmpiGeu 16 94 370, .cmpiGeu 12 128 370, .cmpiGeu 12 94 512,
   .lui 128 372081, .lui 91 524288, .ldB 128 94 2913, .ldB 91 128 2913, .ldB 91 94 4096, .ldH 128 94 2913, .ldH 91 128 2913,
   .ldH 91 94 4096, .ldW 128 94 2913, .ldW 91 128 2913, .ldW 91 94 4096, .ldD 128 94 2913, .ldD 91 128 2913, .ldD 91 94 4096,
   .stB 128 94 2913, .stB 91 128 2913, .stB 91 94 4096, .stH 128 94 2913, .stH 91 128 2913, .stH 91 94 4096, .stW 128 94 2913,
   .stW 91 128 2913, .stW 91 94 4096, .stD 128 94 2913, .stD 91 128 2913, .stD 91 94 4096, .ldnB 128 94 97, .ldnB 91 128 97,
   .ldnB 91 94 128, .ldnH 128 94 97, .ldnH 91 128 97, .ldnH 91 94 128, .ldnW 128 94 97, .ldnW 91 128 97, .ldnW 91 94 128]

/-- Part of `illFormed`. -/
def illFormed3 : List Instr :=
  [.ldnD 128 94 97, .ldnD 91 128 97, .ldnD 91 94 128, .ldnBu 128 94 97, .ldnBu 91 128 97, .ldnBu 91 94 128, .ldnHu 128 94 97,
   .ldnHu 91 128 97, .ldnHu 91 94 128, .ldnWu 128 94 97, .ldnWu 91 128 97, .ldnWu 91 94 128, .stnB 128 94 97, .stnB 91 128 97,
   .stnB 91 94 128, .stnH 128 94 97, .stnH 91 128 97, .stnH 91 94 128, .stnW 128 94 97, .stnW 91 128 97, .stnW 91 94 128,
   .stnD 128 94 97, .stnD 91 128 97, .stnD 91 94 128, .atn 128 94 97 14, .atn 91 128 97 14, .atn 91 94 128 14, .atn 91 94 97 32,
   .atn 91 94 97 15, .br 16 1420657, .br 12 2097152, .brNot 16 1420657, .brNot 12 2097152, .jal 128 372081, .jal 91 524288,
   .jalr 128 94, .jalr 91 128, .loop 128 4095, .loop 91 4096, .loop 91 0, .rvset 128 23, .rvset 91 128, .rvset 91 24,
   .rvarr 128 22, .rvarr 91 128, .rvarr 91 24, .rvwait 128 21, .rvwait 91 128, .rvwait 91 24, .waitstampNe 128 94 97,
   .waitstampNe 91 128 97, .waitstampNe 91 94 128, .waitstampTag 128 94 97, .waitstampTag 91 128 97, .waitstampTag 91 94 128,
   .waitstampAny 128 94, .waitstampAny 91 128, .fcfg 128 94 97, .fcfg 91 128 97, .fcfg 91 94 128]

/-- Part of `illFormed`. -/
def illFormed4 : List Instr :=
  [.frel 128, .tksend 128 94, .tksend 91 128, .tktake 128 7, .tktake 91 128, .tktake 91 8, .csrr 128 9, .csrr 91 128, .csrr 91 5,
   .csrw 128 12, .csrw 91 128, .csrw 91 3, .csrs 128 12, .csrs 91 128, .csrs 91 3, .csrc 128 12, .csrc 91 128, .csrc 91 3,
   .dual 128, .dual 0, .dual 4, .tget 128 94 2, .tget 91 128 2, .tget 91 94 4, .tget 91 94 0, .tgetV 64 49 3, .tgetV 46 64 3,
   .tgetV 46 49 4, .tgetV 46 49 0, .tset 128 94 1, .tset 91 128 1, .tset 91 94 4, .tset 91 94 0, .tsetV 64 49 2, .tsetV 46 64 2,
   .tsetV 46 49 4, .tsetV 46 49 0, .tplane 128 94 97, .tplane 3 128 97, .tplane 3 94 128, .tplane 0 94 97, .tplane 4 94 97,
   .trap 128, .rysave 128, .ryload 128, .regshrinkX 128, .regshrinkX 0, .regshrinkX 17, .regshrinkV 128, .regshrinkV 9,
   .reggrowX 128, .reggrowX 0, .reggrowX 17, .reggrowV 128, .reggrowV 9, .vadd 64 49 52 5, .vadd 46 64 52 5, .vadd 46 49 64 5,
   .vadd 46 49 52 16, .vsub 64 49 52 5]

/-- Part of `illFormed`. -/
def illFormed5 : List Instr :=
  [.vsub 46 64 52 5, .vsub 46 49 64 5, .vsub 46 49 52 16, .vmul 64 49 52 5, .vmul 46 64 52 5, .vmul 46 49 64 5,
   .vmul 46 49 52 16, .vmin 64 49 52 5, .vmin 46 64 52 5, .vmin 46 49 64 5, .vmin 46 49 52 16, .vmax 64 49 52 5,
   .vmax 46 64 52 5, .vmax 46 49 64 5, .vmax 46 49 52 16, .vabs 64 49 2, .vabs 46 64 2, .vabs 46 49 16, .vneg 64 49 2,
   .vneg 46 64 2, .vneg 46 49 16, .vfma 64 49 52 5, .vfma 46 64 52 5, .vfma 46 49 64 5, .vfma 46 49 52 16, .vfnma 64 49 52 5,
   .vfnma 46 64 52 5, .vfnma 46 49 64 5, .vfnma 46 49 52 16, .viadd 64 49 52 5, .viadd 46 64 52 5, .viadd 46 49 64 5,
   .viadd 46 49 52 16, .visub 64 49 52 5, .visub 46 64 52 5, .visub 46 49 64 5, .visub 46 49 52 16, .vimul 64 49 52 5,
   .vimul 46 64 52 5, .vimul 46 49 64 5, .vimul 46 49 52 16, .vimin 64 49 52 5, .vimin 46 64 52 5, .vimin 46 49 64 5,
   .vimin 46 49 52 16, .vimax 64 49 52 5, .vimax 46 64 52 5, .vimax 46 49 64 5, .vimax 46 49 52 16, .vsll 64 49 52 5,
   .vsll 46 64 52 5, .vsll 46 49 64 5, .vsll 46 49 52 16, .vsrl 64 49 52 5, .vsrl 46 64 52 5, .vsrl 46 49 64 5,
   .vsrl 46 49 52 16, .vsra 64 49 52 5, .vsra 46 64 52 5, .vsra 46 49 64 5]

/-- Part of `illFormed`. -/
def illFormed6 : List Instr :=
  [.vsra 46 49 52 16, .vand 64 49 52 5, .vand 46 64 52 5, .vand 46 49 64 5, .vand 46 49 52 16, .vor 64 49 52 5, .vor 46 64 52 5,
   .vor 46 49 64 5, .vor 46 49 52 16, .vxor 64 49 52 5, .vxor 46 64 52 5, .vxor 46 49 64 5, .vxor 46 49 52 16, .vandn 64 49 52 5,
   .vandn 46 64 52 5, .vandn 46 49 64 5, .vandn 46 49 52 16, .vcmpEqF 16 49 52 5, .vcmpEqF 12 64 52 5, .vcmpEqF 12 49 64 5,
   .vcmpEqF 12 49 52 16, .vcmpLtF 16 49 52 5, .vcmpLtF 12 64 52 5, .vcmpLtF 12 49 64 5, .vcmpLtF 12 49 52 16,
   .vcmpLeF 16 49 52 5, .vcmpLeF 12 64 52 5, .vcmpLeF 12 49 64 5, .vcmpLeF 12 49 52 16, .vcmpEqI 16 49 52 5, .vcmpEqI 12 64 52 5,
   .vcmpEqI 12 49 64 5, .vcmpEqI 12 49 52 16, .vcmpLtI 16 49 52 5, .vcmpLtI 12 64 52 5, .vcmpLtI 12 49 64 5,
   .vcmpLtI 12 49 52 16, .vsel 64 49 52 5, .vsel 46 64 52 5, .vsel 46 49 64 5, .vsel 46 49 52 16, .vperm 64 49 52 5,
   .vperm 46 64 52 5, .vperm 46 49 64 5, .vperm 46 49 52 16, .vbcast 64 49 13 5, .vbcast 46 64 13 5, .vbcast 46 49 64 5,
   .vbcast 46 49 13 16, .vbcast 46 49 16 5, .vredadd 64 49 2, .vredadd 46 64 2, .vredadd 46 49 16, .vredmax 64 49 2,
   .vredmax 46 64 2, .vredmax 46 49 16, .vrediadd 64 49 2, .vrediadd 46 64 2, .vrediadd 46 49 16, .vexp2 64 49 2]

/-- Part of `illFormed`. -/
def illFormed7 : List Instr :=
  [.vexp2 46 64 2, .vexp2 46 49 16, .vlog2 64 49 2, .vlog2 46 64 2, .vlog2 46 49 16, .vrcp 64 49 2, .vrcp 46 64 2,
   .vrcp 46 49 16, .vrsqrt 64 49 2, .vrsqrt 46 64 2, .vrsqrt 46 49 16, .vtanh 64 49 2, .vtanh 46 64 2, .vtanh 46 49 16,
   .vsigm 64 49 2, .vsigm 46 64 2, .vsigm 46 49 16, .vdiv 64 49 52 5, .vdiv 46 64 52 5, .vdiv 46 49 64 5, .vdiv 46 49 52 16,
   .vsqrt 64 49 2, .vsqrt 46 64 2, .vsqrt 46 49 16, .vcvtTo 64 49 1 5 2, .vcvtTo 46 64 1 5 2, .vcvtTo 46 49 32 5 2,
   .vcvtTo 46 49 1 16 2, .vcvtTo 46 49 1 5 4, .vcvtTo 46 49 14 5 2, .vcvtFrom 64 49 20 5 2, .vcvtFrom 46 64 20 5 2,
   .vcvtFrom 46 49 32 5 2, .vcvtFrom 46 49 20 16 2, .vcvtFrom 46 49 20 5 4, .vcvtFrom 46 49 14 5 2, .vcvtFrom 46 49 1 5 1,
   .vscale 64 44 29 1, .vscale 46 64 29 1, .vscale 46 44 32 1, .vscale 46 44 29 4, .vscale 46 45 29 1, .vquant 64 46 29 1 2,
   .vquant 46 64 29 1 2, .vquant 46 46 32 1 2, .vquant 46 46 29 4 2, .vquant 46 46 29 1 4, .vquant 46 47 29 1 2, .vld 64 94 29 5,
   .vld 46 128 29 5, .vld 46 94 32 5, .vld 46 94 29 16, .vldb 64 94 29 5, .vldb 46 128 29 5, .vldb 46 94 32 5, .vldb 46 94 29 16,
   .vst 64 94 29 5, .vst 46 128 29 5, .vst 46 94 32 5, .vst 46 94 29 16]

/-- Part of `illFormed`. -/
def illFormed8 : List Instr :=
  [.vldn 64 94 29 5, .vldn 46 128 29 5, .vldn 46 94 32 5, .vldn 46 94 29 16, .vstn 64 94 29 5, .vstn 46 128 29 5,
   .vstn 46 94 32 5, .vstn 46 94 29 16, .vins 64 94 2, .vins 46 128 2, .vins 46 94 16, .vsplat 64 94 2, .vsplat 46 128 2,
   .vsplat 46 94 16, .vext 64 94 2, .vext 46 128 2, .vext 46 94 16, .vexts 64 94 2, .vexts 46 128 2, .vexts 46 94 16,
   .mxstep 128 94, .mxstep 91 128, .mxdrain 128 94 1, .mxdrain 91 128 1, .mxdrain 91 94 2, .mxzero 128 0, .mxzero 91 2,
   .mxsave 128 94 1 0, .mxsave 91 128 1 0, .mxsave 91 94 2 0, .mxsave 91 94 1 2, .mxrest 128 94 1, .mxrest 91 128 1,
   .mxrest 91 94 2, .mxpair 128 94 188, .mxpair 91 128 188, .mxpair 91 94 256, .mxstat 128 94, .mxstat 91 128, .xfwd 128 94 2,
   .xfwd 91 128 2, .xfwd 91 94 16, .xinv 128 94, .xinv 91 128, .rdstr 128 94 97, .rdstr 91 128 97, .rdstr 91 94 128,
   .rdsieve 128 94 97, .rdsieve 91 128 97, .rdsieve 91 94 128, .rdfold 128 94 97, .rdfold 91 128 97, .rdfold 91 94 128,
   .rdmat 128 94 97, .rdmat 91 128 97, .rdmat 91 94 128, .rdfp 128 94 97, .rdfp 91 128 97, .rdfp 91 94 128, .rdcmp 128 94 97]

/-- Part of `illFormed`. -/
def illFormed9 : List Instr :=
  [.rdcmp 91 128 97, .rdcmp 91 94 128, .upd 128 94 97, .upd 91 128 97, .upd 91 94 128, .dep 128 94 97, .dep 91 128 97,
   .dep 91 94 128, .land 128 94 97, .land 91 128 97, .land 91 94 128, .bvload 128 94 97, .bvload 91 128 97, .bvload 91 94 128,
   .importHost 128 94 97, .importHost 91 128 97, .importHost 91 94 128, .exportHost 128 94 97, .exportHost 91 128 97,
   .exportHost 91 94 128, .stream 128 94 97, .stream 91 128 97, .stream 91 94 128, .crsmode 128 94 97, .crsmode 91 128 97,
   .crsmode 91 94 128, .cursor 128 94 97, .cursor 91 128 97, .cursor 91 94 128, .kvlook 128 94 97, .kvlook 91 128 97,
   .kvlook 91 94 128, .kvapp 128 94 97, .kvapp 91 128 97, .kvapp 91 94 128, .kvfork 128 94 97, .kvfork 91 128 97,
   .kvfork 91 94 128, .kvtrunc 128 94 97, .kvtrunc 91 128 97, .kvtrunc 91 94 128, .kvflat 128 94 97, .kvflat 91 128 97,
   .kvflat 91 94 128, .kvdep 128 94 97, .kvdep 91 128 97, .kvdep 91 94 128, .playset 128 94 97, .playset 91 128 97,
   .playset 91 94 128, .framein 128 94 97, .framein 91 128 97, .framein 91 94 128, .stateck 128 94 97, .stateck 91 128 97,
   .stateck 91 94 128, .ceMov 4, .ceAdd 8 3 2, .ceAdd 6 4 2, .ceAdd 6 3 4]

/-- Part of `illFormed`. -/
def illFormed10 : List Instr :=
  [.ceAdd 7 3 0, .ceAdd 3 3 1, .ceSub 8 3 3, .ceSub 1 4 3, .ceSub 1 3 4, .ceSub 7 3 0, .ceSub 3 3 1, .ceMul 8 3 0, .ceMul 4 4 0,
   .ceMul 4 3 4, .ceMul 6 3 0, .ceMul 3 3 1, .ceFma 8 3 1, .ceFma 2 4 1, .ceFma 2 3 4, .ceFma 3 3 0, .ceFms 8 3 2, .ceFms 1 4 2,
   .ceFms 1 3 4, .ceFms 3 3 0, .ceMin 8 3, .ceMin 5 4, .ceMin 6 3, .ceMax 8 3, .ceMax 3 4, .ceMax 6 3, .ceAbs 8 3, .ceAbs 4 4,
   .ceAbs 6 3, .ceNeg 8 3, .ceNeg 2 4, .ceNeg 6 3, .ceRelu 8 3, .ceRelu 1 4, .ceRelu 3 3, .ceAnd 4, .ceOr 4, .ceXor 4,
   .ceShl 8 3 37, .ceShl 3 4 37, .ceShl 3 3 64, .ceShl 0 3 37, .ceShl 3 3 31, .ceShr 8 3 63, .ceShr 5 4 63, .ceShr 5 3 64,
   .ceShr 0 3 63, .ceShr 5 3 31, .ceSra 8 3 32, .ceSra 4 4 32, .ceSra 4 3 64, .ceSra 0 3 32, .ceSra 4 3 31, .ceCmpeq 8 3,
   .ceCmpeq 5 4, .ceCmpeq 6 3, .ceCmplt 8 3, .ceCmplt 4 4, .ceCmplt 6 3, .ceCmple 8 3]

/-- Part of `illFormed`. -/
def illFormed11 : List Instr :=
  [.ceCmple 1 4, .ceCmple 6 3, .ceSel 8 3, .ceSel 3 4, .ceSel 1 3, .ceCvt 8 3 3 2, .ceCvt 7 4 3 2, .ceCvt 7 3 4 2,
   .ceCvt 7 3 3 4, .ceCvt 4 3 0 2, .ceCvt 2 3 3 2, .ceCvt 7 3 3 3, .ceHsum 8 3 0, .ceHsum 3 4 0, .ceHsum 3 3 4, .ceHsum 1 3 0,
   .ceHsum 3 3 1, .ceHmax 8 3, .ceHmax 3 4, .ceHmax 1 3, .ceExp2 4 3, .ceExp2 2 4, .ceLog2 4 3, .ceLog2 2 4, .ceRcp 4 3,
   .ceRcp 2 4, .ceRsqrt 4 3, .ceRsqrt 2 4, .ceTanh 4 3, .ceTanh 2 4, .ceSigm 4 3, .ceSigm 2 4, .ceCmul 4 3, .ceCmul 2 4,
   .ceCmac 4 3, .ceCmac 2 4, .ceCconj 4, .ceLmul 4, .ceLmac 4 3, .ceLmac 2 4, .ceLdot4 4 3, .ceLdot4 2 4, .ceTmerge 4 3,
   .ceTmerge 2 4, .ceTemit 2, .ceIdx 4, .ceHdr 4, .cePay 4, .nat 16, .nat 15, .gemit 8]

/-- An instruction for each check of `Instr.wellFormed`, with that one field out of its range. -/
def illFormed : List Instr :=
  illFormed0 ++ illFormed1 ++ illFormed2 ++ illFormed3 ++ illFormed4 ++ illFormed5 ++ illFormed6 ++ illFormed7 ++ illFormed8 ++ illFormed9 ++ illFormed10 ++ illFormed11

theorem test_ill_formed_refused : illFormed.all (fun i => !i.wellFormed) = true := by decide +kernel

/-! ## Steps and functions on the spec's own examples -/

/-- Core 0 after an instruction that issues in a bundle already checked, `n` steps later, with every write due by then landed. -/
def after (n : Nat) (i : Instr) (c : Core) : Core :=
  Core.land { (nextOf (exec i { metS c with checked := true })).me with step := c.step + n }

/-- `metC` with scalar registers `xs`. -/
def withX (xs : List (Nat × DWord)) : Core := { metC with x := xs }

/-- The words that the spec writes out beside their instructions (R193, R200, R201, R214, R230 to R232, R245). -/
theorem test_spec_words :
    [decodeS 0x041840A0, decodeS 0xFC000000, decodeS 0x6830710A, decodeS 0x83C00004, decodeS 0x83FFFFFD] =
      [.ok (.add 3 4 5), .ok .exit, .ok (.atn 6 7 8 10), .ok (.br 15 4), .ok (.brNot 15 0x1FFFFD)] ∧
    [decodeV 0x40A18000, decodeV 0x30828308, decodeV 0x34828308, decodeV 0x4481A000] =
      [.ok (.vld 10 12 0 0), .ok (.vscale 8 10 3 2), .ok (.vquant 8 10 3 2 0), .ok (.vst 8 13 0 0)] ∧
    decodeM 0x08050C01 = .ok (.mxdrain 10 12 1) := by decide +kernel

/-- R193: the sum wraps; nothing has landed in the issue step. -/
theorem test_add_wraps :
    (after 1 (.add 3 4 5) (withX [(4, 0xFFFFFFFFFFFFFFFF), (5, 2)])).rx 0 3 = 1 ∧
    (after 0 (.add 3 4 5) (withX [(4, 0xFFFFFFFFFFFFFFFF), (5, 2)])).rx 0 3 = 0 := by decide +kernel

/-- R194: a quotient by zero is all ones with DIVZERO, and −2^63 by −1 is −2^63 with no flag. -/
theorem test_div_corners :
    (after 12 (.div 7 8 9) (withX [(8, 5)])).rx 0 7 = 0xFFFFFFFFFFFFFFFF ∧
    (after 12 (.div 7 8 9) (withX [(8, 5)])).flags = 2 ∧
    (after 12 (.div 7 8 9) (withX [(8, 0x8000000000000000), (9, 0xFFFFFFFFFFFFFFFF)])).rx 0 7 = 0x8000000000000000 ∧
    (after 12 (.div 7 8 9) (withX [(8, 0x8000000000000000), (9, 0xFFFFFFFFFFFFFFFF)])).flags = 0 := by decide +kernel

/-- R194: a remainder has the sign of its dividend, and by zero is the dividend. -/
theorem test_rem_sign :
    (after 12 (.rem 7 8 9) (withX [(8, 0xFFFFFFFFFFFFFFF9), (9, 2)])).rx 0 7 = 0xFFFFFFFFFFFFFFFF ∧
    (after 12 (.rem 7 8 9) (withX [(8, 5)])).rx 0 7 = 5 := by decide +kernel

/-- R193: a shift ignores bits [63:6] of its count; SRA copies the sign. -/
theorem test_sra_count :
    (after 1 (.sra 3 4 5) (withX [(4, 0x8000000000000000), (5, 0x44)])).rx 0 3 = 0xF800000000000000 := by decide +kernel

/-- R196: with x9 = 0x0300, EXTU takes bits [3:0]. -/
theorem test_extu_example : (after 1 (.extu 8 8 9) (withX [(8, 0xABCD), (9, 0x0300)])).rx 0 8 = 0xD := by decide +kernel

/-- R198: a byte load extends the sign, from the byte at xa + sext(imm12). -/
theorem test_ldb_sign :
    (Core.land { (nextOf (exec (.ldB 3 4 0xFFF) { metS (withX [(4, 1)]) with checked := true, mem := [(coxBase 0, 0x80)] })).me with step := 4 }).rx 0 3 =
      0xFFFFFFFFFFFFFF80 := by decide +kernel

/-- R201: JAL links to this bundle + 48. -/
theorem test_jal_link : (after 1 (.jal 3 0x7FFFF) { withX [] with pc := 0x1000 }).rx 0 3 = 0x1030 := by decide +kernel

/-- R213: a write that lands on a released register is dropped and sets LOSTWR; one on a register kept is made. -/
theorem test_lost_write :
    (Core.land { metC with ax := 32, step := 12, pend := [metW (.x 40) 12] }).rx 0 40 = 0 ∧
    (Core.land { metC with ax := 32, step := 12, pend := [metW (.x 40) 12] }).flags = 64 ∧
    (Core.land { metC with ax := 48, step := 12, pend := [metW (.x 40) 12] }).rx 0 40 = 9 := by decide +kernel

/-- The example's register v10. -/
def qbIn : VWord := ofLanes [0x3F800000, 0xC0200000, 0x41100000, 0x3E99999A]

/-- A core with it. -/
def qbC : Core := { metC with v := [(10, qbIn)] }


/-- R230, R134: VSCALE gives the partial QB4 block (1.0, −2.5, 9.0, 0.3) the scale 0x1FF, in every lane. -/
theorem test_vscale_example : lane ((after 6 (.vscale 8 10 3 2) qbC).rv 0 8) 15 = 0x1FF := by decide +kernel

/-- R231, R134: VQUANT of that block: header, payload, zeros. -/
theorem test_vquant_example :
    (List.range 16).map (lane ((after 6 (.vquant 8 10 3 2 0) { metC with v := [(10, qbIn), (8, 0x1FF)] }).rv 0 8)) =
      [0xFF90, 8, 0, 0, 0x07B1, 0, 0, 0, 0, 0, 0, 0, 0, 0, 0, 0] := by decide +kernel

/-- R134, R133: INEXACT; and UNDERFLOW, for 1.0 and 0.3 are tiny under that scale. -/
theorem test_vquant_flags : (after 6 (.vquant 8 10 3 2 0) { metC with v := [(10, qbIn), (8, 0x1FF)] }).flags = 24 := by decide +kernel

/-- R224: the tangent of VLOG2 at +0.0 with ta = 2.0 is +∞, and of VRCP at −0.0 with ta = 1.0 is −∞, each with DIVZERO. -/
theorem test_tangent_of_zero :
    tanLog2 (f32 0) (f32 0x40000000) = (0x7F800000, 2) ∧ tanRcp (f32 0x80000000) (f32 0x3F800000) = (0xFF800000, 2) := by decide +kernel

/-- R127, R126: values of LG6 codes, as FP32. -/
theorem test_lg6_values :
    [0x10, 0x12, 0x2D, 0x1F, 0x20].map (fun c => (rne32 (decodeScaled 8 0x1FC c, 0)).1) =
      [0x3F800000, 0x3FB50400, 0xBF183800, 0x41574400, 0x80000000] := by decide +kernel

/-- R132: 450 into E4M3 is 448 with INEXACT alone under RNE, and with SAT and INEXACT rounded upward. -/
theorem test_e4m3_top :
    Fmt.encode (.fp 8 3 7 0x7E .e4m3) 0 (.ofInt 450) = (0x7E, 16) ∧ Fmt.encode (.fp 8 3 7 0x7E .e4m3) 2 (.ofInt 450) = (0x7E, 48) := by decide +kernel

/-- R112, R113: the header of a full QB8 block of scale 1.0 in TIME with tag 5 and plane 0. -/
theorem test_header_example : mkHeader 0x0E 0 0x1FC 5 0 32 0 = 0x40000AFE0E := by decide +kernel

/-- R139, R140: an FP16 group is one exact sum rounded once, and the log6 example is exact. -/
theorem test_k_step :
    kElement 1 1 false ⟨0, 0x3C00 :: List.replicate 7 0x0C00⟩ ⟨0, 0x3C00 :: List.replicate 7 0x0800⟩ 0 0 = (0x3F800002, 0, 16) ∧
    kElement 8 8 false ⟨0, [0x10, 0x14, 0x00]⟩ ⟨0, [0x12, 0x2D, 0x07]⟩ 0x3F800000 0 = (0x3F9CCC00, 0, 0) := by decide +kernel

/-- R99: node 6 of the M tile (2, 0) of die F0, offset 0x0040, is at local address 0x8100_C040; its words are that node's. -/
theorem test_node_address :
    bits 0x8100C040 29 28 = 0 ∧ bits 0x8100C040 27 23 = 2 ∧ keyOf 0x8100C040 = 2 * 1024 + 6 ∧ bits 0x8100C040 12 0 = 0x40 := by
  decide +kernel

/-- R108: cas writes where the word holds the expected value, returns the old word, and leaves the rest alone. -/
theorem test_cas :
    atomicNew 14 7 9 7 = (9, 0) ∧ atomicNew 14 7 9 8 = (7, 0) := by decide +kernel

/-- R261: the sieve of the eight words 5, 12, 7, 30, 9, 40, 2, 15 caught at word 5, CMP GE signed 10, NMAX 3, slots of index and word. -/
theorem test_sieve_example :
    ({ metQ with kind := .rdsieve, rcd := 0x0003380000000007FFFFFFFF0000000A00000000000004000000000880000005, seen := [(0, 5), (1, 12), (2, 7), (3, 30), (4, 9), (5, 40), (6, 2), (7, 15)], order := [4, 3, 2, 1, 0, 7, 6, 5], parts := [{ metPt with runs := [⟨0, 8, 0, none⟩] }] } : Rider).sieve =
      ([0x30004, 0, 5, 40, 7, 15, 1, 12], 0x20) := by decide +kernel

/-- R262: SUM.F is one exact sum rounded once. -/
theorem test_fold_exact : foldWords 2 0 0 [0x7F000000, 0x3F800000, 0xFF000000] = (0x3F800000, 0) := by decide +kernel

/-- R214: after EXIT the core issues no more. -/
theorem test_exit : (nextOf (exec .exit { metS metC with checked := true })).me.run ≠ .running ∨ (nextOf (exec .exit { metS metC with checked := true })).me.next ≠ metC.next := by
  decide +kernel

/-! ## The hypotheses of every statement are met -/

/-- The hypotheses of each clause of `Obligations.NodeRingWords` are met together. -/
theorem met_NodeRingWords :
    (∃ (w : _), (w < 2 ^ 16)) :=
  ⟨0xFFFF, by decide +kernel⟩

/-- The hypotheses of each clause of `Obligations.RoundTripScalar` are met together. -/
theorem met_RoundTripScalar :
    (∃ (i : Instr), (i.wellFormed = true) ∧ ((i.place = .s ∨ i.place = .any))) :=
  ⟨.add 127 0 127, by decide +kernel⟩

/-- The hypotheses of each clause of `Obligations.RoundTripVector` are met together. -/
theorem met_RoundTripVector :
    (∃ (i : Instr), (i.wellFormed = true) ∧ (i.place = .v)) :=
  ⟨.vadd 63 0 63 15, by decide +kernel⟩

/-- The hypotheses of each clause of `Obligations.RoundTripOther` are met together. -/
theorem met_RoundTripOther :
    (∃ (i : Instr), (i.wellFormed = true) ∧ (i.place ∈ ([.m, .c, .ce, .node, .gen, .conv] : List Place))) :=
  ⟨.mxdrain 127 0 1, by decide +kernel⟩

/-- The hypotheses of each clause of `Obligations.DecodeSound` are met together. -/
theorem met_DecodeSound :
    (∃ (w : _) (i : _), (w < 2 ^ 32) ∧ (decodeS w = .ok i)) ∧
    (∃ (w : _) (i : _), (w < 2 ^ 32) ∧ (decodeV w = .ok i)) ∧
    (∃ (w : _) (i : _), (w < 2 ^ 32) ∧ (decodeM w = .ok i)) ∧
    (∃ (w : _) (i : _), (w < 2 ^ 32) ∧ (decodeC w = .ok i)) :=
  ⟨⟨0, .nop, by decide +kernel⟩,
  ⟨0b000001_000011_000100_000101_0000_0000, .vadd 3 4 5 0, by decide +kernel⟩,
  ⟨0b000010_0000_0001010_0001100_00000001, .mxdrain 10 12 1, by decide +kernel⟩,
  ⟨0b000001_00010_0010001_0001011_0000000, .rdfold 17 11 0, by decide +kernel⟩⟩

/-- The hypotheses of each clause of `Obligations.StepRunsBundle` are met together. -/
theorem met_StepRunsBundle :
    (∃ (s : State) (u : State) (u' : State) (t0 : State) (t1 : State) (t2 : State) (t3 : State) (c : Nat) (dt : Nat) (r : List Go) (b : BitVec
      128) (i0 : Instr) (i1 : Instr) (i2 : Instr) (i3 : Instr), (s.turns = ⟨dt, .core c⟩ :: r) ∧ (({ s with turns := r, now := s.now + dt }
      : State).coreStill c = false) ∧ (({ s with turns := r, now := s.now + dt } : State).leaves c = false) ∧
      (({ s with turns := r, now := s.now + dt, cur := c } : State).beforeIssue = (u, true)) ∧ (u.cached (u.asidOf c) (u.funcOf c)
      u.me.pc.toNat = some (b, u')) ∧ (decodeS (b.toNat % 2 ^ 32) = .ok i0) ∧ (decodeV (b.toNat / 2 ^ 32 % 2 ^ 32) = .ok i1) ∧ (decodeM
      (b.toNat / 2 ^ 64 % 2 ^ 32) = .ok i2) ∧ (decodeC (b.toNat / 2 ^ 96 % 2 ^ 32) = .ok i3) ∧ (({ u' with bundle := b } : State).stopBundle
      = none) ∧ (exec i0 { u' with bundle := b, checked := true, curSlot := 0 } = .next t0) ∧ (exec i1 { t0 with curSlot := 1 } = .next t1)
      ∧ (exec i2 { t1 with curSlot := 2 } = .next t2) ∧ (exec i3 { t2 with curSlot := 3 } = .next t3)) ∧
    (∃ (s : State) (u : State) (c : Nat) (dt : Nat) (r : List Go), (s.turns = ⟨dt, .core c⟩ :: r) ∧ (({ s with turns := r, now := s.now + dt } :
      State).coreStill c = false) ∧ (({ s with turns := r, now := s.now + dt } : State).leaves c = false) ∧
      (({ s with turns := r, now := s.now + dt, cur := c } : State).beforeIssue = (u, true)) ∧ (u.cached (u.asidOf c) (u.funcOf c)
      u.me.pc.toNat = none)) :=
  ⟨⟨metF, metU, metU, metV, { metV with curSlot := 1 }, { metV with curSlot := 2 }, { metV with curSlot := 3 }, 0, 0, [], metB, .add 3 4 5, .nop, .nop, .nop, by and_intros <;> first | with_reducible rfl | exact exec_next (by decide +kernel) | decide +kernel⟩,
  ⟨{ metF with ccache := [] }, { metU with ccache := [] }, 0, 0, [], by decide +kernel⟩⟩

/-- The hypotheses of each clause of `Obligations.StepRunsEvent` are met together. -/
theorem met_StepRunsEvent :
    (∃ (s : State) (dt : Nat) (i : Instr) (a : List Nat) (r : List Go), (s.turns = ⟨dt, .event i a⟩ :: r)) ∧
    (∃ (s : State) (dt : Nat) (n : Nat) (k : Nat) (pos : Nat) (w : Nat) (p : Place) (i : Instr) (r : List Go), (s.turns = ⟨dt, .element n k pos
      p w⟩ :: r) ∧ (p ∈ ([.ce, .node, .gen, .conv] : List Place)) ∧ (decodeAt p w = some i)) ∧
    (∃ (s : State) (dt : Nat) (n : Nat) (k : Nat) (r : List Go), (s.turns = ⟨dt, .latch n k⟩ :: r)) ∧
    (∃ (s : State), (s.turns = [])) :=
  ⟨⟨{ State.reset with turns := [⟨2, .event .clockResume [20]⟩] }, 2, .clockResume, [20], [], by decide +kernel⟩,
  ⟨{ State.reset with turns := [⟨2, .element 0 0 1 .node 0x8000⟩] }, 2, 0, 0, 1, 0x8000, .node, .nw, [], by decide +kernel⟩,
  ⟨{ State.reset with turns := [⟨2, .latch 0 1⟩] }, 2, 0, 1, [], by decide +kernel⟩,
  ⟨State.reset, by decide +kernel⟩⟩

/-- The hypotheses of each clause of `Obligations.ResetState` are met together. -/
theorem met_ResetState :
    (∃ (c : _), (c < 32)) ∧
    (∃ (n : _), (n < 18)) :=
  ⟨⟨31, by decide +kernel⟩,
  ⟨17, by decide +kernel⟩⟩

/-- The hypotheses of each clause of `Obligations.MemoryCanonical` are met together. -/
theorem met_MemoryCanonical :
    (∃ (m : Memory), (m.wf = true)) ∧
    (∃ (m : Memory), (m.wf = true)) ∧
    (∃ (m : Memory), (m.wf = true)) ∧
    (∃ (m : Memory) (m' : Memory), (m.wf = true) ∧ (m'.wf = true) ∧ ((∀ a, m.read a = m'.read a))) :=
  ⟨⟨[(0, 1), (5, 2)], by decide +kernel⟩,
  ⟨[(0, 1), (5, 2)], by decide +kernel⟩,
  ⟨[(0, 1), (5, 2)], by decide +kernel⟩,
  ⟨[(7, 1)], [(7, 1)], by decide, by decide, fun _ => rfl⟩⟩

/-- The hypotheses of each clause of `Obligations.MemoryStaysCanonical` are met together. -/
theorem met_MemoryStaysCanonical :
    (∃ (s : State) (t : State), (s.memOk) ∧ (step s = .next t)) :=
  ⟨metS metC, nextOf (step (metS metC)), by decide +kernel, next_of (by decide +kernel)⟩

/-- The hypotheses of each clause of `Obligations.ScalarResultLands` are met together. -/
theorem met_ScalarResultLands :
    (∃ (s : State) (lat : Nat) (d : Nat) (j : _), (s.cur < s.cores.length) ∧ (s.me.pend = []) ∧ (0 < d) ∧ (d < 128) ∧ (released s.me.ax s.me.lx
      d = false) ∧ (s.me.k ≤ 3) ∧ (j < lat)) ∧
    (∃ (s : State) (lat : Nat) (d : Nat) (v : DWord) (fl : FlagSet) (ts : List DWord) (r : Core) (p : _), (s.cur < s.cores.length) ∧ (s.me.pend
      = []) ∧ (0 < d) ∧ (d < 128) ∧ (released s.me.ax s.me.lx d = false) ∧ (s.me.k ≤ 3) ∧ (r =
      ({ (s.putX lat d v fl ts).me with step := s.me.step + lat } : Core).land) ∧ (1 ≤ p) ∧ (p ≤ s.me.k)) ∧
    (∃ (s : State) (lat : Nat) (d : Nat) (v : DWord) (fl : FlagSet) (ts : List DWord) (r : Core) (p : _) (n : _), (s.cur < s.cores.length) ∧
      (s.me.pend = []) ∧ (0 < d) ∧ (d < 128) ∧ (released s.me.ax s.me.lx d = false) ∧ (s.me.k ≤ 3) ∧ (r =
      ({ (s.putX lat d v fl ts).me with step := s.me.step + lat } : Core).land) ∧ (n < 128) ∧ ((n ≠ d ∨ s.me.k < p))) :=
  ⟨⟨metS metC, 6, 127, 5, by decide +kernel⟩,
  ⟨metS { metC with k := 3 }, 6, 127, 5, 1, [1, 2, 3], Core.land { (State.putX (metS { metC with k := 3 }) 6 127 5 1 [1, 2, 3]).me with step := 6 }, 3, by decide +kernel⟩,
  ⟨metS { metC with k := 3 }, 6, 127, 5, 1, [1, 2, 3], Core.land { (State.putX (metS { metC with k := 3 }) 6 127 5 1 [1, 2, 3]).me with step := 6 }, 0, 126, by decide +kernel⟩⟩

/-- The hypotheses of each clause of `Obligations.VectorResultLands` are met together. -/
theorem met_VectorResultLands :
    (∃ (s : State) (lat : Nat) (d : Nat) (m : Nat) (vs : List VWord) (fl : FlagSet) (r : Core) (p : _) (n : _), (s.cur < s.cores.length) ∧
      (s.me.pend = []) ∧ (d < 64) ∧ (m < 65536) ∧ (released s.me.av s.me.lv d = false) ∧ (s.me.k ≤ 3) ∧ (r =
      ({ (s.putV lat d m vs fl).me with step := s.me.step + lat } : Core).land) ∧ (p ≤ s.me.k) ∧ (n < 16)) ∧
    (∃ (s : State) (lat : Nat) (d : Nat) (m : Nat) (vs : List VWord) (fl : FlagSet) (r : Core) (p : _) (n : _), (s.cur < s.cores.length) ∧
      (s.me.pend = []) ∧ (d < 64) ∧ (m < 65536) ∧ (released s.me.av s.me.lv d = false) ∧ (s.me.k ≤ 3) ∧ (r =
      ({ (s.putV lat d m vs fl).me with step := s.me.step + lat } : Core).land) ∧ (n < 64) ∧ ((n ≠ d ∨ s.me.k < p))) :=
  ⟨⟨metS { metC with k := 3 }, 6, 63, 0xFFFF, [7], 1, Core.land { (State.putV (metS { metC with k := 3 }) 6 63 0xFFFF [7] 1).me with step := 6 }, 3, 15, by decide +kernel⟩,
  ⟨metS { metC with k := 3 }, 6, 63, 0xFFFF, [7], 1, Core.land { (State.putV (metS { metC with k := 3 }) 6 63 0xFFFF [7] 1).me with step := 6 }, 3, 62, by decide +kernel⟩⟩

/-- The hypotheses of each clause of `Obligations.PredicateAndCsrLand` are met together. -/
theorem met_PredicateAndCsrLand :
    (∃ (s : State) (lat : Nat) (d : Nat) (v : BitVec 16) (r : Core) (n : _), (s.cur < s.cores.length) ∧ (s.me.pend = []) ∧ (0 < d) ∧ (r =
      ({ (s.putP lat d v).me with step := s.me.step + lat } : Core).land) ∧ (n ≠ d)) ∧
    (∃ (w : Wr) (v : DWord), (w.poison = false) ∧ (v = w.p0.setWidth 64) ∧ (w.dst = .csr 0 1)) ∧
    (∃ (w : Wr) (v : DWord), (w.poison = false) ∧ (v = w.p0.setWidth 64) ∧ (w.dst = .csr 0 2)) ∧
    (∃ (w : Wr) (v : DWord), (w.poison = false) ∧ (v = w.p0.setWidth 64) ∧ (w.dst = .csr 0 3)) ∧
    (∃ (s : State), (s.cur < s.cores.length) ∧ (s.me.pend = [])) :=
  ⟨⟨metS metC, 1, 15, 9, Core.land { (State.putP (metS metC) 1 15 9).me with step := 1 }, 14, by decide +kernel⟩,
  ⟨metW (.csr 0 1) 0, 9, by decide +kernel⟩,
  ⟨metW (.csr 0 2) 0, 9, by decide +kernel⟩,
  ⟨metW (.csr 0 3) 0, 9, by decide +kernel⟩,
  ⟨metS metC, by decide +kernel⟩⟩

/-- The hypotheses of each clause of `Obligations.SameStepOrder` are met together. -/
theorem met_SameStepOrder :
    (∃ (c : Core) (w1 : Wr) (w2 : Wr) (d : Nat), ((c.pend = [w1, w2] ∨ c.pend = [w2, w1])) ∧ (0 < d) ∧ (released c.ax c.lx d = false) ∧ (w1.dst
      = .x d) ∧ (w2.dst = .x d) ∧ (w1.due ≤ c.step) ∧ (w2.due ≤ c.step) ∧ (w1.wait = none) ∧ (w2.wait = none) ∧ (w1.poison = false) ∧
      (w2.poison = false) ∧ (bit w1.pmask 0 = true) ∧ (bit w2.pmask 0 = true) ∧ ((w1.iss < w2.iss ∨ (w1.iss = w2.iss ∧ w1.slot < w2.slot)))) :=
  ⟨{ metC with pend := [metW (.x 127) 0, { metW (.x 127) 0 with slot := 1 }] }, metW (.x 127) 0, { metW (.x 127) 0 with slot := 1 }, 127, by decide +kernel⟩

/-- The hypotheses of each clause of `Obligations.AllotmentChanges` are met together. -/
theorem met_AllotmentChanges :
    (∃ (c : Core) (w : Wr) (d : Nat), (w.dst = .x d) ∧ (w.poison = false) ∧ (0 < d) ∧ (c.ax ≤ d) ∧ (d < c.lx)) ∧
    (∃ (w : Wr) (n : Nat), (w.dst = .allotX n false) ∧ (w.poison = false)) ∧
    (∃ (w : Wr) (n : Nat) (p : _) (r : _), (w.dst = .allotX n true) ∧ (w.poison = false) ∧ (n ≤ 128) ∧ (p ≤ 3) ∧ (r < 128)) ∧
    (∃ (c : Core) (w : Wr) (d : Nat), (w.dst = .v d) ∧ (w.poison = false) ∧ (c.av ≤ d) ∧ (d < c.lv)) ∧
    (∃ (w : Wr) (n : Nat), (w.dst = .allotV n false) ∧ (w.poison = false)) ∧
    (∃ (w : Wr) (n : Nat) (p : _) (r : _), (w.dst = .allotV n true) ∧ (w.poison = false) ∧ (n ≤ 64) ∧ (p ≤ 3) ∧ (r < 64)) :=
  ⟨⟨{ metC with ax := 64 }, metW (.x 127) 0, 127, by decide +kernel⟩,
  ⟨metW (.allotX 0 false) 0, 0, by decide +kernel⟩,
  ⟨metW (.allotX 128 true) 0, 128, 3, 127, by decide +kernel⟩,
  ⟨{ metC with av := 32 }, metW (.v 63) 0, 63, by decide +kernel⟩,
  ⟨metW (.allotV 0 false) 0, 0, by decide +kernel⟩,
  ⟨metW (.allotV 64 true) 0, 64, 3, 63, by decide +kernel⟩⟩

/-- The hypotheses of each clause of `Obligations.BranchAndLoopSequencing` are met together. -/
theorem met_BranchAndLoopSequencing :
    (∃ (c : Core), (c.delayLeft = 0) ∧ (c.lc = 0)) ∧
    (∃ (c : Core), (c.delayLeft = 0) ∧ (c.lc ≠ 0) ∧ (c.pc = c.lend)) ∧
    (∃ (c : Core), (c.delayLeft = 0) ∧ (c.pc ≠ c.lend)) ∧
    (∃ (c : Core), (c.lc ≠ 0) ∧ (c.lstart.toNat ≤ c.pc.toNat) ∧ (c.pc.toNat ≤ c.lend.toNat)) :=
  ⟨⟨metC, by decide +kernel⟩,
  ⟨{ metC with lc := 1, pc := 16, lend := 16 }, by decide +kernel⟩,
  ⟨{ metC with lc := 1, pc := 16, lend := 32 }, by decide +kernel⟩,
  ⟨{ metC with lc := 1, lstart := 16, pc := 16, lend := 16 }, by decide +kernel⟩⟩

/-- The hypotheses of each clause of `Obligations.TrapEntry` are met together. -/
theorem met_TrapEntry :
    (∃ (s : State) (c : Nat), (c < s.cores.length) ∧ ((s.core c).tvec ≠ 0) ∧ ((s.core c).tstat.getLsbD 0 = false) ∧ ((s.core c).run = .running)
      ∧ ((s.core c).pend = []) ∧ (s.quiet c = true) ∧ (s.coreStill c = false)) :=
  ⟨metS { metC with tvec := 0x100 }, 0, by decide +kernel⟩

/-- The hypotheses of each clause of `Obligations.TrapEscalates` are met together. -/
theorem met_TrapEscalates :
    (∃ (s : State) (c : Nat) (n : Nat) (t : Nat), ((s.core c).canTrap = false) ∧ ((s.core c).team = some t) ∧ (n < 128)) :=
  ⟨metS { metC with tvec := 0x100, tstat := 1 }, 0, 127, 0, by decide +kernel⟩

/-- The hypotheses of each clause of `Obligations.FaultRecordLayout` are met together. -/
theorem met_FaultRecordLayout :
    (∃ (r : RecF) (i : Nat), (r.time < 2 ^ 64) ∧ (r.code < 256) ∧ (r.sk < 16) ∧ (r.rank < 8) ∧ (r.fli < 256) ∧ (r.func < 256) ∧ (r.loc < 2 ^ 64)
      ∧ (r.scnt < 2 ^ 48) ∧ (r.cyc < 65536) ∧ (r.isl < 256) ∧ (r.core < 256) ∧ (r.op0 < 2 ^ 64) ∧ (r.op1 < 2 ^ 64) ∧ (r.op2 < 2 ^ 64) ∧
      (r.op3 < 2 ^ 64) ∧ (i < 64)) :=
  ⟨metRec, 63, by decide +kernel⟩

/-- The hypotheses of each clause of `Obligations.TrapRoundTrip` are met together. -/
theorem met_TrapRoundTrip :
    (∃ (c : Core) (w : Wr) (n : Nat) (code : Nat) (slot : Nat) (st : Nat) (tv : DWord) (r : Core), (c.taking = some (code, slot, tv)) ∧ (c.pend
      = [w]) ∧ (w.dst = .x n) ∧ (0 < n) ∧ (n < 128) ∧ (c.step ≤ w.due) ∧ (w.due - c.step < 32) ∧ (w.kp < 4) ∧ (w.lmask < 65536) ∧ (w.pmask <
      16) ∧ (w.wait = none) ∧ (w.poison = false) ∧ (c.delayLeft ≤ 2) ∧ (c.k ≤ 3) ∧ (r = ({ c.enterHandler with step := st } :
      Core).returnTrap)) :=
  ⟨{ metC with pend := [metW (.x 127) 31], taking := some (2, 1, 7), delayLeft := 2, k := 3 }, metW (.x 127) 31, 127, 2, 1, 9, 7, Core.returnTrap { Core.enterHandler { metC with pend := [metW (.x 127) 31], taking := some (2, 1, 7), delayLeft := 2, k := 3 } with step := 9 }, by decide +kernel⟩

/-- The hypotheses of each clause of `Obligations.PreciseFaults` are met together. -/
theorem met_PreciseFaults :
    (∃ (i : Instr) (s : State) (b : Bad), (i.place ∈ ([.s, .v, .m, .c] : List Place)) ∧ (s.checked = false) ∧ (s.checkIns i (encode i) none =
      some b)) ∧
    (∃ (s : State) (d : Nat) (a : Nat) (b : Nat), (d ≠ 0) ∧ (s.me.lx ≤ d) ∧ (s.me.ax ≤ s.me.lx) ∧ ((a = 0 ∨ a < s.me.ax)) ∧ ((b = 0 ∨ b <
      s.me.ax))) ∧
    (∃ (s : State) (d : Nat) (a : Nat) (b : Nat), (d ≠ 0) ∧ (s.me.ax ≤ d) ∧ (d < s.me.lx) ∧ ((a = 0 ∨ a < s.me.ax)) ∧ ((b = 0 ∨ b < s.me.ax))) ∧
    (∃ (s : State) (d : Nat) (a : Nat) (b : Nat), (s.me.lv ≤ a) ∧ (s.me.av ≤ s.me.lv) ∧ (d < s.me.av) ∧ (b < s.me.av)) ∧
    (∃ (s : State) (d : Nat) (a : Nat) (i : Nat), (s.named [d, a] []) ∧ (s.eaImm a i % 8 ≠ 0)) ∧
    (∃ (s : State) (d : Nat) (a : Nat) (i : Nat), (s.named [d, a] []) ∧ (s.eaImm a i % 4 ≠ 0)) ∧
    (∃ (s : State) (d : Nat) (a : Nat) (i : Nat), (s.named [d, a] []) ∧ (s.eaImm a i % 8 = 0) ∧ (2 ^ 20 ≤ s.eaImm a i)) ∧
    (∃ (s : State) (d : Nat) (a : Nat) (b : Nat), (s.named [d, a, b] []) ∧ (s.eaReg a b % 8 = 0) ∧ (s.eaReg a b < 2 ^ 20)) ∧
    (∃ (s : State) (d : Nat) (a : Nat) (i : Nat), (s.named [a] [d]) ∧ (s.eaVec a i 64 % 64 ≠ 0)) ∧
    (∃ (s : State) (d : Nat) (a : Nat), (s.named [d, a] []) ∧ (s.me.delayLeft = 0) ∧ (s.xval a % 16 ≠ 0)) :=
  ⟨⟨.add 127 1 2, metS { metC with ax := 64, lx := 64 }, (State.checkIns (metS { metC with ax := 64, lx := 64 }) (.add 127 1 2) (encode (.add 127 1 2)) none).getD ⟨0, 0, 0, 0⟩, by decide +kernel⟩,
  ⟨metS { metC with ax := 64, lx := 64 }, 64, 63, 0, by decide +kernel⟩,
  ⟨metS { metC with ax := 64 }, 127, 63, 0, by decide +kernel⟩,
  ⟨metS { metC with av := 32, lv := 32 }, 31, 32, 31, by decide +kernel⟩,
  ⟨metS metC, 127, 4, 4, by decide +kernel⟩,
  ⟨metS metC, 127, 4, 2, by decide +kernel⟩,
  ⟨metS { metC with x := [(4, 0x100000)] }, 127, 4, 0, by decide +kernel⟩,
  ⟨metS metC, 1, 4, 0, by decide +kernel⟩,
  ⟨metS metC, 63, 1, 0, by decide +kernel⟩,
  ⟨metS metC, 1, 1, by decide +kernel⟩⟩

/-- The hypotheses of each clause of `Obligations.RegisterOnlyFrame` are met together. -/
theorem met_RegisterOnlyFrame :
    (∃ (i : Instr) (s : State) (t : State), (registerOnly i = true) ∧ (s.issues i) ∧ (exec i s = .next t)) ∧
    (∃ (i : Instr) (s : State) (t : State) (c : _), (registerOnly i = true) ∧ (s.issues i) ∧ (exec i s = .next t) ∧ (c ≠ s.cur)) :=
  ⟨⟨.add 127 1 2, metS metC, nextOf (exec (.add 127 1 2) (metS metC)), by decide +kernel, by decide +kernel, exec_next (by decide +kernel)⟩,
  ⟨.vadd 63 1 2 0, metS metC, nextOf (exec (.vadd 63 1 2 0) (metS metC)), 1, by decide +kernel, by decide +kernel, exec_next (by decide +kernel), by decide⟩⟩

/-- The hypotheses of each clause of `Obligations.StoredBytes` are met together. -/
theorem met_StoredBytes :
    (∃ (s : State) (a : Nat), ((∀ w ∈ s.me.stores, a < w.1 ∨ w.1 + w.2.1 ≤ a))) ∧
    (∃ (s : State) (l : List (Nat × Nat × Nat)) (r : List (Nat × Nat × Nat)) (w : Nat × Nat × Nat) (a : Nat), (s.me.stores = l ++ w :: r) ∧ (w.1
      ≤ a) ∧ (a < w.1 + w.2.1) ∧ ((∀ x ∈ r, a < x.1 ∨ x.1 + x.2.1 ≤ a))) :=
  ⟨⟨metS { metC with stores := [(8, 8, 1)] }, 16, by decide +kernel⟩,
  ⟨metS { metC with stores := [(8, 8, 1), (8, 4, 2)] }, [], [(8, 4, 2)], (8, 8, 1), 15, by decide +kernel⟩⟩

/-- The hypotheses of each clause of `Obligations.ScalarArithmetic` are met together. -/
theorem met_ScalarArithmetic :
    (∃ (s : State) (d : Nat) (a : Nat) (b : Nat) (x : DWord) (y : DWord), (x = s.me.rx 0 a) ∧ (y = s.me.rx 0 b) ∧ (s.fit [d, a, b] []) ∧ (y ≠
      0)) ∧
    (∃ (s : State) (d : Nat) (a : Nat) (b : Nat) (x : DWord) (y : DWord), (x = s.me.rx 0 a) ∧ (y = s.me.rx 0 b) ∧ (s.fit [d, a, b] []) ∧ (y =
      0)) ∧
    (∃ (s : State) (d : Nat) (a : Nat) (b : Nat) (x : DWord) (y : DWord), (x = s.me.rx 0 a) ∧ (y = s.me.rx 0 b) ∧ (s.fit [d, a, b] []) ∧ (d ≠
      0)) ∧
    (∃ (s : State) (d : Nat) (a : Nat) (b : Nat) (x : DWord) (y : DWord), (x = s.me.rx 0 a) ∧ (y = s.me.rx 0 b) ∧ (s.fit [d, a, b] []) ∧ (d =
      0)) :=
  ⟨⟨metS metC, 127, 1, 2, (metS metC).me.rx 0 1, (metS metC).me.rx 0 2, by decide +kernel⟩,
  ⟨metS metC, 127, 1, 0, (metS metC).me.rx 0 1, (metS metC).me.rx 0 0, by decide +kernel⟩,
  ⟨metS metC, 127, 1, 2, (metS metC).me.rx 0 1, (metS metC).me.rx 0 2, by decide +kernel⟩,
  ⟨metS metC, 0, 1, 2, (metS metC).me.rx 0 1, (metS metC).me.rx 0 2, by decide +kernel⟩⟩

/-- The hypotheses of each clause of `Obligations.ScalarCompare` are met together. -/
theorem met_ScalarCompare :
    (∃ (s : State) (a : Nat) (b : Nat) (x : DWord) (y : DWord), (x = s.me.rx 0 a) ∧ (y = s.me.rx 0 b) ∧ (s.fit [a, b] [])) ∧
    (∃ (s : State), (s.fit [] [])) ∧
    (∃ (s : State) (d : Nat), (s.fit [d] [])) ∧
    (∃ (s : State) (a : Nat), (s.fit [a] [])) :=
  ⟨⟨metS metC, 1, 127, (metS metC).me.rx 0 1, (metS metC).me.rx 0 127, by decide +kernel⟩,
  ⟨metS metC, by decide +kernel⟩,
  ⟨metS metC, 127, by decide +kernel⟩,
  ⟨metS metC, 127, by decide +kernel⟩⟩

/-- The hypotheses of each clause of `Obligations.ScalarBitFields` are met together. -/
theorem met_ScalarBitFields :
    (∃ (s : State) (d : Nat) (a : Nat) (b : Nat) (x : DWord) (y : DWord) (z : DWord) (pos : Nat) (len : Nat), (x = s.me.rx 0 a) ∧ (y = s.me.rx 0
      b) ∧ (z = s.me.rx 0 d) ∧ (pos = y.toNat % 64) ∧ (len = y.toNat / 256 % 64 + 1) ∧ (s.fit [d, a, b] [])) ∧
    (∃ (s : State) (d : Nat) (a : Nat) (x : DWord), (x = s.me.rx 0 a) ∧ (s.fit [d, a] [])) :=
  ⟨⟨metS metC, 127, 1, 2, (metS metC).me.rx 0 1, (metS metC).me.rx 0 2, (metS metC).me.rx 0 127, 5, 1, by decide +kernel⟩,
  ⟨metS metC, 127, 1, (metS metC).me.rx 0 1, by decide +kernel⟩⟩

/-- The hypotheses of each clause of `Obligations.ScalarImmediates` are met together. -/
theorem met_ScalarImmediates :
    (∃ (s : State) (d : Nat) (a : Nat) (i : Nat) (x : DWord) (m : DWord), (x = s.me.rx 0 a) ∧ (i < 4096) ∧ (m = (BitVec.ofNat 12 i).signExtend
      64) ∧ (s.fit [d, a] [])) ∧
    (∃ (s : State) (d : Nat) (a : Nat) (n : Nat) (x : DWord), (x = s.me.rx 0 a) ∧ (n < 64) ∧ (s.fit [d, a] [])) ∧
    (∃ (s : State) (a : Nat) (i : Nat) (x : DWord) (m : DWord), (x = s.me.rx 0 a) ∧ (i < 512) ∧ (m = (BitVec.ofNat 9 i).signExtend 64) ∧ (s.fit
      [a] [])) ∧
    (∃ (s : State) (d : Nat) (i : Nat), (i < 2 ^ 19) ∧ (s.fit [d] [])) :=
  ⟨⟨metS metC, 127, 1, 4095, (metS metC).me.rx 0 1, 0xFFFFFFFFFFFFFFFF, by decide +kernel⟩,
  ⟨metS metC, 127, 1, 63, (metS metC).me.rx 0 1, by decide +kernel⟩,
  ⟨metS metC, 1, 511, (metS metC).me.rx 0 1, 0xFFFFFFFFFFFFFFFF, by decide +kernel⟩,
  ⟨metS metC, 127, 0x7FFFF, by decide +kernel⟩⟩

/-- The hypotheses of each clause of `Obligations.CoxStoreAccess` are met together. -/
theorem met_CoxStoreAccess :
    (∃ (s : State) (d : Nat) (a : Nat) (i : Nat) (off : Nat), (off = bits (s.eaImm a i) 19 0) ∧ (s.eccBad = []) ∧ (s.fitAt [d, a] [] (s.access
      (s.eaImm a i) 1 0 0))) ∧
    (∃ (s : State) (d : Nat) (a : Nat) (i : Nat) (off : Nat), (off = bits (s.eaImm a i) 19 0) ∧ (s.eccBad = []) ∧ (s.fitAt [d, a] [] (s.access
      (s.eaImm a i) 2 0 0))) ∧
    (∃ (s : State) (d : Nat) (a : Nat) (i : Nat) (off : Nat), (off = bits (s.eaImm a i) 19 0) ∧ (s.eccBad = []) ∧ (s.fitAt [d, a] [] (s.access
      (s.eaImm a i) 8 0 0))) ∧
    (∃ (s : State) (d : Nat) (a : Nat) (i : Nat) (off : Nat), (off = bits (s.eaImm a i) 19 0) ∧ (s.eccBad = []) ∧ (s.fitAt [d, a] [] (s.access
      (s.eaImm a i) 4 1 0))) ∧
    (∃ (s : State) (r : Nat) (a : Nat) (i : Nat) (off : Nat) (x : DWord), (x = s.me.rx 0 r) ∧ (off = bits (s.eaImm a i) 19 0) ∧ (s.fitAt [r, a]
      [] (s.access (s.eaImm a i) 1 0 0))) ∧
    (∃ (s : State) (r : Nat) (a : Nat) (i : Nat) (off : Nat) (x : DWord), (x = s.me.rx 0 r) ∧ (off = bits (s.eaImm a i) 19 0) ∧ (s.fitAt [r, a]
      [] (s.access (s.eaImm a i) 2 0 0))) ∧
    (∃ (s : State) (r : Nat) (a : Nat) (i : Nat) (off : Nat) (x : DWord), (x = s.me.rx 0 r) ∧ (off = bits (s.eaImm a i) 19 0) ∧ (s.fitAt [r, a]
      [] (s.access (s.eaImm a i) 8 0 0))) ∧
    (∃ (s : State) (r : Nat) (a : Nat) (i : Nat) (off : Nat) (x : DWord), (x = s.me.rx 0 r) ∧ (off = bits (s.eaImm a i) 19 0) ∧ (s.fitAt [r, a]
      [] (s.access (s.eaImm a i) 4 1 0))) ∧
    (∃ (s : State) (r : Nat) (a : Nat) (i : Nat) (off : Nat) (x : DWord), (x = s.me.rx 0 r) ∧ (off = bits (s.eaImm a i) 19 0) ∧ (s.me.k = 0)) :=
  ⟨⟨metS metC, 127, 3, 7, 0xFFFFF, by decide +kernel⟩,
  ⟨metS metC, 127, 3, 6, 0xFFFFE, by decide +kernel⟩,
  ⟨metS metC, 127, 3, 0, 0xFFFF8, by decide +kernel⟩,
  ⟨metS { metC with k := 1 }, 127, 4, 0, 64, by decide +kernel⟩,
  ⟨metS metC, 127, 3, 7, 0xFFFFF, 0, by decide +kernel⟩,
  ⟨metS metC, 127, 3, 6, 0xFFFFE, 0, by decide +kernel⟩,
  ⟨metS metC, 127, 3, 0, 0xFFFF8, 0, by decide +kernel⟩,
  ⟨metS { metC with k := 1 }, 127, 4, 0, 64, 0, by decide +kernel⟩,
  ⟨metS metC, 1, 3, 0, 0xFFFF8, (metS metC).me.rx 0 1, by decide +kernel⟩⟩

/-- The hypotheses of each clause of `Obligations.StoreFrame` are met together. -/
theorem met_StoreFrame :
    (∃ (s : State) (t : State) (r : Nat) (a : Nat) (i : Nat) (n : Nat) (base : Nat) (j : _), (s.checked = true) ∧ (s.me.stores = []) ∧ (s.me.k =
      0) ∧ (s.cur < s.cores.length) ∧ (base = coxBase s.cur + bits (s.eaImm a i) 19 0) ∧ (((n = 8 ∧ exec (.stD r a i) s = .next t) ∨ (n = 4
      ∧ exec (.stW r a i) s = .next t) ∨ (n = 2 ∧ exec (.stH r a i) s = .next t) ∨ (n = 1 ∧ exec (.stB r a i) s = .next t))) ∧ (j < n)) ∧
    (∃ (s : State) (t : State) (r : Nat) (a : Nat) (i : Nat) (n : Nat) (base : Nat) (adr : _), (s.checked = true) ∧ (s.me.stores = []) ∧ (s.me.k
      = 0) ∧ (s.cur < s.cores.length) ∧ (base = coxBase s.cur + bits (s.eaImm a i) 19 0) ∧ (((n = 8 ∧ exec (.stD r a i) s = .next t) ∨ (n =
      4 ∧ exec (.stW r a i) s = .next t) ∨ (n = 2 ∧ exec (.stH r a i) s = .next t) ∨ (n = 1 ∧ exec (.stB r a i) s = .next t))) ∧ (adr < base
      ∨ base + n ≤ adr)) ∧
    (∃ (s : State) (t : State) (r : Nat) (a : Nat) (i : Nat) (n : Nat) (base : Nat) (c : _), (s.checked = true) ∧ (s.me.stores = []) ∧ (s.me.k =
      0) ∧ (s.cur < s.cores.length) ∧ (base = coxBase s.cur + bits (s.eaImm a i) 19 0) ∧ (((n = 8 ∧ exec (.stD r a i) s = .next t) ∨ (n = 4
      ∧ exec (.stW r a i) s = .next t) ∨ (n = 2 ∧ exec (.stH r a i) s = .next t) ∨ (n = 1 ∧ exec (.stB r a i) s = .next t))) ∧ (c ≠ s.cur)) ∧
    (∃ (s : State) (t : State) (r : Nat) (a : Nat) (i : Nat) (base : Nat) (off : Nat) (l : List (Nat × Nat × Nat)) (p : _), (s.checked = true) ∧
      (s.me.stores = []) ∧ (s.cur < s.cores.length) ∧ (off = bits (s.eaImm a i) 19 0) ∧ (base = coxBase s.cur + off) ∧ (l = s.me.tansAt
      false off) ∧ (exec (.stW r a i) s = .next t) ∧ (p ∈ l)) ∧
    (∃ (s : State) (t : State) (r : Nat) (a : Nat) (i : Nat) (base : Nat) (off : Nat) (l : List (Nat × Nat × Nat)) (adr : _), (s.checked = true)
      ∧ (s.me.stores = []) ∧ (s.cur < s.cores.length) ∧ (off = bits (s.eaImm a i) 19 0) ∧ (base = coxBase s.cur + off) ∧ (l = s.me.tansAt
      false off) ∧ (exec (.stW r a i) s = .next t) ∧ ((adr < base ∨ base + 4 ≤ adr)) ∧ ((∀ p ∈ l, adr < coxBase s.cur + p.2.1 ∨ coxBase
      s.cur + p.2.1 + pfmtBytes p.2.2 ≤ adr))) :=
  ⟨⟨metK, nextOf (exec (.stD 1 3 0) metK), 1, 3, 0, 8, coxBase 0 + 0xFFFF8, 7, by decide, by decide, by decide, by decide, by decide +kernel, Or.inl ⟨rfl, exec_next (by decide +kernel)⟩, by decide⟩,
  ⟨metK, nextOf (exec (.stW 1 3 4) metK), 1, 3, 4, 4, coxBase 0 + 0xFFFFC, coxBase 0 + 0xFFFFB, by decide, by decide, by decide, by decide, by decide +kernel, Or.inr (Or.inl ⟨rfl, exec_next (by decide +kernel)⟩), by decide⟩,
  ⟨metK, nextOf (exec (.stB 1 3 7) metK), 1, 3, 7, 1, coxBase 0 + 0xFFFFF, 1, by decide, by decide, by decide, by decide, by decide +kernel, Or.inr (Or.inr (Or.inr ⟨rfl, exec_next (by decide +kernel)⟩)), by decide⟩,
  ⟨metKt, nextOf (exec (.stW 1 3 4) metKt), 1, 3, 4, coxBase 0 + 0xFFFFC, 0xFFFFC, [(1, 16 + 0x7FFFE, 1)], (1, 16 + 0x7FFFE, 1), by decide, by decide, by decide, by decide +kernel, by decide +kernel, by decide +kernel, exec_next (by decide +kernel), by decide⟩,
  ⟨metKt, nextOf (exec (.stW 1 3 4) metKt), 1, 3, 4, coxBase 0 + 0xFFFFC, 0xFFFFC, [(1, 16 + 0x7FFFE, 1)], coxBase 0 + 0xFFFFB, by decide, by decide, by decide, by decide +kernel, by decide +kernel, by decide +kernel, exec_next (by decide +kernel), by decide, by decide⟩⟩

/-- The hypotheses of each clause of `Obligations.NodeAccess` are met together. -/
theorem met_NodeAccess :
    (∃ (s : State) (d : Nat) (a : Nat) (b : Nat) (ea : Nat), (ea = s.eaReg a b) ∧ (s.fitAt [d, a, b] [] (s.access ea 1 0 1))) ∧
    (∃ (s : State) (d : Nat) (a : Nat) (b : Nat) (ea : Nat), (ea = s.eaReg a b) ∧ (s.fitAt [d, a, b] [] (s.access ea 2 0 1))) ∧
    (∃ (s : State) (d : Nat) (a : Nat) (b : Nat) (ea : Nat), (ea = s.eaReg a b) ∧ (s.fitAt [d, a, b] [] (s.access ea 4 1 1))) ∧
    (∃ (s : State) (d : Nat) (a : Nat) (b : Nat) (ea : Nat), (ea = s.eaReg a b) ∧ (s.fitAt [d, a, b] [] (s.access ea 8 0 1))) ∧
    (∃ (s : State) (d : Nat) (a : Nat) (b : Nat) (o : Nat), (s.fitAt [d, a, b] [] (s.access (s.xval a) (atomicAlign o) 0 1))) ∧
    (∃ (s : State) (ea : Nat) (n : Nat) (w0 : Nat) (sg : Bool) (v : DWord), (n ≤ 8) ∧ (w0 = nodeBase (keyOf ea) + bits ea 12 0) ∧ ((s.node
      (keyOf ea)).mode = 1) ∧ (s.eccBad = []) ∧ (v = (if sg then sext (8 * n) (s.mem.readN w0 n) else BitVec.ofNat 64 (s.mem.readN w0 n))) ∧
      ((n = 4 → s.me.k = 0))) ∧
    (∃ (s : State) (d : Nat) (ea : Nat) (n : Nat) (w0 : Nat) (sg : Bool) (v : DWord), (n ≤ 8) ∧ (w0 = nodeBase (keyOf ea) + bits ea 12 0) ∧
      ((s.node (keyOf ea)).mode = 1) ∧ (s.eccBad = []) ∧ (v = (if sg then sext (8 * n) (s.mem.readN w0 n) else BitVec.ofNat 64 (s.mem.readN
      w0 n))) ∧ (n = 4) ∧ (d ≠ 0)) ∧
    (∃ (s : State) (ea : Nat) (n : Nat) (w0 : Nat), (w0 = nodeBase (keyOf ea) + bits ea 12 0) ∧ ((s.node (keyOf ea)).mode = 1) ∧ ((n = 4 →
      s.me.k = 0))) ∧
    (∃ (s : State) (r : Nat) (ea : Nat) (n : Nat) (w0 : Nat) (m : _), (w0 = nodeBase (keyOf ea) + bits ea 12 0) ∧ ((s.node (keyOf ea)).mode = 1)
      ∧ (n = 4) ∧ (m = storeTans (s.mem.writeN w0 4 (s.me.rx 0 r).toNat) (nodeBase (keyOf ea)) 1 (s.tanWords r).1 (s.me.tansAt true (bits ea
      12 0)))) ∧
    (∃ (s : State) (d : Nat) (la : Nat) (b : Nat) (o : Nat) (w0 : Nat) (old : Nat) (res : Nat × FlagSet), (w0 = nodeBase (keyOf la) + bits la 12
      0) ∧ ((s.node (keyOf la)).mode = 1) ∧ (s.eccBad = []) ∧ (old = s.mem.readN w0 (atomicBytes o)) ∧ (o < 16) ∧ (res = atomicNew o old
      (s.me.rx 0 b).toNat ((s.me.rx 0 d).toNat % 2 ^ 32)) ∧ (d ≠ 0)) ∧
    (∃ (s : State) (d : Nat) (la : Nat) (b : Nat) (o : Nat) (w0 : Nat) (old : Nat) (res : Nat × FlagSet), (w0 = nodeBase (keyOf la) + bits la 12
      0) ∧ ((s.node (keyOf la)).mode = 1) ∧ (s.eccBad = []) ∧ (old = s.mem.readN w0 (atomicBytes o)) ∧ (o < 16) ∧ (res = atomicNew o old
      (s.me.rx 0 b).toNat ((s.me.rx 0 d).toNat % 2 ^ 32)) ∧ (d = 0)) ∧
    (∃ (s : State) (u : State) (ea : Nat) (n : Nat) (q : NodeReq) (sg : _), ((s.node (keyOf ea)).mode = 2) ∧ (u =
      { s.modNode (keyOf ea) (fun nd => { nd with queue := nd.queue ++ [q] }) with nextId := s.nextId + 1 }) ∧ (q =
      { s.reqAt 16 ea n with id := s.nextId, signed := sg, tans := if n = 4 then s.me.tansAt true (bits ea 12 0) else [] })) ∧
    (∃ (s : State) (u : State) (d : Nat) (ea : Nat) (n : Nat) (q : NodeReq), ((s.node (keyOf ea)).mode = 2) ∧ (u =
      { s.modNode (keyOf ea) (fun nd => { nd with queue := nd.queue ++ [q] }) with nextId := s.nextId + 1 }) ∧ (q =
      { s.reqAt 17 ea n with id := s.nextId, val := (s.me.rx 0 d).setWidth 512, planes := if n = 4 then (s.tanWords d).1 else [], tans := if n = 4 then s.me.tansAt true (bits ea 12 0) else [] })) ∧
    (∃ (s : State) (u : State) (d : Nat) (ea : Nat) (n : Nat) (q : NodeReq) (b : _) (o : _), ((s.node (keyOf ea)).mode = 2) ∧ (u =
      { s.modNode (keyOf ea) (fun nd => { nd with queue := nd.queue ++ [q] }) with nextId := s.nextId + 1 }) ∧ (n = atomicBytes o) ∧ (q =
      { s.reqAt o ea n with id := s.nextId, val := (s.me.rx 0 b).setWidth 512, expv := (s.me.rx 0 d).toNat % 2 ^ 32 })) ∧
    (∃ (s : State), (s.cur < s.cores.length)) ∧
    (∃ (s : State) (key : Nat), ((s.node key).mode = 2)) :=
  ⟨⟨metS metC, 127, 6, 0, 0x81001FF8, by decide +kernel⟩,
  ⟨metS metC, 127, 6, 0, 0x81001FF8, by decide +kernel⟩,
  ⟨metS { metC with k := 1 }, 127, 5, 0, 0x81000000, by decide +kernel⟩,
  ⟨metS metC, 127, 6, 0, 0x81001FF8, by decide +kernel⟩,
  ⟨metS metC, 127, 6, 1, 0, by decide +kernel⟩,
  ⟨metS metC, 0x81001FF8, 8, nodeBase 2048 + 0x1FF8, false, 0, by decide +kernel⟩,
  ⟨metS { metC with k := 1 }, 127, 0x81000000, 4, nodeBase 2048, true, 0, by decide +kernel⟩,
  ⟨metS metC, 0x81001FF8, 8, nodeBase 2048 + 0x1FF8, by decide +kernel⟩,
  ⟨metS { metC with k := 1 }, 1, 0x81000000, 4, nodeBase 2048, Memory.writeN [] (nodeBase 2048) 4 3, by decide +kernel⟩,
  ⟨metS metC, 127, 0x81000000, 1, 1, nodeBase 2048, 0, atomicNew 1 0 3 0, by decide +kernel⟩,
  ⟨metS metC, 0, 0x81000000, 1, 1, nodeBase 2048, 0, atomicNew 1 0 3 0, by decide +kernel⟩,
  ⟨metN, metNu { metNr 16 with signed := true }, 0x81001FF8, 8, { metNr 16 with signed := true }, true, by decide +kernel⟩,
  ⟨metN, metNu { metNr 17 with val := 3 }, 1, 0x81001FF8, 8, { metNr 17 with val := 3 }, by decide +kernel⟩,
  ⟨metN, metNu { metNr 1 with val := 3 }, 127, 0x81001FF8, 8, { metNr 1 with val := 3 }, 1, 1, by decide +kernel⟩,
  ⟨metS metC, by decide +kernel⟩,
  ⟨metN, 2048, by decide +kernel⟩⟩

/-- The hypotheses of each clause of `Obligations.BranchesAndJumps` are met together. -/
theorem met_BranchesAndJumps :
    (∃ (s : State) (o : Nat), (s.fit [] []) ∧ (s.me.delayLeft = 0) ∧ (o < 2 ^ 21)) ∧
    (∃ (s : State) (d : Nat) (i : Nat), (s.fit [d] []) ∧ (s.me.delayLeft = 0) ∧ (i < 2 ^ 19)) ∧
    (∃ (s : State) (d : Nat) (a : Nat), (s.fit [d, a] []) ∧ (s.me.delayLeft = 0) ∧ ((s.me.rx 0 a).toNat % 16 = 0)) ∧
    (∃ (s : State) (a : Nat) (n : Nat) (cnt : DWord), (s.fit [a] []) ∧ (s.me.delayLeft = 0) ∧ (s.me.lc = 0) ∧ (1 ≤ n) ∧ (n < 4096) ∧ (cnt =
      s.me.rx 0 a &&& 0xFFFFFFFF)) :=
  ⟨⟨metS metC, 2097151, by decide +kernel⟩,
  ⟨metS metC, 127, 0x7FFFF, by decide +kernel⟩,
  ⟨metS metC, 127, 4, by decide +kernel⟩,
  ⟨metS metC, 1, 4095, 3, by decide +kernel⟩⟩

/-- The hypotheses of each clause of `Obligations.Rendezvous` are met together. -/
theorem met_Rendezvous :
    (∃ (s : State) (a : Nat), (s.fit [a] []) ∧ (0 < s.xval a) ∧ (s.xval a ≤ 255)) ∧
    (∃ (s : State), (s.fit [] []) ∧ (s.me.hold.refusal = none)) ∧
    (∃ (s : State) (d : Nat) (ph : Bool), (s.fit [d] []) ∧ (d ≠ 0) ∧ (s.me.hold.refusal = none) ∧ (s.me.hold.reply = some ph)) ∧
    (∃ (s : State) (d : Nat), (s.checked = false) ∧ (s.named [d] []) ∧ (s.me.inFlight < 32) ∧ (d ≠ 0) ∧ (s.me.hold = Held.none) ∧ (s.cur <
      s.cores.length)) ∧
    (∃ (s : State) (a : Nat) (r : Nat), (s.fit [a] []) ∧ ((s.point r).ph ≠ bit (s.xval a) 0)) ∧
    (∃ (s : State) (a : Nat) (r : Nat), (s.checked = false) ∧ (s.named [a] []) ∧ (s.me.inFlight < 32) ∧ ((s.point r).ph = bit (s.xval a) 0)) :=
  ⟨⟨metS metC, 1, by decide +kernel⟩,
  ⟨metS metC, by decide +kernel⟩,
  ⟨metH { Held.none with reply := some true }, 127, true, by decide +kernel⟩,
  ⟨metS metC, 127, by decide +kernel⟩,
  ⟨metS metC, 1, 0, by decide +kernel⟩,
  ⟨metS metC, 0, 0, by decide +kernel⟩⟩

/-- The hypotheses of each clause of `Obligations.WaitStamp` are met together. -/
theorem met_WaitStamp :
    (∃ (s : State) (d : Nat) (a : Nat) (b : Nat) (w : DWord), (s.me.hold.met = some w) ∧ (s.fitAt [d, a, b] []
      { addr := s.xval a, width := 8, bytes := 8 })) ∧
    (∃ (s : State) (d : Nat) (a : Nat) (w : DWord), (s.me.hold.met = some w) ∧ (s.fitAt [d, a] [] { addr := s.xval a, width := 8, bytes := 8 })) ∧
    (∃ (s : State) (d : Nat) (a : Nat) (b : Nat), (s.checked = false) ∧ (s.fitAt [d, a, b] [] { addr := s.xval a, width := 8, bytes := 8 }) ∧
      (s.me.hold = Held.none) ∧ (s.stampAt (s.xval a) ≠ s.me.rx 0 b)) ∧
    (∃ (s : State) (d : Nat) (a : Nat) (b : Nat), (s.checked = false) ∧ (s.fitAt [d, a, b] [] { addr := s.xval a, width := 8, bytes := 8 }) ∧
      (s.me.hold = Held.none) ∧ (s.stampAt (s.xval a) = s.me.rx 0 b)) ∧
    (∃ (s : State) (d : Nat) (a : Nat) (b : Nat), (s.checked = false) ∧ (s.fitAt [d, a, b] [] { addr := s.xval a, width := 8, bytes := 8 }) ∧
      (s.me.hold = Held.none) ∧ ((s.stampAt (s.xval a)).toNat / 2 ^ 48 = s.xval b % 2 ^ 16)) ∧
    (∃ (s : State) (d : Nat) (a : Nat) (b : Nat), (s.checked = false) ∧ (s.fitAt [d, a, b] [] { addr := s.xval a, width := 8, bytes := 8 }) ∧
      (s.me.hold = Held.none) ∧ ((s.stampAt (s.xval a)).toNat / 2 ^ 48 ≠ s.xval b % 2 ^ 16)) ∧
    (∃ (s : State) (d : Nat) (a : Nat), (s.checked = false) ∧ (s.fitAt [d, a] [] { addr := s.xval a, width := 8, bytes := 8 }) ∧ (s.me.hold =
      Held.none) ∧ ((s.stampAt (s.xval a)).toNat / 2 ^ 56 ≠ 0)) ∧
    (∃ (s : State) (d : Nat) (a : Nat), (s.checked = false) ∧ (s.fitAt [d, a] [] { addr := s.xval a, width := 8, bytes := 8 }) ∧ (s.me.hold =
      Held.none) ∧ ((s.stampAt (s.xval a)).toNat / 2 ^ 56 = 0)) ∧
    (∃ (s : State) (d : Nat) (a : Nat) (t : Nat), (s.fitAt [d, a] [] { addr := s.xval a, width := 8, bytes := 8 }) ∧ (s.checked = false) ∧
      (s.me.hold.met = none) ∧ (s.me.hold.since = some t) ∧ ((s.stampAt (s.xval a)).toNat / 2 ^ 56 = 0) ∧ (s.me.stimeo ≠ 0) ∧ (t + 1000 *
      s.me.stimeo.toNat ≤ s.ns)) ∧
    (∃ (s : State) (d : Nat) (a : Nat) (b : Nat) (t : Nat), (s.fitAt [d, a, b] [] { addr := s.xval a, width := 8, bytes := 8 }) ∧ (s.checked =
      false) ∧ (s.me.hold.met = none) ∧ (s.me.hold.since = some t) ∧ (s.me.stimeo ≠ 0) ∧ (t + 1000 * s.me.stimeo.toNat ≤ s.ns) ∧ (s.stampAt
      (s.xval a) = s.me.rx 0 b)) ∧
    (∃ (s : State) (d : Nat) (a : Nat) (b : Nat) (t : Nat), (s.fitAt [d, a, b] [] { addr := s.xval a, width := 8, bytes := 8 }) ∧ (s.checked =
      false) ∧ (s.me.hold.met = none) ∧ (s.me.hold.since = some t) ∧ (s.me.stimeo ≠ 0) ∧ (t + 1000 * s.me.stimeo.toNat ≤ s.ns) ∧ ((s.stampAt
      (s.xval a)).toNat / 2 ^ 48 ≠ s.xval b % 2 ^ 16)) :=
  ⟨⟨metH { Held.none with met := some 3 }, 127, 4, 1, 3, by decide +kernel⟩,
  ⟨metH { Held.none with met := some 3 }, 127, 4, 3, by decide +kernel⟩,
  ⟨metS metC, 127, 4, 1, by decide +kernel⟩,
  ⟨metS metC, 127, 4, 0, by decide +kernel⟩,
  ⟨metS metC, 127, 4, 0, by decide +kernel⟩,
  ⟨metS metC, 127, 4, 1, by decide +kernel⟩,
  ⟨{ metS metC with mem := [(coxBase 0 + 71, 1)] }, 127, 4, by decide +kernel⟩,
  ⟨metS metC, 127, 4, by decide +kernel⟩,
  ⟨{ metS { metC with hold := { Held.none with since := some 0 }, stimeo := 1 } with now := 2000 }, 127, 4, 0, by decide +kernel⟩,
  ⟨{ metS { metC with hold := { Held.none with since := some 0 }, stimeo := 1 } with now := 2000 }, 127, 4, 0, 0, by decide +kernel⟩,
  ⟨{ metS { metC with hold := { Held.none with since := some 0 }, stimeo := 1 } with now := 2000 }, 127, 4, 1, 0, by decide +kernel⟩⟩

/-- The hypotheses of each clause of `Obligations.Fences` are met together. -/
theorem met_Fences :
    (∃ (s : State), (s.fit [] []) ∧ (s.performed s.cur = true) ∧ (s.me.admDue ≤ s.me.step) ∧ (s.unstamped s.cur = false) ∧ (s.packetsOut s.cur =
      false)) ∧
    (∃ (s : State), ((s.performed s.cur = false ∨ s.me.step < s.me.admDue))) ∧
    (∃ (s : State), (s.unstamped s.cur = true)) ∧
    (∃ (s : State), (s.packetsOut s.cur = true)) :=
  ⟨⟨metS metC, by decide +kernel⟩,
  ⟨metS { metC with admDue := 1 }, by decide +kernel⟩,
  ⟨{ metS metC with riders := [metQ] }, by decide +kernel⟩,
  ⟨{ metS metC with oars := [{ Oar.down with unacked := [metP] }] }, by decide +kernel⟩⟩

/-- The hypotheses of each clause of `Obligations.TrapReturnExit` are met together. -/
theorem met_TrapReturnExit :
    (∃ (s : State), (s.fit [] []) ∧ ((s.checked = true ∨ s.me.canTrap = true)) ∧ (s.cur < s.cores.length)) ∧
    (∃ (s : State), (s.fit [] []) ∧ (s.me.delayLeft = 0) ∧ (s.me.tepc.toNat % 16 = 0) ∧ (s.cur < s.cores.length)) ∧
    (∃ (s : State) (n : Nat), (s.fit [] []) ∧ (s.cur < s.cores.length) ∧ (s.me.team = some n)) :=
  ⟨⟨metS { metC with tvec := 0x100 }, by decide +kernel⟩,
  ⟨metS { metC with tepc := 0x1000 }, by decide +kernel⟩,
  ⟨metS metC, 0, by decide +kernel⟩⟩

/-- The hypotheses of each clause of `Obligations.CsrAndTangent` are met together. -/
theorem met_CsrAndTangent :
    (∃ (s : State) (d : Nat), (s.fit [d] [])) ∧
    (∃ (s : State) (a : Nat) (x : DWord), (s.fit [a] []) ∧ (x = s.me.rx 0 a)) ∧
    (∃ (c : Core) (w : Wr) (n : Nat) (fn : Nat) (v : DWord) (old : DWord), (w.poison = false) ∧ (w.fl = 0) ∧ (w.dst = .csr n fn) ∧ (v =
      w.p0.setWidth 64) ∧ (old = c.getCsr n 0 0 0) ∧ (fn = 1)) ∧
    (∃ (c : Core) (w : Wr) (n : Nat) (fn : Nat) (v : DWord) (old : DWord), (w.poison = false) ∧ (w.fl = 0) ∧ (w.dst = .csr n fn) ∧ (v =
      w.p0.setWidth 64) ∧ (old = c.getCsr n 0 0 0) ∧ (fn = 2)) ∧
    (∃ (c : Core) (w : Wr) (n : Nat) (fn : Nat) (v : DWord) (old : DWord), (w.poison = false) ∧ (w.fl = 0) ∧ (w.dst = .csr n fn) ∧ (v =
      w.p0.setWidth 64) ∧ (old = c.getCsr n 0 0 0) ∧ (fn = 3)) ∧
    (∃ (s : State), (s.fit [] []) ∧ (s.bundle.toNat / 2 ^ 32 = 0) ∧ (s.me.k = 0) ∧ (s.me.pend = [])) ∧
    (∃ (s : State), (s.fit [] []) ∧ (s.bundle.toNat / 2 ^ 32 = 0) ∧ (s.me.k ≠ 0) ∧ (s.me.pend = [])) ∧
    (∃ (s : State) (d : Nat) (a : Nat) (t : Nat), (1 ≤ t) ∧ (t ≤ s.me.k) ∧ (s.fit [d, a] [])) ∧
    (∃ (s : State) (d : Nat) (a : Nat) (t : Nat), (1 ≤ t) ∧ (t ≤ s.me.k) ∧ (s.fit [] [d, a])) ∧
    (∃ (s : State) (p : Nat) (a : Nat) (b : Nat), (s.fit [a, b] []) ∧ (s.badValue (.tplane p a b) = none)) ∧
    (∃ (s : State), (s.fit [] [])) ∧
    (∃ (c : Core) (w : Wr) (k : Nat) (n : _) (p : _), (w.poison = false) ∧ (w.dst = .dual k) ∧ (k ≤ 3) ∧ (c.ax ≤ 128) ∧ (n < c.ax) ∧ (1 ≤ p) ∧
      (p ≤ k)) ∧
    (∃ (c : Core) (w : Wr) (k : Nat) (n : _) (p : _), (w.poison = false) ∧ (w.dst = .dual k) ∧ (k ≤ 3) ∧ (c.av ≤ 64) ∧ (n < c.av) ∧ (1 ≤ p) ∧ (p
      ≤ k)) ∧
    (∃ (w : Wr) (p : Nat) (x : Nat) (y : Nat) (q : _), (w.poison = false) ∧ (w.dst = .tplane p) ∧ (x = w.p0.toNat) ∧ (y = w.p1.toNat) ∧ (q ≠ p)) :=
  ⟨⟨metS metC, 127, by decide +kernel⟩,
  ⟨metS metC, 1, 3, by decide +kernel⟩,
  ⟨metC, metW (.csr 8 1) 0, 8, 1, 9, 0, by decide +kernel⟩,
  ⟨metC, metW (.csr 0 2) 0, 0, 2, 9, 0, by decide +kernel⟩,
  ⟨metC, metW (.csr 0x0E 3) 0, 0x0E, 3, 9, 0, by decide +kernel⟩,
  ⟨{ metS metC with bundle := 0x81418000 }, by decide +kernel⟩,
  ⟨{ metS { metC with k := 3 } with bundle := 0x81418000 }, by decide +kernel⟩,
  ⟨metS { metC with k := 3 }, 127, 1, 3, by decide +kernel⟩,
  ⟨metS { metC with k := 3 }, 63, 1, 3, by decide +kernel⟩,
  ⟨metS metC, 1, 0, 0, by decide +kernel⟩,
  ⟨metS metC, by decide +kernel⟩,
  ⟨metC, metW (.dual 3) 0, 3, 127, 3, by decide +kernel⟩,
  ⟨metC, metW (.dual 3) 0, 3, 63, 3, by decide +kernel⟩,
  ⟨metW (.tplane 3) 0, 3, 9, 0, 1, by decide +kernel⟩⟩

/-- The hypotheses of each clause of `Obligations.ReplayTokensRegions` are met together. -/
theorem met_ReplayTokensRegions :
    (∃ (s : State) (a : Nat) (off : Nat), (off = bits (s.xval a) 19 0) ∧ (s.fitAt [a] []
      { addr := s.xval a, width := 512, bytes := 16384, sp := 0 })) ∧
    (∃ (s : State) (d : Nat) (n : Nat) (c : BitVec 16), (s.fit [d] []) ∧ (c = Tab.get 0 s.me.ports n)) ∧
    (∃ (s : State) (a : Nat) (b : Nat) (n : Nat) (r : Region) (l : Load), (s.fit [a, b] []) ∧ (originBad (s.xval b) = false) ∧ (s.regionAt
      (s.me.team.getD 0) (s.xval b) = some n) ∧ (s.active n = some (r, l)) ∧ (r.phase.clocked = true) ∧ (l.discarded = false) ∧ (s.xval a %
      64 < l.isl.length) ∧ ((l.isl.getD (s.xval a % 64) Isl.idle).started = false)) ∧
    (∃ (s : State) (d : Nat) (a : Nat) (b : Nat) (o : Nat) (m : Nat) (cmd : Cmd), (s.fitAt [d, a, b] []
      { addr := s.xval d, width := 8, bytes := 8 }) ∧ (originBad (s.xval b) = false) ∧ (o = s.xval b) ∧ (m = s.me.team.getD 0) ∧ (cmd =
      { fl := s.xval a % 256, stamp := s.xval d, core := s.cur, team := m, k := s.me.k, tp := (List.range 4).map (fun p => Tab.get TPlane.absent s.me.tplane p), handler := none })
      ∧ (s.regionAt m o = none) ∧ (s.regions.any (fun r => r.isAt o && (s.team? r.team).any (fun t => decide (t.st = .running))) = false)) ∧
    (∃ (s : State) (d : Nat) (a : Nat) (b : Nat) (o : Nat) (m : Nat) (cmd : Cmd), (s.fitAt [d, a, b] []
      { addr := s.xval d, width := 8, bytes := 8 }) ∧ (originBad (s.xval b) = false) ∧ (o = s.xval b) ∧ (m = s.me.team.getD 0) ∧ (cmd =
      { fl := s.xval a % 256, stamp := s.xval d, core := s.cur, team := m, k := s.me.k, tp := (List.range 4).map (fun p => Tab.get TPlane.absent s.me.tplane p), handler := none })
      ∧ (s.regionAt m o = none) ∧ (s.regions.any (fun r => r.isAt o && (s.team? r.team).any (fun t => decide (t.st = .running))) = true)) ∧
    (∃ (s : State) (d : Nat) (a : Nat) (b : Nat) (o : Nat) (m : Nat) (cmd : Cmd) (n : Nat) (r : Region), (s.fitAt [d, a, b] []
      { addr := s.xval d, width := 8, bytes := 8 }) ∧ (originBad (s.xval b) = false) ∧ (o = s.xval b) ∧ (m = s.me.team.getD 0) ∧ (cmd =
      { fl := s.xval a % 256, stamp := s.xval d, core := s.cur, team := m, k := s.me.k, tp := (List.range 4).map (fun p => Tab.get TPlane.absent s.me.tplane p), handler := none })
      ∧ (s.regionAt m o = some n) ∧ (s.region n = some r) ∧ (r.active.all (fun l => l.rcd.isNone || l.discarded) = true)) ∧
    (∃ (s : State) (d : Nat) (a : Nat) (b : Nat) (o : Nat) (m : Nat) (cmd : Cmd) (n : Nat) (r : Region) (l : _), (s.fitAt [d, a, b] []
      { addr := s.xval d, width := 8, bytes := 8 }) ∧ (originBad (s.xval b) = false) ∧ (o = s.xval b) ∧ (m = s.me.team.getD 0) ∧ (cmd =
      { fl := s.xval a % 256, stamp := s.xval d, core := s.cur, team := m, k := s.me.k, tp := (List.range 4).map (fun p => Tab.get TPlane.absent s.me.tplane p), handler := none })
      ∧ (s.regionAt m o = some n) ∧ (s.region n = some r) ∧ (r.active = some l) ∧ (l.rcd.isSome = true) ∧ (l.discarded = false)) ∧
    (∃ (s : State) (b : Nat) (n : Nat) (r : Region), (s.fit [b] []) ∧ (originBad (s.xval b) = false) ∧ (s.regionAt (s.me.team.getD 0) (s.xval b)
      = some n) ∧ (s.region n = some r) ∧ (some r.team = s.me.team) ∧ (r.idle = false) ∧ (r.active = none)) :=
  ⟨⟨metS metC, 7, 0, by decide +kernel⟩,
  ⟨metS { metC with ports := [(7, 2)] }, 127, 7, 2, by decide +kernel⟩,
  ⟨metG metR, 0, 0, 0, metR, metL, by decide +kernel⟩,
  ⟨metS metC, 4, 1, 0, 0, 0, { fl := 3, stamp := 64, core := 0, team := 0, k := 0, tp := List.replicate 4 TPlane.absent, handler := none }, by decide +kernel⟩,
  ⟨{ metG { metR with team := 1 } with teams := [metT, metT] }, 4, 1, 0, 0, 0, { fl := 3, stamp := 64, core := 0, team := 0, k := 0, tp := List.replicate 4 TPlane.absent, handler := none }, by decide +kernel⟩,
  ⟨metG metR, 4, 1, 0, 0, 0, { fl := 3, stamp := 64, core := 0, team := 0, k := 0, tp := List.replicate 4 TPlane.absent, handler := none }, 0, metR, by decide +kernel⟩,
  ⟨metG { metR with active := some { metL with rcd := some 0 } }, 4, 1, 0, 0, 0, { fl := 3, stamp := 64, core := 0, team := 0, k := 0, tp := List.replicate 4 TPlane.absent, handler := none }, 0, { metR with active := some { metL with rcd := some 0 } }, { metL with rcd := some 0 }, by decide +kernel⟩,
  ⟨metG { metR with active := none, shadow := some metL }, 0, 0, { metR with active := none, shadow := some metL }, by decide +kernel⟩⟩

/-- The hypotheses of each clause of `Obligations.VectorArithmetic` are met together. -/
theorem met_VectorArithmetic :
    (∃ (s : State) (d : Nat) (a : Nat) (b : Nat), (s.fit [] [d, a, b])) ∧
    (∃ (s : State) (d : Nat) (a : Nat), (s.fit [] [d, a])) :=
  ⟨⟨metS metC, 63, 1, 2, by decide +kernel⟩,
  ⟨metS metC, 63, 1, by decide +kernel⟩⟩

/-- The hypotheses of each clause of `Obligations.VectorInteger` are met together. -/
theorem met_VectorInteger :
    (∃ (s : State) (d : Nat) (a : Nat) (b : Nat), (s.fit [] [d, a, b])) ∧
    (∃ (s : State) (a : Nat) (b : Nat), (s.fit [] [a, b])) ∧
    (∃ (f : Nat → Nat → Nat), ((∀ x y, x < 2 ^ 32 → y < 2 ^ 32 → f x y < 2 ^ 32))) :=
  ⟨⟨metS metC, 63, 1, 2, by decide +kernel⟩,
  ⟨metS metC, 63, 1, by decide +kernel⟩,
  ⟨fun a _ => a, fun _ _ h _ => h⟩⟩

/-- The hypotheses of each clause of `Obligations.VectorSelect` are met together. -/
theorem met_VectorSelect :
    (∃ (d : _) (a : _) (b : _) (q : _) (fn : _), (d < 64) ∧ (a < 64) ∧ (b < 64) ∧ (q < 16) ∧ (1 ≤ fn) ∧ (fn < 16)) ∧
    (∃ (s : State) (d : Nat) (a : Nat) (b : Nat), (s.fit [] [d, a, b])) :=
  ⟨⟨63, 63, 63, 15, 15, by decide +kernel⟩,
  ⟨metS metC, 63, 1, 2, by decide +kernel⟩⟩

/-- The hypotheses of each clause of `Obligations.VectorSumTree` are met together. -/
theorem met_VectorSumTree :
    (∃ (s : State) (d : Nat) (a : Nat) (g : Nat) (x : Nat → Nat → Nat) (l0 : Nat → Nat → LaneRes) (l1 : Nat → Nat → LaneRes) (l2 : Nat → Nat →
      LaneRes) (l3 : Nat → Nat → LaneRes) (w : Nat → LaneRes) (t : Nat → LaneRes), (s.fit [] [d, a]) ∧ ((∀ p n, x p n = if bit (s.mask g) n
      then s.ln p a n else 0)) ∧ ((∀ p i, l0 p i = add32 (x p i) (x p (i + 8)))) ∧ ((∀ p i, l1 p i = add32 (l0 p i).1 (l0 p (i + 4)).1)) ∧
      ((∀ p i, l2 p i = add32 (l1 p i).1 (l1 p (i + 2)).1)) ∧ ((∀ p i, l3 p i = add32 (l2 p i).1 (l2 p (i + 1)).1)) ∧ ((∀ p, w p = ((l3 p
      0).1, (l3 p 0).2 ||| orAll ((List.range 2).map (fun i => (l2 p i).2)) ||| orAll ((List.range 4).map (fun i => (l1 p i).2)) ||| orAll
      ((List.range 8).map (fun i => (l0 p i).2))))) ∧ ((∀ p, t p = tangentLane (w 0).1 ((List.range 16).map (x p)) (fun _ => w p)))) :=
  ⟨metS { metC with k := 3 }, 63, 1, 0, metX, metX0, metX1, metX2, metX3, metXw, metXl, by decide +kernel, fun _ _ => rfl, fun _ _ => rfl, fun _ _ => rfl, fun _ _ => rfl, fun _ _ => rfl, fun _ => rfl, fun _ => rfl⟩

/-- The hypotheses of each clause of `Obligations.VectorMoves` are met together. -/
theorem met_VectorMoves :
    (∃ (s : State) (d : Nat) (a : Nat) (b : Nat), (s.fit [] [d, a, b])) ∧
    (∃ (s : State) (d : Nat) (a : Nat) (m : Nat), (s.fit [] [d, a]) ∧ (m < 16)) ∧
    (∃ (s : State) (d : Nat) (a : Nat) (m : Nat), (s.fit [a] [d]) ∧ (m < 16)) ∧
    (∃ (s : State) (d : Nat) (a : Nat), (s.fit [a] [d])) ∧
    (∃ (s : State) (v : Nat) (d : Nat) (m : Nat), (s.fit [d] [v]) ∧ (m < 16)) ∧
    (∃ (s : State) (d : Nat) (a : Nat) (g : Nat) (y : Nat) (pk : Nat × Nat → Nat × Nat → Nat × Nat) (x : Nat → Nat × Nat) (l0 : Nat → Nat × Nat)
      (l1 : Nat → Nat × Nat) (l2 : Nat → Nat × Nat) (l3 : Nat → Nat × Nat) (t : Nat → LaneRes), (s.fit [] [d, a]) ∧ ((∀ u v, pk u v = if
      anyNan32 u.1 v.1 = true then (nan32, u.2) else if maxTakesB u.1 v.1 = true then v else u)) ∧ ((∀ n, x n = (if bit (s.mask g) n then
      s.ln 0 a n else 0xFF800000, n))) ∧ ((∀ i, l0 i = pk (x i) (x (i + 8)))) ∧ ((∀ i, l1 i = pk (l0 i) (l0 (i + 4)))) ∧ ((∀ i, l2 i = pk
      (l1 i) (l1 (i + 2)))) ∧ ((∀ i, l3 i = pk (l2 i) (l2 (i + 1)))) ∧ (y = (if (f32 (l3 0).1).isNan = true then nan32 else (l3 0).1)) ∧ ((∀
      p, t p = tangentLane y ((List.range 16).map (fun n => if bit (s.mask g) n then s.ln p a n else 0)) (fun _ => tanPass (if bit (s.mask
      g) (l3 0).2 then s.ln p a (l3 0).2 else 0))))) ∧
    (∃ (s : State) (d : Nat) (a : Nat) (t : Nat), (s.fit [] [d, a]) ∧ (cvtInt t = true)) ∧
    (∃ (s : State) (d : Nat) (a : Nat) (t : Nat), (s.fit [] [d, a]) ∧ (cvtInt t = false)) ∧
    (∃ (s : State) (d : Nat) (a : Nat) (n : Nat), (s.fit [] (d :: a :: if 16 ≤ n then [a + 1] else []))) :=
  ⟨⟨metS metC, 63, 1, 2, by decide +kernel⟩,
  ⟨metS metC, 63, 1, 15, by decide +kernel⟩,
  ⟨metS metC, 63, 127, 15, by decide +kernel⟩,
  ⟨metS metC, 63, 127, by decide +kernel⟩,
  ⟨metS metC, 63, 127, 15, by decide +kernel⟩,
  ⟨metS metC, 63, 1, 0, metMy, metPk, metMx, metM0, metM1, metM2, metM3, metMt, by decide +kernel, fun _ _ => rfl, fun _ => rfl, fun _ => rfl, fun _ => rfl, fun _ => rfl, fun _ => rfl, rfl, fun _ => rfl⟩,
  ⟨metS metC, 63, 1, 20, by decide +kernel⟩,
  ⟨metS metC, 63, 1, 0, by decide +kernel⟩,
  ⟨metS metC, 63, 62, 16, by decide +kernel⟩⟩

/-- The hypotheses of each clause of `Obligations.VectorMemory` are met together. -/
theorem met_VectorMemory :
    (∃ (s : State) (d : Nat) (a : Nat) (i : Nat) (off : Nat), (off = bits (s.eaVec a i 64) 19 0) ∧ (s.fitAt [a] [d] (s.access (s.eaVec a i 64)
      64 16 0)) ∧ (s.eccBad = []) ∧ (s.me.k = 0)) ∧
    (∃ (s : State) (d : Nat) (a : Nat) (i : Nat) (off : Nat), (off = bits (s.eaVec a i 64) 19 0) ∧ (s.fitAt [a] [d] (s.access (s.eaVec a i 64)
      64 16 0)) ∧ (s.me.k = 0) ∧ (s.cur < s.cores.length)) ∧
    (∃ (s : State) (d : Nat) (a : Nat) (i : Nat) (off : Nat), (off = bits (s.eaVec a i 4) 19 0) ∧ (s.fitAt [a] [d] (s.access (s.eaVec a i 4) 4 1
      0)) ∧ (s.eccBad = []) ∧ (s.me.k = 0)) ∧
    (∃ (s : State) (d : Nat) (a : Nat) (i : Nat) (ea : Nat) (w0 : Nat), (ea = s.eaVec a i 64) ∧ (w0 = nodeBase (keyOf ea) + bits ea 12 0) ∧
      (s.fitAt [a] [d] (s.access ea 64 16 1)) ∧ ((s.node (keyOf ea)).mode ≠ 2) ∧ (s.me.k = 0) ∧ (s.eccBad = [])) ∧
    (∃ (s : State) (d : Nat) (a : Nat) (i : Nat) (ea : Nat) (w0 : Nat) (adr : _), (ea = s.eaVec a i 64) ∧ (w0 = nodeBase (keyOf ea) + bits ea 12
      0) ∧ (s.fitAt [a] [d] (s.access ea 64 16 1)) ∧ ((s.node (keyOf ea)).mode ≠ 2) ∧ (s.me.k = 0) ∧ (adr < w0 ∨ w0 + 64 ≤ adr)) ∧
    (∃ (s : State) (d : Nat) (a : Nat) (i : Nat) (ea : Nat) (w0 : Nat) (n : _) (j : _), (ea = s.eaVec a i 64) ∧ (w0 = nodeBase (keyOf ea) + bits
      ea 12 0) ∧ (s.fitAt [a] [d] (s.access ea 64 16 1)) ∧ ((s.node (keyOf ea)).mode ≠ 2) ∧ (s.me.k = 0) ∧ (n < 16) ∧ (j < 4)) :=
  ⟨⟨metS { metC with x := [(4, 0xFFFC0)] }, 63, 4, 0, 0xFFFC0, by decide +kernel⟩,
  ⟨metS metC, 63, 4, 31, 0, by decide +kernel⟩,
  ⟨metS metC, 63, 9, 0, 0xFFFFC, by decide +kernel⟩,
  ⟨metS metC, 63, 8, 0, 0x81001FC0, nodeBase 2048 + 0x1FC0, by decide +kernel⟩,
  ⟨metS metC, 63, 8, 31, 0x81001F80, nodeBase 2048 + 0x1F80, nodeBase 2048 + 0x1FC0, by decide +kernel⟩,
  ⟨metS metC, 63, 8, 0, 0x81001FC0, nodeBase 2048 + 0x1FC0, 15, 3, by decide +kernel⟩⟩

/-- The hypotheses of each clause of `Obligations.MatrixAndTransform` are met together. -/
theorem met_MatrixAndTransform :
    (∃ (s : State) (a : Nat) (b : Nat) (add : XKind → Nat → Nat → Nat → State → State), ((∀ (k : XKind) (imm xb n : Nat) (v : State), add k imm
      xb n v = v.modTile (tileNo v.cur (v.xval a % 32)) (fun x =>
      { x with queue := x.queue ++ [{ kind := k, imm := imm, xa := v.xval a % 65536, rcd := BitVec.ofNat 256 (if n = 0 then 0 else v.recAt (v.xval xb) n), xb := v.xval xb, core := v.cur, team := v.me.team, acc := v.me.step + 2, accepted := false, begun := false }], user := some (v.cur, v.me.team) })))
      ∧ (s.issues (.mxstep a b))) ∧
    (∃ (s : State) (a : Nat) (b : Nat) (c : Nat) (add : XKind → Nat → Nat → Nat → State → State), ((∀ (k : XKind) (imm xb n : Nat) (v : State),
      add k imm xb n v = v.modTile (tileNo v.cur (v.xval a % 32)) (fun x =>
      { x with queue := x.queue ++ [{ kind := k, imm := imm, xa := v.xval a % 65536, rcd := BitVec.ofNat 256 (if n = 0 then 0 else v.recAt (v.xval xb) n), xb := v.xval xb, core := v.cur, team := v.me.team, acc := v.me.step + 2, accepted := false, begun := false }], user := some (v.cur, v.me.team) })))
      ∧ (s.issues (.mxdrain a b c))) ∧
    (∃ (s : State) (a : Nat) (c : Nat) (add : XKind → Nat → Nat → Nat → State → State), ((∀ (k : XKind) (imm xb n : Nat) (v : State), add k imm
      xb n v = v.modTile (tileNo v.cur (v.xval a % 32)) (fun x =>
      { x with queue := x.queue ++ [{ kind := k, imm := imm, xa := v.xval a % 65536, rcd := BitVec.ofNat 256 (if n = 0 then 0 else v.recAt (v.xval xb) n), xb := v.xval xb, core := v.cur, team := v.me.team, acc := v.me.step + 2, accepted := false, begun := false }], user := some (v.cur, v.me.team) })))
      ∧ (s.issues (.mxzero a c))) ∧
    (∃ (s : State) (a : Nat) (b : Nat) (u : Nat) (t : Nat) (add : XKind → Nat → Nat → Nat → State → State), ((∀ (k : XKind) (imm xb n : Nat) (v
      : State), add k imm xb n v = v.modTile (tileNo v.cur (v.xval a % 32)) (fun x =>
      { x with queue := x.queue ++ [{ kind := k, imm := imm, xa := v.xval a % 65536, rcd := BitVec.ofNat 256 (if n = 0 then 0 else v.recAt (v.xval xb) n), xb := v.xval xb, core := v.cur, team := v.me.team, acc := v.me.step + 2, accepted := false, begun := false }], user := some (v.cur, v.me.team) })))
      ∧ (s.issues (.mxsave a b u t)) ∧ (t ≠ 1)) ∧
    (∃ (s : State) (a : Nat) (b : Nat) (u : Nat) (add : XKind → Nat → Nat → Nat → State → State), ((∀ (k : XKind) (imm xb n : Nat) (v : State),
      add k imm xb n v = v.modTile (tileNo v.cur (v.xval a % 32)) (fun x =>
      { x with queue := x.queue ++ [{ kind := k, imm := imm, xa := v.xval a % 65536, rcd := BitVec.ofNat 256 (if n = 0 then 0 else v.recAt (v.xval xb) n), xb := v.xval xb, core := v.cur, team := v.me.team, acc := v.me.step + 2, accepted := false, begun := false }], user := some (v.cur, v.me.team) })))
      ∧ (s.issues (.mxsave a b u 1))) ∧
    (∃ (s : State) (a : Nat) (b : Nat) (u : Nat) (add : XKind → Nat → Nat → Nat → State → State), ((∀ (k : XKind) (imm xb n : Nat) (v : State),
      add k imm xb n v = v.modTile (tileNo v.cur (v.xval a % 32)) (fun x =>
      { x with queue := x.queue ++ [{ kind := k, imm := imm, xa := v.xval a % 65536, rcd := BitVec.ofNat 256 (if n = 0 then 0 else v.recAt (v.xval xb) n), xb := v.xval xb, core := v.cur, team := v.me.team, acc := v.me.step + 2, accepted := false, begun := false }], user := some (v.cur, v.me.team) })))
      ∧ (s.issues (.mxrest a b u))) ∧
    (∃ (s : State) (a : Nat) (b : Nat) (g : Nat) (add : XKind → Nat → Nat → Nat → State → State), ((∀ (k : XKind) (imm xb n : Nat) (v : State),
      add k imm xb n v = v.modTile (tileNo v.cur (v.xval a % 32)) (fun x =>
      { x with queue := x.queue ++ [{ kind := k, imm := imm, xa := v.xval a % 65536, rcd := BitVec.ofNat 256 (if n = 0 then 0 else v.recAt (v.xval xb) n), xb := v.xval xb, core := v.cur, team := v.me.team, acc := v.me.step + 2, accepted := false, begun := false }], user := some (v.cur, v.me.team) })))
      ∧ (s.issues (.mxpair a b g))) ∧
    (∃ (s : State) (u : Nat), ((s.xtile u).lands ≠ [] ∨ s.tilePaused u = true)) ∧
    (∃ (s : State) (v : State) (u : Nat) (base : Nat) (x : XStop) (i : _), (s.tilePaused u = false) ∧ ((s.xtile u).stops = [x]) ∧ ((s.xtile
      u).lands = []) ∧ (s.eccBad = []) ∧ (s.present x.team x.core = true) ∧ (s.paused (coreIsl x.core) = false) ∧ (x.la % 2 ^ 20 + 0x10240 ≤
      2 ^ 20) ∧ (x.la < 2 ^ 31) ∧ (base = coxBase x.core + x.la % 2 ^ 20) ∧ (v = s.stopSaves u) ∧ (i < 8)) ∧
    (∃ (s : State) (a : Nat) (d : Nat), (s.issues (.mxstat a d))) ∧
    (∃ (s : State) (a : Nat) (b : Nat) (q : Nat) (sh : Nat) (inv : Bool) (i : Instr), ((i = .xfwd a b q ∧ inv = false ∧ sh = q) ∨ (i = .xinv a b
      ∧ inv = true ∧ sh = 0)) ∧ (s.issues i)) ∧
    (∃ (s : State) (a : Nat) (b : Nat) (q : Nat), (s.issues (.xfwd a b q))) ∧
    (∃ (s : State) (a : Nat) (b : Nat), (s.issues (.xinv a b))) :=
  ⟨⟨metK, 127, 1, metAdd 127, fun _ _ _ _ _ => rfl, by decide +kernel⟩,
  ⟨metK, 127, 1, 7, metAdd 127, fun _ _ _ _ _ => rfl, by decide +kernel⟩,
  ⟨metK, 127, 3, metAdd 127, fun _ _ _ _ _ => rfl, by decide +kernel⟩,
  ⟨metK, 127, 1, 2, 0, metAdd 127, fun _ _ _ _ _ => rfl, by decide +kernel, by decide⟩,
  ⟨metK, 127, 1, 2, metAdd 127, fun _ _ _ _ _ => rfl, by decide +kernel⟩,
  ⟨metK, 127, 1, 2, metAdd 127, fun _ _ _ _ _ => rfl, by decide +kernel⟩,
  ⟨metK, 127, 1, 255, metAdd 127, fun _ _ _ _ _ => rfl, by decide +kernel⟩,
  ⟨metXt { XTile.empty with lands := [metXla] }, 0, by decide +kernel⟩,
  ⟨metXp, metXp.stopSaves 0, 0, coxBase 0 + 64, ⟨0, some 0, 64, false, 0⟩, 7, by and_intros <;> first | with_reducible rfl | decide +kernel⟩,
  ⟨metK, 127, 1, by decide +kernel⟩,
  ⟨metK, 127, 1, 3, 3, false, .xfwd 127 1 3, Or.inl ⟨rfl, rfl, rfl⟩, by decide +kernel⟩,
  ⟨metK, 127, 1, 3, by decide +kernel⟩,
  ⟨metK, 127, 1, by decide +kernel⟩⟩

/-- The hypotheses of each clause of `Obligations.RiderAdmission` are met together. -/
theorem met_RiderAdmission :
    (∃ (s : State) (d : Nat) (a : Nat) (b : Nat), (s.issues (.rdstr d a b))) ∧
    (∃ (s : State) (d : Nat) (a : Nat) (b : Nat), (s.issues (.rdsieve d a b))) ∧
    (∃ (s : State) (d : Nat) (a : Nat) (b : Nat), (s.issues (.rdfold d a b))) ∧
    (∃ (s : State) (d : Nat) (a : Nat) (b : Nat), (s.issues (.rdmat d a b))) ∧
    (∃ (s : State) (d : Nat) (a : Nat) (b : Nat), (s.issues (.rdfp d a b))) ∧
    (∃ (s : State) (d : Nat) (a : Nat) (b : Nat), (s.issues (.rdcmp d a b))) ∧
    (∃ (s : State) (d : Nat) (a : Nat) (b : Nat), (s.issues (.upd d a b))) ∧
    (∃ (s : State) (d : Nat) (a : Nat) (b : Nat), (s.issues (.dep d a b))) ∧
    (∃ (s : State) (d : Nat) (a : Nat) (b : Nat), (s.issues (.land d a b))) ∧
    (∃ (s : State) (d : Nat) (a : Nat) (b : Nat), (s.issues (.bvload d a b))) ∧
    (∃ (s : State) (d : Nat) (a : Nat) (b : Nat), (s.issues (.importHost d a b))) ∧
    (∃ (s : State) (d : Nat) (a : Nat) (b : Nat), (s.issues (.exportHost d a b))) ∧
    (∃ (s : State) (d : Nat) (a : Nat) (b : Nat), (s.issues (.stream d a b))) ∧
    (∃ (s : State) (d : Nat) (a : Nat) (b : Nat), (s.issues (.crsmode d a b))) ∧
    (∃ (s : State) (d : Nat) (a : Nat) (b : Nat), (s.issues (.cursor d a b))) ∧
    (∃ (s : State) (u : State) (k : RKind) (d : Nat) (a : Nat) (b : Nat) (x : Nat), (k ≠ .stream) ∧ ((k = .rdstr → (s.askOf k d a b).f 255 252 ≠
      3)) ∧ (s.admitCore (s.askOf k d a b) = (x, u))) ∧
    (∃ (s : State) (u : State) (r : Rider) (die : Nat) (tile : Nat) (x : Nat), ((s.find tile r).miss = []) ∧ (s.tryAdmit r die tile = (x, u)) ∧
      (x ≠ 1)) ∧
    (∃ (s : State) (u : State) (r : Rider) (die : Nat) (tile : Nat) (x : Nat), ((s.find tile r).miss = []) ∧ (s.tryAdmit r die tile = (x, u)) ∧
      (x = 1)) :=
  ⟨⟨metK, 127, 1, 4, by decide +kernel⟩,
  ⟨metK, 127, 1, 4, by decide +kernel⟩,
  ⟨metK, 127, 1, 4, by decide +kernel⟩,
  ⟨metK, 127, 1, 4, by decide +kernel⟩,
  ⟨metK, 127, 1, 4, by decide +kernel⟩,
  ⟨metK, 127, 1, 4, by decide +kernel⟩,
  ⟨metK, 127, 1, 4, by decide +kernel⟩,
  ⟨metK, 127, 1, 4, by decide +kernel⟩,
  ⟨metK, 127, 1, 4, by decide +kernel⟩,
  ⟨metK, 127, 1, 4, by decide +kernel⟩,
  ⟨metK, 127, 1, 4, by decide +kernel⟩,
  ⟨metK, 127, 1, 4, by decide +kernel⟩,
  ⟨metK, 127, 1, 4, by decide +kernel⟩,
  ⟨metK, 127, 1, 4, by decide +kernel⟩,
  ⟨metK, 127, 1, 4, by decide +kernel⟩,
  ⟨metK, (metK.admitCore (metK.askOf .upd 127 1 4)).2, .upd, 127, 1, 4, (metK.admitCore (metK.askOf .upd 127 1 4)).1, by decide +kernel⟩,
  ⟨metJ, (metJ.tryAdmit metQ 0 40).2, metQ, 0, 40, (metJ.tryAdmit metQ 0 40).1, by decide +kernel⟩,
  ⟨metK, (metK.tryAdmit metQ 0 0).2, metQ, 0, 0, 1, by decide +kernel⟩⟩

/-- The hypotheses of each clause of `Obligations.SequenceAdmission` are met together. -/
theorem met_SequenceAdmission :
    (∃ (s : State) (d : Nat) (a : Nat) (b : Nat), (s.issues (.kvlook d a b))) ∧
    (∃ (s : State) (d : Nat) (a : Nat) (b : Nat), (s.issues (.kvapp d a b))) ∧
    (∃ (s : State) (d : Nat) (a : Nat) (b : Nat), (s.issues (.kvfork d a b))) ∧
    (∃ (s : State) (d : Nat) (a : Nat) (b : Nat), (s.issues (.kvtrunc d a b))) ∧
    (∃ (s : State) (d : Nat) (a : Nat) (b : Nat), (s.issues (.kvflat d a b))) ∧
    (∃ (s : State) (d : Nat) (a : Nat) (b : Nat), (s.issues (.kvdep d a b))) ∧
    (∃ (s : State) (d : Nat) (a : Nat) (b : Nat), (s.issues (.playset d a b))) ∧
    (∃ (s : State) (d : Nat) (a : Nat) (b : Nat), (s.issues (.framein d a b))) ∧
    (∃ (s : State) (d : Nat) (a : Nat) (b : Nat), (s.issues (.stateck d a b))) ∧
    (∃ (s : State) (kind : Nat) (a : Nat) (b : Nat) (n : Nat) (rcd : BitVec 256) (on : List Nat), (n = s.xval a % 4096) ∧ (rcd = BitVec.ofNat
      256 (s.coxRead s.cur (bits (s.xval b) 19 0) 32)) ∧ (on = (if kind = 2 then [n, bits rcd.toNat 139 128] else [n])) ∧ (s.eccBad = []) ∧
      (s.coreFlight s.cur < 512) ∧ ((∀ m ∈ on, s.onStream m < 16))) ∧
    (∃ (s : State) (kind : Nat) (a : Nat) (b : Nat) (n : Nat) (rcd : BitVec 256) (on : List Nat), (n = s.xval a % 4096) ∧ (rcd = BitVec.ofNat
      256 (s.coxRead s.cur (bits (s.xval b) 19 0) 32)) ∧ (on = (if kind = 2 then [n, bits rcd.toNat 139 128] else [n])) ∧ (s.eccBad = []) ∧
      ((512 ≤ s.coreFlight s.cur ∨ ∃ m ∈ on, 16 ≤ s.onStream m))) :=
  ⟨⟨metK, 127, 1, 4, by decide +kernel⟩,
  ⟨metK, 127, 1, 4, by decide +kernel⟩,
  ⟨metK, 127, 1, 4, by decide +kernel⟩,
  ⟨metK, 127, 1, 4, by decide +kernel⟩,
  ⟨metK, 127, 1, 4, by decide +kernel⟩,
  ⟨metK, 127, 1, 4, by decide +kernel⟩,
  ⟨metK, 127, 1, 4, by decide +kernel⟩,
  ⟨metK, 127, 1, 4, by decide +kernel⟩,
  ⟨metK, 127, 1, 4, by decide +kernel⟩,
  ⟨metK, 2, 127, 4, 0, 0, [0, 0], by decide +kernel⟩,
  ⟨metJ, 5, 127, 4, 0, 0, [0], by decide +kernel⟩⟩

/-- The hypotheses of each clause of `Obligations.ComputeElements` are met together. -/
theorem met_ComputeElements :
    (∃ (s : State) (t : Nat), (s.el.squash = false) ∧ (domFault .none s.opA = none) ∧ ((t = 7 → lgReserved s.el.a = none))) ∧
    (∃ (s : State), (s.el.squash = false) ∧ (domFault .both s.opA = none)) ∧
    (∃ (s : State), (s.el.squash = false) ∧ (domFault .none s.opAB = none) ∧ (lgFaults s.el.a s.el.b = none)) ∧
    (∃ (s : State) (i : Nat), (s.el.squash = false) ∧ (domFault .none s.opA = none) ∧ ((bit i 5 = false → domFault .none s.opAB = none))) ∧
    (∃ (s : State), (s.el.squash = false) ∧ (domFault .both s.opAB = none)) ∧
    (∃ (s : State), (s.el.squash = false) ∧ (domFault .mul s.opAB = none)) ∧
    (∃ (s : State), (s.el.squash = false) ∧ (domFault .mul s.opABC = none)) ∧
    (∃ (s : State), (s.el.squash = false) ∧ (domFault .freq s.opAB = none)) ∧
    (∃ (s : State), (s.el.squash = false) ∧ (domFault .freq s.opABC = none)) ∧
    (∃ (s : State), (s.el.squash = false) ∧ (domFault .none s.opABC = none) ∧ (lgFaults s.el.a s.el.b = none)) ∧
    (∃ (s : State) (r : Region) (l : Load), (s.el.squash = false) ∧ (s.active s.el.reg = some (r, l))) ∧
    (∃ (s : State) (r : Region) (l : Load), (s.el.squash = false) ∧ (s.active s.el.reg = some (r, l)) ∧ (domFault .none s.opA = none)) ∧
    (∃ (s : State) (r : Region) (l : Load) (k : _), (s.el.squash = false) ∧ (s.active s.el.reg = some (r, l)) ∧ ((s.elem k).tok = true)) ∧
    (∃ (i : Instr) (s : State), (i.place = .ce) ∧ (s.el.squash = true)) ∧
    (∃ (s : State) (u : State) (fl : FlagSet), (u = s.loadFlags s.el.reg fl) ∧ (fl = 0)) ∧
    (∃ (s : State) (u : State) (fl : FlagSet) (r : _) (l : _) (l' : _), (u = s.loadFlags s.el.reg fl) ∧ (s.active s.el.reg = some (r, l)) ∧ (l'
      = { l with flags := l.flags ||| fl })) ∧
    (∃ (a : Beat) (b : Beat) (i : Nat), (i < 4) ∧ (a.fmt = 32) ∧ (b.fmt = 32) ∧ (a.scale = plainScale) ∧ (b.scale = plainScale)) :=
  ⟨⟨metK, 7, by decide +kernel⟩,
  ⟨metK, by decide +kernel⟩,
  ⟨metK, by decide +kernel⟩,
  ⟨metK, 31, by decide +kernel⟩,
  ⟨metK, by decide +kernel⟩,
  ⟨metK, by decide +kernel⟩,
  ⟨metK, by decide +kernel⟩,
  ⟨metK, by decide +kernel⟩,
  ⟨metK, by decide +kernel⟩,
  ⟨metK, by decide +kernel⟩,
  ⟨metG metR, metR, metL, by decide +kernel⟩,
  ⟨metG metR, metR, metL, by decide +kernel⟩,
  ⟨{ metG metR with els := [(3, { El.zero with tok := true })] }, metR, metL, 3, by decide +kernel⟩,
  ⟨.ceMov 0, { metK with el := { ElCtx.none with squash := true } }, by decide +kernel⟩,
  ⟨metK, metK, 0, by decide +kernel⟩,
  ⟨metG metR, (metG metR).loadFlags 0 3, 3, metR, metL, { metL with flags := metL.flags ||| 3 }, by decide +kernel⟩,
  ⟨Beat.zero, Beat.zero, 3, by decide +kernel⟩⟩

/-- The hypotheses of each clause of `Obligations.RingEntries` are met together. -/
theorem met_RingEntries :
    (∃ (s : State), (s.el.squash = true)) ∧
    (∃ (s : State), (s.el.squash = false) ∧ (s.bankFault = none)) ∧
    (∃ (s : State) (f : _), (s.el.squash = false) ∧ (s.bankFault = some f)) ∧
    (∃ (s : State) (r : Region) (l : Load) (v : Beat) (t : List Beat), (s.active s.el.reg = some (r, l)) ∧ ((s.node (elNode s.el.pos)).mode = 0)
      ∧ ((s.node (elNode s.el.pos)).ahead = v :: t)) ∧
    (∃ (s : State) (r : Region) (l : Load) (off : Nat) (w : Nat), (s.active s.el.reg = some (r, l)) ∧ ((s.node (elNode s.el.pos)).mode = 1) ∧
      (l.k = 0) ∧ (r.portOf l s.el.pos 0 = none) ∧ ((s.node (elNode s.el.pos)).wport.mark = 0) ∧ (w = l.viewWidth (r.elAt l s.el.pos) false)
      ∧ ((s.viewOff r l s.el.pos false).1 = (off : Int)) ∧ (off % w = 0) ∧ (off + w ≤ 8192)) ∧
    (∃ (s : State) (r : Region) (l : Load) (o : Nat) (off : Nat), (s.active s.el.reg = some (r, l)) ∧ ((s.node (elNode s.el.pos)).mode = 1) ∧
      (s.eccBad = []) ∧ (r.portOf l s.el.pos 0 = none) ∧ ((s.viewOff r l s.el.pos false).1 = (off : Int)) ∧ (off % atomicBytes o = 0) ∧ (off
      + atomicBytes o ≤ 8192)) ∧
    (∃ (s : State) (u : State) (r : Region) (l : Load) (inn : Bool) (out : Bool) (close : Bool) (e : El) (f : Nat) (cap : Nat) (blk : List Beat)
      (shown : List Res) (packs : List Packet) (x : List Beat × FlagSet) (j : _), (s.active s.el.reg = some (r, l)) ∧ (bit (l.at s.el.base
      0x045 1) 3 = false) ∧ (e = s.elem s.el.pos) ∧ (f = l.at s.el.base 0x044 1 % 32) ∧ (cap = l.at s.el.base 0x048 1 + 1) ∧ (blk = (if inn
      = true ∧ s.el.a.new = true then e.blk ++ [s.el.a] else e.blk)) ∧ ((e.packs.length < 2 ∨ (convHeld f blk < cap ∧ (close = false ∨
      convHeld f blk = 0)))) ∧ (((∃ p t v w, out = true ∧ e.packs = p :: t ∧ p.left = 0 ∧ p.beats = v :: w ∧ shown = [⟨1, 0, v⟩] ∧ packs =
      (if w = [] then t else { p with beats := w } :: t)) ∨ ((out = true → ∀ p t, e.packs = p :: t → p.left ≠ 0 ∨ p.beats = []) ∧ shown = []
      ∧ packs = e.packs))) ∧ (x = convPacket l s.el.base e.ctag blk) ∧ (u = s.convert inn out close) ∧ (j ≠ s.el.pos)) ∧
    (∃ (s : State) (u : State) (r : Region) (l : Load) (inn : Bool) (out : Bool) (close : Bool) (e : El) (f : Nat) (cap : Nat) (blk : List Beat)
      (shown : List Res) (packs : List Packet) (x : List Beat × FlagSet), (s.active s.el.reg = some (r, l)) ∧ (bit (l.at s.el.base 0x045 1)
      3 = false) ∧ (e = s.elem s.el.pos) ∧ (f = l.at s.el.base 0x044 1 % 32) ∧ (cap = l.at s.el.base 0x048 1 + 1) ∧ (blk = (if inn = true ∧
      s.el.a.new = true then e.blk ++ [s.el.a] else e.blk)) ∧ ((e.packs.length < 2 ∨ (convHeld f blk < cap ∧ (close = false ∨ convHeld f blk
      = 0)))) ∧ (((∃ p t v w, out = true ∧ e.packs = p :: t ∧ p.left = 0 ∧ p.beats = v :: w ∧ shown = [⟨1, 0, v⟩] ∧ packs = (if w = [] then
      t else { p with beats := w } :: t)) ∨ ((out = true → ∀ p t, e.packs = p :: t → p.left ≠ 0 ∨ p.beats = []) ∧ shown = [] ∧ packs =
      e.packs))) ∧ (x = convPacket l s.el.base e.ctag blk) ∧ (u = s.convert inn out close) ∧ (convHeld f blk < cap) ∧ ((close = false ∨
      convHeld f blk = 0))) ∧
    (∃ (s : State) (u : State) (r : Region) (l : Load) (inn : Bool) (out : Bool) (close : Bool) (e : El) (f : Nat) (cap : Nat) (blk : List Beat)
      (shown : List Res) (packs : List Packet) (x : List Beat × FlagSet), (s.active s.el.reg = some (r, l)) ∧ (bit (l.at s.el.base 0x045 1)
      3 = false) ∧ (e = s.elem s.el.pos) ∧ (f = l.at s.el.base 0x044 1 % 32) ∧ (cap = l.at s.el.base 0x048 1 + 1) ∧ (blk = (if inn = true ∧
      s.el.a.new = true then e.blk ++ [s.el.a] else e.blk)) ∧ ((e.packs.length < 2 ∨ (convHeld f blk < cap ∧ (close = false ∨ convHeld f blk
      = 0)))) ∧ (((∃ p t v w, out = true ∧ e.packs = p :: t ∧ p.left = 0 ∧ p.beats = v :: w ∧ shown = [⟨1, 0, v⟩] ∧ packs = (if w = [] then
      t else { p with beats := w } :: t)) ∨ ((out = true → ∀ p t, e.packs = p :: t → p.left ≠ 0 ∨ p.beats = []) ∧ shown = [] ∧ packs =
      e.packs))) ∧ (x = convPacket l s.el.base e.ctag blk) ∧ (u = s.convert inn out close) ∧ ((cap ≤ convHeld f blk ∨ (close = true ∧
      convHeld f blk ≠ 0)))) ∧
    (∃ (s : State) (r : Region) (l : Load) (p : Nat), (s.active s.el.reg = some (r, l)) ∧ (bits (r.binding l s.el.pos p) 31 30 = 1) ∧ ((s.elem
      s.el.pos).j = []) ∧ (bit (l.at s.el.base 0x043 1) 0 = false)) :=
  ⟨⟨{ metK with el := { ElCtx.none with squash := true } }, by decide +kernel⟩,
  ⟨metK, by decide +kernel⟩,
  ⟨metM metR2 Node.free, (6, 0, 0, 1), by decide +kernel⟩,
  ⟨metM metR2 { Node.free with mode := 0, ahead := [Beat.zero] }, metR2, metL, Beat.zero, [], by decide +kernel⟩,
  ⟨metM metR2 Node.free, metR2, metL, 0, 1, by decide +kernel⟩,
  ⟨metM metR2 Node.free, metR2, metL, 0, 0, by decide +kernel⟩,
  ⟨metCp, metCp.convert true true false, metR, metL, true, true, false, metCp.elem 0, 0, 1, [], [⟨1, 0, Beat.zero⟩], [], convPacket metL 0 0 [], 1, by and_intros <;> first | with_reducible rfl | exact Or.inl ⟨⟨0, [Beat.zero]⟩, [], Beat.zero, [], rfl, rfl, rfl, rfl, rfl, rfl⟩ | decide +kernel⟩,
  ⟨metCp, metCp.convert true true false, metR, metL, true, true, false, metCp.elem 0, 0, 1, [], [⟨1, 0, Beat.zero⟩], [], convPacket metL 0 0 [], by and_intros <;> first | with_reducible rfl | exact Or.inl ⟨⟨0, [Beat.zero]⟩, [], Beat.zero, [], rfl, rfl, rfl, rfl, rfl, rfl⟩ | decide +kernel⟩,
  ⟨metCv, metCv.convert true true false, metR, metL, true, true, false, metCv.elem 0, 0, 1, [metCv.el.a], [], [], convPacket metL 0 0 [metCv.el.a], by and_intros <;> first | with_reducible rfl | exact Or.inr ⟨fun _ _ _ h => absurd h.symm (List.cons_ne_nil _ _), rfl, rfl⟩ | decide +kernel⟩,
  ⟨metM metR3 Node.free, metR3, metL3, 0, by decide +kernel⟩⟩

/-- The hypotheses of each clause of `Obligations.CoreEvents` are met together. -/
theorem met_CoreEvents :
    (∃ (s : State) (c : Nat) (k : Core) (t : Trap) (r : List Trap), (s.arg 0 = c) ∧ (c < s.cores.length) ∧ (s.core c = k) ∧ (k.run = .running) ∧
      (k.trapq = t :: r) ∧ (k.pend = []) ∧ (k.tvec ≠ 0) ∧ (k.tstat.getLsbD 0 = false) ∧ (s.quiet c = true) ∧ (s.coreStill c = false)) ∧
    (∃ (s : State) (c : Nat) (code : Nat) (slot : Nat) (k : Core) (tv : DWord), (s.arg 0 = c) ∧ (c < s.cores.length) ∧ (s.core c = k) ∧ (k.run =
      .trapWait) ∧ (s.quiet c = true) ∧ (s.coreStill c = false) ∧ (k.pend = []) ∧ (k.taking = some (code, slot, tv))) ∧
    (∃ (s : State) (c : Nat), (s.arg 0 = c) ∧ (s.coreStill c = true)) ∧
    (∃ (s : State) (s1 : State) (c : Nat) (n : Nat) (b : BitVec 128) (x : Bad), (s.arg 0 = c) ∧ ((s.core c).run = .running) ∧ (s.coreStill c =
      false) ∧ (({ s.setCore c (s.core c).land with cur := c } : State).cached (s.asidOf c) (s.funcOf c) (s.core c).pc.toNat = some (b, s1))
      ∧ (({ s1 with bundle := b } : State).firstBad = some (n, x)) ∧ (x.code = 0x1B)) ∧
    (∃ (s : State) (q : RvReq) (tm : Team) (v : Rv) (n : _), (s.rvq = [q]) ∧ (q.time + 5 ≤ s.dieNs 4) ∧ (s.toks = []) ∧ (s.dieHeld (tokenDie
      q.src) 4 q.time = false) ∧ (s.team? q.team = some tm) ∧ (v = Tab.get Rv.unset tm.rv q.point) ∧ (q.set = some n) ∧ (v.exp = 0)) ∧
    (∃ (s : State) (q : RvReq) (tm : Team) (v : Rv), (s.rvq = [q]) ∧ (q.time + 5 ≤ s.dieNs 4) ∧ (s.toks = []) ∧ (s.dieHeld (tokenDie q.src) 4
      q.time = false) ∧ (s.team? q.team = some tm) ∧ (v = Tab.get Rv.unset tm.rv q.point) ∧ (q.set = none) ∧ (q.holds = false) ∧ (v.exp ≠
      0)) :=
  ⟨⟨metS metC1, 0, metC1, ⟨2, 0, 0⟩, [], by decide +kernel⟩,
  ⟨metS metC2, 0, 2, 0, metC2, 9, by decide +kernel⟩,
  ⟨{ metE [0] with islHold := [(0, 1)] }, 0, by decide +kernel⟩,
  ⟨metB1, metB1, 0, 0, metB2, ((State.firstBad { metB1 with bundle := metB2 }).getD (0, ⟨0, 0, 0, 0⟩)).2, by decide +kernel⟩,
  ⟨{ metS metC with rvq := [metRv (some 2)], now := 10 }, metRv (some 2), metT, Rv.unset, 2, by decide +kernel⟩,
  ⟨{ metS metC with rvq := [metRv none], now := 10, teams := [metT2] }, metRv none, metT2, ⟨2, 0, false⟩, by decide +kernel⟩⟩

/-- The hypotheses of each clause of `Obligations.DispatchEvents` are met together. -/
theorem met_DispatchEvents :
    (∃ (s : State) (f : Nat) (q : Nat) (data : Nat) (up : Bool), (up = (if f = 0 then s.hostLinkUp.any (fun x => x) else s.hostLinkUp.getD
      (s.linkOf f) true)) ∧ (s.arg 0 = f) ∧ (s.arg 1 = q) ∧ (s.arg 2 = 0) ∧ (s.arg 3 = 64) ∧ (s.arg 4 = data) ∧ (q < 256) ∧ (s.responds =
      true) ∧ (bits (s.queue q) 47 40 = f) ∧ (up = false)) ∧
    (∃ (s : State) (f : Nat) (q : Nat) (data : Nat) (l : Launch) (up : Bool), (up = (if f = 0 then s.hostLinkUp.any (fun x => x) else
      s.hostLinkUp.getD (s.linkOf f) true)) ∧ (s.arg 0 = f) ∧ (s.arg 1 = q) ∧ (s.arg 2 = 0) ∧ (s.arg 3 = 64) ∧ (s.arg 4 = data) ∧ (q < 256)
      ∧ (s.responds = true) ∧ (bits (s.queue q) 47 40 = f) ∧ (up = true) ∧ (l = ⟨q, s.dieNs 4, BitVec.ofNat 512 data, []⟩) ∧ (bit (s.queue
      q) 34 = true) ∧ (s.held q < 64) ∧ (l.f 399 384 ≤ 8191) ∧ (l.bad (bits (s.queue q) 31 0) = false)) ∧
    (∃ (s : State) (f : Nat) (q : Nat) (data : Nat) (l : Launch) (up : Bool), (up = (if f = 0 then s.hostLinkUp.any (fun x => x) else
      s.hostLinkUp.getD (s.linkOf f) true)) ∧ (s.arg 0 = f) ∧ (s.arg 1 = q) ∧ (s.arg 2 = 0) ∧ (s.arg 3 = 64) ∧ (s.arg 4 = data) ∧ (q < 256)
      ∧ (s.responds = true) ∧ (bits (s.queue q) 47 40 = f) ∧ (up = true) ∧ (l = ⟨q, s.dieNs 4, BitVec.ofNat 512 data, []⟩) ∧ (bit (s.queue
      q) 34 = true) ∧ (s.held q < 64) ∧ (l.f 399 384 ≤ 8191) ∧ (l.bad (bits (s.queue q) 31 0) = true)) ∧
    (∃ (s : State) (f : Nat) (q : Nat) (data : Nat) (l : Launch) (up : Bool), (up = (if f = 0 then s.hostLinkUp.any (fun x => x) else
      s.hostLinkUp.getD (s.linkOf f) true)) ∧ (s.arg 0 = f) ∧ (s.arg 1 = q) ∧ (s.arg 2 = 0) ∧ (s.arg 3 = 64) ∧ (s.arg 4 = data) ∧ (q < 256)
      ∧ (s.responds = true) ∧ (bits (s.queue q) 47 40 = f) ∧ (up = true) ∧ (l = ⟨q, s.dieNs 4, BitVec.ofNat 512 data, []⟩) ∧ (s.held q = 64)
      ∧ (Tab.get 0 s.drops q < 0xFFFFFFFF)) ∧
    (∃ (s : State), (s.dieNs 4 % 250 = 0) ∧ (s.launches = []) ∧ (s.teams = [])) ∧
    (∃ (s : State), (s.dieNs 4 % 250 ≠ 0)) ∧
    (∃ (s : State) (s0 : State) (s1 : State) (l : Launch) (h : Nat) (cs : List Nat), (s.dieNs 4 % 250 = 0) ∧ (s.launches = [l]) ∧ (s.teams = [])
      ∧ (l.claim = []) ∧ (s0 = { s with qcfg := s.qnew }) ∧ (s0.met s.mem l = true) ∧ (l.need ≠ 0) ∧ (cs = s0.freeCores.filter (bit
      (s0.queue l.queue))) ∧ (l.need ≤ cs.length) ∧ (({ s0 with launches := [] } : State).cachedN (bits (s0.queue l.queue) 59 48)
      (s0.launchFunc l) (l.f 63 0) 4 = some (h, s1)) ∧ (headerOk h (l.f 489 488) (l.f 63 0) = true)) ∧
    (∃ (s : State) (c : Nat) (t : Nat) (tm : Team), (s.arg 0 = c) ∧ ((s.core c).run = .switchedOut) ∧ ((s.core c).team = some t) ∧ (s.team? t =
      some tm) ∧ (tm.st = .leaving) ∧ (tm.cores.all (fun d => decide ((s.core d).run = .switchedOut) && !s.moving t d) = true)) ∧
    (∃ (s : State) (c : Nat) (t : Nat) (tm : Team), (s.arg 0 = c) ∧ (c < s.cores.length) ∧ ((s.core c).run = .switchedOut) ∧ ((s.core c).team =
      some t) ∧ (s.team? t = some tm) ∧ (tm.st = .returning) ∧ (tm.cores = [c]) ∧ (s.moving t c = false) ∧ (tm.held = []) ∧ (s.regions =
      [])) ∧
    (∃ (s : State) (t : Nat) (tm : Team), (s.arg 0 = t) ∧ (s.team? t = some tm) ∧ (tm.st = .running) ∧ (tm.ending = none) ∧ (s.regions = []) ∧
      (s.teamBusy t = false) ∧ (s.flr = []) ∧ (tm.cores.all (fun c => decide ((s.core c).run = .exited) && (s.core c).pend.isEmpty &&
      (s.core c).trapq.isEmpty) = true)) ∧
    (∃ (s : State) (t : Nat) (st : Nat) (code : Nat) (tm : Team), (s.arg 0 = t) ∧ (s.team? t = some tm) ∧ (tm.st = .running) ∧ (tm.ending = some
      (st, code)) ∧ (s.regions = []) ∧ (s.riders = []) ∧ (s.waiting = []) ∧ (s.streams = []) ∧ (s.seqs = []) ∧ (s.xtiles = []) ∧ (s.xforms =
      []) ∧ (s.flr = []) ∧ (s.oars.all (fun o => (o.unacked ++ o.sendq).all (fun p => decide (p.team ≠ some t))) = true)) ∧
    (∃ (s : State) (t : Nat) (tm : Team), (s.arg 0 = t) ∧ (s.team? t = some tm) ∧ (tm.limit ≠ 0) ∧ (tm.st = .running) ∧ (tm.ending = none) ∧
      (1000 * tm.limit < tm.ran + (s.ns - tm.since)) ∧ (tm.func < 256) ∧ ((Tab.get [] s.fq tm.func).length < 64) ∧ (s.waitingRecs t tm =
      [])) ∧
    (∃ (s : State) (f : Nat) (cell : Nat) (tm : Team), (s.arg 0 = f) ∧ (s.arg 1 = cell) ∧ (s.responds = true) ∧ (f ≤ 64) ∧ (cell < 8192) ∧
      (s.teams = [tm]) ∧ (tm.func = f) ∧ (tm.csidx = cell) ∧ (tm.st ≠ .ended) ∧ (tm.ending = none)) :=
  ⟨⟨{ metA (2 ^ 480) with hostLinkUp := [false, false] }, 0, 0, 2 ^ 480, false, by decide +kernel⟩,
  ⟨metA (2 ^ 480), 0, 0, 2 ^ 480, ⟨0, 0, BitVec.ofNat 512 (2 ^ 480), []⟩, true, by decide +kernel⟩,
  ⟨metA 0, 0, 0, 0, ⟨0, 0, 0, []⟩, true, by decide +kernel⟩,
  ⟨{ metA (2 ^ 480) with launches := List.replicate 64 metY }, 0, 0, 2 ^ 480, ⟨0, 0, BitVec.ofNat 512 (2 ^ 480), []⟩, true, by decide +kernel⟩,
  ⟨{ metS metC with teams := [] }, by decide +kernel⟩,
  ⟨{ metS metC with now := 2 }, by decide +kernel⟩,
  ⟨metD, { metD with qcfg := metD.qnew }, metD1, metY, 2 ^ 184, [0], by decide +kernel⟩,
  ⟨{ metS { metC with run := .switchedOut } with teams := [{ metT with st := .leaving }] }, 0, 0, { metT with st := .leaving }, by decide +kernel⟩,
  ⟨{ metS { metC with run := .switchedOut } with teams := [{ metT with st := .returning }] }, 0, 0, { metT with st := .returning }, by decide +kernel⟩,
  ⟨metS { metC with run := .exited }, 0, metT, by decide +kernel⟩,
  ⟨{ metS metC with teams := [{ metT with ending := some (1, 2) }] }, 0, 1, 2, { metT with ending := some (1, 2) }, by decide +kernel⟩,
  ⟨{ metS metC with teams := [{ metT with limit := 1 }], now := 2002 }, 0, { metT with limit := 1 }, by decide +kernel⟩,
  ⟨metE [0, 0], 0, 0, metT, by decide +kernel⟩⟩

/-- The hypotheses of each clause of `Obligations.LoadEvents` are met together. -/
theorem met_LoadEvents :
    (∃ (s : State) (s1 : State) (n : Nat) (va : Nat) (r : Region) (c : Cmd) (t : Team) (l : _), (s.arg 0 = n) ∧ (s.region n = some r) ∧
      (r.fetching = some c) ∧ (r.phase = .fetch) ∧ ((s.riders ++ s.waiting).any (fun q => decide (q.owner = .fetch n)) = false) ∧ (s.team?
      c.team = some t) ∧ (s.listVa t c.fl = .inr (va, s1)) ∧ (s1.fetchState n r c t va = .ready l) ∧ (s1.heldTiles n r l.img = [])) ∧
    (∃ (s : State) (n : Nat) (r : Region) (c : Cmd) (t : Team) (v : _), (s.arg 0 = n) ∧ (s.region n = some r) ∧ (r.fetching = some c) ∧ (r.phase
      = .fetch) ∧ ((s.riders ++ s.waiting).any (fun q => decide (q.owner = .fetch n)) = false) ∧ (s.team? c.team = some t) ∧ (s.listVa t
      c.fl = .inl v)) ∧
    (∃ (s : State) (n : Nat) (r : Region) (l : Load), (s.arg 0 = n) ∧ (s.region n = some r) ∧ (r.phase = .armed) ∧ (r.shadow = some l) ∧
      (l.handler = none) ∧ ((s.team? l.team).any (fun tm => decide (tm.st ≠ .running)) = false) ∧ (r.active = none)) ∧
    (∃ (s : State) (n : Nat) (r : Region) (l : Load) (o : _), (s.arg 0 = n) ∧ (s.region n = some r) ∧ (r.phase = .armed) ∧ (r.shadow = some l) ∧
      (l.handler = none) ∧ ((s.team? l.team).any (fun tm => decide (tm.st ≠ .running)) = false) ∧ (r.active = some o) ∧ (o.discarded =
      false) ∧ (o.reported = false)) ∧
    (∃ (s : State) (n : Nat) (r : Region) (l : Load), (s.arg 0 = n) ∧ (s.region n = some r) ∧ (r.phase = .token) ∧ (r.shadow = some l)) ∧
    (∃ (s : State) (n : Nat) (r : Region) (l : Load), (s.arg 0 = n) ∧ (s.active n = some (r, l)) ∧ (r.phase = .fill) ∧ (r.cmds = []) ∧ (r.frel =
      false) ∧ (r.fetching = none) ∧ (l.handler = none) ∧ (l.carry = []) ∧ (s.eccBad = []) ∧ (l.isl.all (fun x => !x.startPend) = true)) ∧
    (∃ (s : State) (t : Nat) (c : Nat) (p : Nat) (time : Nat) (src : Nat) (due : Nat) (a : BitVec 16), (s.arg 0 = 0) ∧ (s.toks = [⟨.port t c p,
      time, src, c, due⟩]) ∧ (s.present (some t) c = true) ∧ (s.paused (coreIsl c) = false) ∧ (s.dieHeld (tokenDie src) (c / 8) time =
      false) ∧ (c < s.cores.length) ∧ (a = Tab.get 0 (s.core c).ports p)) ∧
    (∃ (s : State) (n : Nat) (i : Nat) (time : Nat) (src : Nat) (c : Nat) (due : Nat) (r : Region) (l : Load), (s.arg 0 = 0) ∧ (s.toks =
      [⟨.island n i, time, src, c, due⟩]) ∧ (s.active n = some (r, l)) ∧ (r.phase.clocked = true) ∧ (s.paused (r.clock l i) = false) ∧ (due
      ≤ s.cycle (r.clock l i)) ∧ (l.edgesOpen r i = true) ∧ ((l.isl.getD i Isl.idle).frozen = false) ∧ ((l.isl.getD i Isl.idle).fold = none)
      ∧ ((l.isl.getD i Isl.idle).started = false) ∧ (i < l.isl.length)) ∧
    (∃ (s : State) (n : Nat) (i : Nat) (r : Region) (l : Load) (x : Isl), (s.arg 0 = n) ∧ (s.arg 1 = i) ∧ (s.active n = some (r, l)) ∧ (x =
      l.isl.getD i Isl.idle) ∧ (x.started = true) ∧ (x.ended = false) ∧ (x.frozen = false) ∧ (l.total i ≤ x.s) ∧ (s.islandQuiet n r l i =
      true) ∧ (l.discarded = false) ∧ (x.fold = none)) ∧
    (∃ (s : State) (n : Nat) (i : Nat) (r : Region) (l : Load) (x : Isl), (s.arg 0 = n) ∧ (s.arg 1 = i) ∧ (s.active n = some (r, l)) ∧ (x =
      l.isl.getD i Isl.idle) ∧ (x.started = true) ∧ (x.ended = false) ∧ (x.frozen = false) ∧ (l.total i ≤ x.s) ∧ (s.islandQuiet n r l i =
      true) ∧ (x.fold ≠ none) ∧ (r.refold = none)) ∧
    (∃ (s : State) (s1 : State) (n : Nat) (i : Nat) (r : Region) (l : Load) (x : Isl), (s.arg 0 = n) ∧ (s.arg 1 = i) ∧ (s.active n = some (r,
      l)) ∧ (x = l.isl.getD i Isl.idle) ∧ (r.phase.clocked = true) ∧ (s.paused (r.clock l i) = false) ∧ (l.discarded = false) ∧ (x.frozen =
      false) ∧ (x.freezeIn = none) ∧ (x.started = true) ∧ (x.ended = false) ∧ (x.atFold = false) ∧ (x.s < l.total i) ∧ (l.spread.any (fun t
      => decide (t ≤ s.ns)) = false) ∧ (s1 = (s.modIsl n i (fun x => { x with freezeIn := x.freezeIn.map (· - 1) })).ageLinks r l i) ∧ (l.k
      ≤ x.cyc) ∧ (s1.stepReady r l i x.s = true) ∧ (s1.deadPort r l i x.s = none)) ∧
    (∃ (s : State) (s1 : State) (n : Nat) (i : Nat) (r : Region) (l : Load) (x : Isl), (s.arg 0 = n) ∧ (s.arg 1 = i) ∧ (s.active n = some (r,
      l)) ∧ (x = l.isl.getD i Isl.idle) ∧ (r.phase.clocked = true) ∧ (s.paused (r.clock l i) = false) ∧ (l.discarded = false) ∧ (x.frozen =
      false) ∧ (x.freezeIn = none) ∧ (x.started = true) ∧ (x.ended = false) ∧ (x.atFold = false) ∧ (x.s < l.total i) ∧ (l.spread.any (fun t
      => decide (t ≤ s.ns)) = false) ∧ (s1 = (s.modIsl n i (fun x => { x with freezeIn := x.freezeIn.map (· - 1) })).ageLinks r l i) ∧ (l.k
      ≤ x.cyc) ∧ (s1.stepReady r l i x.s = false) ∧ (s1.deadPort r l i x.s = none)) ∧
    (∃ (s : State) (n : Nat) (i : Nat) (r : Region) (l : Load), (s.arg 0 = n) ∧ (s.arg 1 = i) ∧ (s.active n = some (r, l)) ∧ ((l.isl.getD i
      Isl.idle).freezeIn = some 0) ∧ ((l.isl.getD i Isl.idle).frozen = false) ∧ (i < l.isl.length)) ∧
    (∃ (s : State) (n : Nat) (t : Nat) (r : Region) (l : Load), (s.arg 0 = n) ∧ (s.active n = some (r, l)) ∧ (l.spread = some t) ∧ (t ≤ s.ns)) ∧
    (∃ (s : State) (r : Region) (l : Load) (q : BitVec 512), (s.regions = [r]) ∧ (r.active = some l) ∧ (l.rcd = some q) ∧ (l.isFrozen = true) ∧
      (l.edged = false) ∧ (l.discarded = false) ∧ (hd l.img 79 79 = 1) ∧ (s.arg 0 = 0) ∧ (l.held = false)) :=
  ⟨⟨metSq, metSq, 0, 0x10000, metRq, metCmd, metTq, readyOf (metSq.fetchState 0 metRq metCmd metTq 0x10000), by and_intros <;> first | with_reducible rfl | exact ready_of (by decide +kernel) | decide +kernel⟩,
  ⟨metG metRq, 0, metRq, metCmd, metT, 0, by decide +kernel⟩,
  ⟨metG { metR with phase := .armed, active := none, shadow := some metL }, 0, { metR with phase := .armed, active := none, shadow := some metL }, metL, by decide +kernel⟩,
  ⟨metG { metR with phase := .armed, shadow := some metL }, 0, { metR with phase := .armed, shadow := some metL }, metL, metL, by decide +kernel⟩,
  ⟨metG { metR with phase := .token, shadow := some metL }, 0, { metR with phase := .token, shadow := some metL }, metL, by decide +kernel⟩,
  ⟨metG { metR with phase := .fill }, 0, { metR with phase := .fill }, metL, by decide +kernel⟩,
  ⟨{ metS metC with toks := [⟨.port 0 0 7, 0, 0, 0, 0⟩] }, 0, 0, 7, 0, 0, 0, 0, by decide +kernel⟩,
  ⟨{ metG metR with toks := [⟨.island 0 0, 0, 0, 0, 0⟩] }, 0, 0, 0, 0, 0, 0, metR, metL, by decide +kernel⟩,
  ⟨metG (metRi (metIs 1)), 0, 0, metRi (metIs 1), metLi (metIs 1), metIs 1, by decide +kernel⟩,
  ⟨metG (metRi { metIs 1 with fold := some 1 }), 0, 0, metRi { metIs 1 with fold := some 1 }, metLi { metIs 1 with fold := some 1 }, { metIs 1 with fold := some 1 }, by decide +kernel⟩,
  ⟨metG (metRi (metIs 0)), ((metG (metRi (metIs 0))).modIsl 0 0 (fun x => { x with freezeIn := x.freezeIn.map (· - 1) })).ageLinks (metRi (metIs 0)) (metLi (metIs 0)) 0, 0, 0, metRi (metIs 0), metLi (metIs 0), metIs 0, by decide +kernel⟩,
  ⟨metAw, (metAw.modIsl 0 0 (fun x => { x with freezeIn := x.freezeIn.map (· - 1) })).ageLinks metRw metLw 0, 0, 0, metRw, metLw, metIs 0, by decide +kernel⟩,
  ⟨metG (metRi { metIs 0 with freezeIn := some 0 }), 0, 0, metRi { metIs 0 with freezeIn := some 0 }, metLi { metIs 0 with freezeIn := some 0 }, by decide +kernel⟩,
  ⟨metG { metR with active := some { metL with spread := some 0 } }, 0, 0, { metR with active := some { metL with spread := some 0 } }, { metL with spread := some 0 }, by decide +kernel⟩,
  ⟨metG metRz, metRz, metLz, 0, by decide +kernel⟩⟩

/-- The hypotheses of each clause of `Obligations.MemoryEvents` are met together. -/
theorem met_MemoryEvents :
    (∃ (s : State) (p : Nat) (c : Nat), (s.riders = []) ∧ (Tab.get 0 s.pendMode (crsKey p c) = 0)) ∧
    (∃ (s : State) (st : Nat), (s.arg 0 = st) ∧ (s.riders = []) ∧ (s.pendMode = []) ∧ (s.eccTime = [])) ∧
    (∃ (s : State) (id : Nat) (r : Rider), (s.arg 0 = id) ∧ (s.rider? id = some r) ∧ (r.parts.all Part.done = true) ∧ (r.fail = none) ∧
      (r.stopped = false) ∧ (r.owner = .core) ∧ (s.deliveryHeld r = false) ∧ (r.void = true)) ∧
    (∃ (s : State) (id : Nat) (r : Rider), (s.arg 0 = id) ∧ (s.rider? id = some r) ∧ (r.parts.all Part.done = true) ∧ (r.fail = none) ∧
      (r.stopped = false) ∧ (r.owner = .core) ∧ (s.deliveryHeld r = false) ∧ (r.void = false) ∧ (r.kind = .upd) ∧ (r.flags = 0)) ∧
    (∃ (s : State) (id : Nat) (r : Rider), (s.arg 0 = id) ∧ (s.rider? id = some r) ∧ (r.parts.all Part.done = true) ∧ (r.fail = none) ∧
      (r.stopped = false) ∧ (r.owner = .core) ∧ (s.deliveryHeld r = false) ∧ (r.void = false) ∧ (r.kind = .rdstr) ∧ (r.f 255 252 = 0) ∧
      (r.flags = 0) ∧ (r.sent = 0) ∧ (s.arg 1 = 0) ∧ (r.words ≠ []) ∧ (r.words.length ≤ 2 ^ 32) ∧ (bit (r.f 127 64) 31 = false)) ∧
    (∃ (s : State) (id : Nat) (r : Rider) (key : Nat) (b : Nat), (s.arg 0 = id) ∧ (s.rider? id = some r) ∧ (r.parts.all Part.done = true) ∧
      (r.fail = none) ∧ (r.stopped = false) ∧ (r.owner = .core) ∧ (s.deliveryHeld r = false) ∧ (r.void = false) ∧ (r.kind = .rdstr) ∧ (r.f
      255 252 = 0) ∧ (r.flags = 0) ∧ (r.sent = 0) ∧ (s.arg 1 = 0) ∧ (bit (r.f 127 64) 31 = true) ∧ (key = keyOf (r.f 127 64)) ∧ ((s.node
      key).bufAt (bits (r.f 127 64) 12 0 + 4 * 0) = some b) ∧ (r.words ≠ []) ∧ (r.words.length = ((b + 1) * bufBytes (s.node key).depth -
      (bits (r.f 127 64) 12 0 + 4 * 0)) / 4) ∧ (r.words.length ≤ 2 ^ 32) ∧ (bit (s.node key).f b = false)) ∧
    (∃ (s : State) (id : Nat) (r : Rider) (key : Nat) (b : Nat), (s.arg 0 = id) ∧ (s.rider? id = some r) ∧ (r.parts.all Part.done = true) ∧
      (r.fail = none) ∧ (r.stopped = false) ∧ (r.owner = .core) ∧ (s.deliveryHeld r = false) ∧ (r.void = false) ∧ (r.kind = .rdstr) ∧ (r.f
      255 252 = 0) ∧ (r.flags = 0) ∧ (r.sent = 0) ∧ (s.arg 1 = 0) ∧ (bit (r.f 127 64) 31 = true) ∧ (key = keyOf (r.f 127 64)) ∧ ((s.node
      key).bufAt (bits (r.f 127 64) 12 0 + 4 * 0) = some b) ∧ (r.words ≠ []) ∧ (r.words.length = ((b + 1) * bufBytes (s.node key).depth -
      (bits (r.f 127 64) 12 0 + 4 * 0)) / 4) ∧ (r.words.length ≤ 2 ^ 32) ∧ (bit (s.node key).f b = true)) ∧
    (∃ (s : State) (id : Nat) (r : Rider) (q : _), (s.arg 0 = id) ∧ (s.rider? id = some r) ∧ (s.overNow r = true) ∧ (r.owner = .core) ∧
      (s.deliveryHeld r = false) ∧ (r.kind ≠ .land) ∧ (r.parts ≠ []) ∧ (r.flags = 0) ∧ ((r.kind = .rdstr → r.f 255 252 ≠ 4)) ∧ (r.fail =
      some q)) ∧
    (∃ (s : State) (id : Nat) (r : Rider), (s.arg 0 = id) ∧ (s.rider? id = some r) ∧ (s.overNow r = true) ∧ (r.owner = .core) ∧ (s.deliveryHeld
      r = false) ∧ (r.kind ≠ .land) ∧ (r.parts ≠ []) ∧ (r.flags = 0) ∧ ((r.kind = .rdstr → r.f 255 252 ≠ 4)) ∧ (r.fail = none)) ∧
    (∃ (s : State) (w : Walk) (e : Tlb) (l : List Tlb), (s.arg 0 = 0) ∧ (s.walks = [w]) ∧ (w.found = some e) ∧ (l = s.tlb.filter (fun x =>
      !decide (x.tile = w.tile ∧ x.asid = w.asid ∧ x.va = e.va))) ∧ (s.arg 1 = 0) ∧ ((l.filter (fun x => decide (x.tile = w.tile))).length <
      4096)) ∧
    (∃ (s : State) (w : Walk) (e : Tlb) (l : List Tlb), (s.arg 0 = 0) ∧ (s.walks = [w]) ∧ (w.found = some e) ∧ (l = s.tlb.filter (fun x =>
      !decide (x.tile = w.tile ∧ x.asid = w.asid ∧ x.va = e.va))) ∧ (s.arg 1 = 0) ∧ (4096 ≤ (l.filter (fun x => decide (x.tile =
      w.tile))).length)) ∧
    (∃ (s : State) (w : Walk) (e : Tlb) (l : List Tlb), (s.arg 0 = 0) ∧ (s.walks = [w]) ∧ (w.found = some e) ∧ (l = s.tlb.filter (fun x =>
      !decide (x.tile = w.tile ∧ x.asid = w.asid ∧ x.va = e.va))) ∧ (s.arg 1 ≠ 0)) ∧
    (∃ (s : State) (u : State) (c : Nat) (p : Nat) (m : Nat) (t : Strm) (tm : Team), (s.arg 0 = c) ∧ (s.arg 1 = p) ∧ (s.portStream c p = some t)
      ∧ (t.next < t.total) ∧ (t.team = some m) ∧ (s.team? m = some tm) ∧ (tm.st = .running) ∧ (tm.ending = none) ∧ (s.boundRegion t.team p =
      none) ∧ (s.admitCore (Rider.ask .stream (.stream c p) c tm.func tm.asid (some m) (mkRecord t.n p 0 (bits t.rcd.toNat 199 192) 0) (t.va
      t.next) 0) = (1, u))) ∧
    (∃ (s : State) (n : Nat) (c : Contrib), (s.arg 0 = n) ∧ (s.contribs[n]? = some c) ∧ (c.arrived = 0) ∧ (c.unit = none) ∧ (s.window c.stack
      c.win = none) ∧ (c.half = 0) ∧ (s.dieHeld 4 (c.stack / 3) c.time = false) ∧ (s.landBytes c.stack + 4 ≤ 262144)) ∧
    (∃ (s : State) (id : Nat) (r : Rider) (p : Part) (t : List Part), (s.arg 0 = id) ∧ (s.rider? id = some r) ∧ (r.parts = p :: t) ∧ (r.kind =
      .land) ∧ (r.fail = none) ∧ (p.boarded = false) ∧ (s.landReady r p = false) ∧ (r.time + 1000 * (s.lnd (p.pc / 64) / 65536) ≤ s.pcNs
      p.pc)) ∧
    (∃ (s : State) (st : Nat) (c : Contrib), (s.arg 0 = st) ∧ (s.contribs = [c]) ∧ (c.stack = st) ∧ (c.arrived ≠ 0) ∧ (c.arrived - 1 + 1000 *
      (s.lnd st % 65536) ≤ s.ns) ∧ (s.window c.stack c.win = none) ∧ (c.unit = none)) ∧
    (∃ (s : State) (u : State) (q : Rider) (d : Nat) (n : Nat), (s.arg 0 = 0) ∧ (s.waiting = [q]) ∧ (q.owner = .drain d n) ∧ (s.tryAdmit q q.die
      (s.admitTile q) = (1, u))) ∧
    (∃ (s : State) (id : Nat) (r : Rider), (s.arg 0 = id) ∧ (s.rider? id = some r) ∧ (r.host = true) ∧ (r.kind = .exp) ∧ (r.sent ≠ 0)) ∧
    (∃ (s : State) (id : Nat) (r : Rider), (s.arg 0 = id) ∧ (s.rider? id = some r) ∧ (r.host = true) ∧ (r.kind = .imp) ∧ (r.n = 1) ∧ (r.seen =
      []) ∧ (r.sent = 0) ∧ (s.arg 1 = 0) ∧ (s.arg 2 = 4)) ∧
    (∃ (s : State) (id : Nat) (r : Rider), (s.arg 0 = id) ∧ (s.rider? id = some r) ∧ (r.host = true) ∧ ((r.kind = .imp ∨ r.kind = .exp)) ∧
      (r.fail = none)) :=
  ⟨⟨metS metC, 0, 0, by decide +kernel⟩,
  ⟨metS metC, 0, by decide +kernel⟩,
  ⟨metO { metQ with void := true }, 5, { metQ with void := true }, by decide +kernel⟩,
  ⟨metO metQ, 5, metQ, by decide +kernel⟩,
  ⟨metO (metQd 0), 5, metQd 0, by decide +kernel⟩,
  ⟨metOn 0, 5, metQd 0x81001FFC, 2048, 0, by decide +kernel⟩,
  ⟨metOn 1, 5, metQd 0x81001FFC, 2048, 0, by decide +kernel⟩,
  ⟨metO { metQ with fail := some 9, parts := [metPt] }, 5, { metQ with fail := some 9, parts := [metPt] }, 9, by decide +kernel⟩,
  ⟨metO { metQ with stopped := true, parts := [metPt] }, 5, { metQ with stopped := true, parts := [metPt] }, by decide +kernel⟩,
  ⟨metWk 0 0, ⟨1, 0, 0, 0, 0, some metTl⟩, metTl, [], by decide +kernel⟩,
  ⟨metWk 4096 0, ⟨1, 0, 0, 0, 0, some metTl⟩, metTl, List.replicate 4096 { metTl with va := 16384 }, rfl, rfl, rfl, (List.filter_eq_self.mpr (fun x h => by rw [List.eq_of_mem_replicate h]; decide)).symm, rfl, Nat.le_of_eq (by rw [List.filter_eq_self.mpr (fun x h => by rw [List.eq_of_mem_replicate h]; decide), List.length_replicate])⟩,
  ⟨metWk 0 1, ⟨1, 0, 0, 0, 0, some metTl⟩, metTl, [], by decide +kernel⟩,
  ⟨metSm, (metSm.admitCore (Rider.ask .stream (.stream 0 7) 0 0 0 (some 0) (mkRecord metSt.n 7 0 0 0) (metSt.va 0) 0)).2, 0, 7, 0, metSt, metT, by decide +kernel⟩,
  ⟨{ metE [0] with contribs := [metCo 0] }, 0, metCo 0, by decide +kernel⟩,
  ⟨{ metO metLd with now := 30000000 }, 5, metLd, { metPt with done := false, runs := [⟨0, 1, 0, none⟩] }, [], by decide +kernel⟩,
  ⟨{ metE [0] with contribs := [metCo 1], now := 100000000 }, 0, metCo 1, by decide +kernel⟩,
  ⟨{ metE [0] with waiting := [{ metQ with owner := .drain 0 1 }] }, (State.tryAdmit { metE [0] with waiting := [{ metQ with owner := .drain 0 1 }] } { metQ with owner := .drain 0 1 } 0 0).2, { metQ with owner := .drain 0 1 }, 0, 1, by decide +kernel⟩,
  ⟨metO { metQ with kind := .exp, host := true, sent := 1 }, 5, { metQ with kind := .exp, host := true, sent := 1 }, by decide +kernel⟩,
  ⟨{ metO { metQ with kind := .imp, host := true, rcd := BitVec.ofNat 256 (2 ^ 32) } with ev := [5, 0, 4] }, 5, { metQ with kind := .imp, host := true, rcd := BitVec.ofNat 256 (2 ^ 32) }, by decide +kernel⟩,
  ⟨metO { metQ with kind := .imp, host := true }, 5, { metQ with kind := .imp, host := true }, by decide, by decide, by decide, Or.inl (by decide), by decide⟩⟩

/-- The hypotheses of each clause of `Obligations.UnitEvents` are met together. -/
theorem met_UnitEvents :
    (∃ (s : State) (key : Nat) (q : NodeReq), (s.arg 0 = key) ∧ ((s.node key).queue = [q]) ∧ (Nat.max q.due (s.node key).next ≤ s.cycle (coreIsl
      (keyCore key))) ∧ (s.paused (coreIsl (keyCore key)) = false) ∧ (q.load = none) ∧ (q.src ≠ 32) ∧ (s.eccBad = [])) ∧
    (∃ (s : State) (s1 : State) (key : Nat) (n : Nat) (r : Region) (l : Load) (v : Beat), (s.arg 0 = key) ∧ ((s.node key).owner = some n) ∧
      (s.active n = some (r, l)) ∧ ((s.node key).mode = 0) ∧ ((s.node key).ahead.length < 8) ∧ (s.paused (coreIsl (keyCore key)) = false) ∧
      (bit (s.node key).f (s.node key).rbuf = true) ∧ ((l.isl.getD ((r.isl l (nodeEl key)).getD 0) Isl.idle).started = true) ∧ ((l.isl.getD
      ((r.isl l (nodeEl key)).getD 0) Isl.idle).frozen = false) ∧ (l.discarded = false) ∧ (s.viewRead r l (nodeEl key) = .inr (v, s1))) ∧
    (∃ (s : State) (s1 : State) (x : Nat) (e : XEnt) (r : List XEnt), (s.arg 0 = x) ∧ (s.tilePaused x = false) ∧ (s1 = s.tileSettle x) ∧
      (e.begun = false) ∧ ((s.xtile x).queue = e :: r) ∧ (e.accepted = false) ∧ (e.kind ≠ .pair) ∧ (e.acc ≤ (s.core e.core).step)) ∧
    (∃ (s : State) (s1 : State) (x : Nat) (e : XEnt) (r : List XEnt), (s.arg 0 = x) ∧ (s.tilePaused x = false) ∧ (s1 = s.tileSettle x) ∧
      (e.begun = false) ∧ ((s1.xtile x).queue = e :: r) ∧ (e.accepted = true) ∧ ((s1.xtile x).live = true) ∧ (e.kind = .step)) ∧
    (∃ (s : State) (s1 : State) (x : Nat) (e : XEnt) (r : List XEnt) (a : List KRow × XTile) (b : List KRow × XTile), (s.arg 0 = x) ∧ (s1 =
      s.tileSettle x) ∧ ((s1.xtile x).queue = e :: r) ∧ ((s1.xtile x).live = true) ∧ (s.tilePaused x = false) ∧ (e.begun = true) ∧ (e.kind =
      .step) ∧ ((s1.xtile x).busy = false) ∧ ((s1.xtile x).k < e.steps) ∧ ((s1.xtile x).due ≤ s.tileCycle x) ∧ (s1.operandA x (s1.xtile x) e
      = some (.inr a)) ∧ (s1.operandB x a.2 e = some (.inr b)) ∧ (s1.accBad x (if (s1.xtile x).fromZero x e then [] else e.offsets) =
      false)) ∧
    (∃ (t : XTile) (e : XEnt) (r : List XEnt) (now : Nat), (t.queue = e :: r) ∧ (t.busy = true) ∧ (t.due ≤ now)) ∧
    (∃ (s : State) (s1 : State) (x : Nat) (l : XLand) (r : List XLand), (s.arg 0 = x) ∧ (s1 = s.tileSettle x) ∧ (s.tilePaused x = false) ∧
      ((s1.xtile x).lands = l :: r) ∧ (l.due ≤ s.tileCycle x) ∧ (l.pair = none) ∧ ((s1.xtile x).stops = [])) ∧
    (∃ (s : State) (x : Nat) (t : XTile) (e : XEnt) (r : List XEnt) (q : Pair), (s.arg 0 = x) ∧ (t = s.tileNow x) ∧ (t.queue = e :: r) ∧ (e.kind
      = .pair) ∧ (e.begun = true) ∧ (t.live = true) ∧ (s.tilePaused x = false) ∧ (t.k = e.steps) ∧ (t.lands = []) ∧ (pairUpper x = false) ∧
      (t.pairs.find? (fun q => decide (q.partner = pairPartner x e.xa ∧ q.tag = e.imm) && q.lower && q.upper.isSome && !s.dieHeld
      (pairPartner x e.xa / 256) (x / 256) q.sent) = some q) ∧ (s.accBad x e.offsets = false)) ∧
    (∃ (s : State) (s1 : State) (x : Nat) (p : Nat) (l : List Nat), (s.arg 0 = x) ∧ ((s.xtile x).tell = p :: l) ∧ (s.tilePaused p = false) ∧ (s1
      = s.modTile x (fun t => { t with tell := l })) ∧ ((s1.xtile p).stopped = false)) ∧
    (∃ (s : State) (x : Nat) (q : Pair), (s.arg 0 = x) ∧ ((s.xtile x).pairs = [q]) ∧ (q.lower = true) ∧ (q.upper = none) ∧ (q.late = false) ∧
      (s.tilePaused x = false) ∧ (s.tilePaused q.partner = false) ∧ (1000 * bits s.frzctl.toNat 31 16 ≤ s.pairTime q)) ∧
    (∃ (s : State) (x : Nat) (e : XEnt) (r : List XEnt), (s.arg 0 = x) ∧ ((s.xtile x).queue = e :: r) ∧ (e.kind = .drain) ∧ (e.begun = true) ∧
      ((s.xtile x).stops = []) ∧ (s.tilePaused x = false) ∧ ((s.xtile x).drains.all (fun d => !d.copying || decide (d.due ≤ s.tileCycle x))
      = true)) ∧
    (∃ (s : State) (x : Nat) (d : Drain), (s.arg 0 = x) ∧ ((s.xtile x).drains = [d]) ∧ (d.copying = false) ∧ (d.written = false) ∧ (s.tilePaused
      x = false) ∧ (d.ent.f 23 22 = 0) ∧ (d.rows = [])) ∧
    (∃ (s : State) (x : Nat) (d : Drain), (s.arg 0 = x) ∧ ((s.xtile x).drains = [d]) ∧ (d.copying = false) ∧ (d.written = false) ∧ (s.tilePaused
      x = false) ∧ (d.ent.f 23 22 = 2)) ∧
    (∃ (s : State) (x : Nat) (d : Drain) (c : Contrib) (cs : List Contrib), (s.arg 0 = x) ∧ ((s.xtile x).drains = [d]) ∧ (d.copying = false) ∧
      (d.written = false) ∧ (s.tilePaused x = false) ∧ (d.ent.f 23 22 = 1) ∧ (s.drainContribs x d = (some ((c :: cs).map some), []))) ∧
    (∃ (s : State) (y : Nat) (x : Xform) (r : List Xform), (s.arg 0 = y) ∧ (Tab.get [] s.xforms y = x :: r) ∧ (s.xformHolds y x = false) ∧
      (s.paused (coreIsl (y / 24)) = false) ∧ (x.begun = false)) ∧
    (∃ (s : State) (y : Nat) (x : Xform) (r : List Xform), (s.arg 0 = y) ∧ (Tab.get [] s.xforms y = x :: r) ∧ (s.xformHolds y x = false) ∧
      (s.paused (coreIsl (y / 24)) = false) ∧ (x.begun = true) ∧ (x.due ≤ s.cycle (coreIsl (y / 24))) ∧ (x.bad = none) ∧ (x.load = none) ∧
      (x.fl = 0)) ∧
    (∃ (s : State) (s1 : State) (n : Nat) (t : Turn), (s.arg 0 = n) ∧ (s.seqs = [t]) ∧ (t.stream = n) ∧ (s.mayBegin t = true) ∧ (t.kind = 6) ∧
      (t.busy = false) ∧ (t.held = none) ∧ (t.got = []) ∧ (s1 = s.modTurn t.id (fun x => { x with begun := true })) ∧ (s1.turnBad
      { t with begun := true } = none)) ∧
    (∃ (s : State) (n : Nat) (t : Turn), (s.arg 0 = n) ∧ (s.seqs = [t]) ∧ (t.stream = n) ∧ (t.held = some 0x10) ∧ (t.busy = true)) :=
  ⟨⟨{ metE [2048] with nodes := [(2048, { Node.free with mode := 2, queue := [metNq] })], now := 10 }, 2048, metNq, by decide +kernel⟩,
  ⟨metVr, (match metVr.viewRead metRvr (metLi (metIs 0)) (nodeEl 2048) with | .inr x => x.2 | .inl _ => metVr), 2048, 0, metRvr, metLi (metIs 0), (match metVr.viewRead metRvr (metLi (metIs 0)) (nodeEl 2048) with | .inr x => x.1 | .inl _ => Beat.zero), by and_intros <;> first | with_reducible rfl | decide +kernel⟩,
  ⟨metXt { XTile.empty with queue := [{ metEnt .step 0 with begun := false, accepted := false }] }, (metXt { XTile.empty with queue := [{ metEnt .step 0 with begun := false, accepted := false }] } : State).tileSettle 0, 0, { metEnt .step 0 with begun := false, accepted := false }, [], by decide +kernel⟩,
  ⟨metXt { XTile.empty with queue := [{ metEnt .step 0 with begun := false }] }, (metXt { XTile.empty with queue := [{ metEnt .step 0 with begun := false }] } : State).tileSettle 0, 0, { metEnt .step 0 with begun := false }, [], by decide +kernel⟩,
  ⟨metXk, metXs, 0, metEnt .step (3 * 2 ^ 9), [], ([⟨0, (List.range 1).map (fun p => ([].getD p (0 : Word)).toNat)⟩], (metXs.xtile 0)), metKb, by and_intros <;> first | with_reducible rfl | decide +kernel⟩,
  ⟨{ XTile.empty with queue := [metEnt .step 0], busy := true }, metEnt .step 0, [], 0, by decide +kernel⟩,
  ⟨metXt { XTile.empty with lands := [metXla] }, (metXt { XTile.empty with lands := [metXla] }).tileSettle 0, 0, metXla, [], by decide +kernel⟩,
  ⟨metXt { XTile.empty with queue := [{ metEnt .pair 0 with xa := 0 }], k := 1, pairs := [metPr (some [])] }, 0, (metXt { XTile.empty with queue := [{ metEnt .pair 0 with xa := 0 }], k := 1, pairs := [metPr (some [])] }).tileNow 0, metEnt .pair 0, [], metPr (some []), by decide +kernel⟩,
  ⟨{ metS metC with xtiles := [(0, { XTile.empty with stopped := true, tell := [256] }), (256, { XTile.empty with queue := [metEnt .pair 0] })] }, { metS metC with xtiles := [(0, { XTile.empty with stopped := true }), (256, { XTile.empty with queue := [metEnt .pair 0] })] }, 0, 256, [], by decide +kernel⟩,
  ⟨metXt { XTile.empty with pairs := [metPr none] }, 0, metPr none, by decide +kernel⟩,
  ⟨metXt { XTile.empty with queue := [metEnt .drain 0] }, 0, metEnt .drain 0, [], by decide +kernel⟩,
  ⟨metXt { XTile.empty with drains := [metDr 0] }, 0, metDr 0, by decide +kernel⟩,
  ⟨metXt { XTile.empty with drains := [metDr (2 ^ 23)] }, 0, metDr (2 ^ 23), by decide +kernel⟩,
  ⟨metXt { XTile.empty with drains := [metDr metDn] }, 0, metDr metDn, { metCo 0 with src := 32, word := (metDr metDn).rows.head?.elim 0 (fun x => BitVec.ofNat 32 (x.2.2.getD 0 0)), unit := some (0, 1) }, [], by decide +kernel⟩,
  ⟨{ metE [0] with xforms := [(0, [metXf false])] }, 0, metXf false, [], by decide +kernel⟩,
  ⟨{ metE [0] with xforms := [(0, [metXf true])] }, 0, metXf true, [], by decide +kernel⟩,
  ⟨metTs metTn, (metTs metTn).modTurn 1 (fun x => { x with begun := true }), 0, metTn, by decide +kernel⟩,
  ⟨metTs { metTn with held := some 0x10, busy := true }, 0, { metTn with held := some 0x10, busy := true }, by decide +kernel⟩⟩

/-- The hypotheses of each clause of `Obligations.RegisterEvents` are met together. -/
theorem met_RegisterEvents :
    (∃ (s : State) (f : Nat) (v : Nat), (s.arg 0 = f) ∧ (s.arg 1 = v) ∧ (f ≤ 64) ∧ (s.responds = true) ∧ ((v < 32 ∧ (f = 0 ∨ v &&& 0x12 = 0)))) ∧
    (∃ (s : State) (p : Nat) (c : Nat) (v : Nat) (up : Bool) (u : _), (s.arg 0 = 0) ∧ (s.arg 1 = 0x80000 + 0x100 * p + 16 * c + (if up then 8
      else 0)) ∧ (s.arg 2 = v) ∧ (v < 2 ^ 64) ∧ (p < 768) ∧ (c < 8) ∧ (s.responds = true) ∧ (s.descPiece p c up v = some u)) ∧
    (∃ (s : State) (p : Nat) (c : Nat) (v : Nat) (up : Bool), (s.arg 0 = 0) ∧ (s.arg 1 = 0x80000 + 0x100 * p + 16 * c + (if up then 8 else 0)) ∧
      (s.arg 2 = v) ∧ (v < 2 ^ 64) ∧ (p < 768) ∧ (c < 8) ∧ (s.responds = true) ∧ (s.descPiece p c up v = none)) ∧
    (∃ (s : State) (p : Nat) (w : Nat) (v : Nat), (s.arg 0 = 0) ∧ (s.arg 1 = 0x80080 + 0x100 * p + 8 * w) ∧ (s.arg 2 = v) ∧ (v < 2 ^ 64) ∧ (p <
      768) ∧ (w < 4) ∧ (s.responds = true) ∧ ((∀ i < 16, v / 16 ^ i % 16 ≤ 8))) ∧
    (∃ (s : State) (p : Nat) (w : Nat) (v : Nat), (s.arg 0 = 0) ∧ (s.arg 1 = 0x80080 + 0x100 * p + 8 * w) ∧ (s.arg 2 = v) ∧ (v < 2 ^ 64) ∧ (p <
      768) ∧ (w < 4) ∧ (s.responds = true) ∧ ((∃ i < 16, 8 < v / 16 ^ i % 16))) ∧
    (∃ (s : State) (u : State) (n : Nat) (v : Nat) (up : Bool), (s.arg 0 = 0) ∧ (s.arg 1 = 0x6000 + 16 * n + (if up then 8 else 0)) ∧ (s.arg 2 =
      v) ∧ (v < 2 ^ 64) ∧ (n < 18) ∧ (s.responds = true) ∧ (s.oarPiece (s.arg 1) v = some u)) ∧
    (∃ (s : State) (n : Nat) (v : Nat) (up : Bool), (s.arg 0 = 0) ∧ (s.arg 1 = 0x6000 + 16 * n + (if up then 8 else 0)) ∧ (s.arg 2 = v) ∧ (v < 2
      ^ 64) ∧ (n < 18) ∧ (s.responds = true) ∧ (s.oarPiece (s.arg 1) v = none)) ∧
    (∃ (s : State) (v : Nat), (s.arg 0 = v) ∧ (s.responds = true) ∧ (v < 2 ^ 49)) ∧
    (∃ (s : State) (v : Nat), (s.arg 0 = v) ∧ (s.responds = true) ∧ (s.arg 1 = 0) ∧ (v < 2 ^ 64) ∧ (v % 2 ^ 52 ≤ 1)) ∧
    (∃ (s : State) (v : Nat) (lo : _), (s.arg 0 = v) ∧ (s.responds = true) ∧ (s.arg 1 = 1 + lo) ∧ (s.trinvDone = true)) ∧
    (∃ (s : State), (s.trinvDone = false) ∧ (s.riders = []) ∧ (s.trinvHeld = [])) ∧
    (∃ (s : State) (h : _) (t : _), (s.trinvDone = false) ∧ (s.riders = []) ∧ (s.trinvHeld = h :: t)) ∧
    (∃ (s : State) (st : Nat) (p : Nat) (t : List Nat), (s.arg 0 = st) ∧ (s.responds = true) ∧ (Tab.get [] s.reports st = p :: t) ∧ (p < 2 ^
      24)) ∧
    (∃ (s : State), (s.responds = false)) ∧
    (∃ (s : State) (f : Nat) (v : Nat), (s.arg 1 = f) ∧ (s.arg 4 = v) ∧ (s.responds = true) ∧ (s.arg 0 = 4) ∧ (s.arg 2 = 0x28) ∧ (s.arg 3 = 8) ∧
      (f ≤ 64) ∧ (v < 2 ^ 32)) ∧
    (∃ (s : State) (f : Nat) (v : Nat), (s.arg 1 = f) ∧ (s.arg 4 = v) ∧ (s.responds = true) ∧ (s.arg 0 = 0) ∧ (s.arg 2 = 0x20000) ∧ (s.arg 3 =
      8) ∧ (f = 0) ∧ (v < 2 ^ 64)) ∧
    (∃ (s : State) (f : Nat) (v : Nat), (s.arg 1 = f) ∧ (s.arg 4 = v) ∧ (s.responds = true) ∧ (s.arg 0 = 0) ∧ (s.arg 2 = 0x20000) ∧ (s.arg 3 =
      8) ∧ (f ≠ 0)) :=
  ⟨⟨metE [64, 13], 64, 13, by decide +kernel⟩,
  ⟨metE [0, 720752, 0], 767, 7, 0, false, ((metE [0, 720752, 0]).descPiece 767 7 false 0).getD (metS metC), by decide +kernel⟩,
  ⟨metE [0, 720760, 16777216], 767, 7, 16777216, true, by decide +kernel⟩,
  ⟨metE [0, 720792, 0x8888888888888888], 767, 3, 0x8888888888888888, by decide +kernel⟩,
  ⟨metE [0, 720792, 0x9000000000000000], 767, 3, 0x9000000000000000, by decide +kernel⟩,
  ⟨metE [0, 24848, 0], ((metE [0, 24848, 0]).oarPiece 24848 0).getD (metS metC), 17, 0, false, by decide +kernel⟩,
  ⟨metE [0, 24848, 2], 17, 2, false, by decide +kernel⟩,
  ⟨metE [0x1FFFFFFFFFFFF], 0x1FFFFFFFFFFFF, by decide +kernel⟩,
  ⟨metE [0xFFF0000000000001], 0xFFF0000000000001, by decide +kernel⟩,
  ⟨metE [0xFFF0000000000001, 5], 0xFFF0000000000001, 4, by decide +kernel⟩,
  ⟨{ metS metC with trinvDone := false }, by decide +kernel⟩,
  ⟨{ metS metC with trinvDone := false, trinvHeld := [(1, 2), (3, 4)] }, (1, 2), [(3, 4)], by decide +kernel⟩,
  ⟨{ metE [3] with reports := [(3, [0xFFFFFF])] }, 3, 0xFFFFFF, [], by decide +kernel⟩,
  ⟨{ metS metC with boot := .halted }, by decide +kernel⟩,
  ⟨metE [4, 64, 0x28, 8, 0xFFFFFFFF], 64, 0xFFFFFFFF, by decide +kernel⟩,
  ⟨metE [0, 0, 0x20000, 8, 5], 0, 5, by decide +kernel⟩,
  ⟨metE [0, 1, 0x20000, 8, 5], 1, 5, by decide +kernel⟩⟩

/-- The hypotheses of each clause of `Obligations.LinkEvents` are met together. -/
theorem met_LinkEvents :
    (∃ (s : State) (l : Nat), (s.arg 0 = l) ∧ (l < 2) ∧ (l < s.hostLinkUp.length) ∧ (s.hostLinkUp.getD l true = true)) ∧
    (∃ (s : State) (l : Nat), (s.arg 0 = l) ∧ (l < 2) ∧ (l < s.hostLinkUp.length) ∧ (s.hostLinkUp.getD l true = false)) ∧
    (∃ (s : State) (n : Nat) (o : Oar) (p : OarPkt), (s.arg 0 = n) ∧ (n < s.oars.length) ∧ (s.oar n = o) ∧ (o.sendq = [p]) ∧ (o.lup = true) ∧
      (s.oarEn n = true) ∧ (o.unacked.length < 1024) ∧ (s.rider? p.rider = none) ∧ (o.nextSeq < 2 ^ 16)) ∧
    (∃ (s : State) (n : Nat) (o : Oar) (p : OarPkt) (t : List OarPkt), (s.arg 0 = n) ∧ (s.ev = [n]) ∧ (s.oar n = o) ∧ (o.recv = p :: t) ∧
      (s.waiting = []) ∧ (bits p.hdr.toNat 175 172 ≠ 1) ∧ ((bits p.hdr.toNat 175 172 = 2 → p.stale = true))) ∧
    (∃ (s : State) (n : Nat) (o : Oar) (p : OarPkt) (t : List OarPkt), (s.arg 0 = n) ∧ (s.ev = [n]) ∧ (s.oar n = o) ∧ (o.recv = p :: t) ∧
      (s.waiting = []) ∧ (bits p.hdr.toNat 175 172 = 2) ∧ (p.stale = false)) ∧
    (∃ (s : State) (n : Nat) (o : Oar) (p : OarPkt) (t : List OarPkt), (s.arg 0 = n) ∧ (s.ev = [n]) ∧ (s.oar n = o) ∧ (o.recv = p :: t) ∧
      (s.waiting = []) ∧ (bits p.hdr.toNat 175 172 = 1) ∧ (n < s.oars.length) ∧ ((s.xlate 48 (bits (s.reg (0x6000 + 16 * n + 8)) 47 36) true
      (bits p.hdr.toNat 48 0) (bits p.hdr.toNat 171 166 + 1) 0 1025).miss = [])) ∧
    (∃ (s : State) (n : Nat) (h : Nat) (ws : List Nat), (s.ev = n :: h :: ws) ∧ (s.waiting.any (fun q => decide (q.owner = .oar n)) = true) ∧
      (s.carries n = false)) ∧
    (∃ (s : State) (n : Nat) (h : Nat) (ws : List Nat), (s.ev = n :: h :: ws) ∧ (s.waiting.any (fun q => decide (q.owner = .oar n)) = true) ∧
      (s.carries n = true)) ∧
    (∃ (s : State) (n : Nat) (q : Nat), (s.arg 0 = n) ∧ (s.arg 1 = q) ∧ (s.carries n = false)) ∧
    (∃ (s : State) (n : Nat) (q : Nat), (s.arg 0 = n) ∧ (s.arg 1 = q) ∧ (n < s.oars.length) ∧ (s.carries n = true) ∧ ((s.oar n).sendq = [])) ∧
    (∃ (s : State) (n : Nat) (p : Nat) (o : Oar), (s.arg 0 = n) ∧ (s.arg 1 = p) ∧ (n < s.oars.length) ∧ (s.oar n = o) ∧ (o.lup = true)) ∧
    (∃ (s : State) (n : Nat) (p : Nat) (o : Oar), (s.arg 0 = n) ∧ (s.arg 1 = p) ∧ (n < s.oars.length) ∧ (s.oar n = o) ∧ (o.retrain = true) ∧
      (s.ns ≤ o.since + 2000000)) ∧
    (∃ (s : State) (n : Nat) (p : Nat) (o : Oar), (s.arg 0 = n) ∧ (s.arg 1 = p) ∧ (n < s.oars.length) ∧ (s.oar n = o) ∧ (o.retrain = true) ∧
      (o.up = true) ∧ (o.since + 2000000 ≤ s.ns)) ∧
    (∃ (s : State) (l : Nat), (s.arg 0 = l) ∧ (l < s.dieRetrain.length) ∧ (s.dieLinkUp.getD l false = true) ∧ (s.dieRetrain.getD l false =
      false)) ∧
    (∃ (s : State) (l : Nat), (s.arg 0 = l) ∧ (l < s.dieRetrain.length) ∧ (s.dieRetrain.getD l false = true) ∧ (s.ns ≤ Tab.get 0 s.dieSince l +
      2000000)) ∧
    (∃ (s : State) (l : Nat), (s.arg 0 = l) ∧ (l < s.dieRetrain.length) ∧ (s.dieRetrain.getD l false = true) ∧ (Tab.get 0 s.dieSince l + 2000000
      ≤ s.ns)) ∧
    (∃ (s : State) (u : State) (l : Nat) (q : Nat) (n : Nat), (s.arg 0 = l) ∧ (s.arg 1 = q) ∧ (l < 18) ∧ (n = (if (s.oar l).flit = q then (s.oar
      l).retries + 1 else 1)) ∧ (u = s.modOar l (fun o => { o with retries := n, flit := q }))) ∧
    (∃ (s : State) (u : State) (l : Nat) (q : Nat) (n : Nat), (s.arg 0 = 40 + l) ∧ (s.arg 1 = q) ∧ (l < 10) ∧ (n = (if Tab.get 0 s.dieFlit l = q
      then Tab.get 0 s.dieRetries l + 1 else 1)) ∧ (u =
      { s with dieRetries := Tab.set 0 s.dieRetries l n, dieFlit := Tab.set 0 s.dieFlit l q })) :=
  ⟨⟨metE [1], 1, by decide +kernel⟩,
  ⟨{ metE [1] with hostLinkUp := [true, false] }, 1, by decide +kernel⟩,
  ⟨metOar [0] { metOup with sendq := [metP] }, 0, { metOup with sendq := [metP] }, metP, by decide +kernel⟩,
  ⟨metOar [0] { metOup with recv := [metP] }, 0, { metOup with recv := [metP] }, metP, [], by decide +kernel⟩,
  ⟨metOar [0] { metOup with recv := [{ metPd with hdr := BitVec.ofNat 256 (2 ^ 173) }] }, 0, { metOup with recv := [{ metPd with hdr := BitVec.ofNat 256 (2 ^ 173) }] }, { metPd with hdr := BitVec.ofNat 256 (2 ^ 173) }, [], by decide +kernel⟩,
  ⟨{ metOar [0] { metOup with recv := [metPd] } with tlb := [{ metTl with tile := 48 }] }, 0, { metOup with recv := [metPd] }, metPd, [], by decide +kernel⟩,
  ⟨{ metOar [0, 5, 6] metOup with bar0 := [], waiting := [{ metQ with owner := .oar 0 }] }, 0, 5, [6], by decide +kernel⟩,
  ⟨{ metOar [0, 5, 6] metOup with waiting := [{ metQ with owner := .oar 0 }] }, 0, 5, [6], by decide +kernel⟩,
  ⟨metE [17, 3], 17, 3, by decide +kernel⟩,
  ⟨metOar [0, 0] metOup, 0, 0, by decide +kernel⟩,
  ⟨metOar [0, 1] metOup, 0, 1, metOup, by decide +kernel⟩,
  ⟨metOar [0, 1] { Oar.down with retrain := true }, 0, 1, { Oar.down with retrain := true }, by decide +kernel⟩,
  ⟨{ metOar [0, 1] { metOup with retrain := true } with now := 4000000 }, 0, 1, { metOup with retrain := true }, by decide +kernel⟩,
  ⟨metE [9], 9, by decide +kernel⟩,
  ⟨{ metE [9] with dieRetrain := List.replicate 10 true }, 9, by decide +kernel⟩,
  ⟨{ metE [9] with dieRetrain := List.replicate 10 true, now := 4000000, teams := [] }, 9, by decide +kernel⟩,
  ⟨metE [17, 3], (metE [17, 3]).modOar 17 (fun o => { o with retries := 1, flit := 3 }), 17, 3, 1, by decide +kernel⟩,
  ⟨metE [49, 3], { metE [49, 3] with dieRetries := Tab.set 0 (metE []).dieRetries 9 1, dieFlit := Tab.set 0 (metE []).dieFlit 9 3 }, 9, 3, 1, by decide +kernel⟩⟩

/-- The hypotheses of each clause of `Obligations.PlatformEvents` are met together. -/
theorem met_PlatformEvents :
    (∃ (s : State), (s.boot = .reset)) ∧
    (∃ (s : State) (ok : Nat) (svn : Nat) (dg : Nat), (s.arg 0 = ok) ∧ (ok ≠ 2) ∧ (s.arg 1 = svn) ∧ (s.arg 2 = dg) ∧ ((s.boot = .romCheckA ∨
      s.boot = .romCheckB)) ∧ (ok = 1) ∧ (s.minSvn ≤ svn)) ∧
    (∃ (s : State) (ok : Nat) (svn : Nat) (dg : Nat), (s.arg 0 = ok) ∧ (ok ≠ 2) ∧ (s.arg 1 = svn) ∧ (s.arg 2 = dg) ∧ (s.boot = .romCheckA) ∧
      ((ok ≠ 1 ∨ svn < s.minSvn))) ∧
    (∃ (s : State) (ok : Nat) (svn : Nat) (dg : Nat), (s.arg 0 = ok) ∧ (ok ≠ 2) ∧ (s.arg 1 = svn) ∧ (s.arg 2 = dg) ∧ (s.boot = .romCheckB) ∧
      ((ok ≠ 1 ∨ svn < s.minSvn))) ∧
    (∃ (s : State) (svn : Nat) (img : List Byte) (pub : List Byte) (sig : List Byte), (s.ev = 2 :: svn :: img.length :: (img ++ pub ++ sig).map
      BitVec.toNat) ∧ (pub.length = 60)) ∧
    (∃ (s : State), (s.boot = .fwStart)) ∧
    (∃ (s : State), (s.responds = false)) ∧
    (∃ (s : State), (s.responds = true) ∧ (s.attest.testBit 0 = false) ∧ (s.sigUsed ≤ 2 ^ 30)) ∧
    (∃ (s : State), (s.attest.testBit 0 = true) ∧ (2 ^ 30 < s.sigUsed)) ∧
    (∃ (s : State), (s.attest.testBit 0 = true) ∧ (s.sigUsed ≤ 2 ^ 30)) ∧
    (∃ (s : State) (n : Nat), (s.arg 0 = n) ∧ (s.keyRuns 0 n = true)) ∧
    (∃ (s : State) (n : Nat), (s.arg 0 = n) ∧ (s.keyRuns 1 n = true)) ∧
    (∃ (s : State) (v : DWord), (s.keyBusy = some v)) ∧
    (∃ (s : State) (n : Nat), (s.arg 0 = n) ∧ (n < 4)) ∧
    (∃ (s : State) (f : Nat), (s.arg 0 = f) ∧ (0 < f) ∧ (f ≤ 64) ∧ (s.teams = [])) ∧
    (∃ (s : State), (s.boot = .thermHalt)) ∧
    (∃ (s : State) (d : Nat), (s.arg 0 = d) ∧ (d < 4) ∧ (s.thermCap.length = 4)) ∧
    (∃ (s : State), (s.reassigned = some (s.dieNs 4))) ∧
    (∃ (s : State), (s.dieNs 4 % 1000 = 0) ∧ (s.reassigned ≠ some (s.dieNs 4))) ∧
    (∃ (s : State), (s.dieNs 4 % 1000 ≠ 0)) ∧
    (∃ (s : State) (u : State) (i : Nat) (c : Nat) (la : Nat) (n : Nat) (v : Nat) (t : Option Nat), (s.arg 0 = i) ∧ (Tab.get 0 s.islHold i ≠ 0)
      ∧ (Tab.get 0 s.islHold i ≤ s.ps) ∧ (Tab.get 0 s.islFrom i ≤ Tab.get 0 s.islHold i) ∧ (s.retime = [(t, c, la, n, v)]) ∧ (coreIsl c = i)
      ∧ (u = { s with islHold := Tab.set 0 s.islHold i 0, retime := [] }) ∧ (u.paused i = false)) ∧
    (∃ (s : State) (i : Nat), (s.arg 0 = i) ∧ (Tab.get 0 s.islHold i ≠ 0) ∧ (Tab.get 0 s.islHold i ≤ s.ps) ∧ (s.retime = [])) :=
  ⟨⟨State.reset, by decide +kernel⟩,
  ⟨metBt .romCheckA [1, 0, 7], 1, 0, 7, by decide +kernel⟩,
  ⟨metBt .romCheckA [0, 0, 7], 0, 0, 7, by decide +kernel⟩,
  ⟨{ metBt .romCheckB [1, 0, 7] with minSvn := 1 }, 1, 0, 7, by decide +kernel⟩,
  ⟨metBt .romCheckA ([2, 0, 0] ++ List.replicate 60 0), 0, [], List.replicate 60 0, [], by decide +kernel⟩,
  ⟨metBt .fwStart [], by decide +kernel⟩,
  ⟨metBt .reset [], by decide +kernel⟩,
  ⟨metE [], by decide +kernel⟩,
  ⟨{ metE [] with attest := 1, sigUsed := 2 ^ 30 + 1 }, by decide +kernel⟩,
  ⟨{ metE [] with attest := 1, sigUsed := 2 ^ 30 }, by decide +kernel⟩,
  ⟨{ metE [255] with keyBusy := some 255 }, 255, by decide +kernel⟩,
  ⟨{ metE [255] with keyBusy := some 0x1FF }, 255, by decide +kernel⟩,
  ⟨{ metE [] with keyBusy := some 255 }, 255, by decide +kernel⟩,
  ⟨metE [3], 3, by decide +kernel⟩,
  ⟨{ metE [64] with teams := [] }, 64, by decide +kernel⟩,
  ⟨metBt .thermHalt [], by decide +kernel⟩,
  ⟨metE [3], 3, by decide +kernel⟩,
  ⟨{ metE [] with reassigned := some 0 }, by decide +kernel⟩,
  ⟨{ metE [] with now := 2000 }, by decide +kernel⟩,
  ⟨{ metE [] with now := 2 }, by decide +kernel⟩,
  ⟨{ metE [0] with islHold := [(0, 1)], retime := [(none, 0, 64, 8, 5)], now := 2000 }, { metE [0] with now := 2000 }, 0, 0, 64, 8, 5, none, by decide +kernel⟩,
  ⟨{ metE [19] with islHold := [(19, 1)], now := 2000 }, 19, by decide +kernel⟩⟩

end Sys2Proof.Tests
end

/-! # VREDADD (R141, R225)

The tree of R141 read level by level: the values of one level, and the flags of one level beside those of the levels below. -/

namespace Sys2Proof.Machine

/-! ## Flag sets -/

@[simp] theorem orAll_nil : orAll [] = 0 := rfl

theorem orAll_append (l r : List FlagSet) : orAll (l ++ r) = orAll l ||| orAll r := by
  have h := List.foldl_assoc (op := fun a b : FlagSet => a ||| b) (l := r) (a₁ := orAll l) (a₂ := 0)
  simpa [orAll, List.foldl_append] using h

@[simp] theorem orAll_cons (a : FlagSet) (l : List FlagSet) : orAll (a :: l) = a ||| orAll l := by
  simpa [orAll] using orAll_append [a] l

/-- Flags may be gathered from two families one after the other. -/
theorem orAll_map_or {α : Type} (f g : α → FlagSet) (l : List α) :
    orAll (l.map (fun i => f i ||| g i)) = orAll (l.map f) ||| orAll (l.map g) := by
  induction l with
  | nil => simp
  | cons a l ih => simp only [List.map_cons, orAll_cons, ih]; ac_rfl

/-- The flags of a list of lanes are those of its two halves. -/
theorem orAll_range_add (f : Nat → FlagSet) (w : Nat) :
    orAll ((List.range (w + w)).map f) = orAll ((List.range w).map f) ||| orAll ((List.range w).map (fun i => f (i + w))) := by
  rw [List.range_add, List.map_append, orAll_append, List.map_map]
  simp only [Function.comp_def, Nat.add_comm w]

/-! ## The tree of R141 -/

/-- One level of the tree: 2w lanes become w. -/
theorem treeLevel_map {α : Type} (f : α → α → α) (z : α) (y : Nat → α) (w : Nat) :
    (List.range w).map (fun i => f (((List.range (w + w)).map y).getD i z) (((List.range (w + w)).map y).getD (i + w) z)) =
      (List.range w).map (fun i => f (y i) (y (i + w))) := by
  refine List.map_congr_left fun i hi => ?_
  have hw : i < w := List.mem_range.mp hi
  simp [List.getD, show i < w + w by omega, hw]

/-- The tree over 16 lanes `y0` answers lane 0 of the fourth level. -/
theorem tree_of_levels {α : Type} {f : α → α → α} {z : α} {y0 y1 y2 y3 y4 : Nat → α} (h1 : ∀ i, y1 i = f (y0 i) (y0 (i + 8)))
    (h2 : ∀ i, y2 i = f (y1 i) (y1 (i + 4))) (h3 : ∀ i, y3 i = f (y2 i) (y2 (i + 2))) (h4 : ∀ i, y4 i = f (y3 i) (y3 (i + 1))) :
    tree f z ((List.range 16).map y0) = y4 0 := by
  have e1 := treeLevel_map f z y0 8
  have e2 := treeLevel_map f z y1 4
  have e3 := treeLevel_map f z y2 2
  have e4 := treeLevel_map f z y3 1
  simp only [Nat.reduceAdd, ← h1, ← h2, ← h3, ← h4] at e1 e2 e3 e4
  simp only [tree, List.foldl_cons, List.foldl_nil, e1, e2, e3, e4]
  rfl

/-- The flags gathered at lane `i` of a level of `w` lanes: those gathered at its two lanes below, and what its own step raises. -/
def gathered (w : Nat) (below raised : Nat → FlagSet) (i : Nat) : FlagSet := below i ||| below (i + w) ||| raised i

/-- A level gathers what the level below has gathered and what its own steps raise. -/
theorem orAll_gathered (w : Nat) (below raised : Nat → FlagSet) :
    orAll ((List.range w).map (gathered w below raised)) =
      orAll ((List.range (w + w)).map below) ||| orAll ((List.range w).map raised) := by
  rw [orAll_range_add, ← orAll_map_or, ← orAll_map_or]
  rfl

/-- What the root of four levels gathers: the flags of all 15 steps, where step `i` of a level raises `e i` and the 16 lanes raise none. -/
theorem gathered_root (e0 e1 e2 e3 : Nat → FlagSet) :
    gathered 1 (gathered 2 (gathered 4 (gathered 8 (fun _ => 0) e0) e1) e2) e3 0 =
      e3 0 ||| orAll ((List.range 2).map e2) ||| orAll ((List.range 4).map e1) ||| orAll ((List.range 8).map e0) := by
  have h1 : ∀ f : Nat → FlagSet, f 0 = orAll ((List.range 1).map f) := fun f => by simp
  have h16 : orAll ((List.range 16).map (fun _ => 0#7)) = 0#7 := by decide
  rw [h1 (gathered _ _ _), h1 e3]
  simp only [orAll_gathered, Nat.reduceAdd, BitVec.ofNat_eq_ofNat, h16, BitVec.zero_or]
  ac_rfl

/-- The sum by the tree of R141: the value of the last step, with the flags of all 15. -/
theorem treeAdd_of_levels {x : Nat → Nat} {l0 l1 l2 l3 : Nat → LaneRes} (h0 : ∀ i, l0 i = add32 (x i) (x (i + 8)))
    (h1 : ∀ i, l1 i = add32 (l0 i).1 (l0 (i + 4)).1) (h2 : ∀ i, l2 i = add32 (l1 i).1 (l1 (i + 2)).1)
    (h3 : ∀ i, l3 i = add32 (l2 i).1 (l2 (i + 1)).1) :
    treeAdd ((List.range 16).map x) = ((l3 0).1, (l3 0).2 ||| orAll ((List.range 2).map (fun i => (l2 i).2)) |||
      orAll ((List.range 4).map (fun i => (l1 i).2)) ||| orAll ((List.range 8).map (fun i => (l0 i).2))) := by
  let g0 := gathered 8 (fun _ => 0) (fun i => (l0 i).2)
  let g1 := gathered 4 g0 (fun i => (l1 i).2)
  let g2 := gathered 2 g1 (fun i => (l2 i).2)
  let g3 := gathered 1 g2 (fun i => (l3 i).2)
  have hg := gathered_root (fun i => (l0 i).2) (fun i => (l1 i).2) (fun i => (l2 i).2) (fun i => (l3 i).2)
  rw [treeAdd, List.map_map, ← hg]
  exact tree_of_levels (y0 := fun i => (x i, 0)) (y1 := fun i => ((l0 i).1, g0 i)) (y2 := fun i => ((l1 i).1, g1 i))
    (y3 := fun i => ((l2 i).1, g2 i)) (y4 := fun i => ((l3 i).1, g3 i)) (fun i => by rw [← h0]; rfl) (fun i => by rw [← h1]; rfl)
    (fun i => by rw [← h2]; rfl) (fun i => by rw [← h3]; rfl)

/-! ## The instruction -/

/-- The tangent planes, read by number (R217). -/
theorem getD_map_tans {α : Type} (s : State) (f : Nat → α) (z : α) {p : Nat} (h1 : 1 ≤ p) (hk : p ≤ s.me.k) :
    (s.tans.map f).getD (p - 1) z = f p := by
  simp [State.tans, List.getD, show p - 1 < s.me.k by omega, Nat.sub_add_cancel h1]

theorem exec_vredadd (s : State) (d a g : Nat) (h : s.fit [] [d, a]) : exec (.vredadd d a g) s = .next (s.redAdd d a g) := by
  have hr : namedRegs (.vredadd d a g) = [(1, a), (1, d)] := rfl
  have hn : namesIn (.vredadd d a g) [] [d, a] := by rw [namesIn, hr]; simp
  exact coxIssue_fit (.vredadd d a g) (fun s => s.redAdd d a g) s [] [d, a] hn rfl rfl rfl rfl rfl rfl rfl (Nat.le_refl 1) h

/-- Settles O45: with the levels named in the statement, `redAdd` is `reduce` of the sum and of the tangents it names, and its planes and
flags are read off `reduce`. -/
theorem vectorSumTree : Obligations.VectorSumTree := by
  intro s d a g x l0 l1 l2 l3 w t hfit hx h0 h1 h2 h3 hw ht
  have hl : ∀ p, s.maskedLanes p a (s.mask g) 0 = (List.range 16).map (x p) := fun p => by
    rw [funext (hx p)]; rfl
  have hs : ∀ p, treeAdd ((List.range 16).map (x p)) = w p := fun p => by
    rw [hw, treeAdd_of_levels (h0 p) (h1 p) (h2 p) (h3 p)]
  have hr : s.redAdd d a g = s.reduce d (w 0) (s.tans.map t) := by
    simp only [State.redAdd, hl, hs, ← ht]
  refine ⟨s.tans.map (fun p => BitVec.ofNat 512 (t p).1), _, ?_, fun p hp hk => getD_map_tans s _ 0 hp hk, rfl⟩
  rw [exec_vredadd s d a g hfit, hr, State.reduce]
  simp [State.tans, Function.comp_def]

end Sys2Proof.Machine

/-! # VSEL (R223)

A vector is built from its lanes and read lane by lane; a moved vector (`vmove`) has in each lane of each plane the lane that its source names. -/

namespace Sys2Proof.Machine

/-! ## Lanes -/

/-- Code `n` of a packed list, read back (a code past the end reads 0). -/
theorem packCodes_div_mod (w : Nat) (l : List Nat) : ∀ n, packCodes w l / 2 ^ (w * n) % 2 ^ w = l.getD n 0 % 2 ^ w := by
  induction l with
  | nil => simp [packCodes]
  | cons c t ih =>
    intro n
    cases n with
    | zero => simp [packCodes]
    | succ n =>
      have hdrop : (c % 2 ^ w + 2 ^ w * packCodes w t) / 2 ^ w = packCodes w t := by
        rw [Nat.add_mul_div_left _ _ (Nat.two_pow_pos w), Nat.div_eq_of_lt (Nat.mod_lt _ (Nat.two_pow_pos w)), Nat.zero_add]
      rw [packCodes, Nat.mul_succ, Nat.add_comm (w * n), Nat.pow_add, ← Nat.div_div_eq_div_mul, hdrop, ih, List.getD_cons_succ]

/-- A field that lies within the width of a word is kept by it. -/
theorem toNat_ofNat_div_mod (x : Nat) {i w N : Nat} (h : i + w ≤ N) :
    (BitVec.ofNat N x).toNat / 2 ^ i % 2 ^ w = x / 2 ^ i % 2 ^ w := by
  obtain ⟨c, rfl⟩ := Nat.exists_eq_add_of_le (Nat.le_of_add_right_le h)
  rw [BitVec.toNat_ofNat, Nat.pow_add, Nat.mod_mul_right_div_self,
    Nat.mod_mod_of_dvd _ (Nat.pow_dvd_pow 2 (Nat.le_of_add_le_add_left h))]

theorem lane_lt (v : VWord) (n : Nat) : lane v n < 2 ^ 32 := Nat.mod_lt _ (Nat.two_pow_pos 32)

/-- Lane `n` of a vector given by its lanes (R215). -/
theorem lane_ofLanes (l : List Nat) {n : Nat} (hn : n < 16) : lane (ofLanes l) n = l.getD n 0 % 2 ^ 32 := by
  have hin : 32 * n + 32 ≤ 512 := by omega
  rw [lane, ofLanes, toNat_ofNat_div_mod _ hin, packCodes_div_mod]

/-- Bit `n` of a mask is bit `n` of its predicate. -/
theorem bit_mask (s : State) (g n : Nat) : bit (s.mask g) n = (s.me.rp g).getLsbD n :=
  Nat.testBit_eq_decide_div_mod_eq.symm

/-! ## Moved lanes -/

/-- The planes of a vector result, the primal plane first, read by number. -/
theorem getD_map_planes {α : Type} (s : State) (f : Nat → α) (z : α) {p : Nat} (hk : p ≤ s.me.k) :
    ((0 :: s.tans).map f).getD p z = f p := by
  cases p with
  | zero => rfl
  | succ p => exact getD_map_tans s f z (Nat.succ_pos p) hk

/-- The planes that a move writes. -/
def State.movedPlanes (s : State) (src : Nat → Nat × Nat) : List VWord :=
  (0 :: s.tans).map (fun p => ofLanes ((List.range 16).map (fun n => s.ln p (src n).1 (src n).2)))

theorem vmove_eq_putV (s : State) (d m : Nat) (src : Nat → Nat × Nat) : s.vmove d m src = s.putV 3 d m (s.movedPlanes src) := rfl

/-- In every plane a moved lane is the lane that its source names (R223, R224). -/
theorem lane_movedPlanes (s : State) (src : Nat → Nat × Nat) {p n : Nat} (hk : p ≤ s.me.k) (hn : n < 16) :
    lane ((s.movedPlanes src).getD p 0) n = s.ln p (src n).1 (src n).2 := by
  rw [State.movedPlanes, getD_map_planes s _ 0 hk, lane_ofLanes _ hn]
  simp only [List.getD, List.getElem?_map, List.getElem?_range hn, Option.map_some, Option.getD_some]
  exact Nat.mod_eq_of_lt (lane_lt _ _)

/-! ## The instruction -/

/-- The word of a V.R syllable: major opcode, vd, va, vb, pg and fn. -/
def wordVR (op d a b q fn : Nat) : Nat := op * 2 ^ 26 + d * 2 ^ 20 + a * 2 ^ 14 + b * 2 ^ 8 + q * 2 ^ 4 + fn

/-- Opcode 0x06 of the V slot is decoded by its own table. -/
theorem decodeV_wordVR_06 {d a b q fn : Nat} (hd : d < 64) (ha : a < 64) (hb : b < 64) (hq : q < 16) (hf : fn < 16) :
    decodeV (wordVR 6 d a b q fn) = decodeV06 (wordVR 6 d a b q fn) := by
  have hop : wordVR 6 d a b q fn / 67108864 % 64 = 6 := by unfold wordVR; omega
  have hnz : wordVR 6 d a b q fn % 4294967296 ≠ 0 := by unfold wordVR; omega
  simp only [decodeV, if_neg hnz, hop]

/-- With fn 0 the word is VSEL. -/
theorem decodeV_vsel {d a b q : Nat} (hd : d < 64) (ha : a < 64) (hb : b < 64) (hq : q < 16) :
    decodeV (wordVR 6 d a b q 0) = .ok (.vsel d a b q) := by
  obtain ⟨hfn, h20, h14, h8, h4⟩ : wordVR 6 d a b q 0 % 16 = 0 ∧ wordVR 6 d a b q 0 / 1048576 % 64 = d ∧
      wordVR 6 d a b q 0 / 16384 % 64 = a ∧ wordVR 6 d a b q 0 / 256 % 64 = b ∧ wordVR 6 d a b q 0 / 16 % 16 = q := by
    unfold wordVR; omega
  simp only [decodeV_wordVR_06 hd ha hb hq (by decide : 0 < 16), decodeV06, hfn, h20, h14, h8, h4]

/-- Every other fn is reserved. -/
theorem decodeV_06_reserved {d a b q fn : Nat} (hd : d < 64) (ha : a < 64) (hb : b < 64) (hq : q < 16) (h1 : 1 ≤ fn) (hf : fn < 16) :
    (decodeV (wordVR 6 d a b q fn)).instr = none := by
  have hfn : wordVR 6 d a b q fn % 16 = fn := by unfold wordVR; omega
  rw [decodeV_wordVR_06 hd ha hb hq hf, decodeV06, hfn]
  split
  · omega
  · rfl

/-- The source of lane `n` of VSEL: the same lane of va or of vb, by the selector (R223). -/
def State.selected (s : State) (a b q n : Nat) : Nat × Nat := (if bit (s.mask q) n then a else b, n)

/-- In every plane a selected lane is va's where the selector is set and vb's elsewhere. -/
theorem ln_selected (s : State) (p a b q n : Nat) : s.ln p (s.selected a b q n).1 (s.selected a b q n).2 =
    if (s.me.rp q).getLsbD n = true then lane (s.me.rv p a) n else lane (s.me.rv p b) n := by
  rw [State.selected, State.ln, bit_mask]
  split <;> rfl

theorem exec_vsel (s : State) (d a b q : Nat) (h : s.fit [] [d, a, b]) :
    exec (.vsel d a b q) s = .next (s.vmove d 0xFFFF (s.selected a b q)) := by
  have hr : namedRegs (.vsel d a b q) = [(1, b), (1, a), (1, d)] := rfl
  have hn : namesIn (.vsel d a b q) [] [d, a, b] := by rw [namesIn, hr]; simp
  exact coxIssue_fit (.vsel d a b q) (fun s => s.vmove d 0xFFFF (s.selected a b q)) s [] [d, a, b] hn
    rfl rfl rfl rfl rfl rfl rfl (Nat.le_refl 1) h

/-- Settles O44: the decoder's clause by the fields of a V.R word; VSEL is a move whose source does not depend on the plane, so that a
tangent lane is the chosen lane's bit for bit (the model's reading, log entry 130). -/
theorem vectorSelect : Obligations.VectorSelect := by
  refine ⟨fun d a b q hd ha hb hq => ⟨decodeV_vsel hd ha hb hq, fun fn h1 hf => decodeV_06_reserved hd ha hb hq h1 hf⟩,
    fun s d a b q hfit => ⟨s.movedPlanes (s.selected a b q), ?_, fun p n hk hn => ?_⟩⟩
  · rw [exec_vsel s d a b q hfit, vmove_eq_putV]
  · rw [lane_movedPlanes s _ hk hn, ln_selected]

end Sys2Proof.Machine

/-! # The forms of a node ring word (R290)

A word of 16 bits is its fields WV RV AT (bits 15 to 13), AOP (bits 12 to 9) and the reserved low bits (R175); each form fixes all three. -/

namespace Sys2Proof.Machine

/-- A word whose reserved bits are zero is given by its form WV RV AT and its AOP. -/
theorem node_word_eq_of_fields {w f o : Nat} (hw : w < 2 ^ 16) (hlow : w % 512 = 0) (hf : w / 8192 % 8 = f) (ho : w / 512 % 16 = o) :
    w = 8192 * f + 512 * o := by omega

/-- What a node ring accepts: the entry, with the word that its form and AOP fix. -/
theorem decodeNode_inv {w : Nat} {i : Instr} (hw : w < 2 ^ 16) (h : decodeNode w = some i) :
    (w = 0 ∧ i = .nnop) ∨ (w = 0x8000 ∧ i = .nw) ∨ (w = 0x4000 ∧ i = .nr) ∨ (w = 0xC000 ∧ i = .nwr) ∨
      (∃ aop, aop ≤ 14 ∧ w = 0x2000 + 512 * aop ∧ i = .nat aop) := by
  rw [decodeNode, Option.ite_none_right_eq_some] at h
  obtain ⟨hlow, h⟩ := h
  split at h
  case h_6 => cases h
  all_goals
    rename_i hform
    rw [Option.ite_none_right_eq_some, Option.some.injEq] at h
    obtain ⟨haop, rfl⟩ := h
  case h_1 => exact .inl ⟨node_word_eq_of_fields hw hlow hform haop, rfl⟩
  case h_2 => exact .inr (.inl ⟨node_word_eq_of_fields hw hlow hform haop, rfl⟩)
  case h_3 => exact .inr (.inr (.inl ⟨node_word_eq_of_fields hw hlow hform haop, rfl⟩))
  case h_4 => exact .inr (.inr (.inr (.inl ⟨node_word_eq_of_fields hw hlow hform haop, rfl⟩)))
  case h_5 => exact .inr (.inr (.inr (.inr ⟨_, haop, node_word_eq_of_fields hw hlow hform rfl, rfl⟩)))

/-- The word of nat aop, for every AOP that R108 defines. -/
theorem decodeNode_nat {aop : Nat} (h : aop ≤ 14) : decodeNode (0x2000 + 512 * aop) = some (.nat aop) := by
  have hlow : (0x2000 + 512 * aop) % 512 = 0 := by omega
  have hform : (0x2000 + 512 * aop) / 8192 % 8 = 1 := by omega
  have haop : (0x2000 + 512 * aop) / 512 % 16 = aop := by omega
  simp only [decodeNode, if_pos hlow, hform, haop, if_pos h]

/-- Settles O2: an accepted word is one of the five forms by `decodeNode_inv`, and the word of each form decodes to its entry. -/
theorem nodeRingWords : Obligations.NodeRingWords := by
  refine ⟨fun w i hw => ⟨decodeNode_inv hw, ?_⟩, decodeNode_nat (by decide : 10 ≤ 14)⟩
  rintro (⟨rfl, rfl⟩ | ⟨rfl, rfl⟩ | ⟨rfl, rfl⟩ | ⟨rfl, rfl⟩ | ⟨aop, haop, rfl, rfl⟩)
  case inl | inr.inl | inr.inr.inl | inr.inr.inr.inl => rfl
  case inr.inr.inr.inr => exact decodeNode_nat haop

end Sys2Proof.Machine

/-! # The layout of a fault record (R354)

A record is its fields laid end to end from bit 0 up, the reserved one among them; a field is then read at the sum of the widths below it. -/

namespace Sys2Proof.Machine

/-! ## Fields end to end -/

/-- The number whose fields, of the widths `ws` and with the values `vs` cut to them, lie end to end from bit 0 up. -/
def endToEnd : List Nat → List Nat → Nat
  | w :: ws, v :: vs => v % 2 ^ w + 2 ^ w * endToEnd ws vs
  | _, _ => 0

theorem endToEnd_nil (vs : List Nat) : endToEnd [] vs = 0 := rfl

theorem endToEnd_cons_mod (w v : Nat) (ws vs : List Nat) : endToEnd (w :: ws) (v :: vs) % 2 ^ w = v % 2 ^ w := by
  rw [endToEnd, Nat.add_mul_mod_self_left, Nat.mod_mod]

theorem endToEnd_cons_div (w v : Nat) (ws vs : List Nat) : endToEnd (w :: ws) (v :: vs) / 2 ^ w = endToEnd ws vs := by
  have hpos := Nat.two_pow_pos w
  rw [endToEnd, Nat.add_mul_div_left _ _ hpos, Nat.div_eq_of_lt (Nat.mod_lt _ hpos), Nat.zero_add]

/-- Beside what lies below, the lowest of the fields `k` bits up stands at its own place, the others above it. -/
theorem add_two_pow_mul_endToEnd_cons (a k w v : Nat) (ws vs : List Nat) :
    a + 2 ^ k * endToEnd (w :: ws) (v :: vs) = a + 2 ^ k * (v % 2 ^ w) + 2 ^ (k + w) * endToEnd ws vs := by
  rw [endToEnd, Nat.mul_add, ← Nat.mul_assoc, ← Nat.pow_add, ← Nat.add_assoc]

/-- Field `i` is read back, cut to its width, above the widths of the fields before it. -/
theorem endToEnd_field (ws : List Nat) : ∀ (vs : List Nat) (i w v : Nat), ws[i]? = some w → vs[i]? = some v →
    endToEnd ws vs / 2 ^ (ws.take i).sum % 2 ^ w = v % 2 ^ w := by
  induction ws with
  | nil => exact fun _ _ _ _ h => nomatch h
  | cons w₀ ws ih =>
    rintro (_ | ⟨v₀, vs⟩) i w v hw hv
    case nil => exact nomatch hv
    case cons =>
      cases i with
      | zero =>
        obtain rfl : w₀ = w := Option.some.inj hw
        obtain rfl : v₀ = v := Option.some.inj hv
        rw [List.take_zero, List.sum_nil, Nat.pow_zero, Nat.div_one, endToEnd_cons_mod]
      | succ i =>
        rw [List.take_succ_cons, List.sum_cons, Nat.pow_add, ← Nat.div_div_eq_div_mul, endToEnd_cons_div]
        exact ih vs i w v hw hv

/-- The number fits the widths together. -/
theorem endToEnd_lt (ws : List Nat) : ∀ vs : List Nat, endToEnd ws vs < 2 ^ ws.sum := by
  induction ws with
  | nil => exact fun _ => Nat.one_pos
  | cons w ws ih =>
    rintro (_ | ⟨v, vs⟩)
    case nil => exact Nat.two_pow_pos _
    case cons =>
      rw [List.sum_cons, Nat.pow_add, Nat.mul_comm, ← Nat.div_lt_iff_lt_mul (Nat.two_pow_pos w), endToEnd_cons_div]
      exact ih vs

/-! ## The record -/

/-- The widths of the fields of the table of R354, from bit 0 up. -/
def recordWidths : List Nat := [64, 64, 64, 64, 16, 8, 8, 16, 48, 64, 8, 8, 3, 1, 4, 8, 64]

/-- The values of the fields of the table of R354, from bit 0 up, the reserved field 0. -/
def RecF.values (r : RecF) : List Nat :=
  [r.op0, r.op1, r.op2, r.op3, 0, r.core, r.isl, r.cyc, r.scnt, r.loc, r.func, r.fli, r.rank, b2n r.evt, r.sk, r.code, r.time]

theorem b2n_lt_two (b : Bool) : b2n b < 2 ^ 1 := by cases b <;> decide

/-- A packed record is its fields laid end to end: the places written in `RecF.pack` are the sums of the widths below. -/
theorem RecF.pack_eq_endToEnd (r : RecF) : r.pack = BitVec.ofNat 512 (endToEnd recordWidths r.values) := by
  have hcut (x : Nat) : x % 2 ^ 8 = x % 256 ∧ x % 2 ^ 16 = x % 65536 ∧ x % 2 ^ 3 = x % 8 ∧ x % 2 ^ 4 = x % 16 := ⟨rfl, rfl, rfl, rfl⟩
  have hevt : b2n r.evt % 2 ^ 1 = b2n r.evt := Nat.mod_eq_of_lt (b2n_lt_two _)
  have hzero (a k : Nat) : a + 2 ^ k * 0 = a := by rw [Nat.mul_zero, Nat.add_zero]
  rw [recordWidths, RecF.values, endToEnd]
  simp only [add_two_pow_mul_endToEnd_cons, Nat.reduceAdd, hevt, Nat.zero_mod, hzero, endToEnd_nil, hcut, RecF.pack]

theorem RecF.pack_toNat (r : RecF) : r.pack.toNat = endToEnd recordWidths r.values := by
  have hwidth : recordWidths.sum = 512 := by decide
  rw [r.pack_eq_endToEnd, BitVec.toNat_ofNat, Nat.mod_eq_of_lt (hwidth ▸ endToEnd_lt recordWidths r.values)]

/-- Bits [hi:lo] of a packed record are the value of field `i`, where the widths place that field at [hi:lo] and the value fits. -/
theorem RecF.recBits_pack (r : RecF) (i : Nat) {hi lo v : Nat}
    (hplace : (recordWidths.take i).sum = lo ∧ recordWidths[i]? = some (hi + 1 - lo)) (hvalue : r.values[i]? = some v)
    (hfit : v < 2 ^ (hi + 1 - lo)) : recBits r.pack hi lo = v := by
  obtain ⟨rfl, hwidth⟩ := hplace
  rw [recBits, bits, r.pack_toNat, endToEnd_field recordWidths r.values i _ v hwidth hvalue, Nat.mod_eq_of_lt hfit]

/-! ## The record in memory -/

/-- Byte `i` of a little-endian write of `n` bytes (R2). -/
theorem Memory.read_writeN_inside (n : Nat) :
    ∀ (m : Memory) (a v i : Nat), i < n → (m.writeN a n v).read (a + i) = BitVec.ofNat 8 (v / 2 ^ (8 * i)) := by
  induction n with
  | zero => exact fun _ _ _ _ h => absurd h (Nat.not_lt_zero _)
  | succ n ih =>
    intro m a v i h
    rw [Memory.writeN]
    cases i with
    | zero =>
      rw [Memory.read_writeN_outside n _ _ _ (a + 0) (by omega), Nat.mul_zero, Nat.pow_zero, Nat.div_one]
      exact Memory.read_write_same m a _
    | succ i =>
      have hdiv : v / 256 / 2 ^ (8 * i) = v / 2 ^ (8 * (i + 1)) := by
        rw [show 8 * (i + 1) = 8 + 8 * i by omega, Nat.pow_add]
        exact Nat.div_div_eq_div_mul v (2 ^ 8) (2 ^ (8 * i))
      rw [show a + (i + 1) = a + 1 + i by omega, ih _ _ _ _ (Nat.lt_of_succ_lt_succ h), hdiv]

/-- The byte of a word that lies `k` bits up. -/
theorem setWidth_ushiftRight_eq_ofNat {n : Nat} (x : BitVec n) (k : Nat) : (x >>> k).setWidth 8 = BitVec.ofNat 8 (x.toNat / 2 ^ k) := by
  rw [← BitVec.ofNat_toNat, BitVec.toNat_ushiftRight, Nat.shiftRight_eq_div_pow]

/-- Settles O23: each field is read at the place that the widths below it give (`RecF.recBits_pack`), and its value fits by hypothesis;
each byte of the write by `Memory.read_writeN_inside`. -/
theorem faultRecordLayout : Obligations.FaultRecordLayout := by
  intro r htime hcode hsk hrank hfli hfunc hloc hscnt hcyc hisl hcore hop0 hop1 hop2 hop3
  refine ⟨r.recBits_pack 16 (by decide) rfl htime, r.recBits_pack 15 (by decide) rfl hcode, r.recBits_pack 14 (by decide) rfl hsk,
    r.recBits_pack 13 (by decide) rfl (b2n_lt_two _), r.recBits_pack 12 (by decide) rfl hrank, r.recBits_pack 11 (by decide) rfl hfli,
    r.recBits_pack 10 (by decide) rfl hfunc, r.recBits_pack 9 (by decide) rfl hloc, r.recBits_pack 8 (by decide) rfl hscnt,
    r.recBits_pack 7 (by decide) rfl hcyc, r.recBits_pack 6 (by decide) rfl hisl, r.recBits_pack 5 (by decide) rfl hcore,
    r.recBits_pack 4 (by decide) rfl (Nat.two_pow_pos _), r.recBits_pack 3 (by decide) rfl hop3, r.recBits_pack 2 (by decide) rfl hop2,
    r.recBits_pack 1 (by decide) rfl hop1, r.recBits_pack 0 (by decide) rfl hop0, fun m a i hi => ?_⟩
  rw [Memory.read_writeN_inside 64 m a _ i hi, setWidth_ushiftRight_eq_ofNat]

end Sys2Proof.Machine

/-! # Decoding undoes encoding

A word is its major opcode, its function number and its operands, each at its own place. The fields of the two formats with three register operands are read once (`fieldsSR`, `fieldsVR`); the words of the other formats are read by the four rules of `field_drop_low` and those after it. -/

namespace Sys2Proof.Machine

/-! ## Reading one field of a sum -/

/-- What lies below a field without carrying into it does not show in it. -/
theorem field_drop_low {x y m n : Nat} (h : x % m + y < m) : (x + y) / m % n = x / m % n := by
  have hm : 0 < m := Nat.lt_of_le_of_lt (Nat.zero_le _) h
  have hy : y < m := by omega
  rw [Nat.add_div hm, Nat.div_eq_of_lt hy, Nat.mod_eq_of_lt hy, if_neg (by omega), Nat.add_zero]

/-- What lies above a field does not show in it. -/
theorem field_drop_high {x a k m n : Nat} (h : k % (m * n) = 0) : (x + a * k) / m % n = x / m % n := by
  obtain ⟨q, rfl⟩ := Nat.dvd_of_mod_eq_zero h
  rw [← Nat.mod_mul_right_div_self, ← Nat.mod_mul_right_div_self, Nat.mul_left_comm a (m * n) q, Nat.add_mul_mod_self_left]

/-- A field reads the value laid at its place where the rest leaves the place free. -/
theorem field_read {x a m n : Nat} (h : x % (m * n) < m) (ha : a < n) : (x + a * m) / m % n = a := by
  have hm : 0 < m := Nat.lt_of_le_of_lt (Nat.zero_le _) h
  rw [Nat.add_mul_div_right _ _ hm, Nat.add_mod, ← Nat.mod_mul_right_div_self, Nat.div_eq_of_lt h, Nat.zero_add, Nat.mod_mod, Nat.mod_eq_of_lt ha]

theorem low_drop {x a k n : Nat} (h : k % n = 0) : (x + a * k) % n = x % n := by
  obtain ⟨q, rfl⟩ := Nat.dvd_of_mod_eq_zero h
  rw [Nat.mul_left_comm a n q, Nat.add_mul_mod_self_left]

theorem low_read {x i n : Nat} (h : x % n = 0) (hi : i < n) : (x + i) % n = i := by
  rw [Nat.add_mod, h, Nat.zero_add, Nat.mod_mod, Nat.mod_eq_of_lt hi]

/-- A syllable with a major opcode is not NOP. -/
theorem word_ne_zero {w : Nat} (h : w / 67108864 % 64 ≠ 0) : (w % 4294967296 = 0) = False := by
  rw [eq_iff_iff, iff_false]; omega

/-! ## The S slot -/

/-- The fields of an S.R word (R163), with the parts that an instruction with predicate operands reads. -/
structure FieldsSR (w c d a b : Nat) : Prop where
  major : w / 67108864 % 64 = c / 67108864 % 64
  nonzero : w % 4294967296 ≠ 0
  fn : w % 32 = c % 32
  rd : w / 524288 % 128 = d
  ra : w / 4096 % 128 = a
  rb : w / 32 % 128 = b
  pd : w / 524288 % 16 = d % 16
  pa : w / 4096 % 16 = a % 16
  pb : w / 32 % 16 = b % 16
  pdTop : w / 8388608 % 8 = d / 16
  paTop : w / 65536 % 8 = a / 16
  pbTop : w / 512 % 8 = b / 16

theorem fieldsSR {c d a b : Nat} (hc : c % 67108864 < 32 ∧ c / 67108864 % 64 ≠ 0) (hd : d < 128) (ha : a < 128) (hb : b < 128) :
    FieldsSR (c + d * 524288 + a * 4096 + b * 32) c d a b := by
  constructor <;> omega

/-- An S.R word may be read by its fields. -/
theorem decode_sR {dec : Nat → Decoded} {r : Decoded} {c d a b : Nat} (hc : c % 67108864 < 32 ∧ c / 67108864 % 64 ≠ 0) (hd : d < 128) (ha : a < 128)
    (hb : b < 128) (h : ∀ w, FieldsSR w c d a b → dec w = r) : dec (c + d * 524288 + a * 4096 + b * 32) = r :=
  h _ (fieldsSR hc hd ha hb)

/-- An S.R word whose rb field is zero. -/
theorem decode_sR_da {dec : Nat → Decoded} {r : Decoded} {c d a : Nat} (hc : c % 67108864 < 32 ∧ c / 67108864 % 64 ≠ 0) (hd : d < 128) (ha : a < 128)
    (h : ∀ w, FieldsSR w c d a 0 → dec w = r) : dec (c + d * 524288 + a * 4096) = r := by
  simpa using h _ (fieldsSR (b := 0) hc hd ha (by decide))

/-- An S.R word whose ra field is zero. -/
theorem decode_sR_db {dec : Nat → Decoded} {r : Decoded} {c d b : Nat} (hc : c % 67108864 < 32 ∧ c / 67108864 % 64 ≠ 0) (hd : d < 128) (hb : b < 128)
    (h : ∀ w, FieldsSR w c d 0 b → dec w = r) : dec (c + d * 524288 + b * 32) = r := by
  simpa using h _ (fieldsSR (a := 0) hc hd (by decide) hb)

/-- An S.R word whose rd field is zero. -/
theorem decode_sR_ab {dec : Nat → Decoded} {r : Decoded} {c a b : Nat} (hc : c % 67108864 < 32 ∧ c / 67108864 % 64 ≠ 0) (ha : a < 128) (hb : b < 128)
    (h : ∀ w, FieldsSR w c 0 a b → dec w = r) : dec (c + a * 4096 + b * 32) = r := by
  simpa using h _ (fieldsSR (d := 0) hc (by decide) ha hb)

/-- An S.R word of which only ra is used. -/
theorem decode_sR_a {dec : Nat → Decoded} {r : Decoded} {c a : Nat} (hc : c % 67108864 < 32 ∧ c / 67108864 % 64 ≠ 0) (ha : a < 128)
    (h : ∀ w, FieldsSR w c 0 a 0 → dec w = r) : dec (c + a * 4096) = r := by
  simpa using h _ (fieldsSR (d := 0) (b := 0) hc (by decide) ha (by decide))

/-- An S.R word of which only rb is used. -/
theorem decode_sR_b {dec : Nat → Decoded} {r : Decoded} {c b : Nat} (hc : c % 67108864 < 32 ∧ c / 67108864 % 64 ≠ 0) (hb : b < 128)
    (h : ∀ w, FieldsSR w c 0 0 b → dec w = r) : dec (c + b * 32) = r := by
  simpa using h _ (fieldsSR (d := 0) (a := 0) hc (by decide) (by decide) hb)

/-- The fields of an S.I word whose immediate takes all its 12 bits (R163). -/
structure FieldsSI (w c d a i : Nat) : Prop where
  major : w / 67108864 % 64 = c / 67108864 % 64
  nonzero : w % 4294967296 ≠ 0
  rd : w / 524288 % 128 = d
  ra : w / 4096 % 128 = a
  imm : w % 4096 = i

theorem decode_sI {dec : Nat → Decoded} {r : Decoded} {c d a i : Nat} (hc : c % 67108864 = 0 ∧ c / 67108864 % 64 ≠ 0) (hd : d < 128) (ha : a < 128)
    (hi : i < 4096) (h : ∀ w, FieldsSI w c d a i → dec w = r) : dec (c + d * 524288 + a * 4096 + i) = r := by
  refine h _ ?_
  constructor <;> omega


/-- The fields of a shift by an immediate count (R197). -/
structure FieldsShift (w c d a n : Nat) : Prop where
  major : w / 67108864 % 64 = c / 67108864 % 64
  nonzero : w % 4294967296 ≠ 0
  rd : w / 524288 % 128 = d
  ra : w / 4096 % 128 = a
  fn : w / 1024 % 4 = c / 1024 % 4
  pad : w / 64 % 16 = 0
  count : w % 64 = n

theorem decode_shift {dec : Nat → Decoded} {r : Decoded} {c d a n : Nat} (hc : c % 67108864 < 4096 ∧ c % 1024 = 0 ∧ c / 67108864 % 64 ≠ 0) (hd : d < 128)
    (ha : a < 128) (hn : n < 64) (h : ∀ w, FieldsShift w c d a n → dec w = r) : dec (c + d * 524288 + a * 4096 + n) = r := by
  refine h _ ?_
  constructor <;> omega

/-- The fields of a compare with an immediate (R197). -/
structure FieldsCmpi (w c d a i : Nat) : Prop where
  major : w / 67108864 % 64 = c / 67108864 % 64
  nonzero : w % 4294967296 ≠ 0
  pd : w / 524288 % 16 = d
  pdTop : w / 8388608 % 8 = 0
  ra : w / 4096 % 128 = a
  fn : w / 512 % 8 = c / 512 % 8
  imm : w % 512 = i

theorem decode_cmpi {dec : Nat → Decoded} {r : Decoded} {c d a i : Nat} (hc : c % 67108864 < 4096 ∧ c % 512 = 0 ∧ c / 67108864 % 64 ≠ 0) (hd : d < 16)
    (ha : a < 128) (hi : i < 512) (h : ∀ w, FieldsCmpi w c d a i → dec w = r) : dec (c + d * 524288 + a * 4096 + i) = r := by
  refine h _ ?_
  constructor <;> omega

/-- The fields of TGET and TSET (R305), whose rb field holds the plane and, in bit 2, the kind of register. -/
structure FieldsPlane (w c d a t : Nat) : Prop where
  major : w / 67108864 % 64 = c / 67108864 % 64
  nonzero : w % 4294967296 ≠ 0
  fn : w % 32 = c % 32
  kind : w / 128 % 2 = c / 128 % 2
  xd : w / 524288 % 128 = d
  xa : w / 4096 % 128 = a
  vd : w / 524288 % 64 = d % 64
  va : w / 4096 % 64 = a % 64
  vdTop : w / 33554432 % 2 = d / 64
  vaTop : w / 262144 % 2 = a / 64
  plane : w / 32 % 4 = t
  pad : w / 256 % 16 = 0

theorem decode_plane {dec : Nat → Decoded} {r : Decoded} {c d a t : Nat} (hc : c % 67108864 < 256 ∧ c / 32 % 4 = 0 ∧ c / 67108864 % 64 ≠ 0) (hd : d < 128)
    (ha : a < 128) (ht : t < 4) (h : ∀ w, FieldsPlane w c d a t → dec w = r) : dec (c + d * 524288 + a * 4096 + t * 32) = r := by
  refine h _ ?_
  constructor <;> omega

/-- The syllable of a well-formed S-slot instruction decodes to it. -/
theorem decodeS_encode (i : Instr) (hw : i.wellFormed = true) (hp : i.place = .s ∨ i.place = .any) : decodeS (encode i) = .ok i := by
  cases i with
  | add d a b | sub d a b | and d a b | or d a b | xor d a b | sll d a b | srl d a b | sra d a b | min d a b | max d a b | minu d a b
  | maxu d a b | mul d a b | mulh d a b | mulhu d a b | div d a b | divu d a b | rem d a b | remu d a b | extu d a b | exts d a b
  | ins d a b | ldnB d a b | ldnH d a b | ldnW d a b | ldnD d a b | ldnBu d a b | ldnHu d a b | ldnWu d a b | stnB d a b | stnH d a b
  | stnW d a b | stnD d a b | waitstampNe d a b | waitstampTag d a b | fcfg d a b =>
    obtain ⟨hd, ha, hb⟩ := of_decide_eq_true hw
    refine decode_sR (by decide) hd ha hb fun w F => ?_
    simp only [decodeS, F.major, F.nonzero, F.fn, F.rd, F.ra, F.rb, decodeS01, decodeS02, decodeS04, decodeS18, decodeS19, decodeS29,
      decodeS30, Nat.reduceDiv, Nat.reduceMod, if_false]
  | cmpEq d a b | cmpNe d a b | cmpLt d a b | cmpGe d a b | cmpLtu d a b | cmpGeu d a b =>
    obtain ⟨hd, ha, hb⟩ := of_decide_eq_true hw
    refine decode_sR (by decide) (by omega) ha hb fun w F => ?_
    simp only [decodeS, F.major, F.nonzero, F.fn, F.ra, F.rb, F.pd, F.pdTop, decodeS03, need, Nat.reduceDiv, Nat.reduceMod, decide_true,
      if_false, Nat.div_eq_of_lt hd, Nat.mod_eq_of_lt hd]
  | pand d a b | por d a b | pxor d a b | pandn d a b =>
    obtain ⟨hd, ha, hb⟩ := of_decide_eq_true hw
    refine decode_sR (by decide) (by omega) (by omega) (by omega) fun w F => ?_
    simp only [decodeS, F.major, F.nonzero, F.fn, F.pd, F.pa, F.pb, F.pdTop, F.paTop, F.pbTop, decodeS03, need, Nat.reduceDiv,
      Nat.reduceMod, decide_true, if_false, Nat.div_eq_of_lt hd, Nat.mod_eq_of_lt hd, Nat.div_eq_of_lt ha, Nat.mod_eq_of_lt ha,
      Nat.div_eq_of_lt hb, Nat.mod_eq_of_lt hb]
  | clz d a | ctz d a | popc d a | jalr d a | waitstampAny d a =>
    obtain ⟨hd, ha⟩ := of_decide_eq_true hw
    refine decode_sR_da (by decide) hd ha fun w F => ?_
    simp only [decodeS, F.major, F.nonzero, F.fn, F.rd, F.ra, F.rb, decodeS04, decodeS22, decodeS29, need, Nat.reduceDiv, Nat.reduceMod,
      decide_true, if_false]
  | pmov d a | pset d a =>
    obtain ⟨hd, ha⟩ := of_decide_eq_true hw
    refine decode_sR_da (by decide) (by omega) (by omega) fun w F => ?_
    simp only [decodeS, F.major, F.nonzero, F.fn, F.rd, F.ra, F.rb, F.pd, F.pa, F.pdTop, F.paTop, decodeS03, need, Nat.reduceDiv,
      Nat.reduceMod, decide_true, if_false, Nat.div_eq_of_lt hd, Nat.mod_eq_of_lt hd, Nat.div_eq_of_lt ha, Nat.mod_eq_of_lt ha]
  | rvarr d b | tktake d b | csrr d b =>
    obtain ⟨hd, hb, hb'⟩ := of_decide_eq_true hw
    refine decode_sR_db (by decide) hd hb fun w F => ?_
    simp only [decodeS, F.major, F.nonzero, F.fn, F.rd, F.ra, F.rb, decodeS28, decodeS31, decodeS38, need, Nat.reduceDiv, Nat.reduceMod,
      decide_true, if_false, hb']
  | rvset a b | rvwait a b | csrw a b | csrs a b | csrc a b =>
    obtain ⟨ha, hb, hb'⟩ := of_decide_eq_true hw
    refine decode_sR_ab (by decide) ha hb fun w F => ?_
    simp only [decodeS, F.major, F.nonzero, F.fn, F.rd, F.ra, F.rb, decodeS28, decodeS38, need, Nat.reduceDiv, Nat.reduceMod, decide_true,
      if_false, hb']
  | tksend a b =>
    obtain ⟨ha, hb⟩ := of_decide_eq_true hw
    refine decode_sR_ab (by decide) ha hb fun w F => ?_
    simp only [decodeS, F.major, F.nonzero, F.fn, F.rd, F.ra, F.rb, decodeS31, need, Nat.reduceDiv, Nat.reduceMod, decide_true, if_false]
  | nop | fenceT | fenceD | fenceS | dualend | rett | exit =>
    rfl
  | slli d a n | srli d a n | srai d a n =>
    obtain ⟨hd, ha, hn⟩ := of_decide_eq_true hw
    refine decode_shift (by decide) hd ha hn fun w F => ?_
    simp only [decodeS, F.major, F.nonzero, F.rd, F.ra, F.fn, F.pad, F.count, decodeS0c, need, Nat.reduceDiv, Nat.reduceMod, decide_true,
      if_false]
  | cmpiEq d a i | cmpiNe d a i | cmpiLt d a i | cmpiGe d a i | cmpiLtu d a i | cmpiGeu d a i =>
    obtain ⟨hd, ha, hi⟩ := of_decide_eq_true hw
    refine decode_cmpi (by decide) hd ha hi fun w F => ?_
    simp only [decodeS, F.major, F.nonzero, F.pd, F.pdTop, F.ra, F.fn, F.imm, decodeS0d, need, Nat.reduceDiv, Nat.reduceMod, decide_true,
      if_false]
  | tget d a t | tset d a t =>
    obtain ⟨hd, ha, ht, ht'⟩ := of_decide_eq_true hw
    refine decode_plane (by decide) hd ha ht fun w F => ?_
    simp only [decodeS, F.major, F.nonzero, F.fn, F.kind, F.xd, F.xa, F.vd, F.va, F.vdTop, F.vaTop, F.plane, F.pad, bit, decodeS39, need,
      Nat.reduceDiv, Nat.reduceMod, Nat.reducePow, reduceCtorEq, Bool.false_eq_true, decide_true, decide_false, if_false, ht']
  | tgetV d a t | tsetV d a t =>
    obtain ⟨hd, ha, ht, ht'⟩ := of_decide_eq_true hw
    refine decode_plane (by decide) (by omega) (by omega) ht fun w F => ?_
    simp only [decodeS, F.major, F.nonzero, F.fn, F.kind, F.xd, F.xa, F.vd, F.va, F.vdTop, F.vaTop, F.plane, F.pad, bit, decodeS39, need,
      Nat.reduceDiv, Nat.reduceMod, Nat.reducePow, decide_true, if_true, if_false, ht', Nat.div_eq_of_lt hd, Nat.mod_eq_of_lt hd,
      Nat.div_eq_of_lt ha, Nat.mod_eq_of_lt ha]
  | tplane d a b =>
    obtain ⟨hd, ha, hb, hp⟩ := of_decide_eq_true hw
    refine decode_sR (by decide) hd ha hb fun w F => ?_
    simp only [decodeS, F.major, F.nonzero, F.fn, F.rd, F.ra, F.rb, decodeS39, need, Nat.reduceDiv, Nat.reduceMod, decide_true, if_false,
      hp, and_self]
  | rysave a | ryload a =>
    have ha := of_decide_eq_true hw
    refine decode_sR_a (by decide) ha fun w F => ?_
    simp only [decodeS, F.major, F.nonzero, F.fn, F.rd, F.ra, F.rb, decodeS3d, need, Nat.reduceDiv, Nat.reduceMod, decide_true, if_false]
  | frel b | trap b =>
    have hb := of_decide_eq_true hw
    refine decode_sR_b (by decide) hb fun w F => ?_
    simp only [decodeS, F.major, F.nonzero, F.fn, F.rd, F.ra, F.rb, decodeS30, decodeS3c, need, Nat.reduceDiv, Nat.reduceMod, decide_true,
      if_false]
  | dual b | regshrinkX b | regshrinkV b | reggrowX b | reggrowV b =>
    obtain ⟨hb, hb'⟩ := of_decide_eq_true hw
    refine decode_sR_b (by decide) hb fun w F => ?_
    simp only [decodeS, F.major, F.nonzero, F.fn, F.rd, F.ra, F.rb, decodeS39, decodeS3e, need, Nat.reduceDiv, Nat.reduceMod, decide_true,
      if_false, hb', and_self]
  | addi d a i | andi d a i | ori d a i | xori d a i | ldB d a i | ldH d a i | ldW d a i | ldD d a i | stB d a i | stH d a i | stW d a i
  | stD d a i =>
    obtain ⟨hd, ha, hi⟩ := of_decide_eq_true hw
    refine decode_sI (by decide) hd ha hi fun w F => ?_
    simp only [decodeS, F.major, F.nonzero, F.rd, F.ra, F.imm, decodeS08, decodeS09, decodeS0a, decodeS0b, decodeS10, decodeS11, decodeS12,
      decodeS13, decodeS14, decodeS15, decodeS16, decodeS17, Nat.reduceDiv, Nat.reduceMod, if_false]
  | lui d i | jal d i | br d i | brNot d i | loop d i | atn d a b o =>
    have hw := of_decide_eq_true hw
    delta encode
    dsimp only
    simp (disch := omega) only [decodeS, field_drop_low, field_read, field_drop_high, low_read, word_ne_zero, bit, decodeS0e, decodeS1a,
      decodeS20, decodeS21, decodeS23, need, if_false, if_true, hw, Nat.reduceDiv, Nat.reduceMod, Nat.reducePow, reduceCtorEq,
      Bool.false_eq_true, decide_true, decide_false]
  | _ => rcases hp with hp | hp <;> cases hp

/-! ## The V slot -/

/-- The fields of a V.R word (R163), with the narrower fields that some instructions read at the same places. -/
structure FieldsVR (w c d a b g : Nat) : Prop where
  major : w / 67108864 % 64 = c / 67108864 % 64
  nonzero : w % 4294967296 ≠ 0
  fn : w % 16 = c % 16
  vd : w / 1048576 % 64 = d
  va : w / 16384 % 64 = a
  vb : w / 256 % 64 = b
  pg : w / 16 % 16 = g
  pd : w / 1048576 % 16 = d % 16
  pdTop : w / 16777216 % 4 = d / 16

theorem decode_vR {dec : Nat → Decoded} {r : Decoded} {c d a b g : Nat} (hc : c % 67108864 < 16 ∧ c / 67108864 % 64 ≠ 0) (hd : d < 64) (ha : a < 64)
    (hb : b < 64) (hg : g < 16) (h : ∀ w, FieldsVR w c d a b g → dec w = r) : dec (c + d * 1048576 + a * 16384 + b * 256 + g * 16) = r := by
  refine h _ ?_
  constructor <;> omega

/-- A V.R word whose vb field is zero. -/
theorem decode_vR_dag {dec : Nat → Decoded} {r : Decoded} {c d a g : Nat} (hc : c % 67108864 < 16 ∧ c / 67108864 % 64 ≠ 0) (hd : d < 64) (ha : a < 64)
    (hg : g < 16) (h : ∀ w, FieldsVR w c d a 0 g → dec w = r) : dec (c + d * 1048576 + a * 16384 + g * 16) = r := by
  simpa using decode_vR (b := 0) hc hd ha (by decide) hg h

/-- The fields of a V.R word whose low bits hold a type or count and, instead of a function number, two fields of two bits (R228 to R231). -/
structure FieldsVC (w c d a t g f r : Nat) : Prop where
  major : w / 67108864 % 64 = c / 67108864 % 64
  nonzero : w % 4294967296 ≠ 0
  vd : w / 1048576 % 64 = d
  va : w / 16384 % 64 = a
  ty : w / 256 % 32 = t
  tyTop : w / 8192 % 2 = 0
  pg : w / 16 % 16 = g
  fmt : w / 4 % 4 = f
  rnd : w % 4 = r

theorem fieldsVC {w c d a t g f r : Nat} (hw : w = c + d * 1048576 + a * 16384 + t * 256 + g * 16 + f * 4 + r)
    (hc : c % 67108864 = 0 ∧ c / 67108864 % 64 ≠ 0) (hd : d < 64) (ha : a < 64) (ht : t < 32) (hg : g < 16) (hf : f < 4) (hr : r < 4) :
    FieldsVC w c d a t g f r := by
  constructor <;> omega

/-- The fields of a V.X word (R163), with the lane field of R234. -/
structure FieldsVX (w c d a i g : Nat) : Prop where
  major : w / 67108864 % 64 = c / 67108864 % 64
  nonzero : w % 4294967296 ≠ 0
  fn : w % 16 = c % 16
  vd : w / 1048576 % 64 = d
  xa : w / 8192 % 128 = a
  imm : w / 256 % 32 = i
  pg : w / 16 % 16 = g
  lane : w / 256 % 16 = i % 16
  laneTop : w / 4096 % 2 = i / 16

theorem decode_vX {dec : Nat → Decoded} {r : Decoded} {c d a i g : Nat} (hc : c % 67108864 < 16 ∧ c / 67108864 % 64 ≠ 0) (hd : d < 64) (ha : a < 128)
    (hi : i < 32) (hg : g < 16) (h : ∀ w, FieldsVX w c d a i g → dec w = r) : dec (c + d * 1048576 + a * 8192 + i * 256 + g * 16) = r := by
  refine h _ ?_
  constructor <;> omega

/-- A V.X word with a lane and no predicate. -/
theorem decode_vX_lane {dec : Nat → Decoded} {r : Decoded} {c d a m : Nat} (hc : c % 67108864 < 16 ∧ c / 67108864 % 64 ≠ 0) (hd : d < 64) (ha : a < 128)
    (hm : m < 32) (h : ∀ w, FieldsVX w c d a m 0 → dec w = r) : dec (c + d * 1048576 + a * 8192 + m * 256) = r := by
  simpa using decode_vX (g := 0) hc hd ha hm (by decide) h

/-- A V.X word with a predicate and no immediate. -/
theorem decode_vX_pg {dec : Nat → Decoded} {r : Decoded} {c d a g : Nat} (hc : c % 67108864 < 16 ∧ c / 67108864 % 64 ≠ 0) (hd : d < 64) (ha : a < 128)
    (hg : g < 16) (h : ∀ w, FieldsVX w c d a 0 g → dec w = r) : dec (c + d * 1048576 + a * 8192 + g * 16) = r := by
  simpa using decode_vX (i := 0) hc hd ha (by decide) hg h

/-- The syllable of a well-formed V-slot instruction decodes to it. -/
theorem decodeV_encode (i : Instr) (hw : i.wellFormed = true) (hp : i.place = .v) : decodeV (encode i) = .ok i := by
  cases i with
  | vadd d a b g | vsub d a b g | vmul d a b g | vmin d a b g | vmax d a b g | vfma d a b g | vfnma d a b g | viadd d a b g | visub d a b g
  | vimul d a b g | vimin d a b g | vimax d a b g | vsll d a b g | vsrl d a b g | vsra d a b g | vand d a b g | vor d a b g | vxor d a b g
  | vandn d a b g | vsel d a b g | vperm d a b g | vdiv d a b g =>
    obtain ⟨hd, ha, hb, hg⟩ := of_decide_eq_true hw
    refine decode_vR (by decide) hd ha hb hg fun w F => ?_
    simp only [decodeV, F.major, F.nonzero, F.fn, F.vd, F.va, F.vb, F.pg, decodeV01, decodeV02, decodeV03, decodeV04, decodeV06, decodeV07,
      decodeV0a, Nat.reduceDiv, Nat.reduceMod, if_false]
  | vcmpEqF d a b g | vcmpLtF d a b g | vcmpLeF d a b g | vcmpEqI d a b g | vcmpLtI d a b g =>
    obtain ⟨hd, ha, hb, hg⟩ := of_decide_eq_true hw
    refine decode_vR (by decide) (by omega) ha hb hg fun w F => ?_
    simp only [decodeV, F.major, F.nonzero, F.fn, F.va, F.vb, F.pg, F.pd, F.pdTop, decodeV05, need, Nat.reduceDiv, Nat.reduceMod,
      decide_true, if_false, Nat.div_eq_of_lt hd, Nat.mod_eq_of_lt hd]
  | vbcast d a m g =>
    obtain ⟨hd, ha, hm, hg, hm'⟩ := of_decide_eq_true hw
    refine decode_vR (by decide) hd ha hm hg fun w F => ?_
    simp only [decodeV, F.major, F.nonzero, F.fn, F.vd, F.va, F.vb, F.pg, decodeV07, need, Nat.reduceDiv, Nat.reduceMod, decide_true, if_false, hm']
  | vabs d a g | vneg d a g | vredadd d a g | vredmax d a g | vrediadd d a g | vexp2 d a g | vlog2 d a g | vrcp d a g | vrsqrt d a g
  | vtanh d a g | vsigm d a g | vsqrt d a g =>
    obtain ⟨hd, ha, hg⟩ := of_decide_eq_true hw
    refine decode_vR_dag (by decide) hd ha hg fun w F => ?_
    simp only [decodeV, F.major, F.nonzero, F.fn, F.vd, F.va, F.vb, F.pg, decodeV01, decodeV08, decodeV09, decodeV0a, need, Nat.reduceDiv, Nat.reduceMod, decide_true, if_false]
  | vld d a i g | vldb d a i g | vst d a i g | vldn d a i g | vstn d a i g =>
    obtain ⟨hd, ha, hi, hg⟩ := of_decide_eq_true hw
    refine decode_vX (by decide) hd ha hi hg fun w F => ?_
    simp only [decodeV, F.major, F.nonzero, F.fn, F.vd, F.xa, F.imm, F.pg, decodeV10, decodeV11, decodeV12, decodeV13, Nat.reduceDiv,
      Nat.reduceMod, if_false]
  | vins d a m | vext d a m | vexts d a m =>
    obtain ⟨hd, ha, hm⟩ := of_decide_eq_true hw
    refine decode_vX_lane (by decide) hd ha (by omega) fun w F => ?_
    simp only [decodeV, F.major, F.nonzero, F.fn, F.vd, F.xa, F.pg, F.lane, F.laneTop, decodeV14, need, Nat.reduceDiv, Nat.reduceMod, decide_true, if_false, Nat.div_eq_of_lt hm, Nat.mod_eq_of_lt hm]
  | vsplat d a g =>
    obtain ⟨hd, ha, hg⟩ := of_decide_eq_true hw
    refine decode_vX_pg (by decide) hd ha hg fun w F => ?_
    simp only [decodeV, F.major, F.nonzero, F.fn, F.vd, F.xa, F.imm, F.pg, decodeV14, need, Nat.reduceDiv, Nat.reduceMod, decide_true, if_false]
  | vcvtTo d a t g r =>
    obtain ⟨hd, ha, ht, hg, hr, hty⟩ := of_decide_eq_true hw
    have F := fieldsVC (w := encode (.vcvtTo d a t g r)) (c := 738197504) (f := 0) (by delta encode; dsimp only; omega) (by decide) hd ha ht hg (by decide) hr
    simp only [decodeV, F.major, F.nonzero, F.vd, F.va, F.ty, F.tyTop, F.pg, F.fmt, F.rnd, decodeV0b, need, Nat.reduceDiv, Nat.reduceMod,
      decide_true, if_false, hty]
  | vcvtFrom d a t g r =>
    obtain ⟨hd, ha, ht, hg, hr, hty, hex⟩ := of_decide_eq_true hw
    have F := fieldsVC (w := encode (.vcvtFrom d a t g r)) (c := 738197504) (f := 1) (by delta encode; dsimp only; omega) (by decide) hd ha ht hg (by decide) hr
    simp only [decodeV, F.major, F.nonzero, F.vd, F.va, F.ty, F.tyTop, F.pg, F.fmt, F.rnd, decodeV0b, need, Nat.reduceDiv, Nat.reduceMod,
      decide_true, if_false, hty, hex]
  | vscale d a n f =>
    obtain ⟨hd, ha, hn, hf, hev⟩ := of_decide_eq_true hw
    have F := fieldsVC (w := encode (.vscale d a n f)) (c := 805306368) (g := 0) (r := 0) (by delta encode; dsimp only; omega) (by decide) hd ha hn (by decide) hf (by decide)
    simp only [decodeV, F.major, F.nonzero, F.vd, F.va, F.ty, F.tyTop, F.pg, F.fmt, F.rnd, decodeV0c, need, Nat.reduceDiv, Nat.reduceMod,
      decide_true, if_false, hev]
  | vquant d a n f r =>
    obtain ⟨hd, ha, hn, hf, hr, hev⟩ := of_decide_eq_true hw
    have F := fieldsVC (w := encode (.vquant d a n f r)) (c := 872415232) (g := 0) (by delta encode; dsimp only; omega) (by decide) hd ha hn (by decide) hf hr
    simp only [decodeV, F.major, F.nonzero, F.vd, F.va, F.ty, F.tyTop, F.pg, F.fmt, F.rnd, decodeV0d, need, Nat.reduceDiv, Nat.reduceMod,
      decide_true, if_false, hev]
  | _ => cases hp

/-! ## The M slot -/

/-- The syllable of a well-formed M-slot instruction decodes to it. -/
theorem decodeM_encode (i : Instr) (hw : i.wellFormed = true) (hp : i.place = .m) : decodeM (encode i) = .ok i := by
  cases i with
  | mxstep a b | mxdrain a b c | mxzero a c | mxsave a b u t | mxrest a b u | mxpair a b g | mxstat a d | xfwd a b s | xinv a b =>
    have hw := of_decide_eq_true hw
    delta encode
    dsimp only
    simp (disch := omega) only [decodeM, field_drop_low, field_read, field_drop_high, low_drop, low_read, word_ne_zero, decodeM01,
      decodeM02, decodeM03, decodeM04, decodeM05, decodeM06, decodeM07, decodeM08, decodeM09, need, if_false, Nat.reduceDiv, Nat.reduceMod,
      decide_true]
  | _ => cases hp

/-! ## The C slot -/

/-- The fields of a C.R word (R163). -/
structure FieldsCR (w c d a b : Nat) : Prop where
  major : w / 67108864 % 64 = c / 67108864 % 64
  nonzero : w % 4294967296 ≠ 0
  fn : w / 2097152 % 32 = c / 2097152 % 32
  xd : w / 16384 % 128 = d
  xa : w / 128 % 128 = a
  xb : w % 128 = b

theorem decode_cR {dec : Nat → Decoded} {r : Decoded} {c d a b : Nat} (hc : c % 2097152 = 0 ∧ c / 67108864 % 64 ≠ 0) (hd : d < 128) (ha : a < 128)
    (hb : b < 128) (h : ∀ w, FieldsCR w c d a b → dec w = r) : dec (c + d * 16384 + a * 128 + b) = r := by
  refine h _ ?_
  constructor <;> omega

/-- The syllable of a well-formed C-slot instruction decodes to it. -/
theorem decodeC_encode (i : Instr) (hw : i.wellFormed = true) (hp : i.place = .c) : decodeC (encode i) = .ok i := by
  cases i with
  | rdstr d a b | rdsieve d a b | rdfold d a b | rdmat d a b | rdfp d a b | rdcmp d a b | upd d a b | dep d a b | land d a b | bvload d a b
  | importHost d a b | exportHost d a b | stream d a b | crsmode d a b | cursor d a b | kvlook d a b | kvapp d a b | kvfork d a b
  | kvtrunc d a b | kvflat d a b | kvdep d a b | playset d a b | framein d a b | stateck d a b =>
    obtain ⟨hd, ha, hb⟩ := of_decide_eq_true hw
    refine decode_cR (by decide) hd ha hb fun w F => ?_
    simp only [decodeC, F.major, F.nonzero, F.fn, F.xd, F.xa, F.xb, decodeC01, decodeC02, Nat.reduceDiv, Nat.reduceMod, if_false]
  | _ => cases hp

/-! ## The CE ring -/

/-- The fields of a CE op word (R172): `c` holds the opcode and, where the instruction fixes it, TYPE. -/
structure FieldsCE (w c t m r i : Nat) : Prop where
  op : w / 262144 % 64 = c / 262144 % 64
  type : w / 32768 % 8 = c / 32768 % 8 + t
  dmode : w / 8192 % 4 = m
  rnd : w / 2048 % 4 = r
  low : w % 2048 = i
  imm : w % 64 = i % 64
  immTop : w / 64 % 32 = i / 64
  code : w % 4 = i % 4
  codeTop : w / 4 % 512 = i / 4
  flag : w % 2 = i % 2
  flagTop : w / 2 % 1024 = i / 2

/-- A CE op word may be read by its fields. -/
theorem decode_ce {α : Type} {dec : Nat → α} {x : α} {c t m r i : Nat} (hc : c % 32768 = 0) (ht : c / 32768 % 8 + t < 8) (hm : m < 4) (hr : r < 4)
    (hi : i < 2048) (h : ∀ w, FieldsCE w c t m r i → dec w = x) : dec (c + t * 32768 + m * 8192 + r * 2048 + i) = x := by
  refine h _ ?_
  constructor <;> omega

theorem decode_ce_tm {α : Type} {dec : Nat → α} {x : α} {c t m : Nat} (hc : c % 32768 = 0) (ht : c / 32768 % 8 + t < 8) (hm : m < 4)
    (h : ∀ w, FieldsCE w c t m 0 0 → dec w = x) : dec (c + t * 32768 + m * 8192) = x := by
  simpa using decode_ce (r := 0) (i := 0) hc ht hm (by decide) (by decide) h

theorem decode_ce_tmr {α : Type} {dec : Nat → α} {x : α} {c t m r : Nat} (hc : c % 32768 = 0) (ht : c / 32768 % 8 + t < 8) (hm : m < 4) (hr : r < 4)
    (h : ∀ w, FieldsCE w c t m r 0 → dec w = x) : dec (c + t * 32768 + m * 8192 + r * 2048) = x := by
  simpa using decode_ce (i := 0) hc ht hm hr (by decide) h

theorem decode_ce_tmi {α : Type} {dec : Nat → α} {x : α} {c t m i : Nat} (hc : c % 32768 = 0) (ht : c / 32768 % 8 + t < 8) (hm : m < 4) (hi : i < 2048)
    (h : ∀ w, FieldsCE w c t m 0 i → dec w = x) : dec (c + t * 32768 + m * 8192 + i) = x := by
  simpa using decode_ce (r := 0) hc ht hm (by decide) hi h

theorem decode_ce_mr {α : Type} {dec : Nat → α} {x : α} {c m r : Nat} (hc : c % 32768 = 0) (hm : m < 4) (hr : r < 4)
    (h : ∀ w, FieldsCE w c 0 m r 0 → dec w = x) : dec (c + m * 8192 + r * 2048) = x := by
  simpa using decode_ce (t := 0) (i := 0) hc (Nat.mod_lt _ (by decide)) hm hr (by decide) h

theorem decode_ce_m {α : Type} {dec : Nat → α} {x : α} {c m : Nat} (hc : c % 32768 = 0) (hm : m < 4) (h : ∀ w, FieldsCE w c 0 m 0 0 → dec w = x) :
    dec (c + m * 8192) = x := by
  simpa using decode_ce (t := 0) (r := 0) (i := 0) hc (Nat.mod_lt _ (by decide)) hm (by decide) (by decide) h

/-- The word of a well-formed CE instruction decodes to it. -/
theorem decodeCe_encode (i : Instr) (hw : i.wellFormed = true) (hp : i.place = .ce) : decodeCe (encode i) = some i := by
  cases i with
  | ceNop => rfl
  | ceMov m | ceAnd m | ceOr m | ceXor m | ceCconj m | ceLmul m | ceIdx m | ceHdr m | cePay m =>
    have hm := of_decide_eq_true hw
    refine decode_ce_m (by decide) hm fun w F => ?_
    simp only [decodeCe, F.op, F.type, F.dmode, F.rnd, F.low, Nat.reduceDiv, Nat.reduceMod, Nat.reduceAdd, Nat.zero_add, and_self, if_true]
  | ceExp2 m r | ceLog2 m r | ceRcp m r | ceRsqrt m r | ceTanh m r | ceSigm m r | ceCmul m r | ceCmac m r | ceLmac m r | ceLdot4 m r
  | ceTmerge m r =>
    obtain ⟨hm, hr⟩ := of_decide_eq_true hw
    refine decode_ce_mr (by decide) hm hr fun w F => ?_
    simp only [decodeCe, F.op, F.type, F.dmode, F.rnd, F.low, Nat.reduceDiv, Nat.reduceMod, Nat.reduceAdd, Nat.zero_add, and_self, if_true]
  | ceAdd t m r | ceSub t m r | ceMul t m r | ceHsum t m r =>
    obtain ⟨ht, hm, hr, htype, hrnd⟩ := of_decide_eq_true hw
    refine decode_ce_tmr (by decide) (by simpa using ht) hm hr fun w F => ?_
    simp only [decodeCe, F.op, F.type, F.dmode, F.rnd, F.low, Nat.reduceDiv, Nat.reduceMod, Nat.zero_add, and_self, if_true, htype, hrnd]
  | ceFma t m r | ceFms t m r =>
    obtain ⟨ht, hm, hr, htype⟩ := of_decide_eq_true hw
    refine decode_ce_tmr (by decide) (by simpa using ht) hm hr fun w F => ?_
    simp only [decodeCe, F.op, F.type, F.dmode, F.rnd, F.low, Nat.reduceDiv, Nat.reduceMod, Nat.zero_add, and_self, if_true, htype]
  | ceMin t m | ceMax t m | ceAbs t m | ceNeg t m | ceRelu t m | ceCmpeq t m | ceCmplt t m | ceCmple t m | ceSel t m | ceHmax t m =>
    obtain ⟨ht, hm, htype⟩ := of_decide_eq_true hw
    refine decode_ce_tm (by decide) (by simpa using ht) hm fun w F => ?_
    simp only [decodeCe, F.op, F.type, F.dmode, F.rnd, F.low, Nat.reduceDiv, Nat.reduceMod, Nat.zero_add, and_self, if_true, htype]
  | ceShl t m i | ceShr t m i | ceSra t m i =>
    obtain ⟨ht, hm, hi, htype, himm⟩ := of_decide_eq_true hw
    refine decode_ce_tmi (by decide) (by simpa using ht) hm (by omega) fun w F => ?_
    simp only [decodeCe, F.op, F.type, F.dmode, F.rnd, F.imm, F.immTop, Nat.reduceDiv, Nat.reduceMod, Nat.zero_add, and_self, if_true,
      Nat.mod_eq_of_lt hi, Nat.div_eq_of_lt hi, htype, himm]
  | ceCvt t m r c =>
    obtain ⟨ht, hm, hr, hc, htype, hne, hlg⟩ := of_decide_eq_true hw
    refine decode_ce (by decide) (by simpa using ht) hm hr (by omega) fun w F => ?_
    simp only [decodeCe, F.op, F.type, F.dmode, F.rnd, F.code, F.codeTop, Nat.reduceDiv, Nat.reduceMod, Nat.zero_add, and_self, if_true,
      Nat.mod_eq_of_lt hc, Nat.div_eq_of_lt hc, htype, hne, hlg, ne_eq, not_false_eq_true]
  | ceTemit c =>
    have hall : ∀ n < 2, decodeCe (encode (.ceTemit n)) = some (.ceTemit n) := by decide +kernel
    exact hall c (of_decide_eq_true hw)
  | _ => cases hp

/-! ## The node, generator and converter rings -/

theorem decodeNode_encode (i : Instr) (hw : i.wellFormed = true) (hp : i.place = .node) : decodeNode (encode i) = some i := by
  cases i with
  | nnop | nw | nr | nwr => rfl
  | nat o =>
    show decodeNode (8192 + o * 512) = _
    rw [Nat.mul_comm]
    exact decodeNode_nat (of_decide_eq_true hw).2
  | _ => cases hp

theorem decodeGen_encode (i : Instr) (hw : i.wellFormed = true) (hp : i.place = .gen) : decodeGen (encode i) = some i := by
  cases i with
  | gnop => rfl
  | gemit p =>
    have hall : ∀ q < 8, decodeGen (encode (.gemit q)) = some (.gemit q) := by decide +kernel
    exact hall p (of_decide_eq_true hw)
  | _ => cases hp

theorem decodeConv_encode (i : Instr) (hp : i.place = .conv) : decodeConv (encode i) = some i := by
  cases i with
  | cnop | cin | cout | cinCout | cclose | cinCclose | coutCclose | cinCoutCclose => rfl
  | _ => cases hp

/-! ## The obligations -/

/-- Settles O3, format by format (`decodeS_encode`). -/
theorem roundTripScalar : Obligations.RoundTripScalar := by
  intro i hw hp
  rw [decodeAt, decodeS_encode i hw hp, Decoded.instr]

/-- Settles O4, format by format (`decodeV_encode`). -/
theorem roundTripVector : Obligations.RoundTripVector := by
  intro i hw hp
  rw [decodeAt, decodeV_encode i hw hp, Decoded.instr]

/-- Settles O5, slot by slot and ring by ring. -/
theorem roundTripOther : Obligations.RoundTripOther := by
  intro i hw hp
  simp only [List.mem_cons, List.not_mem_nil, or_false] at hp
  rcases hp with hp | hp | hp | hp | hp | hp <;> rw [hp, decodeAt]
  · rw [decodeM_encode i hw hp, Decoded.instr]
  · rw [decodeC_encode i hw hp, Decoded.instr]
  · exact decodeCe_encode i hw hp
  · exact decodeNode_encode i hw hp
  · exact decodeGen_encode i hw hp
  · exact decodeConv_encode i hp

end Sys2Proof.Machine

/-! # What the decoder accepts is well formed and is that word

The decoder's branches are followed down to their leaves (`Reads`); at each leaf the fields read are put together to the word again. -/

namespace Sys2Proof.Machine

theorem need_eq_ok {l : List (Bool × Nat)} {i j : Instr} : need l i = .ok j ↔ (∀ c ∈ l, c.1 = true) ∧ i = j := by
  induction l with
  | nil => simp [need]
  | cons c l ih =>
    obtain ⟨b, n⟩ := c
    cases b <;> simp [need, ih]

/-- The instruction stands for the word `w` of slot `p`: well formed, that word's own instruction, and of the slot. -/
def StandsFor (p : Place) (w : Nat) (i : Instr) : Prop := i.wellFormed = true ∧ encode i = w ∧ (i.place = p ∨ i = .nop)

/-- Whatever instruction is answered stands for `w`. -/
def Reads (p : Place) (w : Nat) (d : Decoded) : Prop := ∀ i, d = .ok i → StandsFor p w i

theorem reads_ok {p : Place} {w : Nat} {i : Instr} : Reads p w (.ok i) ↔ StandsFor p w i := by simp [Reads]

theorem reads_bad {p : Place} {w n : Nat} {i : Option Instr} : Reads p w (.bad n i) ↔ True := by simp [Reads]

theorem reads_need {p : Place} {w : Nat} {l : List (Bool × Nat)} {i : Instr} :
    Reads p w (need l i) ↔ ((∀ c ∈ l, c.1 = true) → StandsFor p w i) := by
  simp only [Reads, need_eq_ok]
  exact ⟨fun h hc => h i ⟨hc, rfl⟩, fun h j ⟨hc, hj⟩ => hj ▸ h hc⟩

/-- The zero syllable is NOP in every slot (R161). -/
theorem standsFor_nop {p : Place} {w : Nat} (hw : w < 2 ^ 32) (h : w % 4294967296 = 0) : StandsFor p w .nop := by
  have h0 : (0 : Nat) = w := by omega
  exact ⟨rfl, h0, .inr rfl⟩

/-- A word whose major opcode lies among `k` numbers from `lo` is read in each of the `k` cases. -/
theorem reads_of_range' {p : Place} {w op : Nat} {d : Decoded} (lo k : Nat) (ho : w / 67108864 % 64 = op) (hl : lo ≤ op) (hu : op < lo + k)
    (h : ∀ n ∈ List.range' lo k, w / 67108864 % 64 = n → Reads p w d) : Reads p w d :=
  h op (List.mem_range'_1.mpr ⟨hl, hu⟩) ho

/-! ## The S slot -/

/-- Major opcodes 0x01 and 0x02: arithmetic. -/
theorem decodeS_reads_0_3 {w op : Nat} (hw : w < 2 ^ 32) (h0 : ¬ w % 4294967296 = 0) (ho : w / 67108864 % 64 = op) (hl : 0 ≤ op)
    (hu : op < 3) : Reads .s w (decodeS w) := by
  refine reads_of_range' 0 3 ho hl hu ?_
  simp only [List.range', List.forall_mem_cons, List.not_mem_nil, false_implies, implies_true, and_true, Nat.reduceAdd]
  and_intros
  all_goals
    clear ho
    intro ho
    rw [decodeS, if_neg h0]
    simp only [ho, decodeS01, decodeS02]
    repeat' split
  all_goals
    simp only [reads_ok, reads_bad]
  all_goals
    refine ⟨?_, ?_, .inl rfl⟩
    · delta Instr.wellFormed; grind
    · delta encode; dsimp only; omega

/-- Major opcodes 0x03 to 0x0E: compares, bit fields, immediates. -/
theorem decodeS_reads_3_16 {w op : Nat} (hw : w < 2 ^ 32) (h0 : ¬ w % 4294967296 = 0) (ho : w / 67108864 % 64 = op) (hl : 3 ≤ op)
    (hu : op < 16) : Reads .s w (decodeS w) := by
  refine reads_of_range' 3 13 ho hl hu ?_
  simp only [List.range', List.forall_mem_cons, List.not_mem_nil, false_implies, implies_true, and_true, Nat.reduceAdd]
  and_intros
  all_goals
    clear ho
    intro ho
    rw [decodeS, if_neg h0]
    simp only [ho, decodeS03, decodeS04, decodeS08, decodeS09, decodeS0a, decodeS0b, decodeS0c, decodeS0d, decodeS0e]
    repeat' split
  all_goals
    simp only [reads_ok, reads_bad, reads_need, List.forall_mem_cons, decide_eq_true_eq]
  all_goals
    intros
    refine ⟨?_, ?_, .inl rfl⟩
    · delta Instr.wellFormed; grind
    · delta encode; dsimp only; omega

/-- Major opcodes 0x10 to 0x23: memory, nodes, branches, loops. -/
theorem decodeS_reads_16_40 {w op : Nat} (hw : w < 2 ^ 32) (h0 : ¬ w % 4294967296 = 0) (ho : w / 67108864 % 64 = op) (hl : 16 ≤ op)
    (hu : op < 40) : Reads .s w (decodeS w) := by
  refine reads_of_range' 16 24 ho hl hu ?_
  simp only [List.range', List.forall_mem_cons, List.not_mem_nil, false_implies, implies_true, and_true, Nat.reduceAdd]
  and_intros
  all_goals
    clear ho
    intro ho
    rw [decodeS, if_neg h0]
    simp only [ho, bit, decide_eq_true_eq, Nat.reducePow, decodeS10, decodeS11, decodeS12, decodeS13, decodeS14, decodeS15, decodeS16, decodeS17, decodeS18, decodeS19, decodeS1a, decodeS20, decodeS21, decodeS22, decodeS23]
    repeat' split
  all_goals
    simp only [reads_ok, reads_bad, reads_need, List.forall_mem_cons, decide_eq_true_eq]
  all_goals
    intros
    refine ⟨?_, ?_, .inl rfl⟩
    · delta Instr.wellFormed; grind
    · delta encode; dsimp only; omega

/-- Major opcodes 0x28 to 0x39: rendezvous, stamps, fences, regions, tokens, CSRs, tangents. -/
theorem decodeS_reads_40_60 {w op : Nat} (hw : w < 2 ^ 32) (h0 : ¬ w % 4294967296 = 0) (ho : w / 67108864 % 64 = op) (hl : 40 ≤ op)
    (hu : op < 60) : Reads .s w (decodeS w) := by
  refine reads_of_range' 40 20 ho hl hu ?_
  simp only [List.range', List.forall_mem_cons, List.not_mem_nil, false_implies, implies_true, and_true, Nat.reduceAdd]
  and_intros
  all_goals
    clear ho
    intro ho
    rw [decodeS, if_neg h0]
    simp only [ho, bit, decide_eq_true_eq, Nat.reducePow, decodeS28, decodeS29, decodeS2a, decodeS30, decodeS31, decodeS38, decodeS39]
    repeat' split
  all_goals
    simp only [reads_ok, reads_bad, reads_need, List.forall_mem_cons, decide_eq_true_eq]
  all_goals
    intros
    refine ⟨?_, ?_, .inl rfl⟩
    · delta Instr.wellFormed; grind
    · delta encode; dsimp only; omega

/-- Major opcodes 0x3C to 0x3F: traps, replay, allotments, EXIT. -/
theorem decodeS_reads_60_64 {w op : Nat} (hw : w < 2 ^ 32) (h0 : ¬ w % 4294967296 = 0) (ho : w / 67108864 % 64 = op) (hl : 60 ≤ op)
    (hu : op < 64) : Reads .s w (decodeS w) := by
  refine reads_of_range' 60 4 ho hl hu ?_
  simp only [List.range', List.forall_mem_cons, List.not_mem_nil, false_implies, implies_true, and_true, Nat.reduceAdd]
  and_intros
  all_goals
    clear ho
    intro ho
    rw [decodeS, if_neg h0]
    simp only [ho, decodeS3c, decodeS3d, decodeS3e, decodeS3f]
    repeat' split
  all_goals
    simp only [reads_bad, reads_need, List.forall_mem_cons, decide_eq_true_eq]
  all_goals
    intros
    refine ⟨?_, ?_, .inl rfl⟩
    · delta Instr.wellFormed; grind
    · delta encode; dsimp only; omega

theorem decodeS_reads {w : Nat} (hw : w < 2 ^ 32) : Reads .s w (decodeS w) := by
  by_cases h0 : w % 4294967296 = 0
  · rw [decodeS, if_pos h0, reads_ok]
    exact standsFor_nop hw h0
  obtain ⟨op, ho⟩ : ∃ op, w / 67108864 % 64 = op := ⟨_, rfl⟩
  have hop : op < 64 := ho ▸ Nat.mod_lt _ (by decide)
  rcases Nat.lt_or_ge op 3 with h | h
  · exact decodeS_reads_0_3 hw h0 ho (by omega) h
  rcases Nat.lt_or_ge op 16 with h | h
  · exact decodeS_reads_3_16 hw h0 ho (by omega) h
  rcases Nat.lt_or_ge op 40 with h | h
  · exact decodeS_reads_16_40 hw h0 ho (by omega) h
  rcases Nat.lt_or_ge op 60 with h | h
  · exact decodeS_reads_40_60 hw h0 ho (by omega) h
  exact decodeS_reads_60_64 hw h0 ho (by omega) hop

/-! ## The V slot -/

/-- Major opcodes 0x01 to 0x04: lane arithmetic. -/
theorem decodeV_reads_0_5 {w op : Nat} (hw : w < 2 ^ 32) (h0 : ¬ w % 4294967296 = 0) (ho : w / 67108864 % 64 = op) (hl : 0 ≤ op)
    (hu : op < 5) : Reads .v w (decodeV w) := by
  refine reads_of_range' 0 5 ho hl hu ?_
  simp only [List.range', List.forall_mem_cons, List.not_mem_nil, false_implies, implies_true, and_true, Nat.reduceAdd]
  and_intros
  all_goals
    clear ho
    intro ho
    rw [decodeV, if_neg h0]
    simp only [ho, decodeV01, decodeV02, decodeV03, decodeV04]
    repeat' split
  all_goals
    simp only [reads_ok, reads_bad, reads_need, List.forall_mem_cons, decide_eq_true_eq]
  all_goals
    intros
    refine ⟨?_, ?_, .inl rfl⟩
    · delta Instr.wellFormed; grind
    · delta encode; dsimp only; omega

/-- Major opcodes 0x05 to 0x0B: compares, moves, reductions, functions, conversions. -/
theorem decodeV_reads_5_12 {w op : Nat} (hw : w < 2 ^ 32) (h0 : ¬ w % 4294967296 = 0) (ho : w / 67108864 % 64 = op) (hl : 5 ≤ op)
    (hu : op < 12) : Reads .v w (decodeV w) := by
  refine reads_of_range' 5 7 ho hl hu ?_
  simp only [List.range', List.forall_mem_cons, List.not_mem_nil, false_implies, implies_true, and_true, Nat.reduceAdd]
  and_intros
  all_goals
    clear ho
    intro ho
    rw [decodeV, if_neg h0]
    simp only [ho, decodeV05, decodeV06, decodeV07, decodeV08, decodeV09, decodeV0a, decodeV0b]
    repeat' split
  all_goals
    simp only [reads_ok, reads_bad, reads_need, List.forall_mem_cons, decide_eq_true_eq]
  all_goals
    intros
    refine ⟨?_, ?_, .inl rfl⟩
    · delta Instr.wellFormed; grind
    · delta encode; dsimp only; omega

/-- Major opcodes 0x0C to 0x14: block packets, memory, moves to and from x registers. -/
theorem decodeV_reads_12_64 {w op : Nat} (hw : w < 2 ^ 32) (h0 : ¬ w % 4294967296 = 0) (ho : w / 67108864 % 64 = op) (hl : 12 ≤ op)
    (hu : op < 64) : Reads .v w (decodeV w) := by
  refine reads_of_range' 12 52 ho hl hu ?_
  simp only [List.range', List.forall_mem_cons, List.not_mem_nil, false_implies, implies_true, and_true, Nat.reduceAdd]
  and_intros
  all_goals
    clear ho
    intro ho
    rw [decodeV, if_neg h0]
    simp only [ho, decodeV0c, decodeV0d, decodeV10, decodeV11, decodeV12, decodeV13, decodeV14]
    repeat' split
  all_goals
    simp only [reads_ok, reads_bad, reads_need, List.forall_mem_cons, decide_eq_true_eq]
  all_goals
    intros
    refine ⟨?_, ?_, .inl rfl⟩
    · delta Instr.wellFormed; grind
    · delta encode; dsimp only; omega

theorem decodeV_reads {w : Nat} (hw : w < 2 ^ 32) : Reads .v w (decodeV w) := by
  by_cases h0 : w % 4294967296 = 0
  · rw [decodeV, if_pos h0, reads_ok]
    exact standsFor_nop hw h0
  obtain ⟨op, ho⟩ : ∃ op, w / 67108864 % 64 = op := ⟨_, rfl⟩
  have hop : op < 64 := ho ▸ Nat.mod_lt _ (by decide)
  rcases Nat.lt_or_ge op 5 with h | h
  · exact decodeV_reads_0_5 hw h0 ho (by omega) h
  rcases Nat.lt_or_ge op 12 with h | h
  · exact decodeV_reads_5_12 hw h0 ho (by omega) h
  exact decodeV_reads_12_64 hw h0 ho (by omega) hop

/-! ## The M slot -/

/-- All major opcodes of the M slot. -/
theorem decodeM_reads_0_64 {w op : Nat} (hw : w < 2 ^ 32) (h0 : ¬ w % 4294967296 = 0) (ho : w / 67108864 % 64 = op) (hl : 0 ≤ op)
    (hu : op < 64) : Reads .m w (decodeM w) := by
  refine reads_of_range' 0 64 ho hl hu ?_
  simp only [List.range', List.forall_mem_cons, List.not_mem_nil, false_implies, implies_true, and_true, Nat.reduceAdd]
  and_intros
  all_goals
    clear ho
    intro ho
    rw [decodeM, if_neg h0]
    simp only [ho, decodeM01, decodeM02, decodeM03, decodeM04, decodeM05, decodeM06, decodeM07, decodeM08, decodeM09]
  all_goals
    simp only [reads_bad, reads_need, List.forall_mem_cons, decide_eq_true_eq]
  all_goals
    intros
    refine ⟨?_, ?_, .inl rfl⟩
    · delta Instr.wellFormed; grind
    · delta encode; dsimp only; omega

theorem decodeM_reads {w : Nat} (hw : w < 2 ^ 32) : Reads .m w (decodeM w) := by
  by_cases h0 : w % 4294967296 = 0
  · rw [decodeM, if_pos h0, reads_ok]
    exact standsFor_nop hw h0
  obtain ⟨op, ho⟩ : ∃ op, w / 67108864 % 64 = op := ⟨_, rfl⟩
  have hop : op < 64 := ho ▸ Nat.mod_lt _ (by decide)
  exact decodeM_reads_0_64 hw h0 ho (by omega) hop

/-! ## The C slot -/

/-- Major opcode 0x01: riders. -/
theorem decodeC_reads_0_2 {w op : Nat} (hw : w < 2 ^ 32) (h0 : ¬ w % 4294967296 = 0) (ho : w / 67108864 % 64 = op) (hl : 0 ≤ op)
    (hu : op < 2) : Reads .c w (decodeC w) := by
  refine reads_of_range' 0 2 ho hl hu ?_
  simp only [List.range', List.forall_mem_cons, List.not_mem_nil, false_implies, implies_true, and_true, Nat.reduceAdd]
  and_intros
  all_goals
    clear ho
    intro ho
    rw [decodeC, if_neg h0]
    simp only [ho, decodeC01]
    repeat' split
  all_goals
    simp only [reads_ok, reads_bad]
  all_goals
    refine ⟨?_, ?_, .inl rfl⟩
    · delta Instr.wellFormed; grind
    · delta encode; dsimp only; omega

/-- Major opcode 0x02: sequences. -/
theorem decodeC_reads_2_64 {w op : Nat} (hw : w < 2 ^ 32) (h0 : ¬ w % 4294967296 = 0) (ho : w / 67108864 % 64 = op) (hl : 2 ≤ op)
    (hu : op < 64) : Reads .c w (decodeC w) := by
  refine reads_of_range' 2 62 ho hl hu ?_
  simp only [List.range', List.forall_mem_cons, List.not_mem_nil, false_implies, implies_true, and_true, Nat.reduceAdd]
  and_intros
  all_goals
    clear ho
    intro ho
    rw [decodeC, if_neg h0]
    simp only [ho, decodeC02]
    repeat' split
  all_goals
    simp only [reads_ok, reads_bad]
  all_goals
    refine ⟨?_, ?_, .inl rfl⟩
    · delta Instr.wellFormed; grind
    · delta encode; dsimp only; omega

theorem decodeC_reads {w : Nat} (hw : w < 2 ^ 32) : Reads .c w (decodeC w) := by
  by_cases h0 : w % 4294967296 = 0
  · rw [decodeC, if_pos h0, reads_ok]
    exact standsFor_nop hw h0
  obtain ⟨op, ho⟩ : ∃ op, w / 67108864 % 64 = op := ⟨_, rfl⟩
  have hop : op < 64 := ho ▸ Nat.mod_lt _ (by decide)
  rcases Nat.lt_or_ge op 2 with h | h
  · exact decodeC_reads_0_2 hw h0 ho (by omega) h
  exact decodeC_reads_2_64 hw h0 ho (by omega) hop

/-- Settles O6, slot by slot: every leaf of a slot's decoder stands for the word. -/
theorem decodeSound : Obligations.DecodeSound :=
  ⟨fun _ i hw => decodeS_reads hw i, fun _ i hw => decodeV_reads hw i, fun _ i hw => decodeM_reads hw i, fun _ i hw => decodeC_reads hw i⟩

end Sys2Proof.Machine

/-! # Words, reset, memory and turns -/

namespace Sys2Proof.Machine

/-! ## Words of the tables and the state after reset -/

/-- Settles O1: each word is a closed numeral, and its decoder runs on it. -/
theorem decodeWords : Obligations.DecodeWords := by
  unfold Obligations.DecodeWords
  decide

/-- Settles O7: each syllable is a closed numeral, and its decoder runs on it. -/
theorem reservedSyllables : Obligations.ReservedSyllables := by
  unfold Obligations.ReservedSyllables
  decide

/-- Settles O10: the fields of the reset state are literals. -/
theorem resetState : Obligations.ResetState := by
  unfold Obligations.ResetState
  decide

/-! ## Memory: reads of writes, and the canonical form -/

theorem Memory.read_write (m : Memory) (a b : Nat) (v : Byte) : (m.write a v).read b = if b = a then v else m.read b :=
  Tab.get_set Memory.blank m a b v

theorem Memory.read_writeN (m : Memory) (a n v b : Nat) :
    (m.writeN a n v).read b = if a ≤ b ∧ b < a + n then BitVec.ofNat 8 (v / 256 ^ (b - a)) else m.read b := by
  split
  case isTrue h =>
    obtain ⟨i, rfl⟩ := Nat.exists_eq_add_of_le h.1
    rw [Memory.read_writeN_inside n m a v i (by omega), Nat.add_sub_cancel_left, Nat.pow_mul]
  case isFalse h => exact Memory.read_writeN_outside n m a v b (by omega)

/-- Reading back the bytes of a write gives its low bytes: the first byte lies outside what the rest of the write changes. -/
theorem Memory.readN_writeN (n : Nat) : ∀ (m : Memory) (a v : Nat), (m.writeN a n v).readN a n = v % 256 ^ n := by
  induction n with
  | zero => exact fun _ _ v => (Nat.mod_one v).symm
  | succ n ih =>
    intro m a v
    have hfirst : ((m.write a (BitVec.ofNat 8 v)).writeN (a + 1) n (v / 256)).read a = BitVec.ofNat 8 v := by
      rw [Memory.read_writeN_outside n _ _ _ a (by omega), Memory.read_write_same]
    have hsplit : v % 256 ^ (n + 1) = v % 256 + 256 * (v / 256 % 256 ^ n) := by rw [Nat.pow_succ', Nat.mod_mul]
    rw [Memory.writeN, Memory.readN, ih, hfirst, BitVec.toNat_ofNat, hsplit]

/-- Settles O12. -/
theorem memoryReadWrite : Obligations.MemoryReadWrite :=
  ⟨Memory.read_write, Memory.read_writeN, fun m a n v => Memory.readN_writeN n m a v⟩

/-- A key at or below a bound that all keys are above reads as the default. -/
theorem Tab.get_of_above {α : Type} (d : α) (k j : Nat) (t : Tab α) (h : Tab.above k t = true) (hj : j ≤ k) : Tab.get d t j = d := by
  induction t with
  | nil => rfl
  | cons e t ih =>
    obtain ⟨a, w⟩ := e
    simp only [Tab.above, Bool.and_eq_true, decide_eq_true_eq] at h
    rw [Tab.get, if_neg (by omega), ih h.2]

/-- In a canonical table the entry at the head reads as listed, and nothing of the tail is at its key or below. -/
theorem Tab.wf_cons {α : Type} [DecidableEq α] {d v : α} {a : Nat} {t : Tab α} (h : Tab.wf d ((a, v) :: t) = true) :
    v ≠ d ∧ Tab.above a t = true ∧ Tab.wf d t = true := by
  simpa [Tab.wf, and_assoc] using h

theorem Tab.get_cons_below {α : Type} {d v : α} {a j : Nat} {t : Tab α} (h : Tab.above a t = true) (hj : j < a) :
    Tab.get d ((a, v) :: t) j = d := by
  rw [Tab.get, if_neg (by omega), Tab.get_of_above d a j t h (by omega)]

/-- Two canonical tables that read alike are equal: a head key of one below that of the other would read as the default there. -/
theorem Tab.ext_of_wf {α : Type} [DecidableEq α] (d : α) :
    ∀ t u : Tab α, Tab.wf d t = true → Tab.wf d u = true → (∀ k, Tab.get d t k = Tab.get d u k) → t = u := by
  intro t
  induction t with
  | nil =>
    intro u _ hu h
    match u with
    | [] => rfl
    | (b, w) :: u => exact absurd (by simpa [Tab.get] using (h b).symm) (Tab.wf_cons hu).1
  | cons e t ih =>
    obtain ⟨a, v⟩ := e
    intro u ht hu h
    obtain ⟨hv, hat, ht⟩ := Tab.wf_cons ht
    match u with
    | [] => exact absurd (by simpa [Tab.get] using h a) hv
    | (b, w) :: u =>
      obtain ⟨hw, hbu, hu'⟩ := Tab.wf_cons hu
      have ha := h a
      have hb := h b
      rcases Nat.lt_trichotomy a b with hab | rfl | hab
      · rw [Tab.get_cons_below hbu hab] at ha
        exact absurd (by simpa [Tab.get] using ha) hv
      · have hvw : v = w := by simpa [Tab.get] using ha
        have htail : ∀ k, Tab.get d t k = Tab.get d u k := by
          intro k
          by_cases hk : a = k
          · rw [Tab.get_of_above d a k t hat (by omega), Tab.get_of_above d a k u hbu (by omega)]
          · simpa [Tab.get, hk] using h k
        rw [hvw, ih u ht hu' htail]
      · rw [Tab.get_cons_below hat hab] at hb
        exact absurd (by simpa [Tab.get] using hb.symm) hw

/-- Settles O13. -/
theorem memoryCanonical : Obligations.MemoryCanonical :=
  ⟨fun m a n v => Memory.wf_writeN n m a v, fun m a b n => Memory.wf_copy n m a b, fun m a n => Memory.wf_clear n m a,
    fun m a l => Memory.wf_putBytes l m a, Tab.ext_of_wf Memory.blank⟩

/-! ## Turns -/

/-- Settles O9: each kind of turn is one arm of `runTurn`. -/
theorem stepRunsEvent : Obligations.StepRunsEvent := by
  refine ⟨fun s dt i a r h => ?_, fun s dt n k pos w p i r h hp hi => ?_, fun s dt n k r h => ?_, fun s h => ?_⟩
  · simp only [step, takeTurn, h, runTurn]
  · have hring : ringInstr p w = some i := by
      simp only [List.mem_cons, List.not_mem_nil, or_false] at hp
      rcases hp with rfl | rfl | rfl | rfl <;> exact hi
    simp only [step, takeTurn, h, runTurn, hring]
  · simp only [step, takeTurn, h, runTurn]
  · simp only [step, takeTurn, h]

/-- Where a syllable decodes, its slot holds that instruction. -/
theorem State.slotCheck_of_decode {s : State} {n : Nat} {i : Instr} (h : decodeSlot n (s.syllable n) = .ok i) : (s.slotCheck n).1 = i := by
  unfold State.slotCheck
  rw [h]
  split <;> simp_all

/-- The four syllables of the bundle in hand, decoded. -/
theorem State.instrs_of_decode {s : State} {i0 i1 i2 i3 : Instr}
    (h0 : decodeS (s.bundle.toNat % 2 ^ 32) = .ok i0) (h1 : decodeV (s.bundle.toNat / 2 ^ 32 % 2 ^ 32) = .ok i1)
    (h2 : decodeM (s.bundle.toNat / 2 ^ 64 % 2 ^ 32) = .ok i2) (h3 : decodeC (s.bundle.toNat / 2 ^ 96 % 2 ^ 32) = .ok i3) :
    s.instrs = [i0, i1, i2, i3] := by
  have hS : s.syllable 0 = s.bundle.toNat % 2 ^ 32 := by simp [State.syllable]
  have e0 : (s.slotCheck 0).1 = i0 := State.slotCheck_of_decode (by rw [hS]; exact h0)
  have e1 : (s.slotCheck 1).1 = i1 := State.slotCheck_of_decode h1
  have e2 : (s.slotCheck 2).1 = i2 := State.slotCheck_of_decode h2
  have e3 : (s.slotCheck 3).1 = i3 := State.slotCheck_of_decode h3
  simp only [State.instrs, List.map_cons, List.map_nil, e0, e1, e2, e3]

/-- Settles O8: the turn passes each branch of `coreTurn` by its hypothesis, and the slots run one after the other. -/
theorem stepRunsBundle : Obligations.StepRunsBundle := by
  refine ⟨fun s u u' t0 t1 t2 t3 c dt r b i0 i1 i2 i3 ht hstill hleave hissue hfetch h0 h1 h2 h3 hstop e0 e1 e2 e3 => ?_,
    fun s u c dt r ht hstill hleave hissue hfetch => ?_⟩
  · have hi : ({ u' with bundle := b } : State).instrs = [i0, i1, i2, i3] := State.instrs_of_decode h0 h1 h2 h3
    have hrun : runSlots ([0, 1, 2, 3].zip [i0, i1, i2, i3]) { u' with bundle := b, checked := true } = .next t3 := by
      simp only [List.zip_cons_cons, List.zip_nil_left, runSlots, e0, e1, e2, e3]
    simp only [step, takeTurn, ht, runTurn, coreTurn, hstill, hleave, hissue, hfetch, hstop, hi, hrun]
    rfl
  · simp only [step, takeTurn, ht, runTurn, coreTurn, hstill, hleave, hissue, hfetch]
    rfl

end Sys2Proof.Machine

/-! # Every instruction and every event answers a next state -/

namespace Sys2Proof.Machine

/-- Settles O11: a syllable of the cox goes through `coxIssue`, which always answers a next state; a ring word or an event answers
`.next` outright. -/
theorem execNeverStops : Obligations.ExecNeverStops := by
  intro i s
  delta exec
  cases i
  -- the syllables of the cox
  case add | sub | and | or | xor | sll | srl | sra | min | max | minu | maxu | mul | mulh | mulhu | div | divu | rem | remu | cmpEq |
        cmpNe | cmpLt | cmpGe | cmpLtu | cmpGeu | pand | por | pxor | pandn | pmov | pset | extu | exts | ins | clz | ctz | popc | addi |
        andi | ori | xori | slli | srli | srai | cmpiEq | cmpiNe | cmpiLt | cmpiGe | cmpiLtu | cmpiGeu | lui | ldB | ldH | ldW | ldD | stB
        | stH | stW | stD | ldnB | ldnH | ldnW | ldnD | ldnBu | ldnHu | ldnWu | stnB | stnH | stnW | stnD | atn | br | brNot | jal | jalr
        | loop | rvset | rvarr | rvwait | waitstampNe | waitstampTag | waitstampAny | fcfg | frel | tksend | tktake | csrr | csrw | csrs |
        csrc | dual | tget | tgetV | tset | tsetV | tplane | trap | rysave | ryload | regshrinkX | regshrinkV | reggrowX | reggrowV | vadd
        | vsub | vmul | vmin | vmax | vabs | vneg | vfma | vfnma | viadd | visub | vimul | vimin | vimax | vsll | vsrl | vsra | vand | vor
        | vxor | vandn | vcmpEqF | vcmpLtF | vcmpLeF | vcmpEqI | vcmpLtI | vsel | vperm | vbcast | vredadd | vredmax | vrediadd | vexp2 |
        vlog2 | vrcp | vrsqrt | vtanh | vsigm | vdiv | vsqrt | vcvtTo | vcvtFrom | vscale | vquant | vld | vldb | vst | vldn | vstn | vins
        | vsplat | vext | vexts | mxstep | mxdrain | mxzero | mxsave | mxrest | mxpair | mxstat | xfwd | xinv | rdstr | rdsieve | rdfold |
        rdmat | rdfp | rdcmp | upd | dep | land | bvload | importHost | exportHost | stream | crsmode | cursor | kvlook | kvapp | kvfork |
        kvtrunc | kvflat | kvdep | playset | framein | stateck | nop | fenceT | fenceD | fenceS | dualend | rett | exit =>
    exact coxIssue_total _ _ _
  -- ring words and events
  all_goals exact ⟨_, rfl⟩

end Sys2Proof.Machine

/-! # Registers written and results landed -/

namespace Sys2Proof.Machine

/-! ## Reads of a written register -/

/-- A register reads back what was written to it in that plane; every other register and plane reads as before. -/
theorem Core.rx_wx (c : Core) (v : DWord) (q : Nat) {p n m : Nat} (hnm : n < 128 ∧ m < 128 ∨ m = n) (h0 : n ≠ 0) :
    (c.wx p n v).rx q m = if q = p ∧ m = n then v else c.rx q m := by
  by_cases hm0 : m = 0
  · simp [Core.rx, hm0, show ¬ (0 = n) by omega]
  · simp only [Core.rx, Core.wx, if_neg hm0, if_neg h0, Tab.get_set, show (128 * q + m = 128 * p + n) = (q = p ∧ m = n) by
      apply propext; omega]

theorem Core.rv_wv (c : Core) (v : VWord) (q : Nat) {p n m : Nat} (hn : n < 64) (hm : m < 64) :
    (c.wv p n v).rv q m = if q = p ∧ m = n then v else c.rv q m := by
  simp only [Core.rv, Core.wv, Tab.get_set, show (64 * q + m = 64 * p + n) = (q = p ∧ m = n) by apply propext; omega]

theorem Core.rp_wp (c : Core) (v : BitVec 16) (m : Nat) {n : Nat} (h0 : n ≠ 0) : (c.wp n v).rp m = if m = n then v else c.rp m := by
  by_cases hm0 : m = 0
  · simp [Core.rp, hm0, show ¬ (0 = n) by omega]
  · simp only [Core.rp, Core.wp, if_neg hm0, if_neg h0, Tab.get_set]

/-! ## What a write to a register file can change -/

/-- `r` differs from `c` in its scalar registers and their dirty lines at most. -/
def Core.OnlyX (c r : Core) : Prop := ∃ x d, r = { c with x := x, dirty := d }

/-- `r` differs from `c` in its vector registers and their dirty lines at most. -/
def Core.OnlyV (c r : Core) : Prop := ∃ v d, r = { c with v := v, dirty := d }

theorem Core.OnlyX.refl (c : Core) : Core.OnlyX c c := ⟨_, _, rfl⟩

theorem Core.OnlyV.refl (c : Core) : Core.OnlyV c c := ⟨_, _, rfl⟩

theorem Core.OnlyX.trans {a b c : Core} (h : Core.OnlyX a b) (h' : Core.OnlyX b c) : Core.OnlyX a c := by
  obtain ⟨x, d, rfl⟩ := h
  obtain ⟨x', d', rfl⟩ := h'
  exact ⟨x', d', rfl⟩

theorem Core.OnlyV.trans {a b c : Core} (h : Core.OnlyV a b) (h' : Core.OnlyV b c) : Core.OnlyV a c := by
  obtain ⟨x, d, rfl⟩ := h
  obtain ⟨x', d', rfl⟩ := h'
  exact ⟨x', d', rfl⟩

theorem Core.onlyX_wx (c : Core) (p n : Nat) (v : DWord) : Core.OnlyX c (c.wx p n v) := by
  unfold Core.wx
  split
  · exact Core.OnlyX.refl c
  · exact ⟨_, _, rfl⟩

theorem Core.onlyV_wv (c : Core) (p n : Nat) (v : VWord) : Core.OnlyV c (c.wv p n v) := ⟨_, _, rfl⟩

theorem Core.onlyX_foldl {α : Type} (f : Core → α → Core) (h : ∀ c a, Core.OnlyX c (f c a)) (l : List α) :
    ∀ c, Core.OnlyX c (l.foldl f c) := by
  induction l with
  | nil => exact Core.OnlyX.refl
  | cons a l ih => exact fun c => (h c a).trans (ih _)

theorem Core.onlyV_foldl {α : Type} (f : Core → α → Core) (h : ∀ c a, Core.OnlyV c (f c a)) (l : List α) :
    ∀ c, Core.OnlyV c (l.foldl f c) := by
  induction l with
  | nil => exact Core.OnlyV.refl
  | cons a l ih => exact fun c => (h c a).trans (ih _)

theorem Core.onlyX_zeroX (c : Core) (ps : List Nat) (lo n : Nat) : Core.OnlyX c (c.zeroX ps lo n) :=
  Core.onlyX_foldl _ (fun c p => Core.onlyX_foldl _ (fun c i => Core.onlyX_wx c p (lo + i) 0) _ c) ps c

theorem Core.onlyV_zeroV (c : Core) (ps : List Nat) (lo n : Nat) : Core.OnlyV c (c.zeroV ps lo n) :=
  Core.onlyV_foldl _ (fun c p => Core.onlyV_foldl _ (fun c i => Core.onlyV_wv c p (lo + i) 0) _ c) ps c

/-! ## One register written in several planes -/

theorem Core.rx_foldl_wx (f : Nat → DWord) (q : Nat) {n m : Nat} (hnm : n < 128 ∧ m < 128 ∨ m = n) (h0 : n ≠ 0) (ps : List Nat) :
    ∀ c : Core, (ps.foldl (fun c p => c.wx p n (f p)) c).rx q m = if q ∈ ps ∧ m = n then f q else c.rx q m := by
  induction ps with
  | nil => intro c; simp
  | cons p ps ih =>
    intro c
    rw [List.foldl_cons, ih, Core.rx_wx c (f p) q hnm h0]
    by_cases hq : q = p
    · subst hq; by_cases hmn : m = n <;> simp [hmn]
    · simp [hq]

/-- With no plane named twice, each write sees its register as it was before all of them. -/
theorem Core.rv_foldl_wv (g : Nat → VWord → VWord) (q : Nat) {n m : Nat} (hn : n < 64) (hm : m < 64) (ps : List Nat) (hps : ps.Nodup) :
    ∀ c : Core, (ps.foldl (fun c p => c.wv p n (g p (c.rv p n))) c).rv q m = if q ∈ ps ∧ m = n then g q (c.rv q n) else c.rv q m := by
  induction ps with
  | nil => intro c; simp
  | cons p ps ih =>
    intro c
    obtain ⟨hp, hps⟩ := List.nodup_cons.mp hps
    rw [List.foldl_cons, ih hps, Core.rv_wv c _ q hn hm, Core.rv_wv c _ q hn hn]
    by_cases hq : q = p
    · subst hq; by_cases hmn : m = n <;> simp [hmn, hp]
    · simp [hq]

/-! ## Registers zeroed -/

theorem Core.rx_zero_row (p q lo : Nat) {n m : Nat} (hm : m < 128) :
    ∀ c : Core, lo + n ≤ 128 → ((List.range n).foldl (fun c i => c.wx p (lo + i) 0) c).rx q m =
      if q = p ∧ lo ≤ m ∧ m < lo + n then 0 else c.rx q m := by
  induction n with
  | zero => intro c _; simp [show ¬ (lo ≤ m ∧ m < lo) by omega]
  | succ n ih =>
    intro c hlo
    rw [List.range_succ, List.foldl_append, List.foldl_cons, List.foldl_nil]
    by_cases h0 : lo + n = 0
    · rw [h0, Core.wx, if_pos rfl, ih c (by omega)]
      by_cases hm0 : m = 0
      · simp [hm0, Core.rx]
      · simp [show ¬ (lo ≤ m ∧ m < lo + n) by omega, show ¬ (lo ≤ m ∧ m < lo + (n + 1)) by omega]
    · rw [Core.rx_wx _ 0 q (.inl ⟨by omega, hm⟩) h0, ih c (by omega)]
      by_cases hq : q = p
      · by_cases hmn : m = lo + n
        · simp [hq, hmn]
        · simp [hq, hmn, show (m < lo + (n + 1)) = (m < lo + n) by apply propext; omega]
      · simp [hq]

theorem Core.rv_zero_row (p q lo : Nat) {n m : Nat} (hm : m < 64) :
    ∀ c : Core, lo + n ≤ 64 → ((List.range n).foldl (fun c i => c.wv p (lo + i) 0) c).rv q m =
      if q = p ∧ lo ≤ m ∧ m < lo + n then 0 else c.rv q m := by
  induction n with
  | zero => intro c _; simp [show ¬ (lo ≤ m ∧ m < lo) by omega]
  | succ n ih =>
    intro c hlo
    rw [List.range_succ, List.foldl_append, List.foldl_cons, List.foldl_nil, Core.rv_wv _ 0 q (by omega) hm, ih c (by omega)]
    by_cases hq : q = p
    · by_cases hmn : m = lo + n
      · simp [hq, hmn]
      · simp [hq, hmn, show (m < lo + (n + 1)) = (m < lo + n) by apply propext; omega]
    · simp [hq]

theorem Core.rx_zeroX (ps : List Nat) (q lo : Nat) {n m : Nat} (hm : m < 128) (hlo : lo + n ≤ 128) :
    ∀ c : Core, (c.zeroX ps lo n).rx q m = if q ∈ ps ∧ lo ≤ m ∧ m < lo + n then 0 else c.rx q m := by
  induction ps with
  | nil => intro c; simp [Core.zeroX]
  | cons p ps ih =>
    intro c
    have hstep : c.zeroX (p :: ps) lo n = ((List.range n).foldl (fun c i => c.wx p (lo + i) 0) c).zeroX ps lo n := rfl
    rw [hstep, ih, Core.rx_zero_row p q lo hm c hlo]
    by_cases hq : q = p
    · by_cases hr : lo ≤ m ∧ m < lo + n <;> simp [hq, hr]
    · simp [hq]

theorem Core.rv_zeroV (ps : List Nat) (q lo : Nat) {n m : Nat} (hm : m < 64) (hlo : lo + n ≤ 64) :
    ∀ c : Core, (c.zeroV ps lo n).rv q m = if q ∈ ps ∧ lo ≤ m ∧ m < lo + n then 0 else c.rv q m := by
  induction ps with
  | nil => intro c; simp [Core.zeroV]
  | cons p ps ih =>
    intro c
    have hstep : c.zeroV (p :: ps) lo n = ((List.range n).foldl (fun c i => c.wv p (lo + i) 0) c).zeroV ps lo n := rfl
    rw [hstep, ih, Core.rv_zero_row p q lo hm c hlo]
    by_cases hq : q = p
    · by_cases hr : lo ≤ m ∧ m < lo + n <;> simp [hq, hr]
    · simp [hq]

/-! ## Planes and lanes of a write -/

/-- The planes that a write names. -/
def Wr.planes (w : Wr) : List Nat := (List.range 4).filter (bit w.pmask)

theorem Wr.planes_nodup (w : Wr) : w.planes.Nodup := List.nodup_range.filter _

theorem Wr.mem_planes {w : Wr} {q : Nat} : q ∈ w.planes ↔ q < 4 ∧ bit w.pmask q = true := by
  rw [Wr.planes, List.mem_filter, List.mem_range]

theorem bit_planesMask (k q : Nat) : bit (planesMask k) q = decide (q < k + 1) := by
  rw [planesMask, ← Nat.testBit_two_pow_sub_one]
  exact Nat.testBit_eq_decide_div_mod_eq.symm

/-- The planes of a result in tangent mode `k` are 0 to k (R303). -/
theorem Wr.mem_planes_of_tangent {w : Wr} {k q : Nat} (hk : k ≤ 3) (h : w.pmask = planesMask k) : q ∈ w.planes ↔ q ≤ k := by
  rw [Wr.mem_planes, h, bit_planesMask, decide_eq_true_eq]
  omega

/-- Bit `i` of lane `n`. -/
theorem testBit_lane (v : VWord) (n i : Nat) : (lane v n).testBit i = (decide (i < 32) && v.getLsbD (32 * n + i)) := by
  rw [lane, Nat.testBit_mod_two_pow, Nat.testBit_div_two_pow, Nat.add_comm i, BitVec.getLsbD]

theorem lane_laneMask (m : Nat) {n : Nat} (hn : n < 16) : lane (laneMask m) n = if bit m n then 0xFFFFFFFF else 0 := by
  rw [laneMask, lane_ofLanes _ hn]
  simp only [List.getD, List.getElem?_map, List.getElem?_range hn, Option.map_some, Option.getD_some]
  split <;> rfl

theorem getLsbD_laneMask (m : Nat) {n i : Nat} (hn : n < 16) (hi : i < 32) : (laneMask m).getLsbD (32 * n + i) = bit m n := by
  have h := testBit_lane (laneMask m) n i
  rw [lane_laneMask m hn, decide_eq_true hi, Bool.true_and] at h
  rw [← h]
  cases bit m n
  · simp
  · simpa [hi] using Nat.testBit_two_pow_sub_one 32 i

/-- Merged under a mask, a lane is the new one where the mask names it and the old one elsewhere (R215). -/
theorem lane_mergeLanes (m : Nat) (old new : VWord) {n : Nat} (hn : n < 16) :
    lane (mergeLanes m old new) n = if bit m n then lane new n else lane old n := by
  apply Nat.eq_of_testBit_eq
  intro i
  rw [testBit_lane]
  by_cases hi : i < 32
  · have hin : 32 * n + i < 512 := by omega
    rw [mergeLanes, BitVec.getLsbD_or, BitVec.getLsbD_and, BitVec.getLsbD_and, BitVec.getLsbD_not, getLsbD_laneMask m hn hi]
    cases bit m n <;> simp [testBit_lane, hi, hin]
  · have hlane : ∀ v : VWord, (lane v n).testBit i = false := fun v => by simp [testBit_lane, hi]
    split <;> simp [hlane, hi]

/-! ## One write landed, by its destination -/

/-- A write whose value is lost never lands (R390). -/
theorem Core.land1_poison (c : Core) {w : Wr} (h : w.poison = true) : c.land1 w = c := by simp [Core.land1, h]

section
variable (c : Core) {w : Wr} (hw : w.poison = false)
include hw

theorem Core.land1_x {n : Nat} (h : w.dst = .x n) (hr : released c.ax c.lx n = false) :
    c.land1 w = w.planes.foldl (fun c p => c.wx p n ((w.plane p).setWidth 64)) (c.orFlags w.fl) := by
  have hr' : released (c.orFlags w.fl).ax (c.orFlags w.fl).lx n = false := hr
  simp [Core.land1, hw, h, hr', Wr.planes]

theorem Core.land1_x_released {n : Nat} (h : w.dst = .x n) (h0 : n ≠ 0) (hr : released c.ax c.lx n = true) :
    c.land1 w = (c.orFlags w.fl).orFlags fLostwr := by
  have hr' : released (c.orFlags w.fl).ax (c.orFlags w.fl).lx n = true := hr
  simp [Core.land1, hw, h, hr', h0]

theorem Core.land1_v {n : Nat} (h : w.dst = .v n) (hr : released c.av c.lv n = false) :
    c.land1 w = w.planes.foldl (fun c p => c.wv p n (mergeLanes w.lmask (c.rv p n) (w.plane p))) (c.orFlags w.fl) := by
  have hr' : released (c.orFlags w.fl).av (c.orFlags w.fl).lv n = false := hr
  simp [Core.land1, hw, h, hr', Wr.planes]

theorem Core.land1_v_released {n : Nat} (h : w.dst = .v n) (hr : released c.av c.lv n = true) :
    c.land1 w = (c.orFlags w.fl).orFlags fLostwr := by
  have hr' : released (c.orFlags w.fl).av (c.orFlags w.fl).lv n = true := hr
  simp [Core.land1, hw, h, hr']

theorem Core.land1_p {n : Nat} (h : w.dst = .p n) (hp : bit w.pmask 0 = true) :
    c.land1 w = (c.orFlags w.fl).wp n (w.p0.setWidth 16) := by simp [Core.land1, hw, h, hp]

theorem Core.land1_flags (h : w.dst = .flags) : c.land1 w = c.orFlags w.fl := by simp [Core.land1, hw, h]

theorem Core.land1_csr {n fn : Nat} (h : w.dst = .csr n fn) :
    c.land1 w = (c.orFlags w.fl).putCsr n (csrOp fn ((c.orFlags w.fl).getCsr n 0 0 0) (w.p0.setWidth 64)) := by
  simp [Core.land1, hw, h]

theorem Core.land1_shrinkX {n : Nat} (h : w.dst = .allotX n false) :
    c.land1 w = if c.ax ≤ n then c.orFlags w.fl else { c.orFlags w.fl with ax := n } := by
  simp [Core.land1, hw, h, Core.orFlags]

theorem Core.land1_shrinkV {n : Nat} (h : w.dst = .allotV n false) :
    c.land1 w = if c.av ≤ n then c.orFlags w.fl else { c.orFlags w.fl with av := n } := by
  simp [Core.land1, hw, h, Core.orFlags]

theorem Core.land1_growX {n : Nat} (h : w.dst = .allotX n true) :
    c.land1 w = if min n c.lx ≤ c.ax then c.orFlags w.fl
      else { (c.orFlags w.fl).zeroX [0, 1, 2, 3] c.ax (min n c.lx - c.ax) with ax := min n c.lx } := by
  simp [Core.land1, hw, h, Core.orFlags]

theorem Core.land1_growV {n : Nat} (h : w.dst = .allotV n true) :
    c.land1 w = if min n c.lv ≤ c.av then c.orFlags w.fl
      else { (c.orFlags w.fl).zeroV [0, 1, 2, 3] c.av (min n c.lv - c.av) with av := min n c.lv } := by
  simp [Core.land1, hw, h, Core.orFlags]

end

/-- A scalar write landed: its planes of its register take its values, all else but FLAGS is as before. -/
theorem Core.rx_land1 (c : Core) {w : Wr} {n m : Nat} (q : Nat) (hw : w.poison = false) (h : w.dst = .x n) (h0 : n ≠ 0)
    (hnm : n < 128 ∧ m < 128 ∨ m = n) (hr : released c.ax c.lx n = false) :
    (c.land1 w).rx q m = if q ∈ w.planes ∧ m = n then (w.plane q).setWidth 64 else c.rx q m := by
  rw [Core.land1_x c hw h hr, Core.rx_foldl_wx _ q hnm h0]
  rfl

theorem Core.onlyX_land1 (c : Core) {w : Wr} {n : Nat} (hw : w.poison = false) (h : w.dst = .x n)
    (hr : released c.ax c.lx n = false) : Core.OnlyX (c.orFlags w.fl) (c.land1 w) := by
  rw [Core.land1_x c hw h hr]
  exact Core.onlyX_foldl _ (fun c p => Core.onlyX_wx c p n _) _ _

theorem Core.rv_land1 (c : Core) {w : Wr} {n m : Nat} (q : Nat) (hw : w.poison = false) (h : w.dst = .v n) (hn : n < 64)
    (hm : m < 64) (hr : released c.av c.lv n = false) :
    (c.land1 w).rv q m = if q ∈ w.planes ∧ m = n then mergeLanes w.lmask (c.rv q n) (w.plane q) else c.rv q m := by
  rw [Core.land1_v c hw h hr, Core.rv_foldl_wv (fun p v => mergeLanes w.lmask v (w.plane p)) q hn hm _ w.planes_nodup]
  rfl

theorem Core.onlyV_land1 (c : Core) {w : Wr} {n : Nat} (hw : w.poison = false) (h : w.dst = .v n)
    (hr : released c.av c.lv n = false) : Core.OnlyV (c.orFlags w.fl) (c.land1 w) := by
  rw [Core.land1_v c hw h hr]
  exact Core.onlyV_foldl _ (fun c p => Core.onlyV_wv c p n _) _ _


/-! ## A result queued with nothing else in flight, and its landing -/

/-- The write that `putW` queues. -/
def State.newWr (s : State) (lat : Nat) (d : Dst) (ps : List (BitVec 512)) (lm pm : Nat) (fl : FlagSet) : Wr :=
  { due := s.me.step + lat, iss := s.me.step, slot := s.curSlot, dst := d, kp := s.me.k, lmask := lm, pmask := pm,
    p0 := ps.getD 0 0, p1 := ps.getD 1 0, p2 := ps.getD 2 0, p3 := ps.getD 3 0, fl := fl, wait := none, poison := false }

theorem State.me_setCore_cur (s : State) (c : Core) (h : s.cur < s.cores.length) : (s.setCore s.cur c).me = c :=
  core_setCore_same s s.cur c h

/-- The core at another step of its count. -/
def Core.atStep (c : Core) (n : Nat) : Core := { c with step := n }

section
variable (s : State) (lat : Nat) (d : Dst) (ps : List (BitVec 512)) (lm pm : Nat) (fl : FlagSet)
  (hc : s.cur < s.cores.length) (hp : s.me.pend = [])
include hc hp

theorem State.me_putW : (s.putW lat d ps lm pm fl).me = { s.me with pend := [s.newWr lat d ps lm pm fl] } := by
  refine (State.me_setCore_cur s _ hc).trans ?_
  simp only [show (s.core s.cur).pend = [] from hp, insWr]
  rfl

/-- Until its landing step nothing changes. -/
theorem State.land_putW_early {j : Nat} (hj : j < lat) :
    ((s.putW lat d ps lm pm fl).me.atStep (s.me.step + j)).land = (s.putW lat d ps lm pm fl).me.atStep (s.me.step + j) := by
  rw [State.me_putW s lat d ps lm pm fl hc hp]
  exact land_early _ _ rfl (Nat.add_lt_add_left hj _)

/-- In its landing step it lands, and nothing is in flight. -/
theorem State.land_putW : ((s.putW lat d ps lm pm fl).me.atStep (s.me.step + lat)).land =
    (s.me.atStep (s.me.step + lat)).land1 (s.newWr lat d ps lm pm fl) := by
  rw [State.me_putW s lat d ps lm pm fl hc hp]
  refine (land_one _ _ rfl (Nat.le_refl _) rfl).trans ?_
  rw [Core.atStep, Core.atStep, ← hp]

end

/-- The planes of a scalar result as the replay layout holds them. -/
def widePlanes (v : DWord) (ts : List DWord) : List (BitVec 512) := v.setWidth 512 :: ts.map (BitVec.setWidth 512)

theorem State.putX_eq_putW (s : State) (lat d : Nat) (v : DWord) (fl : FlagSet) (ts : List DWord) (h : d ≠ 0) :
    s.putX lat d v fl ts = s.putW lat (.x d) (widePlanes v ts) 0xFFFF (planesMask s.me.k) fl := if_neg h

/-- Plane `p` of a queued write. -/
theorem State.newWr_plane (s : State) (lat : Nat) (d : Dst) (ps : List (BitVec 512)) (lm pm : Nat) (fl : FlagSet) {p : Nat} (hp : p ≤ 3) :
    (s.newWr lat d ps lm pm fl).plane p = ps.getD p 0 := by
  match p, hp with
  | 0, _ => rfl
  | 1, _ => rfl
  | 2, _ => rfl
  | 3, _ => rfl

/-- The write of a scalar result, and of a vector result. -/
def State.scalarWr (s : State) (lat d : Nat) (v : DWord) (fl : FlagSet) (ts : List DWord) : Wr :=
  s.newWr lat (.x d) (widePlanes v ts) 0xFFFF (planesMask s.me.k) fl

def State.vectorWr (s : State) (lat d m : Nat) (vs : List VWord) (fl : FlagSet) : Wr :=
  s.newWr lat (.v d) vs m (planesMask s.me.k) fl

theorem widePlanes_primal (v : DWord) (ts : List DWord) : ((widePlanes v ts).getD 0 0).setWidth 64 = v :=
  BitVec.setWidth_setWidth_of_le v (by decide)

theorem widePlanes_tangent (v : DWord) (ts : List DWord) {p : Nat} (hp : 1 ≤ p) :
    ((widePlanes v ts).getD p 0).setWidth 64 = ts.getD (p - 1) 0 := by
  obtain ⟨p, rfl⟩ := Nat.exists_eq_add_of_le' hp
  rw [widePlanes, List.getD_cons_succ, Nat.add_sub_cancel, List.getD_eq_getElem?_getD, List.getD_eq_getElem?_getD, List.getElem?_map]
  cases ts[p]? with
  | none => simp
  | some t => exact BitVec.setWidth_setWidth_of_le t (by decide : 64 ≤ 512)

/-- What a landed register result leaves of its core. -/
theorem Core.OnlyX.rest {c r : Core} {n : Nat} {fl : FlagSet} (h : Core.OnlyX ((c.atStep n).orFlags fl) r) :
    r.pend = c.pend ∧ r.flags = c.flags ||| fl.setWidth 64 ∧
      { r with x := c.x, dirty := c.dirty, flags := c.flags, step := c.step } = c := by
  obtain ⟨x, d, rfl⟩ := h
  exact ⟨rfl, rfl, rfl⟩

theorem Core.OnlyV.rest {c r : Core} {n : Nat} {fl : FlagSet} (h : Core.OnlyV ((c.atStep n).orFlags fl) r) :
    r.pend = c.pend ∧ r.flags = c.flags ||| fl.setWidth 64 ∧
      { r with v := c.v, dirty := c.dirty, flags := c.flags, step := c.step } = c := by
  obtain ⟨v, d, rfl⟩ := h
  exact ⟨rfl, rfl, rfl⟩

/-- Settles O15: with nothing else in flight the landing step lands this write alone (`State.land_putW`), in the planes that the
tangent count carries. -/
theorem scalarResultLands : Obligations.ScalarResultLands := by
  refine ⟨fun s lat d v fl ts hc hp h0 hd hr hk => ?_, fun s lat v ts => ?_, fun c p => rfl⟩
  · have hne : d ≠ 0 := Nat.ne_of_gt h0
    rw [State.putX_eq_putW s lat d v fl ts hne]
    refine ⟨fun j hj => State.land_putW_early s lat _ _ _ _ fl hc hp hj, fun r hr' => ?_⟩
    replace hr' : r = (s.me.atStep (s.me.step + lat)).land1 (s.scalarWr lat d v fl ts) := hr'.trans (State.land_putW s lat _ _ _ _ fl hc hp)
    have hread : ∀ p n, n < 128 → r.rx p n =
        if p ≤ s.me.k ∧ n = d then ((s.scalarWr lat d v fl ts).plane p).setWidth 64 else s.me.rx p n := by
      intro p n hn
      rw [hr']
      refine (Core.rx_land1 (s.me.atStep (s.me.step + lat)) (w := s.scalarWr lat d v fl ts) p rfl rfl hne (.inl ⟨hd, hn⟩) hr).trans ?_
      simp only [Wr.mem_planes_of_tangent (w := s.scalarWr lat d v fl ts) hk rfl]
      rfl
    have honly := Core.onlyX_land1 (s.me.atStep (s.me.step + lat)) (w := s.scalarWr lat d v fl ts) rfl rfl hr
    rw [← hr'] at honly
    obtain ⟨hpend, hflags, hrest⟩ := honly.rest
    refine ⟨hpend.trans hp, ?_, fun p h1 hpk => ?_, fun p n hn hnot => ?_, hflags, hrest⟩
    · rw [hread 0 d hd, if_pos ⟨Nat.zero_le _, rfl⟩, State.scalarWr, State.newWr_plane _ _ _ _ _ _ _ (Nat.zero_le 3), widePlanes_primal]
    · rw [hread p d hd, if_pos ⟨hpk, rfl⟩, State.scalarWr, State.newWr_plane _ _ _ _ _ _ _ (Nat.le_trans hpk hk), widePlanes_tangent v ts h1]
    · rw [hread p n hn, if_neg (by omega)]
  · rw [State.putX, if_pos rfl, if_pos rfl]

/-- Settles O16: as for a scalar result, each plane merged under the mask. -/
theorem vectorResultLands : Obligations.VectorResultLands := by
  intro s lat d m vs fl hc hp hd hm hrel hk r hr
  replace hr : r = (s.me.atStep (s.me.step + lat)).land1 (s.vectorWr lat d m vs fl) := hr.trans (State.land_putW s lat _ _ _ _ fl hc hp)
  have hread : ∀ p n, n < 64 → r.rv p n =
      if p ≤ s.me.k ∧ n = d then mergeLanes m (s.me.rv p d) ((s.vectorWr lat d m vs fl).plane p) else s.me.rv p n := by
    intro p n hn
    rw [hr]
    refine (Core.rv_land1 (s.me.atStep (s.me.step + lat)) (w := s.vectorWr lat d m vs fl) p rfl rfl hd hn hrel).trans ?_
    simp only [Wr.mem_planes_of_tangent (w := s.vectorWr lat d m vs fl) hk rfl]
    rfl
  have honly := Core.onlyV_land1 (s.me.atStep (s.me.step + lat)) (w := s.vectorWr lat d m vs fl) rfl rfl hrel
  rw [← hr] at honly
  obtain ⟨hpend, hflags, hrest⟩ := honly.rest
  refine ⟨hpend.trans hp, fun p n hpk hn => ?_, fun p n hn hnot => ?_, hflags, hrest⟩
  · rw [hread p d hd, if_pos ⟨hpk, rfl⟩, lane_mergeLanes _ _ _ hn, State.vectorWr, State.newWr_plane _ _ _ _ _ _ _ (Nat.le_trans hpk hk)]
  · rw [hread p n hn, if_neg (by omega)]

/-- No flag raised leaves FLAGS. -/
theorem Core.orFlags_zero (c : Core) : c.orFlags 0 = c := by simp [Core.orFlags]

/-- Settles O17: each clause is the landing of one write, by its destination. -/
theorem predicateAndCsrLand : Obligations.PredicateAndCsrLand := by
  refine ⟨fun s lat d v hc hp h0 r hr => ?_, fun s lat v => if_pos rfl, fun s v hc hp => ?_, fun c w v hw hv => ?_, fun s lat fl hc hp => ?_⟩
  · have hne : d ≠ 0 := Nat.ne_of_gt h0
    rw [State.putP, if_neg hne] at hr
    have hval : ((v.setWidth 512).setWidth 16) = v := BitVec.setWidth_setWidth_of_le v (by decide : 16 ≤ 512)
    replace hr : r = (s.me.atStep (s.me.step + lat)).wp d v := by
      refine (hr.trans (State.land_putW s lat _ _ _ _ 0 hc hp)).trans ((Core.land1_p _ rfl rfl (bit_planesMask _ 0)).trans ?_)
      exact congr (congrArg (fun c => Core.wp c d) (Core.orFlags_zero _)) hval
    have hread : ∀ n, r.rp n = if n = d then v else s.me.rp n := fun n => by rw [hr]; exact Core.rp_wp _ v n hne
    refine ⟨by rw [hread, if_pos rfl], fun n hn => by rw [hread, if_neg hn], rfl, ?_⟩
    rw [hr, Core.wp, if_neg hne]
    rfl
  · have hcsr : ∀ fn n, ((s.putCsr fn n v).me.atStep (s.me.step + 1)).land =
        ((s.me.atStep (s.me.step + 1)).orFlags 0).putCsr n (csrOp fn (((s.me.atStep (s.me.step + 1)).orFlags 0).getCsr n 0 0 0) v) := by
      intro fn n
      refine (State.land_putW s 1 _ _ _ _ 0 hc hp).trans ((Core.land1_csr _ rfl rfl).trans ?_)
      congr 2
      exact BitVec.setWidth_setWidth_of_le v (by decide : 64 ≤ 512)
    exact ⟨congrArg Core.tvec (hcsr 1 8), congrArg Core.tdly (hcsr 1 12), congrArg Core.tstat (hcsr 1 14), congrArg Core.tcause (hcsr 1 10),
      congrArg Core.flags (hcsr 1 0), (congrArg Core.tepc (hcsr 1 9)).trans BitVec.and_allOnes, congrArg Core.tvec (hcsr 2 8),
      congrArg Core.tvec (hcsr 3 8)⟩
  · subst hv
    refine ⟨fun h => ?_, fun h => ?_, fun h => ?_⟩ <;> rw [Core.land1_csr c hw h] <;> rfl
  · exact congrArg Core.flags ((State.land_putW s lat _ _ _ _ fl hc hp).trans (Core.land1_flags _ rfl rfl))

/-! ## Two writes of one step -/

/-- Two due writes land in issue order, whatever their order in the list (R169). -/
theorem Core.land_two (c : Core) {w1 w2 : Wr} (hpend : c.pend = [w1, w2] ∨ c.pend = [w2, w1]) (h1 : w1.due ≤ c.step) (h2 : w2.due ≤ c.step)
    (hw1 : w1.wait = none) (hw2 : w2.wait = none) (ha1 : w1.allots = false) (ha2 : w2.allots = false)
    (hlt : w1.iss < w2.iss ∨ (w1.iss = w2.iss ∧ w1.slot < w2.slot)) : c.land = (({ c with pend := [] } : Core).land1 w1).land1 w2 := by
  have hgt : ¬ (w2.iss < w1.iss ∨ (w2.iss = w1.iss ∧ w2.slot < w1.slot)) := by omega
  unfold Core.land
  rcases hpend with h | h <;> simp [h, h1, h2, hw1, hw2, ha1, ha2, insIss, hlt, hgt]

/-- Settles O18: the two land one after the other, and the second overwrites plane 0. -/
theorem sameStepOrder : Obligations.SameStepOrder := by
  intro c w1 w2 d hpend h0 hr hd1 hd2 hdue1 hdue2 hw1 hw2 hp1 hp2 hm1 hm2 hlt
  have hne : d ≠ 0 := Nat.ne_of_gt h0
  rw [Core.land_two c hpend hdue1 hdue2 hw1 hw2 (by simp [Wr.allots, hd1]) (by simp [Wr.allots, hd2]) hlt]
  obtain ⟨x, dt, honly⟩ := Core.onlyX_land1 ({ c with pend := [] } : Core) hp1 hd1 hr
  have hr' : released (({ c with pend := [] } : Core).land1 w1).ax (({ c with pend := [] } : Core).land1 w1).lx d = false := by
    rw [honly]; exact hr
  rw [Core.rx_land1 _ 0 hp2 hd2 hne (.inr rfl) hr', if_pos ⟨Wr.mem_planes.mpr ⟨by decide, hm2⟩, rfl⟩]
  rfl

/-! ## Allotments -/

theorem mem_four_planes {p : Nat} (h : p ≤ 3) : p ∈ [0, 1, 2, 3] := by
  simp only [List.mem_cons, List.not_mem_nil, or_false]
  omega

theorem released_of_bounds {cur launch n : Nat} (h1 : cur ≤ n) (h2 : n < launch) : released cur launch n = true := by
  simp [released, h1, h2]

/-- Settles O19: each clause is the landing of one write, a grow by what zeroed registers read. -/
theorem allotmentChanges : Obligations.AllotmentChanges := by
  refine ⟨fun c w d hd hw h0 h1 h2 => ?_, fun c w n hd hw => ?_, fun c w n hd hw hn => ?_, fun c w d hd hw h1 h2 => ?_,
    fun c w n hd hw => ?_, fun c w n hd hw hn => ?_⟩
  · rw [Core.land1_x_released c hw hd (Nat.ne_of_gt h0) (released_of_bounds h1 h2)]
    exact ⟨rfl, rfl⟩
  · rw [Core.land1_shrinkX c hw hd]
    by_cases h : c.ax ≤ n
    · rw [if_pos h, if_neg (Nat.not_lt.mpr h)]; exact ⟨rfl, rfl⟩
    · rw [if_neg h, if_pos (Nat.lt_of_not_le h)]; exact ⟨rfl, rfl⟩
  · rw [Core.land1_growX c hw hd]
    by_cases h : min n c.lx ≤ c.ax
    · rw [if_pos h, if_neg (Nat.not_lt.mpr h)]
      refine ⟨rfl, fun p r hp hr => ?_⟩
      rw [if_neg (fun hrange => absurd (Nat.lt_of_lt_of_le hrange.2 h) (Nat.not_lt.mpr hrange.1))]
      rfl
    · rw [if_neg h, if_pos (Nat.lt_of_not_le h)]
      have hadd : c.ax + (min n c.lx - c.ax) = min n c.lx := Nat.add_sub_cancel' (Nat.le_of_not_le h)
      have hbound : c.ax + (min n c.lx - c.ax) ≤ 128 := by omega
      refine ⟨rfl, fun p r hp hr => (Core.rx_zeroX [0, 1, 2, 3] p c.ax hr hbound (c.orFlags w.fl)).trans ?_⟩
      simp only [mem_four_planes hp, true_and, hadd]
      rfl
  · rw [Core.land1_v_released c hw hd (released_of_bounds h1 h2)]
    exact ⟨rfl, rfl⟩
  · rw [Core.land1_shrinkV c hw hd]
    by_cases h : c.av ≤ n
    · rw [if_pos h, if_neg (Nat.not_lt.mpr h)]; exact ⟨rfl, rfl⟩
    · rw [if_neg h, if_pos (Nat.lt_of_not_le h)]; exact ⟨rfl, rfl⟩
  · rw [Core.land1_growV c hw hd]
    by_cases h : min n c.lv ≤ c.av
    · rw [if_pos h, if_neg (Nat.not_lt.mpr h)]
      refine ⟨rfl, fun p r hp hr => ?_⟩
      rw [if_neg (fun hrange => absurd (Nat.lt_of_lt_of_le hrange.2 h) (Nat.not_lt.mpr hrange.1))]
      rfl
    · rw [if_neg h, if_pos (Nat.lt_of_not_le h)]
      have hadd : c.av + (min n c.lv - c.av) = min n c.lv := Nat.add_sub_cancel' (Nat.le_of_not_le h)
      have hbound : c.av + (min n c.lv - c.av) ≤ 64 := by omega
      refine ⟨rfl, fun p r hp hr => (Core.rv_zeroV [0, 1, 2, 3] p c.av hr hbound (c.orFlags w.fl)).trans ?_⟩
      simp only [mem_four_planes hp, true_and, hadd]
      rfl

end Sys2Proof.Machine

/-! # The next bundle, the stores of a bundle, and traps -/

namespace Sys2Proof.Machine

/-! ## The next bundle (R171, R202) -/

theorem Core.advance_of_no_branch {c : Core} (h : c.delayLeft = 0) : c.advance = c.seqNext := if_pos h

theorem Core.seqNext_of_fall {c : Core} (h : c.lc = 0 ∨ c.pc ≠ c.lend) : c.seqNext = { c with pc := c.pc + 16 } :=
  if_neg (fun hloop => h.elim hloop.1 (fun hne => hne hloop.2))

theorem Core.seqNext_of_loop {c : Core} (h0 : c.lc ≠ 0) (h : c.pc = c.lend) :
    c.seqNext = { c with lc := c.lc - 1, pc := if c.lc = 1 then c.lend + 16 else c.lstart } := if_pos ⟨h0, h⟩

theorem Core.branchTo_outside {c : Core} (t : DWord) (h : c.lc = 0) :
    c.branchTo t = { c with pc := c.pc + 16, delayLeft := 2, target := t } := by simp [Core.branchTo, h]

/-- The first delay bundle is followed by the second, and that by the target. -/
theorem Core.advance_of_two_owed {c : Core} (h : c.delayLeft = 2) (hl : c.lc = 0) :
    c.advance = { c with pc := c.pc + 16, delayLeft := 1 } := by
  simp [Core.advance, h, Core.seqNext_of_fall (Or.inl hl)]

theorem Core.advance_of_one_owed {c : Core} (h : c.delayLeft = 1) (hl : c.lc = 0) :
    c.advance = { c with pc := c.target, delayLeft := 0, target := 0 } := by
  simp [Core.advance, h, Core.seqNext_of_fall (Or.inl hl)]

/-- Settles O20: bundle by bundle, with the loop count zero or the bundle at LEND. -/
theorem branchAndLoopSequencing : Obligations.BranchAndLoopSequencing := by
  refine ⟨fun c t hd hl => ?_, fun c hd hl hpc => ?_, fun c hd hpc => ?_, fun c t hl hlo hhi => ?_⟩
  · have hadd : c.pc + 16 + 16 = c.pc + 32 := by rw [BitVec.add_assoc]; rfl
    have h1 : (c.branchTo t).advance = { c with pc := c.pc + 16 + 16, delayLeft := 1, target := t } := by
      rw [Core.branchTo_outside t hl]
      exact Core.advance_of_two_owed rfl hl
    have h2 : (c.branchTo t).advance.advance = { c with pc := t, delayLeft := 0, target := 0 } := by
      rw [h1]
      exact Core.advance_of_one_owed rfl hl
    refine ⟨?_, ?_, ?_, ?_, ?_⟩
    · rw [Core.advance_of_no_branch hd, Core.seqNext_of_fall (Or.inl hl)]
    · rw [Core.branchTo_outside t hl]
    · rw [h1, hadd]
    · rw [h2]
    · rw [h2]
  · have hone : (c.lc = 1) = (c.lc - 1 = 0) := by apply propext; bv_omega
    rw [Core.advance_of_no_branch hd, Core.seqNext_of_loop hl hpc]
    simp only [hone, and_self]
  · rw [Core.advance_of_no_branch hd, Core.seqNext_of_fall (Or.inr hpc)]
    exact ⟨rfl, rfl⟩
  · have hin : decide (c.lc ≠ 0 ∧ c.lstart.toNat ≤ c.pc.toNat ∧ c.pc.toNat ≤ c.lend.toNat) = true := decide_eq_true ⟨hl, hlo, hhi⟩
    simp only [Core.branchTo, hin, if_true]

/-! ## The stores of a bundle (R145) -/

/-- The stores of a list performed in order. -/
def Memory.stored (m : Memory) (l : List (Nat × Nat × Nat)) : Memory := l.foldl (fun m w => m.writeN w.1 w.2.1 w.2.2) m

theorem Memory.read_stored_outside (a : Nat) (l : List (Nat × Nat × Nat)) :
    ∀ m : Memory, (∀ w ∈ l, a < w.1 ∨ w.1 + w.2.1 ≤ a) → (m.stored l).read a = m.read a := by
  induction l with
  | nil => exact fun _ _ => rfl
  | cons w l ih =>
    intro m h
    exact (ih _ (fun x hx => h x (List.mem_cons_of_mem _ hx))).trans
      (Memory.read_writeN_outside _ m w.1 w.2.2 a (h w List.mem_cons_self))

/-- Settles O27: what comes after the last covering store leaves its byte. -/
theorem storedBytes : Obligations.StoredBytes := by
  refine ⟨fun s a h => Memory.read_stored_outside a _ s.mem h, fun s l r w a hl hlo hhi hr => ?_, fun s => rfl⟩
  have hmem : s.doStores.mem = ((s.mem.stored l).writeN w.1 w.2.1 w.2.2).stored r := by
    rw [State.doStores, State.memStored, hl, List.foldl_append, List.foldl_cons]
    rfl
  rw [hmem, Memory.read_stored_outside a r _ hr]
  obtain ⟨i, rfl⟩ := Nat.exists_eq_add_of_le hlo
  rw [Memory.read_writeN_inside _ _ _ _ i (by omega), Nat.add_sub_cancel_left, Nat.pow_mul]

/-! ## Replay registers (R209, R210) -/

/-- A table set at every key of a range. -/
theorem Tab.get_foldl_set {α : Type} [DecidableEq α] (d : α) (f : Nat → α) (m : Nat) (N : Nat) :
    ∀ t : Tab α, Tab.get d ((List.range N).foldl (fun t n => Tab.set d t n (f n)) t) m = if m < N then f m else Tab.get d t m := by
  induction N with
  | zero => exact fun _ => rfl
  | succ N ih =>
    intro t
    rw [List.range_succ, List.foldl_append, List.foldl_cons, List.foldl_nil, Tab.get_set, ih]
    by_cases h : m = N
    · simp [h]
    · simp [h, show m < N + 1 ↔ m < N by omega]

/-- What the replay register `n` holds of the writes `ws` in their order. -/
def Ry.slot (ws : List Wr) (step n : Nat) : Ry :=
  match ws[n]? with
  | some w => Ry.ofWr w (w.due - step)
  | none => Ry.empty

theorem Core.snapshot_none {c : Core} (h : c.pend = []) : c.snapshot.pend = [] ∧
    ∀ n < 32, Tab.get Ry.empty c.snapshot.ry n = Ry.empty := by
  refine ⟨by simp [Core.snapshot, h], fun n hn => ?_⟩
  have hget := Tab.get_foldl_set Ry.empty (Ry.slot [] c.step) n 32 []
  rw [if_pos hn] at hget
  simp only [Core.snapshot, h]
  exact hget

/-- One write in flight goes to replay register 0. -/
theorem Core.snapshot_one {c : Core} {w : Wr} (h : c.pend = [w]) (hc : w.counts = true) (hp : w.poison = false) : c.snapshot.pend = [] ∧
    ∀ n < 32, Tab.get Ry.empty c.snapshot.ry n = Ry.slot [w] c.step n := by
  refine ⟨by simp [Core.snapshot, h, hc], fun n hn => ?_⟩
  have hself : w.under w = w := if_neg (by omega)
  have hget := Tab.get_foldl_set Ry.empty (Ry.slot [w] c.step) n 32 []
  rw [if_pos hn] at hget
  simp only [Core.snapshot, h, List.filter_cons, hc, hp, Bool.not_false, Bool.and_self, if_true, List.filter_nil, List.foldl_cons,
    List.foldl_nil, hself]
  exact hget

/-- An empty replay register is not valid and holds no write. -/
theorem Ry.toWr_empty (step iss : Nat) : Ry.empty.toWr step iss = none := rfl

/-- A scalar write read back from its replay register: as many steps to go as when it was taken (R210, R211). -/
theorem Ry.toWr_ofWr {w : Wr} {n left : Nat} (step iss : Nat) (hd : w.dst = .x n) (h0 : 0 < n) (hn : n < 128) (hl : left < 32) (hkp : w.kp < 4)
    (hlm : w.lmask < 65536) (hpm : w.pmask < 16) (hw : w.wait = none) (hp : w.poison = false) :
    (Ry.ofWr w left).toWr step iss = some { w with due := step + left, iss := iss, slot := 4 } := by
  have hfl := w.fl.isLt
  have hlt : 2 ^ 63 + 0 * 2 ^ 60 + n * 2 ^ 53 + left % 32 * 2 ^ 48 + w.fl.toNat * 2 ^ 41 + w.kp % 4 * 2 ^ 39 + w.lmask % 65536 * 2 ^ 23
      + w.pmask % 16 * 2 ^ 19 < 2 ^ 64 := by omega
  have hnat : (Ry.ofWr w left).hdr.toNat = 2 ^ 63 + 0 * 2 ^ 60 + n * 2 ^ 53 + left % 32 * 2 ^ 48 + w.fl.toNat * 2 ^ 41 + w.kp % 4 * 2 ^ 39
      + w.lmask % 65536 * 2 ^ 23 + w.pmask % 16 * 2 ^ 19 := by
    simp only [Ry.ofWr, hd, BitVec.toNat_ofNat]
    exact Nat.mod_eq_of_lt hlt
  have hvalid : bit (Ry.ofWr w left).hdr.toNat 63 = true := by rw [hnat, bit, decide_eq_true_eq]; omega
  have hkind : bits (Ry.ofWr w left).hdr.toNat 62 60 = 0 := by rw [hnat, bits]; omega
  have hnum : bits (Ry.ofWr w left).hdr.toNat 59 53 = n := by rw [hnat, bits]; omega
  have hleft : bits (Ry.ofWr w left).hdr.toNat 52 48 = left := by rw [hnat, bits]; omega
  have hflag : bits (Ry.ofWr w left).hdr.toNat 47 41 = w.fl.toNat := by rw [hnat, bits]; omega
  have hk : bits (Ry.ofWr w left).hdr.toNat 40 39 = w.kp := by rw [hnat, bits]; omega
  have hlane : bits (Ry.ofWr w left).hdr.toNat 38 23 = w.lmask := by rw [hnat, bits]; omega
  have hplane : bits (Ry.ofWr w left).hdr.toNat 22 19 = w.pmask := by rw [hnat, bits]; omega
  have hne : n ≠ 0 := by omega
  simp only [Ry.toWr, hvalid, hkind, hnum, hleft, hflag, hk, hlane, hplane, if_true, if_neg hne, Option.map_some, BitVec.ofNat_toNat,
    BitVec.setWidth_eq]
  cases w
  simp_all [Ry.ofWr]

theorem Ry.slot_one_succ (w : Wr) (step n : Nat) : Ry.slot [w] step (n + 1) = Ry.empty := rfl

/-! ## Taking a trap (R209) -/

theorem coreStill_setCore (s : State) (c : Nat) {k : Core} (h : k.team = (s.core c).team) (hc : c < s.cores.length) :
    (s.setCore c k).coreStill c = s.coreStill c := by
  simp only [State.coreStill, core_setCore_same s c k hc, h]
  rfl

theorem quiet_setCore (s : State) (c d : Nat) (k : Core) : (s.setCore c k).quiet d = s.quiet d := rfl

theorem setCore_setCore (s : State) (c : Nat) (k k' : Core) : (s.setCore c k).setCore c k' = s.setCore c k' := by
  simp [State.setCore, List.set_set]

/-- The core that waits for a handler's start. -/
def Core.toTrap (c : Core) (code slot : Nat) (tv : DWord) : Core := { c.breakHold with run := .trapWait, taking := some (code, slot, tv) }

/-- With nothing in flight and every access performed the handler starts at once. -/
theorem takeTrap_at_once (s : State) (c code slot : Nat) (tv : DWord) (hc : c < s.cores.length) (ht : (s.core c).canTrap = true)
    (hp : (s.core c).pend = []) (hq : s.quiet c = true) (hs : s.coreStill c = false) :
    s.takeTrap c code slot tv none = s.setCore c ((s.core c).toTrap code slot tv).enterHandler := by
  have hcore : (s.setCore c ((s.core c).toTrap code slot tv)).core c = (s.core c).toTrap code slot tv := core_setCore_same s c _ hc
  have hpend : ((s.core c).toTrap code slot tv).pend = [] := hp
  have hstart : (s.setCore c ((s.core c).toTrap code slot tv)).handlerStart c =
      (s.setCore c ((s.core c).toTrap code slot tv)).setCore c ((s.core c).toTrap code slot tv).land.enterHandler := by
    unfold State.handlerStart
    simp only [hcore]
    refine if_pos ⟨rfl, ?_, hq, by rw [hpend]; rfl⟩
    exact (coreStill_setCore s c (k := (s.core c).toTrap code slot tv) rfl hc).trans hs
  rw [setCore_setCore, land_nil _ hpend] at hstart
  rw [← hstart]
  exact if_pos ht

theorem canTrap_of {c : Core} (h1 : c.tvec ≠ 0) (h2 : c.tstat.getLsbD 0 = false) (h3 : c.run = .running) : c.canTrap = true := by
  rw [Core.canTrap, h2, h3, decide_eq_true h1]
  rfl

/-- What a core stands with in its handler (R209). -/
def Core.inHandler (c : Core) (code slot : Nat) (tv : DWord) : Core :=
  { c.snapshot with
    tepc := c.pc, tdly := BitVec.ofNat 64 c.delayLeft, ttgt := c.target, tstat := BitVec.ofNat 64 (1 + 2 * c.k), k := 0
    tcause := BitVec.ofNat 64 (code % 256 + 256 * slot), tval := tv, pc := c.tvec, delayLeft := 0, target := 0
    run := .running, idle := 3, taking := none }

theorem Core.enterHandler_of_taking {c : Core} {code slot : Nat} {tv : DWord} (h : c.taking = some (code, slot, tv)) :
    c.enterHandler = c.inHandler code slot tv := by
  unfold Core.enterHandler
  rw [h]
  rfl

theorem Core.inHandler_ry (c : Core) (code slot : Nat) (tv : DWord) : (c.inHandler code slot tv).ry = c.snapshot.ry := rfl

/-- The registers of the program stand as they were. -/
theorem Core.inHandler_keeps (c : Core) (code slot : Nat) (tv : DWord) : (c.inHandler code slot tv).x = c.x ∧
    (c.inHandler code slot tv).v = c.v ∧ (c.inHandler code slot tv).p = c.p ∧ (c.inHandler code slot tv).flags = c.flags ∧
    (c.inHandler code slot tv).tvec = c.tvec := by
  simp only [Core.inHandler, Core.snapshot, and_self]

theorem Core.not_valid_of_nothing_in_flight {c : Core} (code slot : Nat) (tv : DWord) (h : c.pend = []) {n : Nat} (hn : n < 32) :
    (Tab.get Ry.empty (c.inHandler code slot tv).ry n).hdr.getLsbD 63 = false := by
  rw [Core.inHandler_ry, (Core.snapshot_none h).2 n hn]
  rfl

/-- Settles O21: the handler starts at once, and nothing in flight leaves every replay register empty. -/
theorem trapEntry : Obligations.TrapEntry := by
  intro s c code slot tv hc hv hi hr hp hq hs
  refine ⟨_, takeTrap_at_once s c code slot tv hc (canTrap_of hv hi hr) hp hq hs, ?_⟩
  generalize s.core c = k at hp ⊢
  rw [Core.enterHandler_of_taking (c := k.toTrap code slot tv) rfl]
  exact ⟨rfl, rfl, rfl, rfl, rfl, rfl, rfl, rfl, rfl, rfl, rfl, fun n hn => Core.not_valid_of_nothing_in_flight code slot tv hp hn,
    (k.toTrap code slot tv).inHandler_keeps code slot tv⟩

/-! ## The return from a trap (R211) -/

theorem Core.returnTrap_pend (c : Core) : c.returnTrap.pend =
    ((List.range 32).filterMap (fun n => (Tab.get Ry.empty c.ry n).toWr c.step c.step)).foldl (fun l w => insWr w l) c.pend := rfl

/-- Replay register 0 alone holds a write. -/
theorem Core.replayed_one {c : Core} {w w' : Wr} {st : Nat} (hget : ∀ n < 32, Tab.get Ry.empty c.ry n = Ry.slot [w] st n)
    (hw : (Ry.slot [w] st 0).toWr c.step c.step = some w') :
    (List.range 32).filterMap (fun n => (Tab.get Ry.empty c.ry n).toWr c.step c.step) = [w'] := by
  have hrest : (List.range 31).filterMap (fun n => (Tab.get Ry.empty c.ry (n + 1)).toWr c.step c.step) = [] := by
    rw [List.filterMap_eq_nil_iff]
    intro n hn
    rw [hget (n + 1) (Nat.succ_lt_succ (List.mem_range.mp hn)), Ry.slot_one_succ, Ry.toWr_empty]
  rw [List.range_succ_eq_map, List.filterMap_cons, List.filterMap_map, hget 0 (by decide), hw]
  exact congrArg (w' :: ·) hrest

theorem inh_cleared (v : DWord) : (v &&& ~~~1).getLsbD 0 = false := by simp

theorem delay_restored {n : Nat} (h : n ≤ 2) : (BitVec.ofNat 64 n &&& 3).toNat = n := by
  match n, h with
  | 0, _ => rfl
  | 1, _ => rfl
  | 2, _ => rfl

theorem tangent_restored {k : Nat} (h : k ≤ 3) : bits (BitVec.ofNat 64 (1 + 2 * k)).toNat 2 1 = k := by
  match k, h with
  | 0, _ => rfl
  | 1, _ => rfl
  | 2, _ => rfl
  | 3, _ => rfl

/-- Settles O24: replay register 0 holds the write (`Core.snapshot_one`) and gives it back (`Ry.toWr_ofWr`); every other is empty. -/
theorem trapRoundTrip : Obligations.TrapRoundTrip := by
  intro c w n code slot st tv htaking hpend hdst h0 hn hdue hleft hkp hlm hpm hwait hpoison hdelay hk r hr
  have hcounts : w.counts = true := by simp only [Wr.counts, hdst]; exact decide_eq_true (Nat.ne_of_gt h0)
  obtain ⟨hempty, hry⟩ := Core.snapshot_one hpend hcounts hpoison
  have hback := Ry.toWr_ofWr st st hdst h0 hn hleft hkp hlm hpm hwait hpoison
  have hws := Core.replayed_one (c := ((c.inHandler code slot tv).atStep st)) hry hback
  have hpend' := Core.returnTrap_pend ((c.inHandler code slot tv).atStep st)
  rw [hws] at hpend'
  replace hr : r = ((c.inHandler code slot tv).atStep st).returnTrap := by rw [hr, Core.enterHandler_of_taking htaking]; rfl
  rw [hr]
  refine ⟨rfl, delay_restored hdelay, rfl, tangent_restored hk, inh_cleared _, hpend'.trans ?_, rfl, rfl, rfl, rfl⟩
  exact congrArg (insWr _) hempty

/-! ## A trap that cannot be taken (R363) -/

theorem recBits_or (a b : BitVec 512) (hi lo : Nat) : recBits (a ||| b) hi lo = recBits a hi lo ||| recBits b hi lo := by
  simp only [recBits, bits, BitVec.toNat_or, ← Nat.shiftRight_eq_div_pow, Nat.shiftRight_or_distrib, Nat.or_mod_two_pow]

/-- RANK 7 stands in bits [434:432] and changes no other field. -/
theorem recBits_recRank7 (r : BitVec 512) (hi lo : Nat) :
    recBits (recRank7 r) hi lo = recBits r hi lo ||| recBits ((7 : BitVec 512) <<< 432) hi lo := recBits_or r _ hi lo

theorem recBits_rank7_word : recBits ((7 : BitVec 512) <<< 432) 447 440 = 0 ∧ recBits ((7 : BitVec 512) <<< 432) 63 0 = 0 ∧
    recBits ((7 : BitVec 512) <<< 432) 434 432 = 7 := by decide +kernel

theorem recBits_recRank7_code (r : BitVec 512) : recBits (recRank7 r) 447 440 = recBits r 447 440 := by
  rw [recBits_recRank7, recBits_rank7_word.1, Nat.or_zero]

/-- Settles O22: where the core cannot trap, `takeTrap` is `escalate` with the record of TRAP. -/
theorem trapEscalates : Obligations.TrapEscalates := by
  intro s c n t hno hteam
  have hcode : 0x80 + n - 0x80 = n := Nat.add_sub_cancel_left 0x80 n
  refine ⟨?_, fun hn => ⟨?_, ?_, ?_⟩⟩
  · simp only [State.takeTrap, hno, Bool.false_eq_true, if_false, hteam, State.escalate, hcode, recBits_recRank7_code]
  · rw [recBits_recRank7_code]
    exact RecF.recBits_pack _ 15 (by decide) rfl (by decide)
  · have hop : recBits (s.coreRec c 0x1D 0 n 0 0) 63 0 = n := RecF.recBits_pack _ 0 (by decide) rfl (Nat.lt_trans hn (by decide))
    rw [recBits_recRank7, hop, recBits_rank7_word.2.1, Nat.or_zero]
  · have hrank : recBits (s.coreRec c 0x1D 0 n 0 0) 434 432 = 0 := RecF.recBits_pack _ 12 (by decide) rfl (by decide)
    rw [recBits_recRank7, hrank, recBits_rank7_word.2.2, Nat.zero_or]

end Sys2Proof.Machine

/-! # Syllables that fail a check (R371 to R377) -/

namespace Sys2Proof.Machine

/-! ## Every slot instruction issues in one way -/

/-- An instruction of a slot goes through `coxIssue` with its own effect. -/
theorem exec_of_slot (i : Instr) (h : i.place ∈ ([.s, .v, .m, .c] : List Place)) :
    ∃ eff, ∀ s, exec i s = coxIssue i eff s := by
  cases i
  case add | sub | and | or | xor | sll | srl | sra | min | max | minu | maxu | mul | mulh | mulhu | div | divu | rem | remu | cmpEq |
        cmpNe | cmpLt | cmpGe | cmpLtu | cmpGeu | pand | por | pxor | pandn | pmov | pset | extu | exts | ins | clz | ctz | popc | addi |
        andi | ori | xori | slli | srli | srai | cmpiEq | cmpiNe | cmpiLt | cmpiGe | cmpiLtu | cmpiGeu | lui | ldB | ldH | ldW | ldD | stB
        | stH | stW | stD | ldnB | ldnH | ldnW | ldnD | ldnBu | ldnHu | ldnWu | stnB | stnH | stnW | stnD | atn | br | brNot | jal | jalr
        | loop | rvset | rvarr | rvwait | waitstampNe | waitstampTag | waitstampAny | fcfg | frel | tksend | tktake | csrr | csrw | csrs |
        csrc | dual | tget | tgetV | tset | tsetV | tplane | trap | rysave | ryload | regshrinkX | regshrinkV | reggrowX | reggrowV | vadd
        | vsub | vmul | vmin | vmax | vabs | vneg | vfma | vfnma | viadd | visub | vimul | vimin | vimax | vsll | vsrl | vsra | vand | vor
        | vxor | vandn | vcmpEqF | vcmpLtF | vcmpLeF | vcmpEqI | vcmpLtI | vsel | vperm | vbcast | vredadd | vredmax | vrediadd | vexp2 |
        vlog2 | vrcp | vrsqrt | vtanh | vsigm | vdiv | vsqrt | vcvtTo | vcvtFrom | vscale | vquant | vld | vldb | vst | vldn | vstn | vins
        | vsplat | vext | vexts | mxstep | mxdrain | mxzero | mxsave | mxrest | mxpair | mxstat | xfwd | xinv | rdstr | rdsieve | rdfold |
        rdmat | rdfp | rdcmp | upd | dep | land | bvload | importHost | exportHost | stream | crsmode | cursor | kvlook | kvapp | kvfork |
        kvtrunc | kvflat | kvdep | playset | framein | stateck | nop | fenceT | fenceD | fenceS | dualend | rett | exit =>
    delta exec
    exact ⟨_, fun _ => rfl⟩
  all_goals exact absurd h (of_decide_eq_false rfl)

/-! ## The first check that fails -/

section
variable {i : Instr} {s : State} (syl : Nat) (hs : s.badState i = none) (hv : s.badValue i = none) (hrc : s.badRecord i = none)
include hs hv hrc

theorem illegal_none : s.illegal i none = none := by simp [State.illegal, hs, hv, hrc, lowerOf]

/-- A register at or above the launch allotment (R374). -/
theorem checkIns_range {r : Nat × Nat} (h : (namedRegs i).find? (fun r => s.me.regCode r = 2) = some r) :
    s.checkIns i syl none = some ⟨2, 256 * r.1 + r.2, syl, s.me.ax + 256 * s.me.av⟩ := by
  simp only [State.checkIns, illegal_none hs hv hrc, h]

/-- A released register (R374). -/
theorem checkIns_released {r : Nat × Nat} (h2 : (namedRegs i).find? (fun r => s.me.regCode r = 2) = none)
    (h : (namedRegs i).find? (fun r => s.me.regCode r = 3) = some r) :
    s.checkIns i syl none = some ⟨3, 256 * r.1 + r.2, syl, s.me.ax + 256 * s.me.av⟩ := by
  simp only [State.checkIns, illegal_none hs hv hrc, h2, h]

variable {xs vs : List Nat} (hn : namesIn i xs vs) (hnm : s.named xs vs)
include hn hnm

omit hs hv hrc in
theorem no_register_fails {n : Nat} (h : n ≠ 0) : (namedRegs i).find? (fun r => s.me.regCode r = n) = none := by
  rw [List.find?_eq_none]
  intro r hr
  rw [decide_eq_true_eq, regCode_named i s xs vs hn hnm r hr]
  exact Ne.symm h

/-- The one address is not a multiple of its width (R376). -/
theorem checkIns_align {a : AddrReq} (had : s.addrs i = [a]) (h : a.addr % a.width ≠ 0) :
    s.checkIns i syl none = some ⟨4, a.addr, syl, a.width⟩ := by
  have hfind : (s.addrs i).find? (fun a => a.addr % a.width ≠ 0) = some a := by
    rw [had]
    exact List.find?_cons_of_pos (decide_eq_true h)
  simp only [State.checkIns, illegal_none hs hv hrc, no_register_fails hn hnm (n := 2) (by decide),
    no_register_fails hn hnm (n := 3) (by decide), hfind]

/-- The one address is aligned and cannot be reached (R377). -/
theorem checkIns_unreachable {a : AddrReq} (had : s.addrs i = [a]) (h : a.addr % a.width = 0) (hb : a.bytes ≠ 0)
    (hr : s.reachable s.cur a = false) : s.checkIns i syl none = some ⟨5, a.addr, syl, a.width⟩ := by
  have hal : (s.addrs i).find? (fun a => a.addr % a.width ≠ 0) = none := by
    rw [had]
    simp [h]
  have hfind : (s.addrs i).find? (fun a => a.bytes ≠ 0 && !s.reachable s.cur a) = some a := by
    rw [had]
    exact List.find?_cons_of_pos (by rw [decide_eq_true hb, hr]; rfl)
  simp only [State.checkIns, illegal_none hs hv hrc, no_register_fails hn hnm (n := 2) (by decide),
    no_register_fails hn hnm (n := 3) (by decide), hal, hfind]

end

/-! ## Register names and addresses out of range -/

theorem regCode_x_range {c : Core} {n : Nat} (h0 : n ≠ 0) (h : c.lx ≤ n) (hle : c.ax ≤ c.lx) : c.regCode (0, n) = 2 := by
  simp [Core.regCode, h0, h, Nat.not_lt.mpr (Nat.le_trans hle h)]

theorem regCode_x_released {c : Core} {n : Nat} (h0 : n ≠ 0) (h : c.ax ≤ n) (hlt : n < c.lx) : c.regCode (0, n) = 3 := by
  simp [Core.regCode, h0, Nat.not_lt.mpr h, Nat.not_le.mpr hlt]

theorem regCode_v_range {c : Core} {n : Nat} (h : c.lv ≤ n) (hle : c.av ≤ c.lv) : c.regCode (1, n) = 2 := by
  simp [Core.regCode, h, Nat.not_lt.mpr (Nat.le_trans hle h)]

/-- An address of the cox store ends at 2^20 (R99). -/
theorem reachable_cox_end (s : State) (c : Nat) {r : AddrReq} (hsp : r.sp = 0) (h : 2 ^ 20 ≤ r.addr) : s.reachable c r = false := by
  refine Bool.eq_false_iff.mpr fun hok => ?_
  simp only [State.reachable, Bool.and_eq_true, localOk, hsp, decide_eq_true_eq] at hok
  obtain ⟨⟨⟨⟨hlocal, hspace⟩, -⟩, -⟩, -⟩ := hok
  have hbit : bit r.addr 31 = false := by simpa using hspace
  simp only [hbit, Bool.false_eq_true, if_false, bits] at hlocal
  obtain ⟨hlim, hhigh⟩ := hlocal
  simp only [bit, decide_eq_false_iff_not] at hbit
  replace hhigh := of_decide_eq_true hhigh
  omega

/-- A node address has bit 31 set (R99). -/
theorem reachable_node_low (s : State) (c : Nat) {r : AddrReq} (hsp : r.sp = 1) (h : r.addr < 2 ^ 20) : s.reachable c r = false := by
  have hbit : bit r.addr 31 = false := by
    simp only [bit, decide_eq_false_iff_not]
    omega
  simp [State.reachable, hsp, hbit]

theorem namesIn_of_eq {i : Instr} {xs vs : List Nat} {l : List (Nat × Nat)} (h : namedRegs i = l)
    (hl : ∀ r ∈ l, (r.1 = 0 ∧ r.2 ∈ xs) ∨ (r.1 ≠ 0 ∧ r.2 ∈ vs)) : namesIn i xs vs := by rw [namesIn, h]; exact hl

/-- Settles O25: each clause is the first check of R371 that fails, all before it passing. -/
theorem preciseFaults : Obligations.PreciseFaults := by
  refine ⟨fun i s b hp hc h => ?_, fun s d a b h0 hd hle ha hb => ?_, fun s d a b h0 hd hlt ha hb => ?_, fun s d a b g ha hle hd hb => ?_,
    fun s d a i hnm h => ?_, fun s d a i hnm h => ?_, fun s d a i hnm h hr => ?_, fun s d a b hnm h hr => ?_, fun s d a i g hnm h => ?_,
    fun s d a hnm hdelay h => ?_⟩
  · obtain ⟨eff, hexec⟩ := exec_of_slot i hp
    rw [hexec]
    exact coxIssue_bad i eff s b hc h
  · have hfind : (namedRegs (.add d a b)).find? (fun r => s.me.regCode r = 2) = some (0, d) := by
      rw [show namedRegs (.add d a b) = [(0, b), (0, a), (0, d)] from rfl]
      simp [regCode_x _ _ ha, regCode_x _ _ hb, regCode_x_range h0 hd hle]
    rw [checkIns_range _ rfl rfl rfl hfind, Nat.mul_zero, Nat.zero_add]
  · have hregs : namedRegs (.add d a b) = [(0, b), (0, a), (0, d)] := rfl
    have hrel := regCode_x_released h0 hd hlt
    rw [checkIns_released (r := (0, d)) _ rfl rfl rfl (by rw [hregs]; simp [regCode_x _ _ ha, regCode_x _ _ hb, hrel])
      (by rw [hregs]; simp [regCode_x _ _ ha, regCode_x _ _ hb, hrel]), Nat.mul_zero, Nat.zero_add]
  · have hfind : (namedRegs (.vadd d a b g)).find? (fun r => s.me.regCode r = 2) = some (1, a) := by
      rw [show namedRegs (.vadd d a b g) = [(1, b), (1, a), (1, d)] from rfl]
      simp [regCode_v _ 1 _ (by decide) hb, regCode_v_range ha hle]
    rw [checkIns_range _ rfl rfl rfl hfind, Nat.mul_one]
  · exact checkIns_align _ rfl rfl rfl (namesIn_of_eq (l := [(0, a), (0, d)]) rfl (by simp)) hnm (a := s.access (s.eaImm a i) 8 0 0) rfl h
  · exact checkIns_align _ rfl rfl rfl (namesIn_of_eq (l := [(0, a), (0, d)]) rfl (by simp)) hnm (a := s.access (s.eaImm a i) 4 1 0) rfl h
  · exact checkIns_unreachable _ rfl rfl rfl (namesIn_of_eq (l := [(0, a), (0, d)]) rfl (by simp)) hnm (a := s.access (s.eaImm a i) 8 0 0) rfl h
      (Nat.succ_ne_zero 7) (reachable_cox_end s _ rfl hr)
  · exact checkIns_unreachable _ rfl rfl rfl (namesIn_of_eq (l := [(0, b), (0, a), (0, d)]) rfl (by simp)) hnm
      (a := s.access (s.eaReg a b) 8 0 1) rfl h (Nat.succ_ne_zero 7) (reachable_node_low s _ rfl hr)
  · exact checkIns_align _ rfl rfl rfl (namesIn_of_eq (l := [(0, a), (1, d)]) rfl (by simp)) hnm (a := s.access (s.eaVec a i 64) 64 16 0) rfl h
  · have hstate : s.badState (.jalr d a) = none := if_neg (fun hne => hne hdelay)
    exact checkIns_align _ hstate rfl rfl (namesIn_of_eq (l := [(0, a), (0, d)]) rfl (by simp)) hnm (a := { addr := s.xval a, width := 16 }) rfl h

end Sys2Proof.Machine

/-! # What a register instruction leaves (R192) -/

namespace Sys2Proof.Machine

/-- `t` differs from `s` in the writes in flight of the core whose turn it is at most. -/
def PendOnly (s t : State) : Prop := ∃ p, t = s.setCore s.cur { s.me with pend := p }

theorem PendOnly.refl (s : State) : PendOnly s s := ⟨s.me.pend, (setCore_self s s.cur).symm⟩

theorem pendOnly_putW (s : State) (lat : Nat) (d : Dst) (ps : List (BitVec 512)) (lm pm : Nat) (fl : FlagSet) (w : Option Nat) (po : Bool) :
    PendOnly s (s.putW lat d ps lm pm fl w po) := putW_only ..

theorem pendOnly_putX (s : State) (lat d : Nat) (v : DWord) (fl : FlagSet) (ts : List DWord) : PendOnly s (s.putX lat d v fl ts) := putX_only ..

theorem pendOnly_putV (s : State) (lat d m : Nat) (vs : List VWord) (fl : FlagSet) : PendOnly s (s.putV lat d m vs fl) := putV_only ..

theorem pendOnly_putP (s : State) (lat d : Nat) (v : BitVec 16) : PendOnly s (s.putP lat d v) := putP_only ..

theorem pendOnly_putDiv (s : State) (d : Nat) (v : DWord) (fl : FlagSet) : PendOnly s (s.putDiv d v fl) := by
  unfold State.putDiv
  split
  · exact pendOnly_putW ..
  · exact pendOnly_putX ..

/-- Setting a core that does not exist changes nothing. -/
theorem setCore_beyond (s : State) (c : Nat) (v : Core) (h : s.cores.length ≤ c) : s.setCore c v = s := by
  simp [State.setCore, List.set_eq_of_length_le h]

theorem PendOnly.trans {s t u : State} (h : PendOnly s t) (h' : PendOnly t u) : PendOnly s u := by
  obtain ⟨p, rfl⟩ := h
  obtain ⟨q, rfl⟩ := h'
  by_cases hc : s.cur < s.cores.length
  · refine ⟨q, ?_⟩
    rw [setCore_cur, State.me_setCore_cur s _ hc, setCore_setCore]
  · refine ⟨q, ?_⟩
    rw [setCore_beyond s s.cur _ (Nat.le_of_not_lt hc), setCore_beyond s s.cur _ (Nat.le_of_not_lt hc)]

theorem pendOnly_foldl {α : Type} (f : State → α → State) (h : ∀ s a, PendOnly s (f s a)) (l : List α) : ∀ s, PendOnly s (l.foldl f s) := by
  induction l with
  | nil => exact PendOnly.refl
  | cons a l ih => exact fun s => (h s a).trans (ih _)

theorem pendOnly_loadRy (s : State) (off : Nat) : PendOnly s (s.loadRy off) :=
  pendOnly_foldl _ (fun _ _ => pendOnly_putW ..) _ s

theorem coxIssue_pendOnly {i : Instr} {eff : State → State} {s t : State} (h : s.issues i) (ht : coxIssue i eff s = .next t)
    (he : PendOnly s (eff s)) : PendOnly s t := by
  rw [coxIssue_issues i eff s h] at ht
  cases ht
  exact he

/-- A register instruction queues its result, whatever its operation. -/
theorem exec_pendOnly {i : Instr} {s t : State} (hr : registerOnly i = true) (hi : s.issues i) (ht : exec i s = .next t) : PendOnly s t := by
  cases i
  case add | sub | and | or | xor | sll | srl | sra | min | max | minu | maxu | mul | mulh | mulhu | pmov | extu | exts | ins | clz | ctz |
      popc | addi | andi | ori | xori | slli | srli | srai | lui | waitstampNe | waitstampTag | waitstampAny | csrr | tget | vext | vexts =>
    delta exec at ht
    exact coxIssue_pendOnly hi ht (pendOnly_putX ..)
  case div | divu | rem | remu =>
    delta exec at ht
    exact coxIssue_pendOnly hi ht (pendOnly_putDiv ..)
  case cmpEq | cmpNe | cmpLt | cmpGe | cmpLtu | cmpGeu | pand | por | pxor | pandn | pset | cmpiEq | cmpiNe | cmpiLt | cmpiGe | cmpiLtu |
      cmpiGeu | vcmpEqF | vcmpLtF | vcmpLeF | vcmpEqI | vcmpLtI =>
    delta exec at ht
    exact coxIssue_pendOnly hi ht (pendOnly_putP ..)
  case csrw | csrs | csrc | dual | tsetV | tplane | regshrinkX | regshrinkV | reggrowX | reggrowV | dualend =>
    delta exec at ht
    exact coxIssue_pendOnly hi ht (pendOnly_putW ..)
  case tgetV | vadd | vsub | vmul | vmin | vmax | vabs | vneg | vfma | vfnma | viadd | visub | vimul | vimin | vimax | vsll | vsrl | vsra |
      vand | vor | vxor | vandn | vsel | vperm | vbcast | vredadd | vredmax | vrediadd | vexp2 | vlog2 | vrcp | vrsqrt | vtanh | vsigm |
      vdiv | vsqrt | vcvtTo | vcvtFrom | vscale | vquant | vins | vsplat =>
    delta exec at ht
    exact coxIssue_pendOnly hi ht (pendOnly_putV ..)
  case ryload =>
    delta exec at ht
    exact coxIssue_pendOnly hi ht (pendOnly_loadRy s _)
  case rvwait | nop | fenceT | fenceD | fenceS =>
    delta exec at ht
    exact coxIssue_pendOnly hi ht (PendOnly.refl s)
  case tset =>
    delta exec at ht
    refine coxIssue_pendOnly hi ht ?_
    split
    · exact PendOnly.refl s
    · exact pendOnly_putW ..
  -- no other instruction touches registers alone
  all_goals cases hr

/-- Settles O26: a state that differs in writes in flight alone. -/
theorem registerOnlyFrame : Obligations.RegisterOnlyFrame := by
  intro i s t hr hi ht
  obtain ⟨p, rfl⟩ := exec_pendOnly hr hi ht
  refine ⟨fun a => rfl, ?_, fun c hc => core_setCore_other s s.cur c _ hc, rfl⟩
  by_cases hc : s.cur < s.cores.length
  · rw [show (s.setCore s.cur { s.me with pend := p }).me = { s.me with pend := p } from State.me_setCore_cur s _ hc]
  · rw [setCore_beyond s s.cur _ (Nat.le_of_not_lt hc)]

end Sys2Proof.Machine

/-! # An instruction whose registers are in the allotment has its effect -/

namespace Sys2Proof.Machine

/-- Nothing but the names of its registers can stop the syllable: no reserved value, no record, no address, no condition. -/
structure Plain (s : State) (i : Instr) : Prop where
  badState : s.badState i = none
  badValue : s.badValue i = none
  badRecord : s.badRecord i = none
  addrs : s.addrs i = []
  waiting : s.waiting? i = none
  trapEsc : s.trapEsc i = none
  holdStep : s.holdStep i = none

theorem b2n_le_one (b : Bool) : b2n b ≤ 1 := by cases b <;> decide

/-- A fit syllable of a slot has its effect `eff`; `l` is the list of the registers that it names. -/
theorem exec_of_fit {i : Instr} {eff : State → State} {s : State} {xs vs : List Nat} (l : List (Nat × Nat)) (h : s.fit xs vs)
    (hex : exec i s = coxIssue i eff s := by rfl) (hregs : namedRegs i = l := by rfl)
    (hl : ∀ r ∈ l, (r.1 = 0 ∧ r.2 ∈ xs) ∨ (r.1 ≠ 0 ∧ r.2 ∈ vs) := by simp)
    (hp : Plain s i := by exact ⟨rfl, rfl, rfl, rfl, rfl, rfl, rfl⟩) (hw : addsWrites i ≤ 1 := by exact b2n_le_one _) :
    exec i s = .next (eff s) :=
  hex.trans (coxIssue_fit i eff s xs vs (namesIn_of_eq hregs hl) hp.badState hp.badValue hp.badRecord hp.addrs hp.waiting hp.trapEsc
    hp.holdStep hw h)

end Sys2Proof.Machine

/-! # S-slot arithmetic, compares, bit fields and immediates (R193 to R197) -/

namespace Sys2Proof.Machine

/-! ## Values -/

theorem sminW_eq (x y : DWord) : sminW x y = if y.toInt < x.toInt then y else x := by
  unfold sminW
  by_cases h : y.toInt < x.toInt
  · rw [if_neg (by omega), if_pos h]
  · rw [if_pos (by omega), if_neg h]

/-- Where the two compare equal they are equal. -/
theorem smaxW_eq (x y : DWord) : smaxW x y = if x.toInt < y.toInt then y else x := by
  unfold smaxW
  rcases Int.lt_trichotomy x.toInt y.toInt with h | h | h
  · rw [if_pos (by omega), if_pos h]
  · rw [if_pos (by omega), if_neg (by omega), BitVec.eq_of_toInt_eq h]
  · rw [if_neg (by omega), if_neg (by omega)]

theorem uminW_eq (x y : DWord) : uminW x y = if y < x then y else x := by
  unfold uminW
  by_cases h : y < x
  · rw [if_neg (by bv_omega), if_pos h]
  · rw [if_pos (by bv_omega), if_neg h]

theorem umaxW_eq (x y : DWord) : umaxW x y = if x < y then y else x := by
  unfold umaxW
  rcases Nat.lt_trichotomy x.toNat y.toNat with h | h | h
  · rw [if_pos (by omega), if_pos (BitVec.lt_def.mpr h)]
  · rw [if_pos (by omega), if_neg (by bv_omega), BitVec.eq_of_toNat_eq h]
  · rw [if_neg (by omega), if_neg (by bv_omega)]

theorem bits_count (n : Nat) : bits n 5 0 = n % 64 := by simp [bits]

/-- The one quotient that does not fit is the dividend itself (R194). -/
theorem quotS_of_nonzero {x y : DWord} (h : y ≠ 0) :
    quotS x y = if x.toInt = -2 ^ 63 ∧ y.toInt = -1 then x else BitVec.ofInt 64 (x.toInt.tdiv y.toInt) := by
  rw [quotS, if_neg h]
  split
  case isTrue hmin =>
    have hx : x = BitVec.ofInt 64 (-2 ^ 63) := by rw [← hmin.1, BitVec.ofInt_toInt]
    rw [hmin.1, hmin.2, hx]
    decide
  case isFalse => rfl

theorem quotU_of_nonzero {x y : DWord} (h : y ≠ 0) : quotU x y = x / y := by
  rw [quotU, if_neg h]
  apply BitVec.eq_of_toNat_eq
  rw [BitVec.toNat_ofNat, BitVec.toNat_udiv, Nat.mod_eq_of_lt (Nat.lt_of_le_of_lt (Nat.div_le_self _ _) x.isLt)]

theorem remS_of_nonzero {x y : DWord} (h : y ≠ 0) : remS x y = BitVec.ofInt 64 (x.toInt.tmod y.toInt) := if_neg h

theorem remU_of_nonzero {x y : DWord} (h : y ≠ 0) : remU x y = x % y := by
  rw [remU, if_neg h]
  apply BitVec.eq_of_toNat_eq
  rw [BitVec.toNat_ofNat, BitVec.toNat_umod, Nat.mod_eq_of_lt (Nat.lt_of_le_of_lt (Nat.mod_le _ _) x.isLt)]

theorem divFlags_of_nonzero {y : DWord} (h : y ≠ 0) : divFlags y = 0 := if_neg h

/-- The divide forms, with the value and the flags of the definition (R194). -/
theorem exec_divides {s : State} {d a b : Nat} {x y : DWord} (hx : x = s.me.rx 0 a) (hy : y = s.me.rx 0 b) (h : s.fit [d, a, b] []) :
    exec (.div d a b) s = .next (s.putDiv d (quotS x y) (divFlags y)) ∧ exec (.divu d a b) s = .next (s.putDiv d (quotU x y) (divFlags y)) ∧
    exec (.rem d a b) s = .next (s.putDiv d (remS x y) (divFlags y)) ∧ exec (.remu d a b) s = .next (s.putDiv d (remU x y) (divFlags y)) := by
  subst hx hy
  refine ⟨?_, ?_, ?_, ?_⟩ <;> apply exec_of_fit [(0, b), (0, a), (0, d)] h (hw := by exact Nat.le_refl 1)

/-- Settles O28: each instruction is fit, and its value is that of the definition in another form. -/
theorem scalarArithmetic : Obligations.ScalarArithmetic := by
  intro s d a b x y hx hy h
  obtain ⟨hdiv, hdivu, hrem, hremu⟩ := exec_divides hx hy h
  rw [← sminW_eq, ← smaxW_eq, ← uminW_eq, ← umaxW_eq, ← bits_count, hdiv, hdivu, hrem, hremu]
  refine ⟨?_, ?_, ?_, ?_, ?_, ?_, ?_, ?_, ?_, ?_, ?_, ?_, ?_, ?_, ?_,
    fun h0 => by rw [quotS_of_nonzero h0, divFlags_of_nonzero h0], fun h0 => by rw [quotU_of_nonzero h0, divFlags_of_nonzero h0],
    fun h0 => by rw [remS_of_nonzero h0, divFlags_of_nonzero h0], fun h0 => by rw [remU_of_nonzero h0, divFlags_of_nonzero h0],
    fun h0 => ?_, fun v fl => ⟨fun hd => if_neg hd, fun hd => if_pos hd⟩⟩
  case refine_16 =>
    have hf : divFlags y = 2 := if_pos h0
    rw [hf, show quotS x y = _ from if_pos h0, show quotU x y = _ from if_pos h0, show remS x y = _ from if_pos h0,
      show remU x y = _ from if_pos h0]
    exact ⟨rfl, rfl, rfl, rfl⟩
  all_goals
    subst hx hy
    apply exec_of_fit [(0, b), (0, a), (0, d)] h

/-! ## Compares (R195) -/

theorem predOf_eq (x y : DWord) : predOf (compareX 0 x y) = if x = y then 0xFFFF else 0 := by
  by_cases h : x = y <;> simp [predOf, compareX, h]

theorem predOf_ne (x y : DWord) : predOf (compareX 1 x y) = if x = y then 0 else 0xFFFF := by
  by_cases h : x = y <;> simp [predOf, compareX, h]

theorem predOf_lt (x y : DWord) : predOf (compareX 2 x y) = if x.toInt < y.toInt then 0xFFFF else 0 := by
  by_cases h : x.toInt < y.toInt <;> simp [predOf, compareX, h]

theorem predOf_ge (x y : DWord) : predOf (compareX 3 x y) = if x.toInt < y.toInt then 0 else 0xFFFF := by
  by_cases h : x.toInt < y.toInt
  · simp [predOf, compareX, h, Int.not_le.mpr h]
  · simp [predOf, compareX, h, Int.not_lt.mp h]

theorem predOf_ltu (x y : DWord) : predOf (compareX 4 x y) = if x < y then 0xFFFF else 0 := by
  by_cases h : x.toNat < y.toNat <;> simp [predOf, compareX, BitVec.lt_def, h]

theorem predOf_geu (x y : DWord) : predOf (compareX 5 x y) = if x < y then 0 else 0xFFFF := by
  by_cases h : x.toNat < y.toNat
  · simp [predOf, compareX, BitVec.lt_def, h, Nat.not_le.mpr h]
  · simp [predOf, compareX, BitVec.lt_def, h, Nat.not_lt.mp h]

/-- Settles O29. -/
theorem scalarCompare : Obligations.ScalarCompare := by
  refine ⟨fun s d a b x y hx hy h => ?_, fun s d a b h => ?_, fun s d a h => ?_, fun s d a h => ?_⟩
  · subst hx hy
    rw [← predOf_eq, ← predOf_ne, ← predOf_lt, ← predOf_ge, ← predOf_ltu, ← predOf_geu]
    refine ⟨?_, ?_, ?_, ?_, ?_, ?_⟩ <;> apply exec_of_fit [(0, b), (0, a)] h
  · refine ⟨?_, ?_, ?_, ?_⟩ <;> apply exec_of_fit [] h
  · apply exec_of_fit [(0, d)] h
  · apply exec_of_fit [(0, a)] h

/-! ## Sign extension, fields and counts (R196) -/

theorem sint_eq_toInt (w x : Nat) (hw : 0 < w) : sint w x = (BitVec.ofNat w x).toInt := by
  obtain ⟨w, rfl⟩ := Nat.exists_eq_add_of_le' hw
  have hpow : 2 ^ (w + 1) = 2 * 2 ^ w := by rw [Nat.pow_succ, Nat.mul_comm]
  change sint (w + 1) x = (BitVec.ofNat (w + 1) x).toInt
  rw [BitVec.toInt_eq_toNat_cond, BitVec.toNat_ofNat, sint, Nat.add_sub_cancel]
  split <;> split <;> omega

theorem sext_eq_signExtend (w x : Nat) (hw : 0 < w) : sext w x = (BitVec.ofNat w x).signExtend 64 := by
  rw [sext, sint_eq_toInt w x hw, BitVec.signExtend]

theorem fieldPos_eq (y : DWord) : fieldPos y = y.toNat % 64 := bits_count _

theorem fieldLen_eq (y : DWord) : fieldLen y = y.toNat / 256 % 64 + 1 := rfl

/-- Bit `i` of a field of `len` bits from `pos` up. -/
theorem testBit_field (x : DWord) (pos len i : Nat) : (x.toNat / 2 ^ pos % 2 ^ len).testBit i = (decide (i < len) && x.getLsbD (pos + i)) := by
  rw [Nat.testBit_mod_two_pow, Nat.testBit_div_two_pow, Nat.add_comm i, BitVec.getLsbD]

theorem getLsbD_extractU (x y : DWord) {i : Nat} (hi : i < 64) :
    (extractU x y).getLsbD i = (decide (i < fieldLen y) && x.getLsbD (fieldPos y + i)) := by
  rw [extractU, BitVec.getLsbD_ofNat, testBit_field, decide_eq_true hi, Bool.true_and]

theorem getLsbD_extractS (x y : DWord) {i : Nat} (hi : i < 64) :
    (extractS x y).getLsbD i = if i < fieldLen y then x.getLsbD (fieldPos y + i) else x.getLsbD (fieldPos y + fieldLen y - 1) := by
  have hlen : 0 < fieldLen y := Nat.succ_pos _
  have hfield : ∀ j < fieldLen y, (BitVec.ofNat (fieldLen y) (x.toNat / 2 ^ fieldPos y % 2 ^ fieldLen y)).getLsbD j = x.getLsbD (fieldPos y + j) := by
    intro j hj
    rw [BitVec.getLsbD_ofNat, testBit_field, decide_eq_true hj, Bool.true_and, Bool.true_and]
  rw [extractS, sext_eq_signExtend _ _ hlen, BitVec.getLsbD_signExtend, decide_eq_true hi, Bool.true_and]
  split
  case isTrue h => exact hfield i h
  case isFalse h =>
    rw [BitVec.msb_eq_getLsbD_last, hfield _ (by omega), Nat.add_sub_assoc hlen]

theorem testBit_ones_shifted (len pos i : Nat) : ((2 ^ len - 1) * 2 ^ pos).testBit i = (decide (pos ≤ i) && decide (i < pos + len)) := by
  rw [← Nat.shiftLeft_eq, Nat.testBit_shiftLeft, Nat.testBit_two_pow_sub_one]
  by_cases h : pos ≤ i
  · simp only [h, decide_true, Bool.true_and, decide_eq_decide]
    omega
  · simp [h]

theorem getLsbD_insertField (z x y : DWord) {i : Nat} (hi : i < 64) : (insertField z x y).getLsbD i =
    if fieldPos y ≤ i ∧ i < fieldPos y + fieldLen y then x.getLsbD (i - fieldPos y) else z.getLsbD i := by
  have hmask : (BitVec.ofNat 64 ((2 ^ fieldLen y - 1) * 2 ^ fieldPos y)).getLsbD i =
      (decide (fieldPos y ≤ i) && decide (i < fieldPos y + fieldLen y)) := by
    rw [BitVec.getLsbD_ofNat, testBit_ones_shifted, decide_eq_true hi, Bool.true_and]
  have hval : (BitVec.ofNat 64 (x.toNat % 2 ^ fieldLen y * 2 ^ fieldPos y)).getLsbD i =
      (decide (fieldPos y ≤ i) && (decide (i - fieldPos y < fieldLen y) && x.getLsbD (i - fieldPos y))) := by
    rw [BitVec.getLsbD_ofNat, ← Nat.shiftLeft_eq, Nat.testBit_shiftLeft, Nat.testBit_mod_two_pow, decide_eq_true hi, Bool.true_and]
    rfl
  rw [insertField, BitVec.getLsbD_or, BitVec.getLsbD_and, BitVec.getLsbD_and, BitVec.getLsbD_not, hmask, hval, decide_eq_true hi]
  by_cases h1 : fieldPos y ≤ i
  · by_cases h2 : i < fieldPos y + fieldLen y
    · simp [h1, h2, show i - fieldPos y < fieldLen y by omega]
    · simp [h1, h2]
  · simp [h1]

/-- The first place of a range where `p` holds, or the end of the range. -/
theorem find_range_getD (p : Nat → Bool) (N : Nat) : ((List.range N).find? p).getD N ≤ N ∧
    (∀ j < ((List.range N).find? p).getD N, p j = false) ∧ (((List.range N).find? p).getD N < N → p (((List.range N).find? p).getD N) = true) := by
  cases h : (List.range N).find? p with
  | none =>
    refine ⟨Nat.le_refl N, fun j hj => ?_, fun hn => absurd hn (Nat.lt_irrefl N)⟩
    simpa using List.find?_eq_none.mp h j (List.mem_range.mpr hj)
  | some n =>
    obtain ⟨hp, hn, hlow⟩ := List.find?_range_eq_some.mp h
    exact ⟨Nat.le_of_lt (List.mem_range.mp hn), fun j hj => by simpa using hlow j hj, fun _ => hp⟩

theorem countOnes_eq_countP (x : DWord) : countOnes x = (List.range 64).countP (fun i => x.getLsbD i) := List.countP_eq_length_filter.symm

/-- Settles O30: bit by bit for the fields, the first bit set for the counts of zeros. -/
theorem scalarBitFields : Obligations.ScalarBitFields := by
  refine ⟨fun s d a b x y z pos len hx hy hz hpos hlen h => ?_, fun s d a x hx h => ?_⟩
  · subst hx hy hz
    rw [← fieldPos_eq] at hpos
    rw [← fieldLen_eq] at hlen
    subst hpos hlen
    refine ⟨⟨_, ?_, fun i hi => getLsbD_extractU (s.me.rx 0 a) (s.me.rx 0 b) hi⟩, ⟨_, ?_, fun i hi => getLsbD_extractS (s.me.rx 0 a) (s.me.rx 0 b) hi⟩,
      ⟨_, ?_, fun i hi => getLsbD_insertField (s.me.rx 0 d) (s.me.rx 0 a) (s.me.rx 0 b) hi⟩⟩ <;> apply exec_of_fit [(0, b), (0, a), (0, d)] h
  · subst hx
    obtain ⟨hle, hlow, hat⟩ := find_range_getD (fun i => (s.me.rx 0 a).getLsbD (63 - i)) 64
    obtain ⟨hle', hlow', hat'⟩ := find_range_getD (fun i => (s.me.rx 0 a).getLsbD i) 64
    refine ⟨⟨countLz (s.me.rx 0 a), hle, ?_, hlow, hat⟩, ⟨countTz (s.me.rx 0 a), hle', ?_, hlow', hat'⟩, ?_⟩
    · apply exec_of_fit [(0, a), (0, d)] h
    · apply exec_of_fit [(0, a), (0, d)] h
    · rw [← countOnes_eq_countP]
      apply exec_of_fit [(0, a), (0, d)] h

/-! ## Immediates (R197) -/

theorem lui_value (i : Nat) : sext 19 i * 4096 = (BitVec.ofNat 19 i).signExtend 64 <<< 12 := by
  rw [sext_eq_signExtend 19 i (by decide)]
  exact (BitVec.mul_twoPow_eq_shiftLeft _ 12)

/-- Settles O31. -/
theorem scalarImmediates : Obligations.ScalarImmediates := by
  refine ⟨fun s d a i x m hx hi hm h => ?_, fun s d a n x hx hn h => ?_, fun s d a i x m hx hi hm h => ?_, fun s d i hi h => ?_⟩
  · rw [← sext_eq_signExtend 12 i (by decide)] at hm
    subst hx hm
    refine ⟨?_, ?_, ?_, ?_⟩ <;> apply exec_of_fit [(0, a), (0, d)] h
  · subst hx
    refine ⟨?_, ?_, ?_⟩ <;> apply exec_of_fit [(0, a), (0, d)] h
  · rw [← sext_eq_signExtend 9 i (by decide)] at hm
    subst hx hm
    rw [← predOf_eq, ← predOf_ne, ← predOf_lt, ← predOf_ge, ← predOf_ltu, ← predOf_geu]
    refine ⟨?_, ?_, ?_, ?_, ?_, ?_⟩ <;> apply exec_of_fit [(0, a)] h
  · rw [← lui_value]
    apply exec_of_fit [(0, d)] h

end Sys2Proof.Machine

/-! # Branches, loops, rendezvous, stamps, fences and traps (R170, R201 to R205, R209, R214) -/

namespace Sys2Proof.Machine

/-! ## What a landing keeps -/

/-- Where a core stands among its bundles, and in what team. -/
def Core.place (c : Core) : DWord × Nat × DWord × Next × Run × List Trap × Option Nat × Nat :=
  (c.pc, c.delayLeft, c.target, c.next, c.run, c.trapq, c.team, c.step)

theorem Core.place_foldl {α : Type} (f : Core → α → Core) (h : ∀ c a, (f c a).place = c.place) (l : List α) :
    ∀ c, (l.foldl f c).place = c.place := by
  induction l with
  | nil => exact fun _ => rfl
  | cons a l ih => exact fun c => (ih _).trans (h c a)

theorem Core.OnlyX.place {c r : Core} (h : Core.OnlyX c r) : r.place = c.place := by
  obtain ⟨x, d, rfl⟩ := h
  rfl

theorem Core.OnlyV.place {c r : Core} (h : Core.OnlyV c r) : r.place = c.place := by
  obtain ⟨v, d, rfl⟩ := h
  rfl

theorem Core.place_putCsr (c : Core) (n : Nat) (v : DWord) : (c.putCsr n v).place = c.place := by
  unfold Core.putCsr
  dsimp only
  split <;> rfl

theorem Core.place_wp (c : Core) (n : Nat) (v : BitVec 16) : (c.wp n v).place = c.place := by
  unfold Core.wp
  split <;> rfl

/-- A write landed leaves the place of its core, whatever its destination. -/
theorem Core.place_land1 (c : Core) (w : Wr) : (c.land1 w).place = c.place := by
  refine Eq.trans (b := (c.orFlags w.fl).place) ?_ rfl
  unfold Core.land1
  split
  · rfl
  · dsimp only
    generalize c.orFlags w.fl = c
    cases w.dst with
    | x n =>
      dsimp only
      split
      · rfl
      · exact (Core.onlyX_foldl _ (fun c p => Core.onlyX_wx c p n _) _ c).place
    | v n =>
      dsimp only
      split
      · rfl
      · exact (Core.onlyV_foldl _ (fun c p => Core.onlyV_wv c p n _) _ c).place
    | p n =>
      dsimp only
      split
      · exact Core.place_wp c n _
      · rfl
    | flags => rfl
    | csr n fn => exact Core.place_putCsr c n _
    | tplane n => rfl
    | allotX n g =>
      dsimp only
      split
      · split
        · rfl
        · exact (Core.onlyX_zeroX c _ _ _).place
      · split <;> rfl
    | allotV n g =>
      dsimp only
      split
      · split
        · rfl
        · exact (Core.onlyV_zeroV c _ _ _).place
      · split <;> rfl
    | ry n => rfl
    | loop => rfl
    | dual n => exact (Core.onlyV_zeroV _ _ _ _).place.trans (Core.onlyX_zeroX c _ _ _).place

theorem Core.place_land (c : Core) : c.land.place = c.place :=
  (Core.place_foldl _ Core.place_land1 _ _).trans rfl

@[simp] theorem Core.land_next (c : Core) : c.land.next = c.next := congrArg (fun p => p.2.2.2.1) c.place_land

@[simp] theorem Core.land_trapq (c : Core) : c.land.trapq = c.trapq := congrArg (fun p => p.2.2.2.2.2.1) c.place_land

@[simp] theorem Core.land_team (c : Core) : c.land.team = c.team := congrArg (fun p => p.2.2.2.2.2.2.1) c.place_land

theorem Core.advance_team (c : Core) : c.advance.team = c.team := by
  have hseq : c.seqNext.team = c.team := by
    unfold Core.seqNext
    split <;> rfl
  unfold Core.advance
  split
  · exact hseq
  · split <;> exact hseq

theorem State.me_modMe (s : State) (f : Core → Core) (h : s.cur < s.cores.length) : (s.modMe f).me = f s.me := core_modCore_same s s.cur f h

theorem State.me_putW_any (s : State) (lat : Nat) (d : Dst) (ps : List (BitVec 512)) (lm pm : Nat) (fl : FlagSet) (h : s.cur < s.cores.length) :
    (s.putW lat d ps lm pm fl).me = { s.me with pend := insWr (s.newWr lat d ps lm pm fl) s.me.pend } := State.me_modMe s _ h

/-! ## One address -/

/-- Nothing but the names of its registers and its one address can stop the syllable. -/
structure PlainAt (s : State) (i : Instr) (a : AddrReq) : Prop where
  badState : s.badState i = none
  badValue : s.badValue i = none
  badRecord : s.badRecord i = none
  addrs : s.addrs i = [a]
  waiting : s.waiting? i = none
  trapEsc : s.trapEsc i = none
  holdStep : s.holdStep i = none

/-- A fit syllable with one address has its effect; `l` is the list of the registers that it names. -/
theorem exec_of_fitAt {i : Instr} {eff : State → State} {s : State} {xs vs : List Nat} {a : AddrReq} (l : List (Nat × Nat)) (h : s.fitAt xs vs a)
    (hex : exec i s = coxIssue i eff s := by rfl) (hregs : namedRegs i = l := by rfl)
    (hl : ∀ r ∈ l, (r.1 = 0 ∧ r.2 ∈ xs) ∨ (r.1 ≠ 0 ∧ r.2 ∈ vs) := by simp)
    (hp : PlainAt s i a := by exact ⟨rfl, rfl, rfl, rfl, rfl, rfl, rfl⟩) (hw : addsWrites i ≤ 1 := by exact b2n_le_one _) :
    exec i s = .next (eff s) :=
  hex.trans (coxIssue_fitAt i eff s xs vs a (namesIn_of_eq hregs hl) hp.badState hp.badValue hp.badRecord hp.addrs hp.waiting hp.trapEsc
    hp.holdStep hw h)

/-- An address whose alignment alone is checked. -/
theorem State.fit.at {s : State} {xs vs : List Nat} (h : s.fit xs vs) {a : AddrReq} (hal : a.addr % a.width = 0) (hb : a.bytes = 0) :
    s.fitAt xs vs a := h.imp_right (fun h => ⟨h.1, h.2, hal, fun hne => absurd hb hne⟩)

/-! ## Branches and loops (R201, R202) -/

/-- The count of LOOP is the low word of its register. -/
theorem loop_count (x : DWord) : BitVec.ofNat 64 (x.toNat % 2 ^ 32) = x &&& 0xFFFFFFFF := by
  apply BitVec.eq_of_toNat_eq
  rw [BitVec.toNat_ofNat, BitVec.toNat_and, show (0xFFFFFFFF : DWord).toNat = 2 ^ 32 - 1 from rfl, Nat.and_two_pow_sub_one_eq_mod]
  exact Nat.mod_eq_of_lt (Nat.lt_trans (Nat.mod_lt _ (Nat.two_pow_pos 32)) (by decide))

theorem setWidth_back (v : DWord) : (v.setWidth 512).setWidth 64 = v := BitVec.setWidth_setWidth_of_le v (by decide : 64 ≤ 512)

/-- The loop registers landed. -/
theorem Core.land1_loop (c : Core) {w : Wr} (hw : w.poison = false) (h : w.dst = .loop) : c.land1 w =
    { c.orFlags w.fl with lc := w.p0.setWidth 64, lstart := w.p1.setWidth 64, lend := w.p2.setWidth 64 } := by simp [Core.land1, hw, h]

theorem State.modMe_beyond (s : State) (f : Core → Core) (h : ¬ s.cur < s.cores.length) : s.modMe f = s :=
  setCore_beyond s _ _ (Nat.not_lt.mp h)

theorem State.go_me (s : State) (n : Next) (h : s.cur < s.cores.length) : (s.go n).me = { s.me with next := n } := State.me_modMe s _ h

/-- The core after LOOP: the loop registers in flight, and the transfer of its bundle. -/
theorem State.startLoop_me (s : State) (a n : Nat) (hc : s.cur < s.cores.length) : ∃ w nx, (s.startLoop a n).me =
      { s.me with
        pend := insWr w s.me.pend
        next := nx } ∧
    nx = (if BitVec.ofNat 64 (s.xval a % 2 ^ 32) = 0 then .loopSkip (s.me.pc + BitVec.ofNat 64 (16 * n) + 16) else s.me.next) ∧
    w = s.newWr 1 .loop [(BitVec.ofNat 64 (s.xval a % 2 ^ 32) : DWord).setWidth 512, (s.me.pc + 16).setWidth 512,
      (s.me.pc + BitVec.ofNat 64 (16 * n)).setWidth 512] 0 0 0 := by
  refine ⟨_, _, ?_, rfl, rfl⟩
  unfold State.startLoop
  dsimp only
  split
  · rw [State.go_me _ _ (by simpa [State.putW] using hc), State.me_putW_any _ _ _ _ _ _ _ hc]
  · rw [State.me_putW_any _ _ _ _ _ _ _ hc]

theorem State.startLoop_beyond (s : State) (a n : Nat) (hc : ¬ s.cur < s.cores.length) : s.startLoop a n = s := by
  have hput : ∀ lat d ps lm pm fl, s.putW lat d ps lm pm fl = s := fun lat d ps lm pm fl => State.modMe_beyond s _ hc
  unfold State.startLoop
  dsimp only
  rw [hput]
  split
  · exact State.modMe_beyond s _ hc
  · rfl

/-- Settles O35. -/
theorem branchesAndJumps : Obligations.BranchesAndJumps := by
  refine ⟨fun s h => ?_, fun s p o h hd ho => ?_, fun s d i h hd hi => ?_, fun s d a h hd hal => ?_, fun s a n cnt h hd hlc h1 hn hcnt => ?_⟩
  · apply exec_of_fit [] h (hw := by exact Nat.zero_le 1)
  · rw [← sext_eq_signExtend 21 o (by decide)]
    have hstate : (if s.me.delayLeft ≠ 0 then some 26 else none) = (none : Option Nat) := if_neg (fun hne => hne hd)
    constructor
    · apply exec_of_fit [] h (hp := by exact ⟨hstate, rfl, rfl, rfl, rfl, rfl, rfl⟩) (hw := by exact Nat.zero_le 1)
    · apply exec_of_fit [] h (hp := by exact ⟨hstate, rfl, rfl, rfl, rfl, rfl, rfl⟩) (hw := by exact Nat.zero_le 1)
  · rw [← sext_eq_signExtend 19 i (by decide)]
    apply exec_of_fit [(0, d)] h (hp := by exact ⟨if_neg (fun hne => hne hd), rfl, rfl, rfl, rfl, rfl, rfl⟩)
  · apply exec_of_fitAt [(0, a), (0, d)] (h.at (a := { addr := s.xval a, width := 16 }) hal rfl)
      (hp := by exact ⟨if_neg (fun hne => hne hd), rfl, rfl, rfl, rfl, rfl, rfl⟩)
  · refine ⟨s.startLoop a n, ?_, ?_, ?_⟩
    · apply exec_of_fit [(0, a)] h (hp := by exact ⟨if_neg (fun hne => hne.elim (fun hne => hne hd) (fun hne => hne hlc)), rfl, rfl, rfl, rfl, rfl, rfl⟩)
        (hw := by exact Nat.zero_le 1)
    · rw [hcnt, ← loop_count]
      by_cases hc : s.cur < s.cores.length
      · obtain ⟨w, nx, hme, hnx, -⟩ := s.startLoop_me a n hc
        rw [hme, hnx]
        exact ite_congr (propext (and_iff_left hc).symm) (fun _ => rfl) (fun _ => rfl)
      · rw [s.startLoop_beyond a n hc, if_neg (fun h => hc h.2)]
    · intro hc hp r hr
      obtain ⟨w, nx, hme, -, hw⟩ := s.startLoop_me a n hc
      rw [hme, hp, insWr, land_one _ w rfl (by rw [hw]; exact Nat.le_refl _) (by rw [hw]; rfl), Core.land1_loop _ (by rw [hw]; rfl) (by rw [hw]; rfl)] at hr
      rw [hr, hw, hcnt, ← loop_count]
      exact ⟨setWidth_back _, setWidth_back _, setWidth_back _⟩

/-! ## Rendezvous (R203) -/

/-- The bundle of core 0 has the hub's reply to its RVARR, given at time 0, while the die link on the reply's way retrains since time 0 (R410). -/
def unheardReply : State :=
  { State.reset with
    cores := [{ Core.empty with ax := 128, lx := 128, run := .running, hold := { Held.none with reply := some true } }]
    dieRetrain := List.replicate 10 true }

/-- A reply that has not reached its core releases no RVARR: the core sends its arrival, and nothing is in flight to its register. -/
theorem exec_rvarr_unheard : ∃ t, exec (.rvarr 1 0) unheardReply = .next t ∧ t.me.pend = [] := by
  obtain ⟨eff, hexec⟩ := exec_of_slot (.rvarr 1 0) (by decide)
  have hchecks : unheardReply.checkIns (.rvarr 1 0) (encode (.rvarr 1 0)) none = none := by decide +kernel
  have hlimit : unheardReply.me.inFlight + addsWrites (.rvarr 1 0) ≤ 32 := by decide +kernel
  exact ⟨_, (hexec _).trans (coxIssue_held (.rvarr 1 0) eff _ _ rfl hchecks rfl hlimit rfl), rfl⟩

/-- Refutes O36: a reply that the hub has given but that has not reached the core, since a die link on its way retrains (R410), does not let
RVARR issue; the clause on a reply at hand asks for its result in every such state. -/
theorem not_rendezvous : ¬ Obligations.Rendezvous := by
  rintro ⟨-, -, hreply, -⟩
  obtain ⟨t, ht, hpend⟩ := exec_rvarr_unheard
  have hissue := hreply unheardReply 1 0 true (Or.inr ⟨by decide +kernel, by decide +kernel⟩) (by decide) rfl rfl
  rw [ht] at hissue
  injection hissue with hissue
  rw [hissue, State.putX_eq_putW _ _ _ _ _ _ (by decide), State.me_putW_any _ _ _ _ _ _ _ (by decide +kernel)] at hpend
  exact absurd hpend (List.cons_ne_nil _ _)

/-! ## Stamps (R204) -/

/-- A WAITSTAMP, as far as its registers and its own condition do not matter. -/
structure Waits (s : State) (i : Instr) (a : Nat) (ok : Bool) : Prop where
  badState : s.badState i = none
  badValue : s.badValue i = none
  badRecord : s.badRecord i = none
  addrs : s.addrs i = [{ addr := a, width := 8, bytes := 8 }]
  waiting : s.waiting? i = some (a, ok)
  trapEsc : s.trapEsc i = none

section
variable {s : State} {i : Instr} {a : Nat} {ok : Bool} (hw : Waits s i a ok) {xs : List Nat} (hregs : ∀ r ∈ namedRegs i, r.1 = 0 ∧ r.2 ∈ xs)
include hw hregs

/-- With its register and its address good, only its time can fail it. -/
theorem Waits.checkIns (hc : s.checked = false) (h : s.fitAt xs [] { addr := a, width := 8, bytes := 8 }) :
    s.checkIns i (encode i) none = s.stampLate i := by
  obtain ⟨hnm, -, hal, hre⟩ := h.resolve_left (by rw [hc]; exact Bool.false_ne_true)
  have hn : namesIn i xs [] := fun r hr => .inl (hregs r hr)
  have halign : (s.addrs i).find? (fun a => a.addr % a.width ≠ 0) = none := by simp only [hw.addrs, List.find?_cons, hal]; rfl
  have hreach : (s.addrs i).find? (fun a => a.bytes ≠ 0 && !s.reachable s.cur a) = none := by
    simp only [hw.addrs, List.find?_cons, hre (Nat.succ_ne_zero 7), Bool.not_true, Bool.and_false, List.find?_nil]
  simp only [State.checkIns, illegal_none hw.badState hw.badValue hw.badRecord, no_register_fails hn hnm (n := 2) (by decide),
    no_register_fails hn hnm (n := 3) (by decide), halign, hreach]

/-- A word that has met the condition lets the syllable issue. -/
theorem Waits.exec_met (hadds : addsWrites i ≤ 1) {w : DWord} (hmet : s.me.hold.met = some w) {eff : State → State}
    (hex : exec i s = coxIssue i eff s) (h : s.fitAt xs [] { addr := a, width := 8, bytes := 8 }) : exec i s = .next (eff s) := by
  refine hex.trans (coxIssue_issues i eff s ?_)
  cases hc : s.checked with
  | true => exact .inl hc
  | false =>
    obtain ⟨-, hfl, -⟩ := h.resolve_left (by rw [hc]; exact Bool.false_ne_true)
    have hlate : s.stampLate i = none := by
      rw [State.stampLate, hw.waiting, hmet]
      cases s.me.hold.since <;> simp
    have hhold : s.holdStep i = none := by simp only [State.holdStep, hw.waiting, hmet, Option.isSome_some, if_true]
    exact .inr (stopBefore_none i s ((hw.checkIns hregs hc h).trans hlate) hw.trapEsc (by omega) hhold)

/-- In the first step of its hold a WAITSTAMP notes the word that meets its condition, or the time (R204). -/
theorem Waits.exec_first (hadds : addsWrites i ≤ 1) (hhold : s.me.hold = Held.none) {eff : State → State} (hex : exec i s = coxIssue i eff s)
    (hc : s.checked = false) (h : s.fitAt xs [] { addr := a, width := 8, bytes := 8 }) : exec i s =
      .next (if ok then s.modMe (fun c => { c with hold := { c.hold with met := some (s.stampAt a) } })
        else s.modMe (fun c => { c with hold := { c.hold with since := some s.ns } })) := by
  obtain ⟨-, hfl, -⟩ := h.resolve_left (by rw [hc]; exact Bool.false_ne_true)
  have hlate : s.stampLate i = none := by simp only [State.stampLate, hw.waiting, hhold, Held.none]
  refine hex.trans (coxIssue_held i eff s _ hc ((hw.checkIns hregs hc h).trans hlate) hw.trapEsc (by omega) ?_)
  have hunmet : s.me.hold.met = none := by rw [hhold]; rfl
  have hunset : s.me.hold.since = none := by rw [hhold]; rfl
  simp only [State.holdStep, hw.waiting, hunmet, Option.isSome_none, Bool.false_eq_true, if_false]
  cases ok with
  | true => rfl
  | false =>
    have hkept : s.me.hold.since.getD s.ns = s.ns := by rw [hunset]; rfl
    exact congrArg (fun n => some (s.setCore s.cur { s.me with hold := { s.me.hold with since := some n } })) hkept

/-- A hold of STIMEO microseconds, its condition unmet, fails (R204). -/
theorem Waits.late (hok : ok = false) (hc : s.checked = false) (h : s.fitAt xs [] { addr := a, width := 8, bytes := 8 }) {t : Nat}
    (hmet : s.me.hold.met = none) (hsince : s.me.hold.since = some t) (h0 : s.me.stimeo ≠ 0) (ht : t + 1000 * s.me.stimeo.toNat ≤ s.ns) :
    s.checkIns i (encode i) none = some ⟨0x1B, a, (s.stampAt a).toNat, s.me.stimeo.toNat⟩ := by
  rw [hw.checkIns hregs hc h]
  simp only [State.stampLate, hw.waiting, hsince, hok]
  exact if_pos ⟨Bool.false_ne_true, hmet, h0, ht⟩

end

/-- The top bits of a word, from bit `n` up. -/
theorem bits_top (v : DWord) {n : Nat} (hn : n ≤ 63) : bits v.toNat 63 n = v.toNat / 2 ^ n := by
  unfold bits
  refine Nat.mod_eq_of_lt (Nat.div_lt_of_lt_mul ?_)
  rw [← Nat.pow_add]
  exact Nat.lt_of_lt_of_eq v.isLt (by congr 1; omega)

/-- Settles O37. -/
theorem waitStamp : Obligations.WaitStamp := by
  have hne : ∀ (s : State) (d a b : Nat), Waits s (.waitstampNe d a b) (s.xval a) (decide (s.stampAt (s.xval a) ≠ s.me.rx 0 b)) :=
    fun _ _ _ _ => ⟨rfl, rfl, rfl, rfl, rfl, rfl⟩
  have htag : ∀ (s : State) (d a b : Nat), Waits s (.waitstampTag d a b) (s.xval a)
      (decide ((s.stampAt (s.xval a)).toNat / 2 ^ 48 = s.xval b % 2 ^ 16)) := fun s _ a b =>
    ⟨rfl, rfl, rfl, rfl, by rw [← bits_top _ (by decide)]; rfl, rfl⟩
  have hany : ∀ (s : State) (d a : Nat), Waits s (.waitstampAny d a) (s.xval a) (decide ((s.stampAt (s.xval a)).toNat / 2 ^ 56 ≠ 0)) :=
    fun s _ a => ⟨rfl, rfl, rfl, rfl, by rw [← bits_top _ (by decide)]; rfl, rfl⟩
  have h3 : ∀ {d a b : Nat}, ∀ r ∈ [(0, b), (0, a), (0, d)], r.1 = 0 ∧ r.2 ∈ [d, a, b] := by simp
  have h2 : ∀ {d a : Nat}, ∀ r ∈ [(0, a), (0, d)], r.1 = 0 ∧ r.2 ∈ [d, a] := by simp
  refine ⟨fun s d a b w hmet => ⟨fun h => ?_, fun h => ?_⟩, fun s d a b hc h hh => ?_, fun s d a hc h hh => ?_,
    fun s d a t h hc hmet hsince hbad h0 ht => ?_, fun s d a b t h hc hmet hsince h0 ht => ?_⟩
  · have hword : s.stampResult d a = s.putX 0 d w := by rw [State.stampResult, hmet]; rfl
    rw [← hword]
    exact ⟨(hne s d a b).exec_met h3 (b2n_le_one _) hmet (eff := fun s => s.stampResult d a) rfl h,
      (htag s d a b).exec_met h3 (b2n_le_one _) hmet (eff := fun s => s.stampResult d a) rfl h⟩
  · have hword : s.stampResult d a = s.putX 0 d w := by rw [State.stampResult, hmet]; rfl
    rw [← hword]
    exact (hany s d a).exec_met h2 (b2n_le_one _) hmet (eff := fun s => s.stampResult d a) rfl h
  · have hn := (hne s d a b).exec_first h3 (b2n_le_one _) hh (eff := fun s => s.stampResult d a) rfl hc h
    have ht := (htag s d a b).exec_first h3 (b2n_le_one _) hh (eff := fun s => s.stampResult d a) rfl hc h
    exact ⟨fun hw => hn.trans (by rw [if_pos (decide_eq_true hw)]), fun hw => hn.trans (by rw [if_neg (by simpa using hw)]),
      fun hw => ht.trans (by rw [if_pos (decide_eq_true hw)]), fun hw => ht.trans (by rw [if_neg (by simpa using hw)])⟩
  · have hn := (hany s d a).exec_first h2 (b2n_le_one _) hh (eff := fun s => s.stampResult d a) rfl hc h
    exact ⟨fun hw => hn.trans (by rw [if_pos (decide_eq_true hw)]), fun hw => hn.trans (by rw [if_neg (by simpa using hw)])⟩
  · exact (hany s d a).late h2 (by simpa using hbad) hc h hmet hsince h0 ht
  · exact ⟨fun hw => (hne s d a b).late h3 (by simpa using hw) hc h hmet hsince h0 ht,
      fun hw => (htag s d a b).late h3 (by simpa using hw) hc h hmet hsince h0 ht⟩

/-! ## Fences (R155, R205) -/

/-- Where the condition of its fence holds, the syllable goes on. -/
theorem fence_passes (s : State) (n : Nat) (h : s.fenceOk n = true) : (if s.fenceOk n then none else some s) = (none : Option State) := if_pos h

theorem fence_holds (s : State) (n : Nat) (h : s.fenceOk n = false) : (if s.fenceOk n then none else some s) = some s := by rw [h]; rfl

/-- Settles O38: each fence holds on the parts of its own condition. -/
theorem fences : Obligations.Fences := by
  have hbusy : ∀ (s : State) (n : Nat), (s.performed s.cur = false ∨ s.me.step < s.me.admDue) → s.fenceOk n = false := fun s n h => by
    rcases h with h | h
    · simp [State.fenceOk, h]
    · simp [State.fenceOk, Nat.not_le.mpr h]
  refine ⟨fun s h hp ha => ?_, fun s h hp ha hu => ?_, fun s h hp ha hu hk => ?_, fun s h => ?_, fun s h => ?_, fun s h => ?_⟩
  · apply exec_of_fit [] h (hw := by exact Nat.zero_le 1)
      (hp := by exact ⟨rfl, rfl, rfl, rfl, rfl, rfl, fence_passes s 0 (by simp [State.fenceOk, hp, ha])⟩)
  · apply exec_of_fit [] h (hw := by exact Nat.zero_le 1)
      (hp := by exact ⟨rfl, rfl, rfl, rfl, rfl, rfl, fence_passes s 1 (by simp [State.fenceOk, hp, ha, hu])⟩)
  · apply exec_of_fit [] h (hw := by exact Nat.zero_le 1)
      (hp := by exact ⟨rfl, rfl, rfl, rfl, rfl, rfl, fence_passes s 2 (by simp [State.fenceOk, hp, ha, hu, hk])⟩)
  · exact ⟨fence_holds s 0 (hbusy s 0 h), fence_holds s 1 (hbusy s 1 h), fence_holds s 2 (hbusy s 2 h)⟩
  · exact ⟨fence_holds s 1 (by simp [State.fenceOk, h]), fence_holds s 2 (by simp [State.fenceOk, h])⟩
  · exact fence_holds s 2 (by simp [State.fenceOk, h])

/-! ## Traps and EXIT (R209, R211, R214) -/

/-- The core of a bundle that retires, its results landed. -/
def State.landed (s : State) : State := s.doStores.modMe (fun c => { c.land with hold := Held.none })

theorem State.landed_me (s : State) (hc : s.cur < s.cores.length) : s.landed.me = { s.me.land with hold := Held.none } :=
  State.me_modMe s.doStores _ hc

/-- The transfer that a syllable sets is that of its bundle when it retires. -/
theorem State.go_landed_next (s : State) (n : Next) (hc : s.cur < s.cores.length) : (s.go n).landed.me.next = n := by
  rw [State.landed_me _ (by simpa [State.go] using hc), Core.land_next, State.go_me s n hc]

/-- The state in which the bundle of an EXIT has retired and its core has exited (R214). -/
def State.exited (s : State) : State := (s.modMe (fun c => { c.advance with run := .exited, trapq := [] })).endStep

theorem State.endStep_me (s : State) (hc : s.cur < s.cores.length) : s.endStep.me.run = s.me.run ∧ s.endStep.me.team = s.me.team := by
  have hme : s.endStep.me = (s.modMe (fun c => { c with step := c.step + 1, idle := c.idle - 1, stores := [], next := .fall })).me := rfl
  rw [hme, State.me_modMe _ _ hc]
  exact ⟨rfl, rfl⟩

theorem State.exited_me (s : State) (hc : s.cur < s.cores.length) : s.exited.me.run = .exited ∧ s.exited.me.team = s.me.team := by
  obtain ⟨hrun, hteam⟩ := State.endStep_me (s.modMe (fun c => { c.advance with run := .exited, trapq := [] })) (by simpa using hc)
  rw [State.me_modMe _ _ hc] at hrun hteam
  exact ⟨hrun, hteam.trans (Core.advance_team _)⟩

theorem State.go_landed_cur (s : State) (n : Next) (hc : s.cur < s.cores.length) : (s.go n).landed.cur < (s.go n).landed.cores.length := by
  simpa [State.landed, State.go, State.doStores] using hc

theorem State.go_landed_me (s : State) (n : Next) (hc : s.cur < s.cores.length) :
    (s.go n).landed.me.trapq = s.me.trapq ∧ (s.go n).landed.me.team = s.me.team := by
  rw [State.landed_me _ (by simpa [State.go] using hc)]
  dsimp only
  rw [Core.land_trapq, Core.land_team, State.go_me s n hc]
  exact ⟨rfl, rfl⟩

@[simp] theorem State.go_cur (s : State) (n : Next) : (s.go n).cur = s.cur := rfl

@[simp] theorem State.landed_cur (s : State) : s.landed.cur = s.cur := rfl

@[simp] theorem State.exited_cur (s : State) : s.exited.cur = s.cur := rfl

@[simp] theorem State.go_turns (s : State) (n : Next) : (s.go n).turns = s.turns := rfl

@[simp] theorem State.landed_turns (s : State) : s.landed.turns = s.turns := rfl

@[simp] theorem State.exited_turns (s : State) : s.exited.turns = s.turns := rfl

/-- The bundle of an EXIT retires (R214, R363). -/
theorem State.retire_exit (s : State) {n : Nat} (hnext : s.landed.me.next = .exit) (hteam : s.landed.exited.me.team = some n) :
    s.retire = s.landed.me.trapq.foldl (fun (v : State) x => v.escalate v.me.team x.rcd) (s.landed.exited.post .completionStamp [n]) := by
  unfold State.retire
  dsimp only
  rw [← State.landed, hnext]
  dsimp only
  rw [← State.exited, hteam]

/-- Settles O39. -/
theorem trapReturnExit : Obligations.TrapReturnExit := by
  refine ⟨fun s n h ht hc => ⟨s.go (.trap n), ?_, rfl, ?_⟩, fun s h hd hal hc => ⟨s.go .rett, ?_, rfl, ?_⟩,
    fun s n h hc hteam => ⟨s.go .exit, ?_, rfl, (s.go .exit).landed.exited.post .completionStamp [n], ?_, ?_, ?_⟩⟩
  · rcases ht with ht | ht
    · exact coxIssue_issues (.trap n) (fun s => s.go (.trap n)) s (.inl ht)
    · apply exec_of_fit [] h (hp := by exact ⟨rfl, rfl, rfl, rfl, rfl, if_pos ht, rfl⟩) (hw := by exact Nat.zero_le 1)
  · unfold State.retire
    dsimp only
    rw [← State.landed, s.go_landed_next _ hc]
    rfl
  · apply exec_of_fitAt [] (h.at (a := { addr := s.me.tepc.toNat, width := 16 }) hal rfl)
      (hp := by exact ⟨if_neg (fun hne => hne hd), rfl, rfl, rfl, rfl, rfl, rfl⟩) (hw := by exact Nat.zero_le 1)
  · unfold State.retire
    dsimp only
    rw [← State.landed, s.go_landed_next _ hc]
  · apply exec_of_fit [] h (hw := by exact Nat.zero_le 1)
  · have hrun : (((s.go .exit).landed.exited.post .completionStamp [n]).core s.cur) = (s.go .exit).landed.exited.me :=
      congrArg (s.go .exit).landed.exited.core (by simp)
    rw [hrun]
    exact (State.exited_me _ (s.go_landed_cur .exit hc)).1
  · simp
  · obtain ⟨htrapq, hsame⟩ := s.go_landed_me .exit hc
    rw [State.retire_exit _ (s.go_landed_next _ hc) ((State.exited_me _ (s.go_landed_cur .exit hc)).2.trans (hsame.trans hteam)), htrapq]

end Sys2Proof.Machine

/-! # Loads, stores and node accesses (R198 to R200, R307, R390) -/

namespace Sys2Proof.Machine

/-! ## A store of bad check codes that lists none -/

theorem wordsFixed_of_clean {s : State} (h : s.eccBad = []) (a n : Nat) : s.wordsFixed a n = s := by
  have hstep : ∀ l : List Nat, l.foldl (fun (s : State) w =>
      if Tab.get 0 s.eccBad (wordKey w) = 1 then ({ s with eccBad := Tab.set 0 s.eccBad (wordKey w) 0 }).eccNote w else s) s = s := fun l => by
    induction l with
    | nil => rfl
    | cons w l ih =>
      rw [List.foldl_cons, if_neg (by rw [h]; exact Nat.zero_ne_one)]
      exact ih
  exact hstep _

theorem wordsBad_of_clean {s : State} (h : s.eccBad = []) (a n : Nat) : s.wordsBad a n = false := by
  rw [State.wordsBad, List.any_eq_false]
  intro w _
  rw [h]
  exact of_decide_eq_false rfl

/-- A read where no word has a bad check code changes nothing and loses nothing (R390). -/
theorem readCheck_of_clean {s : State} (h : s.eccBad = []) (c a n la : Nat) (runs : List (Nat × Nat)) : s.readCheck c a n la runs = (s, false) := by
  have hfix : ∀ l : List (Nat × Nat), l.foldl (fun (s : State) x => s.wordsFixed x.1 x.2) s = s := fun l => by
    induction l with
    | nil => rfl
    | cons x l ih =>
      rw [List.foldl_cons, wordsFixed_of_clean h]
      exact ih
  have hbad : ((a, n) :: runs).any (fun x => s.wordsBad x.1 x.2) = false := by
    rw [List.any_eq_false]
    exact fun x _ => by rw [wordsBad_of_clean h]; exact Bool.false_ne_true
  unfold State.readCheck
  simp only [hfix, hbad, Bool.false_eq_true, if_false]

/-! ## Outside tangent mode no tangent is carried -/

theorem Core.memPlanes_primal {c : Core} (h : c.k = 0) : c.memPlanes = [] := by
  rw [Core.memPlanes, h]
  rfl

theorem Core.tansAt_primal {c : Core} (h : c.k = 0) (node : Bool) (off : Nat) : c.tansAt node off = [] := by
  rw [Core.tansAt, Core.memPlanes_primal h]
  rfl

theorem tanWords_primal {s : State} (h : s.me.k = 0) (r : Nat) : s.tanWords r = ([], 0) := by
  rw [State.tanWords, Core.memPlanes_primal h]
  rfl

/-! ## The cox store (R198) -/

/-- A load of the cox store where no word has a bad check code. -/
theorem load_of_clean {s : State} (h : s.eccBad = []) (d ea n : Nat) : s.load d ea n = if d = 0 then s else
    s.putW 4 (.x d) ((sext (8 * n) (s.mem.readN (coxBase s.cur + bits ea 19 0) n)).setWidth 512 ::
      if n = 4 then loadTans s.mem (coxBase s.cur) s.me.k 1 (s.me.tansAt false (bits ea 19 0)) else []) 0xFFFF (planesMask s.me.k) 0 := by
  unfold State.load
  simp only [readCheck_of_clean h]
  by_cases hn : n = 4
  · simp only [hn, if_true]
    rfl
  · simp only [hn, if_false]
    rfl

/-- A load that brings no tangents. -/
theorem load_narrow {s : State} (h : s.eccBad = []) (d ea n : Nat) (hn : n ≠ 4) :
    s.load d ea n = s.putX 4 d (sext (8 * n) (s.mem.readN (coxBase s.cur + bits ea 19 0) n)) := by
  rw [load_of_clean h, if_neg hn]
  rfl

/-- A store of the cox store that takes no tangents along. -/
theorem store_narrow (s : State) (r ea n : Nat) (hn : n ≠ 4) :
    s.store r ea n = s.addStore (bits ea 19 0) n ((s.me.rx 0 r).toNat % 2 ^ (8 * n)) := if_neg hn

theorem store_primal {s : State} (h : s.me.k = 0) (r ea : Nat) :
    s.store r ea 4 = s.addStore (bits ea 19 0) 4 ((s.me.rx 0 r).toNat % 2 ^ 32) := by
  unfold State.store
  simp only [if_true, Core.tansAt_primal h, tanWords_primal h, List.foldl_nil]
  rfl

/-- Settles O32. -/
theorem coxStoreAccess : Obligations.CoxStoreAccess := by
  refine ⟨fun s d a i off hoff hecc => ⟨fun h => ?_, fun h => ?_, fun h => ?_, fun h => ?_⟩,
    fun s r a i off x hx hoff => ⟨fun h => ?_, fun h => ?_, fun h => ?_, fun h => ?_, fun h => ?_⟩, fun _ _ _ _ => rfl⟩
  · rw [hoff, ← load_narrow hecc d (s.eaImm a i) 1 (by decide)]
    apply exec_of_fitAt [(0, a), (0, d)] h
  · rw [hoff, ← load_narrow hecc d (s.eaImm a i) 2 (by decide)]
    apply exec_of_fitAt [(0, a), (0, d)] h
  · rw [hoff, ← load_narrow hecc d (s.eaImm a i) 8 (by decide)]
    apply exec_of_fitAt [(0, a), (0, d)] h
  · have hexec : exec (.ldW d a i) s = .next (s.load d (s.eaImm a i) 4) := by apply exec_of_fitAt [(0, a), (0, d)] h
    rw [hexec, load_of_clean hecc, hoff]
    rfl
  · rw [hoff, hx, ← store_narrow s r (s.eaImm a i) 1 (by decide)]
    apply exec_of_fitAt [(0, a), (0, r)] h (hw := by exact Nat.zero_le 1)
  · rw [hoff, hx, ← store_narrow s r (s.eaImm a i) 2 (by decide)]
    apply exec_of_fitAt [(0, a), (0, r)] h (hw := by exact Nat.zero_le 1)
  · have hwhole : (s.me.rx 0 r).toNat = (s.me.rx 0 r).toNat % 2 ^ (8 * 8) := (Nat.mod_eq_of_lt (s.me.rx 0 r).isLt).symm
    rw [hoff, hx, hwhole, ← store_narrow s r (s.eaImm a i) 8 (by decide)]
    apply exec_of_fitAt [(0, a), (0, r)] h (hw := by exact Nat.zero_le 1)
  · apply exec_of_fitAt [(0, a), (0, r)] h (hw := by exact Nat.zero_le 1)
  · rw [hoff, hx, store_primal h]

/-! ## What a store writes -/

/-- The state with one store more in its bundle. -/
theorem addStore_me (s : State) (off n v : Nat) (hc : s.cur < s.cores.length) : (s.addStore off n v).me =
    { s.me with stores := s.me.stores ++ [(coxBase s.cur + off, n, v)] } := State.me_modMe s _ hc

/-- The memory after a bundle with one store. -/
theorem doStores_one (s : State) (off n v : Nat) (hst : s.me.stores = []) (hc : s.cur < s.cores.length) :
    (s.addStore off n v).doStores.mem = s.mem.writeN (coxBase s.cur + off) n v := by
  rw [State.doStores, State.memStored, addStore_me s off n v hc, hst]
  rfl

theorem setCore_core_other (s : State) {c d : Nat} (k : Core) (h : d ≠ c) : (s.setCore c k).core d = s.core d := by
  simp [State.core, State.setCore, List.getD_eq_getElem?_getD, List.getElem?_set_ne (Ne.symm h)]

theorem addStore_frame (s : State) (off n v : Nat) (hst : s.me.stores = []) (hc : s.cur < s.cores.length) :
    ({ (s.addStore off n v).me with stores := [] } : Core) = s.me ∧ (∀ c, c ≠ s.cur → (s.addStore off n v).core c = s.core c) ∧
    ({ s.addStore off n v with cores := s.cores } : State) = s := by
  refine ⟨?_, fun c hne => setCore_core_other s _ hne, rfl⟩
  rw [addStore_me s off n v hc, ← hst]

/-- The byte of a stored value. -/
theorem storedByte (x : DWord) {j n : Nat} (hj : j < n) : BitVec.ofNat 8 (x.toNat % 2 ^ (8 * n) / 256 ^ j) = BitVec.ofNat 8 (x.toNat / 256 ^ j) := by
  obtain ⟨m, rfl⟩ := Nat.exists_eq_add_of_lt hj
  apply BitVec.eq_of_toNat_eq
  rw [BitVec.toNat_ofNat, BitVec.toNat_ofNat, Nat.pow_mul, show (2 : Nat) ^ 8 = 256 from rfl, Nat.add_assoc, Nat.pow_add,
    Nat.mod_mul_right_div_self]
  exact Nat.mod_mod_of_dvd _ ⟨256 ^ m, Nat.pow_succ'⟩

/-- What a syllable of a bundle that has passed its checks answers. -/
theorem exec_checked {i : Instr} {eff : State → State} {s t : State} (hch : s.checked = true) (h : exec i s = .next t)
    (hex : exec i s = coxIssue i eff s := by rfl) : t = eff s := by
  rw [hex, coxIssue_issues i eff s (.inl hch)] at h
  injection h with h
  exact h.symm

/-- Stores added one after the other. -/
theorem foldl_addStore {α : Type} (f g h : α → Nat) (l : List α) : ∀ s : State, s.cur < s.cores.length →
    l.foldl (fun (s : State) p => s.addStore (f p) (g p) (h p)) s =
      s.setCore s.cur { s.me with stores := s.me.stores ++ l.map (fun p => (coxBase s.cur + f p, g p, h p)) } := by
  induction l with
  | nil =>
    intro s _
    rw [List.map_nil, List.append_nil]
    exact (setCore_self s s.cur).symm
  | cons p l ih =>
    intro s hc
    refine (ih (s.addStore (f p) (g p) (h p)) (by simpa [State.addStore] using hc)).trans ?_
    rw [addStore_me s _ _ _ hc]
    refine (setCore_setCore s s.cur _ _).trans ?_
    exact congrArg (fun l => s.setCore s.cur { s.me with stores := l }) (List.append_assoc ..)

/-- The flags of the step leave the stores. -/
theorem doStores_flagsNow (s : State) (f : FlagSet) (hc : s.cur < s.cores.length) : (s.flagsNow f).doStores.mem = s.doStores.mem := by
  unfold State.flagsNow
  split
  · rfl
  · rw [State.doStores, State.memStored, State.me_putW_any s _ _ _ _ _ _ hc]
    rfl

/-- ST.w in any mode: the word and the tangents join the stores of the bundle, in this order (R307). -/
theorem store_word (s : State) (r ea : Nat) (hst : s.me.stores = []) (hc : s.cur < s.cores.length) : s.store r ea 4 =
    (s.setCore s.cur { s.me with stores := (coxBase s.cur + bits ea 19 0, 4, (s.me.rx 0 r).toNat % 2 ^ 32) ::
      (s.me.tansAt false (bits ea 19 0)).map (fun p =>
        (coxBase s.cur + p.2.1, pfmtBytes p.2.2, ((s.tanWords r).1.getD (p.1 - 1) 0).toNat)) }).flagsNow (s.tanWords r).2 := by
  have hfold := foldl_addStore (fun p : Nat × Nat × Nat => p.2.1) (fun p => pfmtBytes p.2.2) (fun p => ((s.tanWords r).1.getD (p.1 - 1) 0).toNat)
    (s.me.tansAt false (bits ea 19 0)) (s.addStore (bits ea 19 0) 4 ((s.me.rx 0 r).toNat % 2 ^ (8 * 4))) (by simpa [State.addStore] using hc)
  rw [addStore_me s _ _ _ hc, hst] at hfold
  have hone : ∀ k k' : Core, (s.setCore s.cur k).setCore s.cur k' = s.setCore s.cur k' := setCore_setCore s s.cur
  unfold State.store
  dsimp only
  rw [if_pos rfl]
  exact congrArg (fun u : State => u.flagsNow (s.tanWords r).2) (hfold.trans (hone _ _))

theorem doStores_setCore (s : State) (k : Core) (hc : s.cur < s.cores.length) : (s.setCore s.cur k).doStores.mem = s.mem.stored k.stores := by
  rw [State.doStores, State.memStored, State.me_setCore_cur s k hc]
  rfl

/-- The tangent planes of the core that memory holds stand in the order of their numbers. -/
theorem Core.memPlanes_getElem? (c : Core) {q : Nat × TPlane} (h : q ∈ c.memPlanes) : c.memPlanes[q.1 - 1]? = some q := by
  have hplanes : c.memPlanes = (List.range (Nat.min c.k 3)).map (fun n => (n + 1, Tab.get TPlane.absent c.tplane (n + 1))) := by
    rw [Core.memPlanes]
    match c.k with
    | 0 => rfl
    | 1 => rfl
    | 2 => rfl
    | k + 3 =>
      rw [show Nat.min (k + 3) 3 = 3 from Nat.min_eq_right (Nat.le_add_left 3 k)]
      simp [List.range_succ, List.filter]
  rw [hplanes] at h ⊢
  obtain ⟨n, hn, rfl⟩ := List.mem_map.mp h
  rw [Nat.add_sub_cancel, List.getElem?_map, List.getElem?_range (List.mem_range.mp hn)]
  rfl

/-- The tangent word of a plane that memory holds, rounded to its format (R307). -/
theorem tanWords_of_present (s : State) (r off : Nat) (node : Bool) {p : Nat × Nat × Nat} (h : p ∈ s.me.tansAt node off) :
    (s.tanWords r).1.getD (p.1 - 1) 0 = BitVec.ofNat 512 (tanStore p.2.2 (bits (s.me.rx p.1 r).toNat 31 0)).1 := by
  obtain ⟨q, hq, rfl⟩ := List.mem_map.mp h
  obtain ⟨hq, hpres⟩ := List.mem_filter.mp hq
  rw [State.tanWords]
  simp only [List.getD_eq_getElem?_getD, List.getElem?_map, Core.memPlanes_getElem? s.me hq, Option.map_some, Option.getD_some, hpres, if_true]

/-- Settles O33. -/
theorem storeFrame : Obligations.StoreFrame := by
  refine ⟨fun s t r a i n base hch hst hk hc hbase hex => ?_, fun s t r a i base off l hch hst hc hoff hbase hl hex => ?_⟩
  · have ht : t = s.addStore (bits (s.eaImm a i) 19 0) n ((s.me.rx 0 r).toNat % 2 ^ (8 * n)) := by
      rcases hex with ⟨rfl, hex⟩ | ⟨rfl, hex⟩ | ⟨rfl, hex⟩ | ⟨rfl, hex⟩
      · exact (exec_checked hch hex).trans (store_narrow s r (s.eaImm a i) 8 (by decide))
      · exact (exec_checked hch hex).trans (store_primal hk r (s.eaImm a i))
      · exact (exec_checked hch hex).trans (store_narrow s r (s.eaImm a i) 2 (by decide))
      · exact (exec_checked hch hex).trans (store_narrow s r (s.eaImm a i) 1 (by decide))
    rw [ht, doStores_one s _ _ _ hst hc, ← hbase]
    refine ⟨fun j hj => ?_, fun adr hadr => Memory.read_writeN_outside n _ _ _ adr hadr, addStore_frame s _ _ _ hst hc⟩
    rw [Memory.read_writeN, if_pos ⟨Nat.le_add_right _ _, Nat.add_lt_add_left hj _⟩, Nat.add_sub_cancel_left, storedByte _ hj]
  · have ht := (exec_checked hch hex).trans (store_word s r (s.eaImm a i) hst hc)
    rw [← hoff, ← hl, ← hbase] at ht
    refine ⟨ht, fun p hp => ?_, fun adr hword htans => ?_⟩
    · exact tanWords_of_present s r off false (hl ▸ hp)
    · rw [ht, doStores_flagsNow _ _ (by simpa using hc), doStores_setCore _ _ hc]
      refine Memory.read_stored_outside adr _ _ (fun w hw => ?_)
      rcases List.mem_cons.mp hw with rfl | hw
      · exact hword
      · obtain ⟨p, hp, rfl⟩ := List.mem_map.mp hw
        exact htans p hp

/-! ## Requests to nodes (R103, R109, R199, R200) -/

/-- A node that is not in ordered-update mode performs a request at once; a read of it finds no bad check code (R109, R390). -/
theorem nodeRequest_random {s : State} {key : Nat} (hm : (s.node key).mode ≠ 2) {r : NodeReq} (hecc : r.reads = true → s.eccBad = [])
    (snk : Option Sink) : s.nodeRequest key r snk =
      match snk with
      | some k => ({ s with mem := (performReq s.mem (nodeBase key) r).mem } : State).putW k.lat k.dst (performReq s.mem (nodeBase key) r).planes
        k.lmask k.pmask (performReq s.mem (nodeBase key) r).fl
      | none => { s with mem := (performReq s.mem (nodeBase key) r).mem } := by
  have hread : (if r.reads then s.readCheck s.cur (nodeBase key + r.off) r.bytes (2 ^ 31 + key * 8192 + r.off)
      (tanRuns (nodeBase key) (r.bytes / 4) r.tans) else (s, false)) = (s, false) := by
    split
    next h => exact readCheck_of_clean (hecc h) _ _ _ _ _
    next => rfl
  unfold State.nodeRequest
  rw [if_neg hm]
  simp only [hread] <;> cases snk <;> rfl

/-- An ordered-update node queues the request with the next number (R103). -/
theorem nodeRequest_ordered {s : State} {key : Nat} (hm : (s.node key).mode = 2) (r : NodeReq) (snk : Option Sink) : s.nodeRequest key r snk =
    match snk with
    | some k => ({ s.modNode key (fun n => { n with queue := n.queue ++ [{ r with id := s.nextId }] }) with nextId := s.nextId + 1 } : State).putW
      k.lat k.dst [] k.lmask k.pmask 0 (some s.nextId)
    | none => { s.modNode key (fun n => { n with queue := n.queue ++ [{ r with id := s.nextId }] }) with nextId := s.nextId + 1 } := if_pos hm

theorem performReq_load (m : Memory) (base : Nat) {r : NodeReq} (h : r.op = 16) : performReq m base r = ⟨m, (if r.signed then
    (sext (8 * r.bytes) (m.readN (base + r.off) r.bytes)).setWidth 512 else BitVec.ofNat 512 (m.readN (base + r.off) r.bytes)) ::
      loadTans m base r.k 1 r.tans, 0⟩ := by
  rw [performReq, if_neg (by rw [h]; decide), if_pos h]

theorem performReq_store (m : Memory) (base : Nat) {r : NodeReq} (h : r.op = 17) : performReq m base r =
    ⟨storeTans (m.writeN (base + r.off) r.bytes r.val.toNat) base (2 ^ (r.bytes / 4) - 1) r.planes r.tans, [], r.fl⟩ := by
  rw [performReq, if_neg (by rw [h]; decide), if_neg (by rw [h]; decide), if_pos h]

theorem performReq_atomic (m : Memory) (base : Nat) {r : NodeReq} (h : r.op < 16) : performReq m base r =
    ⟨m.writeN (base + r.off) (atomicBytes r.op) (atomicNew r.op (m.readN (base + r.off) (atomicBytes r.op)) r.val.toNat r.expv).1,
      [BitVec.ofNat 512 (m.readN (base + r.off) (atomicBytes r.op))],
      (atomicNew r.op (m.readN (base + r.off) (atomicBytes r.op)) r.val.toNat r.expv).2⟩ := by
  rw [performReq, if_pos h]

theorem readN_lt (m : Memory) (n : Nat) : ∀ a, m.readN a n < 256 ^ n := by
  induction n with
  | zero => exact fun _ => Nat.zero_lt_one
  | succ n ih =>
    intro a
    have hbyte := (m.read a).isLt
    have hrest := ih (a + 1)
    rw [Memory.readN, Nat.pow_succ]
    omega

/-- A queued write of planes of which those given are all that is not zero. -/
theorem putW_zeros (s : State) (lat : Nat) (d : Dst) (v : BitVec 512) (n lm pm : Nat) (fl : FlagSet) :
    s.putW lat d (v :: List.replicate n 0) lm pm fl = s.putW lat d [v] lm pm fl := by
  have hzero : ∀ i, (v :: List.replicate n 0).getD (i + 1) 0 = ([v] : List (BitVec 512)).getD (i + 1) 0 := fun i => by
    rw [List.getD_cons_succ, List.getD_cons_succ, List.getD_nil, List.getD_eq_getElem?_getD, List.getElem?_replicate]
    split <;> rfl
  unfold State.putW
  rw [hzero 0, hzero 1, hzero 2]
  rfl

/-- LDN at a random-mode node (R199). -/
theorem loadNode_random {s : State} {ea : Nat} (hm : (s.node (keyOf ea)).mode = 1) (hecc : s.eccBad = []) (d n : Nat) (sg : Bool) :
    s.loadNode d ea n sg = if d = 0 then s else s.putW 12 (.x d) ((if sg then
      (sext (8 * n) (s.mem.readN (nodeBase (keyOf ea) + bits ea 12 0) n)).setWidth 512 else
        BitVec.ofNat 512 (s.mem.readN (nodeBase (keyOf ea) + bits ea 12 0) n)) ::
      loadTans s.mem (nodeBase (keyOf ea)) s.me.k 1 (if n = 4 then s.me.tansAt true (bits ea 12 0) else [])) 0xFFFF (planesMask s.me.k) 0 := by
  unfold State.loadNode
  dsimp only
  rw [nodeRequest_random (by rw [hm]; decide) (fun _ => hecc), performReq_load _ _ rfl, State.sinkX]
  by_cases hd : d = 0
  · rw [if_pos hd, if_pos ⟨hd, by rw [hm]; decide⟩]
  · rw [if_neg hd, if_neg (fun h => hd h.1)]
    rfl

/-- STN at a random-mode node (R199). -/
theorem storeNode_random {s : State} {ea : Nat} (hm : (s.node (keyOf ea)).mode = 1) (r n : Nat) : s.storeNode r ea n =
    ({ s with
      mem := storeTans (s.mem.writeN (nodeBase (keyOf ea) + bits ea 12 0) n (s.me.rx 0 r).toNat) (nodeBase (keyOf ea)) (2 ^ (n / 4) - 1)
        (if n = 4 then s.tanWords r else ([], 0)).1 (if n = 4 then s.me.tansAt true (bits ea 12 0) else []) } : State).flagsNow
      (if n = 4 then s.tanWords r else ([], 0)).2 := by
  have hval : ((s.me.rx 0 r).setWidth 512).toNat = (s.me.rx 0 r).toNat := BitVec.toNat_setWidth_of_le (by decide)
  unfold State.storeNode
  dsimp only
  rw [nodeRequest_random (by rw [hm]; decide) (fun h => absurd h (of_decide_eq_false rfl)), performReq_store _ _ rfl]
  dsimp only
  rw [← hval]
  rfl

/-- ATN at a random-mode node (R108, R200). -/
theorem atomicNode_random {s : State} {la : Nat} (hm : (s.node (keyOf la)).mode = 1) (hecc : s.eccBad = []) (d b : Nat) {o : Nat} (ho : o < 16)
    {w0 old : Nat} (hw : w0 = nodeBase (keyOf la) + bits la 12 0) (hold : old = s.mem.readN w0 (atomicBytes o)) {res : Nat × FlagSet}
    (hres : res = atomicNew o old (s.me.rx 0 b).toNat ((s.me.rx 0 d).toNat % 2 ^ 32)) : s.atomicNode d la b o =
    ({ s with mem := s.mem.writeN w0 (atomicBytes o) res.1 } : State).putW 14 (if d = 0 then .flags else .x d) [BitVec.ofNat 512 old] 0xFFFF
      (planesMask s.me.k) res.2 := by
  have hval : ((s.me.rx 0 b).setWidth 512).toNat = (s.me.rx 0 b).toNat := BitVec.toNat_setWidth_of_le (by decide)
  unfold State.atomicNode
  dsimp only
  rw [nodeRequest_random (by rw [hm]; decide) (fun _ => hecc), performReq_atomic _ _ ho, hres, hold, hw, ← hval]
  by_cases hd : d = 0
  · rw [if_pos hd, if_pos hd]
    rfl
  · rw [if_neg hd, if_neg hd]
    rfl

theorem loadTans_none (m : Memory) (base k n : Nat) : loadTans m base k n [] = List.replicate k 0 := by
  refine List.eq_replicate_iff.mpr ⟨by rw [loadTans, List.length_map, List.length_range], fun b hb => ?_⟩
  obtain ⟨p, -, rfl⟩ := List.mem_map.mp hb
  rfl

/-- A value of at most 8 bytes as the replay layout holds it. -/
theorem ofNat_wide {v : Nat} {n : Nat} (hn : n ≤ 8) (h : v < 256 ^ n) : (BitVec.ofNat 64 v).setWidth 512 = BitVec.ofNat 512 v := by
  have hv : v < 2 ^ 64 := Nat.lt_of_lt_of_le h (Nat.pow_le_pow_right (by decide) hn)
  apply BitVec.eq_of_toNat_eq
  rw [BitVec.toNat_setWidth_of_le (by decide), BitVec.toNat_ofNat, BitVec.toNat_ofNat, Nat.mod_eq_of_lt hv,
    Nat.mod_eq_of_lt (Nat.lt_of_lt_of_le hv (Nat.pow_le_pow_right (by decide) (by decide : 64 ≤ 512)))]

theorem node_modNode (s : State) (key : Nat) (f : Node → Node) : (s.modNode key f).node key = f (s.node key) := Tab.get_mod_same ..

/-- Settles O34. -/
theorem nodeAccess : Obligations.NodeAccess := by
  refine ⟨fun s d a b ea hea => ⟨fun h => ?_, fun h => ?_, fun h => ?_, fun h => ?_⟩, fun s d a b o h => ?_,
    fun s d ea n w0 sg v hn hw hm hecc hv => ?_,
    fun s r ea n w0 hw hm => ⟨fun hprimal => ?_, fun m h4 hmem => ?_⟩,
    fun s d la b o w0 old res hw hm hecc hold ho hres => ⟨fun hd => ?_, fun hd => ?_⟩,
    fun s u d ea n q hm hu => ⟨fun sg hq => ?_, fun hq => ?_, fun b o hn hq => ?_⟩, fun s o ea n => ⟨rfl, rfl, rfl, rfl, rfl, rfl⟩,
    fun s lat m id dst hc => ?_, fun s key q hm => ?_⟩
  · subst hea
    refine ⟨?_, ?_, ?_⟩
    · apply exec_of_fitAt [(0, b), (0, a), (0, d)] h
    · apply exec_of_fitAt [(0, b), (0, a), (0, d)] h
    · apply exec_of_fitAt [(0, b), (0, a), (0, d)] h (hw := by exact Nat.zero_le 1)
  · subst hea
    refine ⟨?_, ?_, ?_⟩
    · apply exec_of_fitAt [(0, b), (0, a), (0, d)] h
    · apply exec_of_fitAt [(0, b), (0, a), (0, d)] h
    · apply exec_of_fitAt [(0, b), (0, a), (0, d)] h (hw := by exact Nat.zero_le 1)
  · subst hea
    refine ⟨?_, ?_, ?_⟩
    · apply exec_of_fitAt [(0, b), (0, a), (0, d)] h
    · apply exec_of_fitAt [(0, b), (0, a), (0, d)] h
    · apply exec_of_fitAt [(0, b), (0, a), (0, d)] h (hw := by exact Nat.zero_le 1)
  · subst hea
    refine ⟨?_, ?_⟩
    · apply exec_of_fitAt [(0, b), (0, a), (0, d)] h
    · apply exec_of_fitAt [(0, b), (0, a), (0, d)] h (hw := by exact Nat.zero_le 1)
  · apply exec_of_fitAt [(0, b), (0, a), (0, d)] h (hw := by exact Nat.le_refl 1)
  · have hplane : (if sg then (sext (8 * n) (s.mem.readN (nodeBase (keyOf ea) + bits ea 12 0) n)).setWidth 512 else
        BitVec.ofNat 512 (s.mem.readN (nodeBase (keyOf ea) + bits ea 12 0) n)) = v.setWidth 512 := by
      rw [hv, ← hw]
      cases sg with
      | true => rfl
      | false => exact (ofNat_wide hn (readN_lt _ _ _)).symm
    refine ⟨fun hprimal => ?_, fun h4 hd => ?_⟩
    · have htans : (if n = 4 then s.me.tansAt true (bits ea 12 0) else []) = [] := by
        split
        next h4 => exact Core.tansAt_primal (hprimal h4) _ _
        next => rfl
      rw [loadNode_random hm hecc, hplane, htans, loadTans_none, putW_zeros]
      rfl
    · rw [loadNode_random hm hecc, if_neg hd, hplane, if_pos h4]
  · rw [storeNode_random hm, ← hw]
    by_cases h4 : n = 4
    · rw [if_pos h4, if_pos h4, tanWords_primal (hprimal h4), Core.tansAt_primal (hprimal h4)]
      rfl
    · rw [if_neg h4, if_neg h4]
      rfl
  · rw [storeNode_random hm, ← hw, if_pos h4, if_pos h4, hmem, h4] <;> rfl
  · rw [atomicNode_random hm hecc d b ho hw hold hres, if_neg hd, State.putX_eq_putW _ _ _ _ _ _ hd, widePlanes, ofNat_wide _ (hold ▸ readN_lt _ _ _)]
    · rfl
    · unfold atomicBytes
      split
      · decide
      · split <;> decide
  · rw [atomicNode_random hm hecc d b ho hw hold hres, if_pos hd]
  · unfold State.loadNode
    dsimp only
    rw [nodeRequest_ordered hm, State.sinkX, if_neg (fun h => h.2 hm), hu, hq]
    rfl
  · unfold State.storeNode
    dsimp only
    rw [nodeRequest_ordered hm, hu, hq]
    by_cases h4 : n = 4
    · simp only [if_pos h4]
      rfl
    · simp only [if_neg h4]
      rfl
  · unfold State.atomicNode
    dsimp only
    rw [nodeRequest_ordered hm, hu, hq, hn]
    by_cases hd : d = 0
    · simp only [if_pos hd]
      rfl
    · simp only [if_neg hd]
      rfl
  · exact ⟨_, congrArg Core.pend (State.me_modMe s _ hc), rfl, rfl, rfl⟩
  · rw [nodeRequest_ordered hm]
    dsimp only
    exact ⟨rfl, congrArg Node.queue (node_modNode s key (fun n => { n with queue := n.queue ++ [{ q with id := s.nextId }] }))⟩

end Sys2Proof.Machine

/-! # CSR, tangent, replay and allotment instructions, tokens and regions (R206 to R208, R211, R213, R301, R305, R306) -/

namespace Sys2Proof.Machine

/-! ## What DUAL and TPLANE land (R301, R306) -/

/-- The tangent planes 1 to `k` of every allotted register zeroed. -/
def Core.tangentsZeroed (c : Core) (k : Nat) : Core :=
  (c.zeroX ((List.range 4).filter (fun p => 1 ≤ p ∧ p ≤ k)) 1 (c.ax - 1)).zeroV ((List.range 4).filter (fun p => 1 ≤ p ∧ p ≤ k)) 0 c.av

theorem mem_dual_planes {p k : Nat} (hk : k ≤ 3) : p ∈ (List.range 4).filter (fun p => 1 ≤ p ∧ p ≤ k) ↔ 1 ≤ p ∧ p ≤ k := by
  rw [List.mem_filter, List.mem_range, decide_eq_true_eq]
  omega

theorem Core.rx_tangentsZeroed (c : Core) {k n : Nat} (hk : k ≤ 3) (hax : c.ax ≤ 128) (hn : n < c.ax) (p : Nat) :
    (c.tangentsZeroed k).rx p n = if 1 ≤ p ∧ p ≤ k then 0 else c.rx p n := by
  rw [Core.tangentsZeroed]
  obtain ⟨v, d, hv⟩ := Core.onlyV_zeroV (c.zeroX ((List.range 4).filter (fun p => 1 ≤ p ∧ p ≤ k)) 1 (c.ax - 1))
    ((List.range 4).filter (fun p => 1 ≤ p ∧ p ≤ k)) 0 c.av
  have hx : ∀ r : Core, Core.rx { r with v := v, dirty := d } p n = r.rx p n := fun _ => rfl
  rw [hv, hx]
  by_cases h0 : n = 0
  · simp [h0, Core.rx]
  · refine (Core.rx_zeroX _ _ _ (by omega) (by omega) c).trans (ite_congr (propext ?_) (fun _ => rfl) (fun _ => rfl))
    rw [mem_dual_planes hk]
    omega

theorem Core.rv_tangentsZeroed (c : Core) {k n : Nat} (hk : k ≤ 3) (hav : c.av ≤ 64) (hn : n < c.av) (p : Nat) :
    (c.tangentsZeroed k).rv p n = if 1 ≤ p ∧ p ≤ k then 0 else c.rv p n := by
  obtain ⟨x, d, hx⟩ := Core.onlyX_zeroX c ((List.range 4).filter (fun p => 1 ≤ p ∧ p ≤ k)) 1 (c.ax - 1)
  have hv : ∀ r : Core, Core.rv { r with x := x, dirty := d } p n = r.rv p n := fun _ => rfl
  rw [Core.tangentsZeroed]
  refine (Core.rv_zeroV _ _ _ (by omega) (by omega) _).trans (ite_congr (propext ?_) (fun _ => rfl) (fun _ => by rw [hx, hv]))
  rw [mem_dual_planes hk]
  omega

/-- DUAL landed (R301). -/
theorem Core.land1_dual (c : Core) {w : Wr} {k : Nat} (hp : w.poison = false) (h : w.dst = .dual k) :
    c.land1 w = { (c.orFlags w.fl).tangentsZeroed k with k := k } := by simp [Core.land1, hp, h, Core.tangentsZeroed]

theorem Core.rx_land1_dual (c : Core) {w : Wr} {k n : Nat} (hp : w.poison = false) (h : w.dst = .dual k) (hk : k ≤ 3) (hax : c.ax ≤ 128) (hn : n < c.ax)
    (p : Nat) : (c.land1 w).rx p n = if 1 ≤ p ∧ p ≤ k then 0 else c.rx p n := by
  have hr : ∀ r : Core, Core.rx { r with k := k } p n = r.rx p n := fun _ => rfl
  rw [Core.land1_dual c hp h, hr]
  exact Core.rx_tangentsZeroed (c.orFlags w.fl) hk hax hn p

theorem Core.rv_land1_dual (c : Core) {w : Wr} {k n : Nat} (hp : w.poison = false) (h : w.dst = .dual k) (hk : k ≤ 3) (hav : c.av ≤ 64) (hn : n < c.av)
    (p : Nat) : (c.land1 w).rv p n = if 1 ≤ p ∧ p ≤ k then 0 else c.rv p n := by
  have hr : ∀ r : Core, Core.rv { r with k := k } p n = r.rv p n := fun _ => rfl
  rw [Core.land1_dual c hp h, hr]
  exact Core.rv_tangentsZeroed (c.orFlags w.fl) hk hav hn p

/-- TPLANE landed. -/
theorem Core.land1_tplane (c : Core) {w : Wr} {p : Nat} (hp : w.poison = false) (h : w.dst = .tplane p) : c.land1 w =
    { c.orFlags w.fl with
      tplane := Tab.set TPlane.absent c.tplane p
        ⟨bit w.p0.toNat 63, bits w.p0.toNat 49 48, bits w.p0.toNat 19 0, bits w.p1.toNat 12 0⟩ } := by
  simp [Core.land1, hp, h, Core.orFlags]

/-- Settles O40. -/
theorem csrAndTangent : Obligations.CsrAndTangent := by
  refine ⟨fun s d c h => ?_, fun s a c x h hx => ?_, fun c w n fn v old hp hfl hd hv hold => ?_, fun s k h hb hk hpend => ?_,
    fun s h hb hk hpend => ?_, fun s d a t h1 ht => ?_, fun s p a b h hbad => ?_, fun s m h => ?_,
    fun c w k hp hd hk hax => ⟨?_, fun n hn => ⟨?_, fun p h1 h2 => ?_⟩⟩, fun c w k hp hd hk hav n hn => ⟨?_, fun p h1 h2 => ?_⟩,
    fun c w p x y hp hd hx hy => ?_⟩
  · apply exec_of_fit [(0, d)] h
  · rw [hx]
    refine ⟨?_, ?_, ?_⟩
    · apply exec_of_fit [(0, a)] h
    · apply exec_of_fit [(0, a)] h
    · apply exec_of_fit [(0, a)] h
  · have hland : c.land1 w = c.putCsr n (csrOp fn old v) := by
      rw [Core.land1_csr c hp hd, hfl, Core.orFlags_zero, hv, hold]
    rw [hland]
    exact ⟨fun hfn => by rw [hfn]; rfl, fun hfn => by rw [hfn]; rfl, fun hfn => by rw [hfn]; rfl⟩
  · have hstate : s.badState (.dual k) = none := (if_neg (fun hne => hne hb)).trans (if_neg (fun hne => hne hk))
    have hhold : s.holdStep (.dual k) = none := if_pos (by rw [hpend]; rfl)
    apply exec_of_fit [] h (hp := by exact ⟨hstate, rfl, rfl, rfl, rfl, rfl, hhold⟩) (hw := by exact Nat.zero_le 1)
  · have hstate : s.badState .dualend = none := if_neg (fun hor => hor.elim (fun hne => hne hb) hk)
    have hhold : s.holdStep .dualend = none := if_pos (by rw [hpend]; rfl)
    apply exec_of_fit [] h (hp := by exact ⟨hstate, rfl, rfl, rfl, rfl, rfl, hhold⟩) (hw := by exact Nat.zero_le 1)
  · have hplane : (if t = 0 ∨ s.me.k < t then some 5 else none) = (none : Option Nat) := if_neg (by omega)
    refine ⟨fun h => ⟨?_, ?_⟩, fun h => ⟨?_, ?_⟩⟩
    · apply exec_of_fit [(0, a), (0, d)] h (hp := by exact ⟨hplane, rfl, rfl, rfl, rfl, rfl, rfl⟩)
    · apply exec_of_fit [(0, a), (0, d)] h (hp := by exact ⟨hplane, rfl, rfl, rfl, rfl, rfl, rfl⟩)
    · apply exec_of_fit [(1, a), (1, d)] h (hp := by exact ⟨hplane, rfl, rfl, rfl, rfl, rfl, rfl⟩) (hw := by exact Nat.le_refl 1)
    · apply exec_of_fit [(1, a), (1, d)] h (hp := by exact ⟨hplane, rfl, rfl, rfl, rfl, rfl, rfl⟩) (hw := by exact Nat.le_refl 1)
  · apply exec_of_fit [(0, b), (0, a)] h (hp := by exact ⟨rfl, hbad, rfl, rfl, rfl, rfl, rfl⟩) (hw := by exact Nat.zero_le 1)
  · refine ⟨?_, ?_, ?_, ?_⟩
    · apply exec_of_fit [] h (hw := by exact Nat.zero_le 1)
    · apply exec_of_fit [] h (hw := by exact Nat.zero_le 1)
    · apply exec_of_fit [] h (hw := by exact Nat.zero_le 1)
    · apply exec_of_fit [] h (hw := by exact Nat.zero_le 1)
  · rw [Core.land1_dual c hp hd]
  · rw [Core.rx_land1_dual c hp hd hk hax hn, if_neg (fun h => absurd h.1 (by decide))]
  · rw [Core.rx_land1_dual c hp hd hk hax hn, if_pos ⟨h1, h2⟩]
  · rw [Core.rv_land1_dual c hp hd hk hav hn, if_neg (fun h => absurd h.1 (by decide))]
  · rw [Core.rv_land1_dual c hp hd hk hav hn, if_pos ⟨h1, h2⟩]
  · rw [Core.land1_tplane c hp hd, hx, hy]
    refine ⟨(Tab.get_set_same ..).trans ?_, fun q hq => Tab.get_set_other _ _ _ _ _ hq, rfl, rfl⟩
    rw [Nat.testBit_eq_decide_div_mod_eq, bit, bits, bits, bits, Nat.pow_zero, Nat.div_one, Nat.div_one] <;> rfl

/-! ## Replay registers in the cox store (R211) -/

/-- A read of `m + n` bytes is one of `m` bytes and one of the `n` that follow (R2). -/
theorem Memory.readN_add (m : Memory) (k n : Nat) : ∀ a, m.readN a (k + n) = m.readN a k + 256 ^ k * m.readN (a + k) n := by
  induction k with
  | zero => intro a; simp [Memory.readN]
  | succ k ih =>
    intro a
    rw [Nat.succ_add, Memory.readN, ih, Memory.readN, Nat.add_assoc a 1 k, Nat.add_comm 1 k, Nat.pow_succ', Nat.mul_add,
      ← Nat.mul_assoc 256 (256 ^ k)]
    exact (Nat.add_assoc ..).symm

/-- The `n` bytes from byte `k` of a read. -/
theorem Memory.readN_slice (m : Memory) (a k n l : Nat) : m.readN a (k + (n + l)) / 256 ^ k % 256 ^ n = m.readN (a + k) n := by
  rw [Memory.readN_add, Nat.add_mul_div_left _ _ (Nat.pow_pos (by decide)), Nat.div_eq_of_lt (readN_lt m k a), Nat.zero_add, Memory.readN_add,
    Nat.add_mul_mod_self_left, Nat.mod_eq_of_lt (readN_lt m n _)]

/-- Every write of a row is due at one step and was queued in one slot of one bundle. -/
def sameTime (d i n : Nat) (ws : List Wr) : Prop := ∀ w ∈ ws, w.due = d ∧ w.iss = i ∧ w.slot = n ∧ w.wait = none ∧ w.allots = false

theorem insWr_last {d i n : Nat} {w : Wr} : ∀ {ws : List Wr}, sameTime d i n ws → w.due = d → insWr w ws = ws ++ [w]
  | [], _, _ => rfl
  | a :: t, h, hw => by
    have hrest : insWr w t = t ++ [w] := insWr_last (fun x hx => h x (List.mem_cons_of_mem _ hx)) hw
    rw [insWr, if_neg (by rw [hw, (h a List.mem_cons_self).1]; exact Nat.lt_irrefl d), hrest]
    rfl

theorem insIss_last {d i n : Nat} {w : Wr} : ∀ {ws : List Wr}, sameTime d i n ws → w.iss = i → w.slot = n → insIss w ws = ws ++ [w]
  | [], _, _, _ => rfl
  | a :: t, h, hi, hn => by
    obtain ⟨-, hai, han, -⟩ := h a List.mem_cons_self
    have hrest : insIss w t = t ++ [w] := insIss_last (fun x hx => h x (List.mem_cons_of_mem _ hx)) hi hn
    rw [insIss, if_neg (by omega), hrest]
    rfl

/-- Writes of one slot land in the order in which they were queued (R169). -/
theorem Core.land_sameTime (c : Core) {d i n : Nat} (h : sameTime d i n c.pend) (hd : d ≤ c.step) :
    c.land = c.pend.foldl Core.land1 { c with pend := [] } := by
  have hsort : ∀ (ws acc : List Wr), sameTime d i n (acc ++ ws) → ws.foldl (fun l w => insIss w l) acc = acc ++ ws := by
    intro ws
    induction ws with
    | nil => exact fun acc _ => (List.append_nil acc).symm
    | cons w ws ih =>
      intro acc hacc
      obtain ⟨-, hi, hn, -⟩ := hacc w (by simp)
      rw [List.foldl_cons, insIss_last (fun x hx => hacc x (List.mem_append_left _ hx)) hi hn, ih _ (by simpa using hacc)]
      simp
  have hdue : c.pend.filter (fun w => decide (w.due ≤ c.step) && w.wait.isNone) = c.pend := by
    refine List.filter_eq_self.mpr (fun w hw => ?_)
    obtain ⟨hw, -, -, hn, -⟩ := h w hw
    simp [hw, hd, hn]
  have hleft : c.pend.filter (fun w => !(decide (w.due ≤ c.step) && w.wait.isNone)) = [] := by
    refine List.filter_eq_nil_iff.mpr (fun w hw => ?_)
    obtain ⟨hw, -, -, hn, -⟩ := h w hw
    simp [hw, hd, hn]
  have hallot : c.pend.filter Wr.allots = [] := List.filter_eq_nil_iff.mpr (fun w hw => by simp [(h w hw).2.2.2.2])
  have hrest : c.pend.filter (fun w => !w.allots) = c.pend := List.filter_eq_self.mpr (fun w hw => by simp [(h w hw).2.2.2.2])
  unfold Core.land
  simp only [hdue, hleft, hsort _ [] h, List.nil_append, hallot, hrest]

/-- The write that RYLOAD queues for a replay register. -/
def State.ryWr (s : State) (off n : Nat) : Wr :=
  s.newWr 4 (.ry n) [BitVec.ofNat 512 (s.coxRead s.cur (off + 512 * n) 512 / 2 ^ 512), BitVec.ofNat 512 (s.coxRead s.cur (off + 512 * n) 512 / 2 ^ 1024),
    BitVec.ofNat 512 (s.coxRead s.cur (off + 512 * n) 512 / 2 ^ 1536), BitVec.ofNat 512 (s.coxRead s.cur (off + 512 * n) 512 / 2 ^ 2048)]
    (s.coxRead s.cur (off + 512 * n) 512 % 2 ^ 64 / 2 ^ 19 * 2 ^ 19) 0 0

theorem sameTime_ryWr (s : State) (off : Nat) (l : List Nat) : sameTime (s.me.step + 4) s.me.step s.curSlot (l.map (s.ryWr off)) := by
  intro w hw
  obtain ⟨n, -, rfl⟩ := List.mem_map.mp hw
  exact ⟨rfl, rfl, rfl, rfl, rfl⟩

/-- A write queued by a core whose writes in flight alone differ from those of `s`. -/
theorem putW_setCore_pend (s : State) (p : List Wr) (lat : Nat) (d : Dst) (ps : List (BitVec 512)) (lm pm : Nat) (fl : FlagSet)
    (hc : s.cur < s.cores.length) : (s.setCore s.cur { s.me with pend := p }).putW lat d ps lm pm fl =
      s.setCore s.cur { s.me with pend := insWr (s.newWr lat d ps lm pm fl) p } := by
  have hput : ∀ u : State, u.putW lat d ps lm pm fl = u.setCore u.cur { u.me with pend := insWr (u.newWr lat d ps lm pm fl) u.me.pend } := fun _ => rfl
  have hnew : (s.setCore s.cur { s.me with pend := p }).newWr lat d ps lm pm fl = s.newWr lat d ps lm pm fl := by
    rw [State.newWr, State.me_setCore_cur s _ hc]
    rfl
  rw [hput, hnew, State.me_setCore_cur s _ hc]
  exact setCore_setCore s s.cur _ _

/-- RYLOAD queues the writes in the order of the replay registers. -/
theorem loadRy_me (s : State) (off : Nat) (hc : s.cur < s.cores.length) (hp : s.me.pend = []) :
    s.loadRy off = s.setCore s.cur { s.me with pend := (List.range 32).map (s.ryWr off) } := by
  have hfold : ∀ N : Nat, (List.range N).foldl (fun (t : State) n =>
      t.putW 4 (.ry n) [BitVec.ofNat 512 (s.coxRead s.cur (off + 512 * n) 512 / 2 ^ 512), BitVec.ofNat 512 (s.coxRead s.cur (off + 512 * n) 512 / 2 ^ 1024),
        BitVec.ofNat 512 (s.coxRead s.cur (off + 512 * n) 512 / 2 ^ 1536), BitVec.ofNat 512 (s.coxRead s.cur (off + 512 * n) 512 / 2 ^ 2048)]
        (s.coxRead s.cur (off + 512 * n) 512 % 2 ^ 64 / 2 ^ 19 * 2 ^ 19) 0 0) s = s.setCore s.cur { s.me with pend := (List.range N).map (s.ryWr off) } := by
    intro N
    induction N with
    | zero => rw [List.range_zero, List.foldl_nil, List.map_nil, ← hp]; exact (setCore_self s s.cur).symm
    | succ N ih =>
      rw [List.range_succ, List.foldl_append, List.foldl_cons, List.foldl_nil, ih, List.map_append, List.map_singleton, putW_setCore_pend s _ _ _ _ _ _ _ hc]
      exact congrArg (fun p => s.setCore s.cur { s.me with pend := p }) (insWr_last (sameTime_ryWr s off (List.range N)) rfl)
  exact hfold _

/-- What RYLOAD lands in a replay register (R210). -/
def State.ryRead (s : State) (off n : Nat) : Ry :=
  ⟨BitVec.ofNat 64 (s.ryWr off n).lmask, (s.ryWr off n).p0, (s.ryWr off n).p1, (s.ryWr off n).p2, (s.ryWr off n).p3⟩

theorem Core.land1_ryWr (c : Core) (s : State) (off n : Nat) :
    (c.land1 (s.ryWr off n)).ry = Tab.set Ry.empty c.ry n (s.ryRead off n) := by
  rw [Core.land1, if_neg (show ¬ (s.ryWr off n).poison = true from Bool.false_ne_true)]
  rfl

theorem foldl_land1_ryWr (s : State) (off : Nat) (l : List Nat) :
    ∀ c : Core, ((l.map (s.ryWr off)).foldl Core.land1 c).ry = l.foldl (fun t n => Tab.set Ry.empty t n (s.ryRead off n)) c.ry := by
  induction l with
  | nil => exact fun _ => rfl
  | cons n l ih =>
    intro c
    rw [List.map_cons, List.foldl_cons, ih, Core.land1_ryWr]
    rfl

/-- The replay registers four steps after RYLOAD. -/
theorem loadRy_landed (s : State) (off : Nat) (hc : s.cur < s.cores.length) (hp : s.me.pend = []) {n : Nat} (hn : n < 32) :
    Tab.get Ry.empty (({ (s.loadRy off).me with step := s.me.step + 4 } : Core).land).ry n = s.ryRead off n := by
  rw [loadRy_me s off hc hp, State.me_setCore_cur s _ hc]
  have hland : (({ s.me with pend := (List.range 32).map (s.ryWr off), step := s.me.step + 4 } : Core).land).ry =
      (List.range 32).foldl (fun t n => Tab.set Ry.empty t n (s.ryRead off n)) s.me.ry := by
    rw [Core.land_sameTime _ (sameTime_ryWr s off (List.range 32)) (Nat.le_refl _), foldl_land1_ryWr]
  refine (congrArg (fun t => Tab.get Ry.empty t n) hland).trans ?_
  rw [Tab.get_foldl_set, if_pos hn]

/-- A field of whole bytes of a read of 512 bytes (R2, R210). -/
theorem readN_field (m : Memory) (a : Nat) {k n e f : Nat} (he : e = 8 * k) (hf : f = 8 * n) (hfit : k + n ≤ 512) :
    m.readN a 512 / 2 ^ e % 2 ^ f = m.readN (a + k) n := by
  obtain ⟨l, hl⟩ := Nat.exists_eq_add_of_le hfit
  rw [he, hf, Nat.pow_mul, Nat.pow_mul, hl, Nat.add_assoc]
  exact Memory.readN_slice m a k n l

theorem ryHeader_toNat (v : Nat) : (BitVec.ofNat 64 (v % 2 ^ 64 / 2 ^ 19 * 2 ^ 19)).toNat / 2 ^ 19 = v % 2 ^ 64 / 2 ^ 19 := by
  rw [BitVec.toNat_ofNat, Nat.mod_eq_of_lt (Nat.lt_of_le_of_lt (Nat.div_mul_le_self _ _) (Nat.mod_lt _ (Nat.two_pow_pos 64))),
    Nat.mul_div_cancel _ (Nat.two_pow_pos 19)]

/-- The planes and the header of a replay register loaded (R210, R211). -/
theorem ryRead_toNat (s : State) (off n : Nat) {a : Nat} (ha : a = coxBase s.cur + (off + 512 * n)) :
    (s.ryRead off n).p0.toNat = s.mem.readN (a + 64) 64 ∧ (s.ryRead off n).p1.toNat = s.mem.readN (a + 128) 64 ∧
    (s.ryRead off n).p2.toNat = s.mem.readN (a + 192) 64 ∧ (s.ryRead off n).p3.toNat = s.mem.readN (a + 256) 64 ∧
    (s.ryRead off n).hdr.toNat / 2 ^ 19 = s.mem.readN a 8 / 2 ^ 19 := by
  have hread : s.coxRead s.cur (off + 512 * n) 512 = s.mem.readN a 512 := by rw [ha]; rfl
  have hplane : ∀ {k e : Nat}, e = 8 * k → k + 64 ≤ 512 →
      (BitVec.ofNat 512 (s.coxRead s.cur (off + 512 * n) 512 / 2 ^ e)).toNat = s.mem.readN (a + k) 64 := fun he hk => by
    rw [hread, BitVec.toNat_ofNat]
    exact readN_field s.mem a he (by decide : 512 = 8 * 64) hk
  refine ⟨hplane (k := 64) rfl (by decide), hplane (k := 128) rfl (by decide), hplane (k := 192) rfl (by decide),
    hplane (k := 256) rfl (by decide), ?_⟩
  refine (ryHeader_toNat _).trans ?_
  rw [hread]
  refine congrArg (· / 2 ^ 19) ?_
  have hfirst := readN_field s.mem a (k := 0) (n := 8) (e := 0) (f := 64) rfl rfl (by decide)
  rwa [Nat.pow_zero, Nat.div_one] at hfirst

/-- FCFG issues (R206). -/
theorem exec_fcfg {s : State} {d a b : Nat} (h : s.fitAt [d, a, b] [] { addr := s.xval d, width := 8, bytes := 8 }) (hbad : originBad (s.xval b) = false) :
    exec (.fcfg d a b) s = .next (s.configure s.cur (s.xval b) (s.xval d) (s.xval a % 256)) := by
  have hvalue : s.badValue (.fcfg d a b) = none := if_neg (by rw [hbad, Bool.and_false]; exact Bool.false_ne_true)
  apply exec_of_fitAt [(0, b), (0, a), (0, d)] h (hp := by exact ⟨rfl, hvalue, rfl, rfl, rfl, rfl, rfl⟩) (hw := by exact Nat.zero_le 1)

/-- Settles O41. -/
theorem replayTokensRegions : Obligations.ReplayTokensRegions := by
  refine ⟨fun s a off hoff h => ⟨?_, s.loadRy off, ?_, ?_, fun hc hp r hr n hn => ?_⟩, fun s d n c h hport => ?_,
    fun s a b n r l h hbad hreg hact hclk hdis hlen hst => ?_, fun s d a b o m cmd h hbad ho hm hcmd => ⟨fun hnone hfree => ?_, fun hnone htaken => ?_,
      fun n r hreg hr => ⟨fun hall => ?_, fun l hl hrcd hdis => ?_⟩⟩, fun s b n r h hbad hreg hr hteam hidle hact => ?_⟩
  · rw [hoff]
    apply exec_of_fitAt [(0, a)] h (hw := by exact Nat.zero_le 1)
  · rw [hoff]
    apply exec_of_fitAt [(0, a)] h (hw := by exact Nat.zero_le 1)
  · obtain ⟨p, hp⟩ := pendOnly_loadRy s off
    rw [hp, setCore_mem]
  · rw [hr, loadRy_landed s off hc hp hn]
    exact ryRead_toNat s off n rfl
  · rw [hport]
    apply exec_of_fit [(0, d)] h
  · have hvalue : s.badValue (.tksend a b) = none := if_neg (by rw [hbad, Bool.and_false]; exact Bool.false_ne_true)
    have hexec : exec (.tksend a b) s = .next (s.sendStart s.cur (s.xval b) (s.xval a % 64)) := by
      apply exec_of_fit [(0, b), (0, a)] h (hp := by exact ⟨rfl, hvalue, rfl, rfl, rfl, rfl, rfl⟩) (hw := by exact Nat.zero_le 1)
    have hsend : s.sendStart s.cur (s.xval b) (s.xval a % 64) =
        { s with toks := s.toks ++ [s.islandTok n (s.xval a % 64) (s.dieNs (s.cur / 8)) s.cur s.cur] } := by
      have hgo : ¬ (¬ r.phase.clocked ∨ l.discarded = true ∨ l.isl.length ≤ s.xval a % 64 ∨
          ((l.isl.getD (s.xval a % 64) Isl.idle).started = true ∧ (l.isl.getD (s.xval a % 64) Isl.idle).fold = none)) := by
        rw [hclk, hdis, hst]
        simp [hlen]
      unfold State.sendStart
      rw [show (s.core s.cur).team.getD 0 = s.me.team.getD 0 from rfl, hreg]
      dsimp only
      rw [hact]
      exact if_neg hgo
    rw [hexec, hsend, State.islandTok, hact]
  · rw [exec_fcfg h hbad]
    unfold State.configure
    dsimp only
    rw [show (s.core s.cur).team.getD 0 = s.me.team.getD 0 from rfl, ← hm, ← ho, hnone]
    dsimp only
    rw [hfree, hcmd]
    rfl
  · rw [exec_fcfg h hbad]
    unfold State.configure
    dsimp only
    rw [show (s.core s.cur).team.getD 0 = s.me.team.getD 0 from rfl, ← hm, ← ho, hnone]
    dsimp only
    rw [htaken, hcmd]
    rfl
  · rw [exec_fcfg h hbad]
    unfold State.configure
    dsimp only
    rw [show (s.core s.cur).team.getD 0 = s.me.team.getD 0 from rfl, ← hm, ← ho, hreg]
    dsimp only
    rw [hr]
    dsimp only
    cases hact : r.active with
    | none =>
      rw [hcmd]
      rfl
    | some l =>
      have hkept : ¬ (l.rcd.isSome = true ∧ l.discarded = false) := by
        rw [hact] at hall
        intro ⟨hrcd, hdis⟩
        cases hl : l.rcd <;> simp_all
      dsimp only
      rw [if_neg hkept, hcmd]
      rfl
  · rw [exec_fcfg h hbad]
    unfold State.configure
    dsimp only
    rw [show (s.core s.cur).team.getD 0 = s.me.team.getD 0 from rfl, ← hm, ← ho, hreg]
    dsimp only
    rw [hr]
    dsimp only
    rw [hl, hcmd]
    dsimp only
    rw [if_pos ⟨hrcd, hdis⟩]
    rfl
  · have hvalue : s.badValue (.frel b) = none := if_neg (by rw [hbad, Bool.and_false]; exact Bool.false_ne_true)
    have hexec : exec (.frel b) s = .next (s.unconfigure s.cur (s.xval b)) := by
      apply exec_of_fit [(0, b)] h (hp := by exact ⟨rfl, hvalue, rfl, rfl, rfl, rfl, rfl⟩) (hw := by exact Nat.zero_le 1)
    rw [hexec]
    unfold State.unconfigure
    rw [show (s.core s.cur).team = s.me.team from rfl, hreg]
    dsimp only
    rw [hr]
    dsimp only
    rw [if_neg (by simp [hteam, hidle]), hact]

end Sys2Proof.Machine

/-! # Vector lane forms (R215 to R224) -/

namespace Sys2Proof.Machine

/-! ## A lane-by-lane result -/

/-- A flag stands in the OR of flag sets where it stands in one of them. -/
theorem getLsbD_orAll (l : List FlagSet) (j : Nat) : (orAll l).getLsbD j = l.any (fun f => f.getLsbD j) := by
  induction l with
  | nil => rw [orAll_nil]; simp
  | cons f l ih => rw [orAll_cons, BitVec.getLsbD_or, ih, List.any_cons]

/-- The result lanes of a form, and those of its tangents in plane `p` (R217). -/
def laneResults (m : Nat) (f : Nat → LaneRes) : List LaneRes := (List.range 16).map (fun n => if bit m n then f n else (0, 0))

def laneTangents (m : Nat) (f : Nat → LaneRes) (t : Nat → Nat → Nat → LaneRes) (p : Nat) : List LaneRes :=
  (List.range 16).map (fun n => if bit m n then t p n ((laneResults m f).getD n (0, 0)).1 else (0, 0))

theorem laneResults_getD (m : Nat) (f : Nat → LaneRes) {n : Nat} (hn : n < 16) : (laneResults m f).getD n (0, 0) = if bit m n then f n else (0, 0) := by
  rw [laneResults, List.getD_eq_getElem?_getD, List.getElem?_map, List.getElem?_range hn]
  rfl

theorem laneTangents_getD (m : Nat) (f : Nat → LaneRes) (t : Nat → Nat → Nat → LaneRes) (p : Nat) {n : Nat} (hn : n < 16) :
    (laneTangents m f t p).getD n (0, 0) = if bit m n then t p n (f n).1 else (0, 0) := by
  rw [laneTangents, List.getD_eq_getElem?_getD, List.getElem?_map, List.getElem?_range hn, Option.map_some, Option.getD_some,
    laneResults_getD m f hn]
  cases bit m n <;> rfl

/-- Past its end a list answers the default. -/
theorem getD_of_length_le {α : Type} {l : List α} {n : Nat} (h : l.length ≤ n) (d : α) : l.getD n d = d := by
  rw [List.getD_eq_getElem?_getD, List.getElem?_eq_none h, Option.getD_none]

/-- The lane of a plane built from lane results. -/
theorem lane_ofResults (l : List LaneRes) {n : Nat} (hn : n < 16) : lane (ofLanes (l.map Prod.fst)) n = (l.getD n (0, 0)).1 % 2 ^ 32 := by
  rw [lane_ofLanes _ hn]
  rw [List.getD_eq_getElem?_getD, List.getD_eq_getElem?_getD, List.getElem?_map]
  cases l[n]? <;> rfl

/-- The planes and the flags of a lane-by-lane result. -/
def State.lanePlanes (s : State) (m : Nat) (f : Nat → LaneRes) (t : Nat → Nat → Nat → LaneRes) : List VWord :=
  ofLanes ((laneResults m f).map Prod.fst) :: (s.tans.map (laneTangents m f t)).map (fun l => ofLanes (l.map Prod.fst))

def State.laneFlags (s : State) (m : Nat) (f : Nat → LaneRes) (t : Nat → Nat → Nat → LaneRes) : FlagSet :=
  orAll ((laneResults m f).map Prod.snd) ||| orAll ((s.tans.map (laneTangents m f t)).map (fun l => orAll (l.map Prod.snd)))

theorem putLanes_eq_putV (s : State) (lat d m : Nat) (f : Nat → LaneRes) (t : Nat → Nat → Nat → LaneRes) :
    s.putLanes lat d m f t = s.putV lat d m (s.lanePlanes m f t) (s.laneFlags m f t) := rfl

/-- A governed lane of the primal plane and of a tangent plane. -/
theorem lane_lanePlanes (s : State) (m : Nat) (f : Nat → LaneRes) (t : Nat → Nat → Nat → LaneRes) {n : Nat} (hn : n < 16) :
    lane ((s.lanePlanes m f t).getD 0 0) n = (if bit m n then f n else (0, 0)).1 % 2 ^ 32 := by
  rw [State.lanePlanes, List.getD_cons_zero, lane_ofResults _ hn, laneResults_getD m f hn]

theorem lane_lanePlanes_tangent (s : State) (m : Nat) (f : Nat → LaneRes) (t : Nat → Nat → Nat → LaneRes) {p n : Nat} (h1 : 1 ≤ p) (hk : p ≤ s.me.k)
    (hn : n < 16) : lane ((s.lanePlanes m f t).getD p 0) n = (if bit m n then t p n (f n).1 else (0, 0)).1 % 2 ^ 32 := by
  obtain ⟨q, rfl⟩ := Nat.exists_eq_add_of_le' h1
  rw [State.lanePlanes, List.getD_cons_succ, List.map_map]
  have htan := getD_map_tans s (fun p => ofLanes ((laneTangents m f t p).map Prod.fst)) 0 h1 hk
  rw [Nat.add_sub_cancel] at htan
  refine (congrArg (lane · n) htan).trans ?_
  rw [lane_ofResults _ hn, laneTangents_getD m f t _ hn]

theorem lanePlanes_beyond (s : State) (m : Nat) (f : Nat → LaneRes) (t : Nat → Nat → Nat → LaneRes) {p : Nat} (hk : s.me.k < p) :
    (s.lanePlanes m f t).getD p 0 = 0 := by
  refine getD_of_length_le ?_ 0
  rw [State.lanePlanes, List.length_cons, List.length_map, List.length_map, State.tans, List.length_map, List.length_range]
  exact hk

theorem lane_zero (n : Nat) : lane 0 n = 0 := by simp [lane]

/-- The flags of governed lanes. -/
theorem any_governed (m : Nat) (g : Nat → LaneRes) (j : Nat) {l : List LaneRes} (h : l = (List.range 16).map (fun n => if bit m n then g n else (0, 0))) :
    (orAll (l.map Prod.snd)).getLsbD j = (List.range 16).any (fun n => bit m n && (g n).2.getLsbD j) := by
  have hlane : ∀ n, (if bit m n then g n else (0, 0)).2.getLsbD j = (bit m n && (g n).2.getLsbD j) := fun n => by
    cases bit m n <;> simp
  rw [getLsbD_orAll, h, List.any_map, List.any_map]
  exact congrArg (List.any (List.range 16)) (funext hlane)

/-- The flags raised are those of the governed lanes, in the primal plane and in the tangent planes (R217). -/
theorem getLsbD_laneFlags (s : State) (m : Nat) (f : Nat → LaneRes) (t : Nat → Nat → Nat → LaneRes) (j : Nat) : (s.laneFlags m f t).getLsbD j =
    (List.range 16).any (fun n => bit m n &&
      ((f n).2.getLsbD j || (List.range s.me.k).any (fun p => (t (p + 1) n (f n).1).2.getLsbD j))) := by
  have htangents : ∀ p, laneTangents m f t p = (List.range 16).map (fun n => if bit m n then t p n (f n).1 else (0, 0)) := fun p => by
    refine List.map_congr_left (fun n hn => ?_)
    rw [laneResults_getD m f (List.mem_range.mp hn)]
    cases bit m n <;> rfl
  rw [State.laneFlags, BitVec.getLsbD_or, any_governed m f j (l := laneResults m f) rfl, getLsbD_orAll, List.any_map, State.tans, List.any_map,
    List.any_map]
  simp only [Function.comp_def, any_governed m _ j (htangents _)]
  rw [Bool.eq_iff_iff]
  simp only [Bool.or_eq_true, List.any_eq_true, Bool.and_eq_true]
  constructor
  · rintro (⟨n, hn, hm, h⟩ | ⟨p, hp, n, hn, hm, h⟩)
    · exact ⟨n, hn, hm, .inl h⟩
    · exact ⟨n, hn, hm, .inr ⟨p, hp, h⟩⟩
  · rintro ⟨n, hn, hm, h | ⟨p, hp, h⟩⟩
    · exact .inl ⟨n, hn, hm, h⟩
    · exact .inr ⟨p, hp, n, hn, hm, h⟩

/-- A form whose lanes raise no flag raises none. -/
theorem laneFlags_quiet (s : State) (m : Nat) (f : Nat → LaneRes) (t : Nat → Nat → Nat → LaneRes) (hf : ∀ n, (f n).2 = 0)
    (ht : ∀ p n r, (t p n r).2 = 0) : s.laneFlags m f t = 0 := by
  apply BitVec.eq_of_getLsbD_eq
  intro j _
  rw [getLsbD_laneFlags]
  simp [hf, ht]

/-- Settles O42. -/
theorem vectorArithmetic : Obligations.VectorArithmetic := by
  refine ⟨fun s d a b g h => ⟨?_, ?_, ?_, ?_, ?_, ?_, ?_, ?_⟩, fun s d a g h => ⟨?_, ?_, ?_, ?_, ?_, ?_, ?_, ?_, ?_⟩,
    fun _ _ _ _ _ _ _ _ => rfl, fun _ _ _ _ _ _ _ => rfl, fun _ _ _ _ _ _ _ _ => rfl, fun y l f => ?_, fun s lat d m f t =>
      ⟨s.lanePlanes m f t, s.laneFlags m f t, putLanes_eq_putV s lat d m f t, fun n hn hm => ⟨?_, fun p h1 hk => ?_⟩, fun j _ => getLsbD_laneFlags s m f t j⟩⟩
  · apply exec_of_fit [(1, b), (1, a), (1, d)] h (hw := by exact Nat.le_refl 1)
  · apply exec_of_fit [(1, b), (1, a), (1, d)] h (hw := by exact Nat.le_refl 1)
  · apply exec_of_fit [(1, b), (1, a), (1, d)] h (hw := by exact Nat.le_refl 1)
  · apply exec_of_fit [(1, b), (1, a), (1, d)] h (hw := by exact Nat.le_refl 1)
  · apply exec_of_fit [(1, b), (1, a), (1, d)] h (hw := by exact Nat.le_refl 1)
  · apply exec_of_fit [(1, b), (1, a), (1, d)] h (hw := by exact Nat.le_refl 1)
  · apply exec_of_fit [(1, b), (1, a), (1, d)] h (hw := by exact Nat.le_refl 1)
  · apply exec_of_fit [(1, b), (1, a), (1, d)] h (hw := by exact Nat.le_refl 1)
  · apply exec_of_fit [(1, a), (1, d)] h (hw := by exact Nat.le_refl 1)
  · apply exec_of_fit [(1, a), (1, d)] h (hw := by exact Nat.le_refl 1)
  · apply exec_of_fit [(1, a), (1, d)] h (hw := by exact Nat.le_refl 1)
  · apply exec_of_fit [(1, a), (1, d)] h (hw := by exact Nat.le_refl 1)
  · apply exec_of_fit [(1, a), (1, d)] h (hw := by exact Nat.le_refl 1)
  · apply exec_of_fit [(1, a), (1, d)] h (hw := by exact Nat.le_refl 1)
  · apply exec_of_fit [(1, a), (1, d)] h (hw := by exact Nat.le_refl 1)
  · apply exec_of_fit [(1, a), (1, d)] h (hw := by exact Nat.le_refl 1)
  · apply exec_of_fit [(1, a), (1, d)] h (hw := by exact Nat.le_refl 1)
  · rw [tangentLane]
    simp only [List.all_eq_true, zero32, decide_eq_true_eq]
  · rw [lane_lanePlanes s m f t hn, if_pos hm]
  · rw [lane_lanePlanes_tangent s m f t h1 hk hn, if_pos hm]

/-! ## Integer, logic and compare lanes (R220 to R222) -/

/-- Bit `n` of a compare result (R222). -/
theorem getLsbD_vcmp (s : State) (a b g : Nat) (f : Nat → Nat → Bool) {n : Nat} (hn : n < 16) :
    (BitVec.ofNat 16 (packCodes 1 ((List.range 16).map (fun n => b2n (bit (s.mask g) n && f (s.ln 0 a n) (s.ln 0 b n)))))).getLsbD n =
      ((s.me.rp g).getLsbD n && f (s.ln 0 a n) (s.ln 0 b n)) := by
  have hcode : ∀ c : Bool, decide (b2n c % 2 ^ 1 = 1) = c := fun c => by cases c <;> rfl
  rw [BitVec.getLsbD_ofNat, decide_eq_true hn, Bool.true_and, Nat.testBit_eq_decide_div_mod_eq]
  have hdiv := packCodes_div_mod 1 ((List.range 16).map (fun n => b2n (bit (s.mask g) n && f (s.ln 0 a n) (s.ln 0 b n)))) n
  rw [Nat.one_mul, Nat.pow_one] at hdiv
  rw [hdiv, List.getD_eq_getElem?_getD, List.getElem?_map, List.getElem?_range hn, ← bit_mask]
  exact hcode _

/-- Settles O43. -/
theorem vectorInteger : Obligations.VectorInteger := by
  refine ⟨fun s d a b g h => ⟨?_, ?_, ?_, ?_, ?_, ?_, ?_, ?_, ?_, ?_, ?_, ?_⟩,
    fun s p a b g h => ⟨⟨_, ?_, fun n hn => getLsbD_vcmp s a b g eq32 hn⟩, ⟨_, ?_, fun n hn => getLsbD_vcmp s a b g lt32 hn⟩,
      ⟨_, ?_, fun n hn => getLsbD_vcmp s a b g le32 hn⟩, ⟨_, ?_, fun n hn => getLsbD_vcmp s a b g (fun x y => decide (x = y)) hn⟩,
      ⟨_, ?_, fun n hn => getLsbD_vcmp s a b g (fun x y => decide (sint 32 x < sint 32 y)) hn⟩⟩,
    fun s lat d a b g f hf => ⟨s.lanePlanes (s.mask g) (fun n => (f (s.ln 0 a n) (s.ln 0 b n), 0)) (fun _ _ _ => (0, 0)), ?_, fun n hn hm => ?_, fun p n h1 hn => ?_⟩,
    fun s d a b g f => ⟨(0 :: s.tans).map (fun p => f (s.me.rv p a) (s.me.rv p b)), rfl, fun p hp => getD_map_planes s (fun p => f (s.me.rv p a) (s.me.rv p b)) 0 hp⟩⟩
  · apply exec_of_fit [(1, b), (1, a), (1, d)] h (hw := by exact Nat.le_refl 1)
  · apply exec_of_fit [(1, b), (1, a), (1, d)] h (hw := by exact Nat.le_refl 1)
  · apply exec_of_fit [(1, b), (1, a), (1, d)] h (hw := by exact Nat.le_refl 1)
  · apply exec_of_fit [(1, b), (1, a), (1, d)] h (hw := by exact Nat.le_refl 1)
  · apply exec_of_fit [(1, b), (1, a), (1, d)] h (hw := by exact Nat.le_refl 1)
  · apply exec_of_fit [(1, b), (1, a), (1, d)] h (hw := by exact Nat.le_refl 1)
  · apply exec_of_fit [(1, b), (1, a), (1, d)] h (hw := by exact Nat.le_refl 1)
  · apply exec_of_fit [(1, b), (1, a), (1, d)] h (hw := by exact Nat.le_refl 1)
  · apply exec_of_fit [(1, b), (1, a), (1, d)] h (hw := by exact Nat.le_refl 1)
  · apply exec_of_fit [(1, b), (1, a), (1, d)] h (hw := by exact Nat.le_refl 1)
  · apply exec_of_fit [(1, b), (1, a), (1, d)] h (hw := by exact Nat.le_refl 1)
  · apply exec_of_fit [(1, b), (1, a), (1, d)] h (hw := by exact Nat.le_refl 1)
  · apply exec_of_fit [(1, b), (1, a)] h
  · apply exec_of_fit [(1, b), (1, a)] h
  · apply exec_of_fit [(1, b), (1, a)] h
  · apply exec_of_fit [(1, b), (1, a)] h
  · apply exec_of_fit [(1, b), (1, a)] h
  · rw [State.lanesI, putLanes_eq_putV, laneFlags_quiet s _ _ _ (fun _ => rfl) (fun _ _ _ => rfl)]
  · rw [lane_lanePlanes s _ _ _ hn, if_pos hm]
    exact Nat.mod_eq_of_lt (hf _ _ (lane_lt _ _) (lane_lt _ _))
  · by_cases hp : p ≤ s.me.k
    · rw [lane_lanePlanes_tangent s _ _ _ h1 hp hn, ite_self]
      rfl
    · rw [lanePlanes_beyond s _ _ _ (Nat.lt_of_not_le hp)]
      exact lane_zero n

/-! ## Moves and lanes of scalars (R224, R234) -/

/-- The low word of a scalar register in every lane. -/
theorem lane_splatOf (s : State) (a : Nat) {p n : Nat} (hk : p ≤ s.me.k) (hn : n < 16) :
    lane ((s.splatOf a).getD p 0) n = (s.me.rx p a).toNat % 2 ^ 32 := by
  have hplane := getD_map_planes s (fun p => ofLanes (List.replicate 16 (bits (s.me.rx p a).toNat 31 0))) 0 hk
  refine (congrArg (lane · n) hplane).trans ?_
  rw [lane_ofLanes _ hn, List.getD_eq_getElem?_getD, List.getElem?_replicate, if_pos hn, Option.getD_some, bits, Nat.pow_zero, Nat.div_one]
  exact Nat.mod_mod _ _

/-! ## Reductions (R225) -/

/-- What VREDMAX keeps of two lanes, each with its number. -/
def keepMax (u v : Nat × Nat) : Nat × Nat :=
  if anyNan32 u.1 v.1 then (nan32, u.2) else if maxTakesB u.1 v.1 then v else u

/-- The number kept is that of one of the two lanes. -/
theorem keepMax_lane {u v : Nat × Nat} (hu : u.2 < 16) (hv : v.2 < 16) : (keepMax u v).2 < 16 := by
  unfold keepMax
  split
  · exact hu
  · split
    · exact hv
    · exact hu

/-- The lane that the tree of R141 keeps is one of the 16. -/
theorem keepMax_root {x l0 l1 l2 l3 : Nat → Nat × Nat} (hx : ∀ i < 16, (x i).2 < 16) (h0 : ∀ i, l0 i = keepMax (x i) (x (i + 8)))
    (h1 : ∀ i, l1 i = keepMax (l0 i) (l0 (i + 4))) (h2 : ∀ i, l2 i = keepMax (l1 i) (l1 (i + 2)))
    (h3 : ∀ i, l3 i = keepMax (l2 i) (l2 (i + 1))) : (l3 0).2 < 16 := by
  have b0 : ∀ i < 8, (l0 i).2 < 16 := fun i hi => by rw [h0]; exact keepMax_lane (hx _ (by omega)) (hx _ (by omega))
  have b1 : ∀ i < 4, (l1 i).2 < 16 := fun i hi => by rw [h1]; exact keepMax_lane (b0 _ (by omega)) (b0 _ (by omega))
  have b2 : ∀ i < 2, (l2 i).2 < 16 := fun i hi => by rw [h2]; exact keepMax_lane (b1 _ (by omega)) (b1 _ (by omega))
  rw [h3]
  exact keepMax_lane (b2 _ (by omega)) (b2 _ (by omega))

theorem maskedLanes_getD (s : State) (p a m z : Nat) {n : Nat} (hn : n < 16) (w : Nat) :
    (s.maskedLanes p a m z).getD n w = if bit m n then s.ln p a n else z := by
  rw [State.maskedLanes, List.getD_eq_getElem?_getD, List.getElem?_map, List.getElem?_range hn]
  rfl

/-- A list of lanes numbered from 0. -/
theorem zip_range_map (f : Nat → Nat) : ((List.range 16).map f).zip (List.range 16) = (List.range 16).map (fun n => (f n, n)) := by
  simp [List.range_succ]

/-- VREDMAX with the levels of its tree named (R141, R225). -/
theorem redMax_of_levels (s : State) (d a g : Nat) {x l0 l1 l2 l3 : Nat → Nat × Nat} {y : Nat} {t : Nat → LaneRes}
    (hx : ∀ n, x n = (if bit (s.mask g) n then s.ln 0 a n else 0xFF800000, n)) (h0 : ∀ i, l0 i = keepMax (x i) (x (i + 8)))
    (h1 : ∀ i, l1 i = keepMax (l0 i) (l0 (i + 4))) (h2 : ∀ i, l2 i = keepMax (l1 i) (l1 (i + 2)))
    (h3 : ∀ i, l3 i = keepMax (l2 i) (l2 (i + 1))) (hy : y = (if (f32 (l3 0).1).isNan = true then nan32 else (l3 0).1))
    (ht : ∀ p, t p = tangentLane y ((List.range 16).map (fun n => if bit (s.mask g) n then s.ln p a n else 0))
      (fun _ => tanPass (if bit (s.mask g) (l3 0).2 then s.ln p a (l3 0).2 else 0))) :
    s.redMax d a g = s.reduce d (y, 0) (s.tans.map t) := by
  have hlane : (l3 0).2 < 16 := keepMax_root (fun i hi => by rw [hx]; exact hi) h0 h1 h2 h3
  have hlanes : (s.maskedLanes 0 a (s.mask g) 0xFF800000).zip (List.range 16) = (List.range 16).map x := by
    rw [State.maskedLanes, zip_range_map, funext hx]
  have htree : tree keepMax (0, 0) ((s.maskedLanes 0 a (s.mask g) 0xFF800000).zip (List.range 16)) = l3 0 := by
    rw [hlanes, tree_of_levels h0 h1 h2 h3]
  have htan : ∀ p, t p = tangentLane y (s.maskedLanes p a (s.mask g) 0) (fun _ => tanPass ((s.maskedLanes p a (s.mask g) 0).getD (l3 0).2 0)) := fun p => by
    rw [ht, maskedLanes_getD s p a _ 0 hlane, State.maskedLanes]
  have hpick : (fun u v : Nat × Nat => if anyNan32 u.1 v.1 = true then (nan32, u.2) else if maxTakesB u.1 v.1 = true then v else u) = keepMax := rfl
  unfold State.redMax
  dsimp only
  rw [hpick, htree, ← hy, ← funext htan]

theorem orAll_replicate_zero {α : Type} (l : List α) : (0 : FlagSet) ||| orAll ((l.map (fun _ => ((0, 0) : LaneRes))).map Prod.snd) = 0 := by
  rw [List.map_map]
  simp only [BitVec.ofNat_eq_ofNat, BitVec.zero_or]
  induction l with
  | nil => rfl
  | cons a l ih =>
    rw [List.map_cons, orAll_cons, ih, BitVec.or_zero]
    rfl

theorem getD_map_zero {α : Type} (f : α → VWord) (l : List α) (h : ∀ a, f a = 0) (n : Nat) : (l.map f).getD n 0 = 0 := by
  rw [List.getD_eq_getElem?_getD, List.getElem?_map]
  cases l[n]? with
  | none => rfl
  | some a => exact h a

/-- The registers of a block: va, va + 1 for its second half, and vd (R229). -/
theorem blockRegs (d a n : Nat) : ∀ r ∈ (1, a) :: (if 16 ≤ n then [(1, a + 1)] else []) ++ [(1, d)],
    (r.1 = 0 ∧ r.2 ∈ ([] : List Nat)) ∨ (r.1 ≠ 0 ∧ r.2 ∈ d :: a :: if 16 ≤ n then [a + 1] else []) := by
  split <;> simp

/-- Settles O46. -/
theorem vectorMoves : Obligations.VectorMoves := by
  refine ⟨fun s d a b g h => ⟨s.movedPlanes (fun n => (a, s.ln 0 b n % 16)), ?_, fun p n hk hn => lane_movedPlanes s _ hk hn⟩,
    fun s d a m g h hm => ⟨s.movedPlanes (fun _ => (a, m)), ?_, fun p n hk hn => lane_movedPlanes s _ hk hn⟩,
    fun s d a m h hm => ⟨s.splatOf a, ?_, fun p hk => lane_splatOf s a hk hm⟩,
    fun s d a g h => ⟨s.splatOf a, ?_, fun p n hk hn => lane_splatOf s a hk hn⟩,
    fun s v d m h hm => ⟨⟨s.tans.map (fun p => BitVec.ofNat 64 (s.ln p v m)), ?_, fun p h1 hk => getD_map_tans s (fun p => BitVec.ofNat 64 (s.ln p v m)) 0 h1 hk⟩,
      ⟨s.tans.map (fun p => sext 32 (s.ln p v m)), ?_, fun p h1 hk => ?_⟩⟩,
    fun s d a g h => ⟨(s.tans.map (fun _ => ((0, 0) : LaneRes))).map (fun t => BitVec.ofNat 512 t.1), ?_, fun p => ?_⟩,
    fun s d a g y pk x l0 l1 l2 l3 t h hpk hx h0 h1 h2 h3 hy ht => ?_, fun s d a t g r h => ⟨?_, ?_, fun p n y hi => ?_, fun p n y hi => ?_⟩,
    fun s d a n f r h => ⟨⟨ofLanes (List.replicate 16 (blockScale (blockFmt f) ((s.blockElems 0 a n).map f32))), ?_, fun j hj => ?_⟩,
      ⟨orAll (((0 :: s.tans).map (fun p => packBlock (blockFmt f) (s.ln 0 d 0 % 1024) r p (s.blockElems p a n))).map Prod.snd), ?_⟩⟩⟩
  · apply exec_of_fit [(1, b), (1, a), (1, d)] h (hw := by exact Nat.le_refl 1)
  · apply exec_of_fit [(1, a), (1, d)] h (hw := by exact Nat.le_refl 1)
  · apply exec_of_fit [(0, a), (1, d)] h (hw := by exact Nat.le_refl 1)
  · apply exec_of_fit [(0, a), (1, d)] h (hw := by exact Nat.le_refl 1)
  · apply exec_of_fit [(0, d), (1, v)] h
  · rw [← sext_eq_signExtend 32 _ (by decide)]
    apply exec_of_fit [(0, d), (1, v)] h
  · rw [← sext_eq_signExtend 32 _ (by decide)]
    exact getD_map_tans s (fun p => sext 32 (s.ln p v m)) 0 h1 hk
  · have hexec : exec (.vrediadd d a g) s = .next (s.redIadd d a g) := by
      apply exec_of_fit [(1, a), (1, d)] h (hw := by exact Nat.le_refl 1)
    rw [hexec, State.redIadd, State.reduce, orAll_replicate_zero]
    rfl
  · rw [List.map_map]
    exact getD_map_zero _ _ (fun _ => rfl) p
  · have hkeep : pk = keepMax := funext (fun u => funext (fun v => hpk u v))
    subst hkeep
    have hexec : exec (.vredmax d a g) s = .next (s.redMax d a g) := by
      apply exec_of_fit [(1, a), (1, d)] h (hw := by exact Nat.le_refl 1)
    refine ⟨(s.tans.map t).map (fun t => BitVec.ofNat 512 t.1), 0 ||| orAll ((s.tans.map t).map Prod.snd), ?_, fun p hp hk => ?_, fun j _ => ?_⟩
    · rw [hexec, redMax_of_levels s d a g hx h0 h1 h2 h3 hy ht, State.reduce]
    · rw [List.map_map]
      exact getD_map_tans s (fun p => BitVec.ofNat 512 (t p).1) 0 hp hk
    · simp only [BitVec.ofNat_eq_ofNat, BitVec.zero_or]
      rw [getLsbD_orAll, List.any_map, List.any_map, State.tans, List.any_map]
      rfl
  · apply exec_of_fit [(1, a), (1, d)] h (hw := by exact Nat.le_refl 1)
  · apply exec_of_fit [(1, a), (1, d)] h (hw := by exact Nat.le_refl 1)
  · exact if_pos hi
  · exact if_neg (by rw [hi]; exact Bool.false_ne_true)
  · apply exec_of_fit ((1, a) :: (if 16 ≤ n then [(1, a + 1)] else []) ++ [(1, d)]) h (hl := by exact blockRegs d a n) (hw := by exact Nat.le_refl 1)
  · rw [lane_ofLanes _ hj, List.getD_eq_getElem?_getD, List.getElem?_replicate, if_pos hj]
    rfl
  · have hexec : exec (.vquant d a n f r) s = .next (s.quant d a n f r) := by
      apply exec_of_fit ((1, a) :: (if 16 ≤ n then [(1, a + 1)] else []) ++ [(1, d)]) h (hl := by exact blockRegs d a n) (hw := by exact Nat.le_refl 1)
    rw [hexec, State.quant, List.map_map]
    rfl

end Sys2Proof.Machine

/-! # Vector loads and stores (R232) -/

namespace Sys2Proof.Machine

/-! ## The lanes of a store -/

/-- Lanes stored by number, from the first `N`. -/
def storedLanes (m : Memory) (a mask : Nat) (v : VWord) (N : Nat) : Memory :=
  (List.range N).foldl (fun m i => if bit mask i then m.writeN (a + 4 * i) 4 (lane v i) else m) m

theorem storedLanes_succ (m : Memory) (a mask : Nat) (v : VWord) (N : Nat) : storedLanes m a mask v (N + 1) =
    if bit mask N then (storedLanes m a mask v N).writeN (a + 4 * N) 4 (lane v N) else storedLanes m a mask v N := by
  rw [storedLanes, List.range_succ, List.foldl_append]
  rfl

/-- A byte outside the lanes is kept. -/
theorem read_storedLanes_outside (m : Memory) (a mask : Nat) (v : VWord) {adr : Nat} (N : Nat) (h : adr < a ∨ a + 4 * N ≤ adr) :
    (storedLanes m a mask v N).read adr = m.read adr := by
  induction N with
  | zero => rfl
  | succ N ih =>
    rw [storedLanes_succ]
    split
    · rw [Memory.read_writeN_outside _ _ _ _ _ (by omega), ih (by omega)]
    · exact ih (by omega)

/-- A byte of a governed lane is that of the lane; any other is kept (R232). -/
theorem read_storedLanes (m : Memory) (a mask : Nat) (v : VWord) {n j : Nat} (hj : j < 4) (N : Nat) (hn : n < N) :
    (storedLanes m a mask v N).read (a + 4 * n + j) = if bit mask n then BitVec.ofNat 8 (lane v n / 256 ^ j) else m.read (a + 4 * n + j) := by
  induction N with
  | zero => exact absurd hn (Nat.not_lt_zero n)
  | succ N ih =>
    rw [storedLanes_succ]
    by_cases hlast : n = N
    · subst hlast
      rw [← read_storedLanes_outside m a mask v n (.inr (Nat.le_add_right (a + 4 * n) j))]
      split
      · rw [Memory.read_writeN, if_pos (by omega), Nat.add_sub_cancel_left]
      · rfl
    · rw [← ih (by omega)]
      split
      · exact Memory.read_writeN_outside _ _ _ _ _ (by omega)
      · rfl

theorem storeTans_none (m : Memory) (base mask : Nat) (planes : List (BitVec 512)) : storeTans m base mask planes [] = m := rfl

theorem storeLanes_eq (m : Memory) (a mask : Nat) (v : VWord) : storeLanes m a mask v = storedLanes m a mask v 16 := rfl

theorem performReq_vload (m : Memory) (base : Nat) {r : NodeReq} (h : r.op = 18) : performReq m base r =
    ⟨m, BitVec.ofNat 512 (m.readN (base + r.off) 64) :: loadTans m base r.k 16 r.tans, 0⟩ := by
  rw [performReq, if_neg (by rw [h]; decide), if_neg (by rw [h]; decide), if_neg (by rw [h]; decide), if_pos h]

theorem performReq_vstore (m : Memory) (base : Nat) {r : NodeReq} (h : r.op = 19) : performReq m base r =
    ⟨storeTans (storeLanes m (base + r.off) r.mask r.val) base r.mask r.planes r.tans, [], 0⟩ := by
  rw [performReq, if_neg (by rw [h]; decide), if_neg (by rw [h]; decide), if_neg (by rw [h]; decide), if_neg (by rw [h]; decide)]

theorem carryLanes_primal {s : State} (h : s.me.k = 0) (r m : Nat) : s.carryLanes r m = ([], 0) := by
  rw [State.carryLanes, Core.memPlanes_primal h]
  rfl

/-- VSTN at a node that performs at once: the governed words, and nothing else (R232). -/
theorem vstoreNode_primal {s : State} {ea : Nat} (hm : (s.node (keyOf ea)).mode ≠ 2) (hk : s.me.k = 0) (r g : Nat) : s.vstoreNode r ea g =
    { s with mem := storedLanes s.mem (nodeBase (keyOf ea) + bits ea 12 0) (s.mask g) (s.me.rv 0 r) 16 } := by
  unfold State.vstoreNode
  dsimp only
  rw [carryLanes_primal hk, Core.tansAt_primal hk, nodeRequest_random hm (fun h => absurd h (of_decide_eq_false rfl)), performReq_vstore _ _ rfl,
    State.flagsNow, if_pos rfl]
  dsimp only
  rw [storeTans_none, storeLanes_eq]
  rfl

/-- VLDN at a node that performs at once (R232). -/
theorem vloadNode_primal {s : State} {ea : Nat} (hm : (s.node (keyOf ea)).mode ≠ 2) (hk : s.me.k = 0) (hecc : s.eccBad = []) (d g : Nat) :
    s.vloadNode d ea g = s.putV 14 d (s.mask g) [BitVec.ofNat 512 (s.mem.readN (nodeBase (keyOf ea) + bits ea 12 0) 64)] := by
  unfold State.vloadNode
  dsimp only
  rw [nodeRequest_random hm (fun _ => hecc), performReq_vload _ _ rfl]
  have hnone : ∀ ts, loadTans s.mem (nodeBase (keyOf ea)) s.me.k 16 ts = [] := fun ts => by rw [hk]; rfl
  dsimp only
  rw [show (s.reqAt 18 ea 64).k = s.me.k from rfl, hnone]
  rfl

/-- A vector load of the cox store outside tangent mode. -/
theorem vload_primal {s : State} (hecc : s.eccBad = []) (hk : s.me.k = 0) (d ea g n : Nat) : s.vload d ea g n =
    s.putV 6 d (s.mask g) [spread n (BitVec.ofNat 512 (s.mem.readN (coxBase s.cur + bits ea 19 0) (4 * n)))] := by
  unfold State.vload
  dsimp only
  have hnone : ∀ ts, loadTans s.mem (coxBase s.cur) s.me.k n ts = [] := fun ts => by rw [hk]; rfl
  rw [readCheck_of_clean hecc, hnone]
  rfl

/-- The governed lanes of VST join the stores of the bundle. -/
theorem vstore_primal {s : State} (hk : s.me.k = 0) (hc : s.cur < s.cores.length) (r ea g : Nat) : (s.vstore r ea g).me.stores = s.me.stores ++
    ((List.range 16).filter (fun n => bit (s.mask g) n)).map (fun n => (coxBase s.cur + (bits ea 19 0 + 4 * n), 4, s.ln 0 r n)) := by
  have hfold := foldl_addStore (fun n => bits ea 19 0 + 4 * n) (fun _ => 4) (fun n => s.ln 0 r n) ((List.range 16).filter (fun n => bit (s.mask g) n)) s hc
  rw [List.foldl_filter] at hfold
  unfold State.vstore
  dsimp only
  rw [carryLanes_primal hk, Core.tansAt_primal hk, List.foldl_nil, State.flagsNow, if_pos rfl, hfold, State.me_setCore_cur s _ hc]

/-- One word in every lane (R232). -/
theorem spread_one (m : Memory) (a : Nat) : spread 1 (BitVec.ofNat 512 (m.readN a 4)) = ofLanes (List.replicate 16 (m.readN a 4)) := by
  have hword : lane (BitVec.ofNat 512 (m.readN a 4)) 0 = m.readN a 4 := by
    rw [lane, toNat_ofNat_div_mod _ (by decide), Nat.mul_zero, Nat.pow_zero, Nat.div_one]
    exact Nat.mod_eq_of_lt (readN_lt m 4 a)
  rw [spread, if_pos rfl, hword]

/-- Settles O47. -/
theorem vectorMemory : Obligations.VectorMemory := by
  refine ⟨fun s d a i g off hoff h => ⟨?_, ?_, fun hecc hk => ?_, fun hk hc => ?_⟩, fun s d a i g off hoff h => ⟨?_, fun hecc hk => ?_⟩,
    fun s d a i g ea w0 hea hw h => ⟨?_, ?_, fun hm hk hecc => ?_, fun hm hk => ⟨fun adr hadr => ?_, fun n j hn hj => ?_, ?_⟩⟩⟩
  · apply exec_of_fitAt [(0, a), (1, d)] h (hw := by exact Nat.le_refl 1)
  · apply exec_of_fitAt [(0, a), (1, d)] h (hw := by exact Nat.zero_le 1)
  · rw [vload_primal hecc hk, ← hoff]
    rfl
  · rw [vstore_primal hk hc, ← hoff]
  · apply exec_of_fitAt [(0, a), (1, d)] h (hw := by exact Nat.le_refl 1)
  · rw [vload_primal hecc hk, ← hoff, spread_one]
  · subst hea
    apply exec_of_fitAt [(0, a), (1, d)] h (hw := by exact Nat.le_refl 1)
  · subst hea
    apply exec_of_fitAt [(0, a), (1, d)] h (hw := by exact Nat.zero_le 1)
  · rw [vloadNode_primal hm hk hecc, ← hw]
  · rw [vstoreNode_primal hm hk, ← hw]
    exact read_storedLanes_outside _ _ _ _ 16 hadr
  · rw [vstoreNode_primal hm hk, ← hw]
    exact read_storedLanes _ _ _ _ hj 16 hn
  · rw [vstoreNode_primal hm hk]

end Sys2Proof.Machine

/-! # X tiles and transform nodes (R236, R245, R248, R255) -/

namespace Sys2Proof.Machine

/-! ## Deliveries to a member that is on its core -/

/-- What a delivery to core `c`'s store rests on: the member is on its core, whose clock runs. -/
def State.Takes (s : State) (t : Option Nat) (c : Nat) : Prop := s.present t c = true ∧ s.paused (coreIsl c) = false

/-- A delivery of `off` bytes past a local address of the store writes the store. -/
theorem deliver_of_takes {s : State} {t : Option Nat} {c : Nat} (h : s.Takes t c) {la off : Nat} (hla : la < 2 ^ 31)
    (hoff : la % 2 ^ 20 + off < 2 ^ 20) (m : Memory) (n v : Nat) :
    ({ s with mem := m } : State).deliver t c (la + off) n v
      = { s with mem := m.writeN (coxBase c + la % 2 ^ 20 + off) n v } := by
  obtain ⟨hp, hc⟩ := h
  have hc' : ({ s with mem := m } : State).paused (coreIsl c) = false := hc
  have hp' : ({ s with mem := m } : State).present t c = true := hp
  have h31 : bit (la + off) 31 = false := by
    rw [bit, decide_eq_false_iff_not]
    omega
  have hlow : bits (la + off) 19 0 = la % 2 ^ 20 + off := by
    rw [bits]
    omega
  rw [State.deliver, if_neg (by rw [hc']; exact Bool.false_ne_true), State.deliverNow, if_neg (by rw [h31]; exact Bool.false_ne_true),
    State.coxDeliver, if_pos hp', hlow, Nat.add_assoc]

/-- A row of deliveries writes one after the other. -/
theorem foldl_deliver {s : State} {t : Option Nat} {c : Nat} (h : s.Takes t c) {la : Nat} (hla : la < 2 ^ 31) (off : Nat → Nat) (n : Nat)
    (val : State → Nat → Nat) (l : List Nat) : ∀ (m : Memory), (∀ i ∈ l, la % 2 ^ 20 + off i < 2 ^ 20) →
    l.foldl (fun s i => s.deliver t c (la + off i) n (val s i)) { s with mem := m }
      = { s with mem := l.foldl (fun m i => m.writeN (coxBase c + la % 2 ^ 20 + off i) n (val { s with mem := m } i)) m } := by
  induction l with
  | nil => exact fun _ _ => rfl
  | cons i l ih =>
    intro m hl
    rw [List.foldl_cons, List.foldl_cons, deliver_of_takes h hla (hl i List.mem_cons_self)]
    exact ih _ (fun j hj => hl j (List.mem_cons_of_mem i hj))

/-! ## Reads beside and inside a row of writes -/

/-- A read reads the bytes alone. -/
theorem readN_congr {m m' : Memory} {n : Nat} : ∀ {a : Nat}, (∀ b, a ≤ b → b < a + n → m.read b = m'.read b) → m.readN a n = m'.readN a n := by
  induction n with
  | zero => exact fun _ => rfl
  | succ n ih =>
    intro a h
    rw [Memory.readN, Memory.readN, h a (Nat.le_refl a) (by omega), ih (fun b hb hb' => h b (by omega) (by omega))]

/-- A read beside a write reads what stood there. -/
theorem readN_writeN_beside (m : Memory) {a n v b k : Nat} (h : b + k ≤ a ∨ a + n ≤ b) : (m.writeN a n v).readN b k = m.readN b k :=
  readN_congr fun c hc hc' => Memory.read_writeN_outside n m a v c (by omega)

/-- A read beside a row of writes reads what stood there. -/
theorem readN_foldl_beside {base n b k : Nat} (off : Nat → Nat) (val : Memory → Nat → Nat) (l : List Nat) : ∀ (m : Memory),
    (∀ i ∈ l, b + k ≤ base + off i ∨ base + off i + n ≤ b) →
    (l.foldl (fun m i => m.writeN (base + off i) n (val m i)) m).readN b k = m.readN b k := by
  induction l with
  | nil => exact fun _ _ => rfl
  | cons i l ih =>
    intro m hl
    rw [List.foldl_cons, ih _ (fun j hj => hl j (List.mem_cons_of_mem i hj)), readN_writeN_beside m (hl i List.mem_cons_self)]

/-- Entry `i` of a row of entries side by side reads as written. -/
theorem readN_foldl_entry {a off n : Nat} (val : Nat → Nat) (m : Memory) (N : Nat) {i : Nat} (hi : i < N) :
    ((List.range N).foldl (fun m j => m.writeN (a + (off + n * j)) n (val j)) m).readN (a + (off + n * i)) n = val i % 256 ^ n := by
  induction N with
  | zero => exact absurd hi (Nat.not_lt_zero i)
  | succ N ih =>
    rw [List.range_succ, List.foldl_append, List.foldl_cons, List.foldl_nil]
    by_cases hN : i = N
    · rw [hN, Memory.readN_writeN]
    · have hlt : i < N := by omega
      have hmul : n * (i + 1) ≤ n * N := Nat.mul_le_mul_left n hlt
      rw [readN_writeN_beside _ (Or.inl (by rw [Nat.mul_succ] at hmul; omega)), ih hlt]

/-! ## The save of a tile -/

/-- The save of a tile writes the save area of its member and no other part of the state; the stamp and the entries stand there. -/
theorem tileSave_writes {s : State} {t : Option Nat} {c : Nat} (h : s.Takes t c) {la : Nat} (hla : la < 2 ^ 31)
    (hoff : la % 2 ^ 20 + 0x10240 ≤ 2 ^ 20) (u : Nat) (buf : Bool) (held : List XEnt) :
    ∃ m, s.tileSave u c t la buf held = { s with mem := m } ∧
      m.readN (coxBase c + la % 2 ^ 20) 8 = stampWord 0x01 0 (s.dieNs (c / 8)) ∧
      ∀ i < 8, m.readN (coxBase c + la % 2 ^ 20 + 0x40 + 64 * i) 64 = ((held[i]?).map XEnt.save).getD 0 % 2 ^ 512 := by
  have hput := fun m off n v (ho : la % 2 ^ 20 + off < 2 ^ 20) => deliver_of_takes h hla ho m n v
  have hrow := fun m off n val N (ho : ∀ i ∈ List.range N, la % 2 ^ 20 + off i < 2 ^ 20) => foldl_deliver h hla off n val (List.range N) m ho
  obtain ⟨hd, hsave⟩ : ∃ hd, s.tileSave u c t la buf held =
      (let put (s : State) (off n v : Nat) : State := s.deliver t c (la + off) n v
      let s := put s 8 56 hd
      let s := (List.range 8).foldl (fun s i => put s (0x40 + 64 * i) 64 (((held[i]?).map XEnt.save).getD 0)) s
      let s := (List.range 8192).foldl (fun s i => put s (0x240 + 4 * i) 4 (s.mem.readN (accBase u 0 + 4 * i) 4)) s
      let s := if buf then (List.range 8192).foldl (fun s i => put s (0x8240 + 4 * i) 4 (s.mem.readN (bufBase u 0 + 4 * i) 4)) s else s
      put s 0 8 (stampWord 0x01 0 (s.dieNs (c / 8)))) := ⟨_, rfl⟩
  rw [hsave]
  dsimp only
  have hin (off w N : Nat) (ho : ∀ i < N, off + w * i < 0x10240) : ∀ i ∈ List.range N, la % 2 ^ 20 + (off + w * i) < 2 ^ 20 := fun i hi => by
    have := ho i (List.mem_range.mp hi)
    omega
  rw [show s.deliver t c (la + 8) 56 hd = _ from hput s.mem 8 56 hd (by omega),
    hrow _ (fun i => 0x40 + 64 * i) 64 _ 8 (hin 0x40 64 8 (by omega)),
    hrow _ (fun i => 0x240 + 4 * i) 4 (fun s i => s.mem.readN (accBase u 0 + 4 * i) 4) 8192 (hin 0x240 4 8192 (by omega))]
  have hbuf : ∀ m : Memory, ∃ m', (if buf then (List.range 8192).foldl (fun s i =>
      s.deliver t c (la + (0x8240 + 4 * i)) 4 (s.mem.readN (bufBase u 0 + 4 * i) 4)) ({ s with mem := m } : State) else { s with mem := m })
        = { s with mem := m' } ∧ ∀ b k, b + k ≤ coxBase c + la % 2 ^ 20 + 0x8240 → m'.readN b k = m.readN b k := fun m => by
    cases buf with
    | false => exact ⟨m, if_neg Bool.false_ne_true, fun _ _ _ => rfl⟩
    | true =>
      exact ⟨_, (if_pos rfl).trans <| hrow m (fun i => 0x8240 + 4 * i) 4 (fun s i => s.mem.readN (bufBase u 0 + 4 * i) 4) 8192 (hin 0x8240 4 8192 (by omega)),
        fun b k hb => readN_foldl_beside (fun i => 0x8240 + 4 * i) _ _ m (fun i _ => Or.inl (by omega))⟩
  obtain ⟨m', hm', hkept⟩ := hbuf _
  rw [hm', hput m' 0 8 _ (by omega)]
  refine ⟨_, rfl, ?_, fun i hi => ?_⟩
  · rw [Nat.add_zero, Memory.readN_writeN]
    refine Nat.mod_eq_of_lt (Nat.lt_of_lt_of_le (m := 2 ^ 64) ?_ (by decide))
    show stampWord 1 0 (s.dieNs (c / 8)) < 2 ^ 64
    rw [stampWord]
    omega
  · rw [readN_writeN_beside _ (Or.inr (by omega)), hkept _ _ (by omega),
      readN_foldl_beside (fun i => 0x240 + 4 * i) _ _ _ (fun j _ => Or.inl (by omega)), Nat.add_assoc (coxBase c + la % 2 ^ 20),
      readN_foldl_entry (fun i => ((held[i]?).map XEnt.save).getD 0) _ 8 hi, show (256 : Nat) ^ 64 = 2 ^ (8 * 64) from (Nat.pow_mul 2 8 64).symm]

/-! ## The stop of a tile -/

/-- Flags that come to a team's member leave memory, the tiles and the time, and every member where it is. -/
theorem teamFlags_keeps (s : State) (t : Option Nat) (c : Nat) (fl : FlagSet) :
    (s.teamFlags t c fl).xtiles = s.xtiles ∧ (∀ d, (s.teamFlags t c fl).dieNs d = s.dieNs d) ∧
      ∀ t' c', s.Takes t' c' → (s.teamFlags t c fl).Takes t' c' := by
  have hcore (t' : Option Nat) (c' : Nat) (h : s.Takes t' c') : (s.modCore c (fun k => k.orFlags fl)).Takes t' c' := by
    obtain ⟨hp, hc⟩ := h
    refine ⟨?_, hc⟩
    rw [State.present, decide_eq_true_eq] at hp ⊢
    by_cases hne : c' = c
    · subst hne
      by_cases hlt : c' < s.cores.length
      · rw [core_modCore_same s c' _ hlt]
        exact hp
      · rw [State.modCore, setCore_beyond _ _ _ (Nat.le_of_not_lt hlt)]
        exact hp
    · rw [core_modCore_other s c c' _ hne]
      exact hp
  rw [State.teamFlags]
  by_cases h0 : fl = 0
  · rw [if_pos h0]
    exact ⟨rfl, fun _ => rfl, fun _ _ h => h⟩
  · rw [if_neg h0]
    by_cases hp : s.paused (coreIsl c)
    · rw [if_pos hp]
      exact ⟨rfl, fun _ => rfl, fun _ _ h => h⟩
    · rw [if_neg hp]
      by_cases hm : s.present t c
      · rw [show s.modContext t c _ = s.modCore c (fun k => k.orFlags fl) from if_pos hm]
        exact ⟨rfl, fun _ => rfl, hcore⟩
      · cases t with
        | none => rw [show s.modContext none c _ = s from if_neg hm]; exact ⟨rfl, fun _ => rfl, fun _ _ h => h⟩
        | some n =>
          rw [show s.modContext (some n) c _ = s.modTeam n (fun tm => { tm with saved := tm.saved.modify (tm.cores.idxOf c) _ }) from if_neg hm]
          exact ⟨rfl, fun _ => rfl, fun _ _ h => h⟩

/-- A stop that does not act leaves the state. -/
theorem stopSaves_waits {s : State} {u : Nat} (h : (s.xtile u).lands ≠ [] ∨ s.tilePaused u = true) : s.stopSaves u = s := by
  rw [State.stopSaves]
  by_cases hp : s.tilePaused u
  · exact if_pos hp
  · rw [if_neg hp]
    obtain ⟨l, ls, hl⟩ := List.exists_cons_of_ne_nil (h.resolve_right hp)
    have hone : s.stopSave u = s := by
      rw [State.stopSave, hl]
      rcases (s.xtile u).stops with _ | ⟨x, r⟩ <;> rfl
    generalize List.range (s.xtile u).stops.length = is
    induction is with
    | nil => rfl
    | cons i is ih => rw [List.foldl_cons, hone, ih]

/-- The tile after its one stop: what the stop saved has left it. -/
def XTile.afterStop (x : XStop) (t : XTile) : XTile := { t with
  queue := t.queue.drop x.n, stops := [], stopped := false, flags := 0, k := 0, due := 0
  drains := t.drains.filter (fun d => !d.copying)
  kept := if t.snap.isEmpty ∨ t.k = 0 then t.kept
    else (x.team, x.la, t.snap) :: t.kept.filter (fun q => !decide (q.1 = x.team ∧ q.2.1 = x.la)) }

/-- The one stop of a tile with nothing left to land saves the entries it holds, stamps, and takes them from the queue. -/
theorem stopSaves_saves {s : State} {u base : Nat} {x : XStop} (hrun : s.tilePaused u = false) (hstop : (s.xtile u).stops = [x])
    (hland : (s.xtile u).lands = []) (hecc : s.eccBad = []) (htakes : s.Takes x.team x.core) (hoff : x.la % 2 ^ 20 + 0x10240 ≤ 2 ^ 20)
    (hla : x.la < 2 ^ 31) (hbase : base = coxBase x.core + x.la % 2 ^ 20) {v : State} (hv : v = s.stopSaves u) :
    (v.xtile u).queue = (s.xtile u).queue.drop x.n ∧ (v.xtile u).stops = [] ∧ (v.xtile u).stopped = false ∧ (v.xtile u).k = 0 ∧
    v.mem.readN base 8 = stampWord 0x01 0 (s.dieNs (x.core / 8)) ∧
    ∀ i < 8, v.mem.readN (base + 0x40 + 64 * i) 64 = ((((s.xtile u).queue.take x.n)[i]?).map XEnt.save).getD 0 % 2 ^ 512 := by
  have hsaves : s.stopSaves u = s.stopSave u := by
    rw [State.stopSaves, if_neg (by rw [hrun]; exact Bool.false_ne_true), hstop]
    rfl
  have hbad : s.saveBad u x.buf = false := by
    rw [State.saveBad, wordsBad_of_clean hecc, wordsBad_of_clean hecc, Bool.and_false, Bool.or_false]
  have hfixed : s.saveFixed u x.buf = s := by
    rw [State.saveFixed, wordsFixed_of_clean hecc, wordsFixed_of_clean hecc, ite_self]
  obtain ⟨w, htile, hns, hw, hstate⟩ : ∃ w : State, w.xtiles = s.xtiles ∧ (∀ d, w.dieNs d = s.dieNs d) ∧ w.Takes x.team x.core ∧
      s.stopSave u = (w.tileSave u x.core x.team x.la x.buf ((s.xtile u).queue.take x.n)).modTile u (XTile.afterStop x) := by
    rw [State.stopSave, hstop, hland]
    dsimp only
    rw [if_neg (by rw [hbad]; exact Bool.false_ne_true), hfixed]
    rcases (s.xtile u).queue.take x.n with _ | ⟨e, es⟩
    · exact ⟨s, rfl, fun _ => rfl, htakes, rfl⟩
    · by_cases hb : e.begun
      · obtain ⟨hx, hn, ht⟩ := teamFlags_keeps s e.team e.core (s.xtile u).flags
        exact ⟨_, hx, hn, ht _ _ htakes, by simp only [if_pos hb]; rfl⟩
      · exact ⟨s, rfl, fun _ => rfl, htakes, by simp only [if_neg hb]; rfl⟩
  obtain ⟨m, hsave, hstamp, hent⟩ := tileSave_writes hw hla hoff u x.buf ((s.xtile u).queue.take x.n)
  have hv' : v = ({ w with mem := m } : State).modTile u (XTile.afterStop x) := by rw [hv, hsaves, hstate, hsave]
  have htile' : v.xtile u = XTile.afterStop x (s.xtile u) := by
    rw [hv', State.xtile, State.modTile, Tab.get_mod_same]
    exact congrArg (fun l => XTile.afterStop x (Tab.get XTile.empty l u)) htile
  rw [htile']
  refine ⟨rfl, rfl, rfl, rfl, ?_, fun i hi => ?_⟩
  · rw [hv', hbase]
    exact hstamp.trans (by rw [hns])
  · rw [hv', hbase]
    exact hent i hi

/-! ## Commands of transform nodes -/

/-- MXSAVE where it issues: with STOP the stop, else an entry. -/
theorem mxsave_issued {s : State} {a b u t : Nat} (h : s.issues (.mxsave a b u t)) : exec (.mxsave a b u t) s = .next
    (if t = 1 then s.tileStop (tileNo s.cur (s.xval a % 32)) s.cur s.me.team (s.xval b) (decide (u = 1)) else s.pushEntry .save a b (2 * u) 0) :=
  coxIssue_issues (.mxsave a b u t) (fun s => if t = 1 then s.tileStop (tileNo s.cur (s.xval a % 32)) s.cur s.me.team (s.xval b) (decide (u = 1))
    else s.pushEntry .save a b (2 * u) 0) s h

/-- XFWD where it issues. -/
theorem xfwd_issued {s : State} {a b q : Nat} (h : s.issues (.xfwd a b q)) : exec (.xfwd a b q) s = .next (s.pushXform a b false q) :=
  coxIssue_issues (.xfwd a b q) (fun s => s.pushXform a b false q) s h

/-- XINV where it issues. -/
theorem xinv_issued {s : State} {a b : Nat} (h : s.issues (.xinv a b)) : exec (.xinv a b) s = .next (s.pushXform a b true 0) :=
  coxIssue_issues (.xinv a b) (fun s => s.pushXform a b true 0) s h

/-- Settles O48: an instruction that drives a tile issues into its entry or stop, a stop saves once nothing is left to land. -/
theorem matrixAndTransform : Obligations.MatrixAndTransform := by
  unfold Obligations.MatrixAndTransform
  refine ⟨fun s a b c u t g add hadd => ?_, fun _ _ _ _ _ _ => rfl, fun s u h => stopSaves_waits h, ?_, fun s a d h => ?_, ?_,
    fun s a b q => ⟨xfwd_issued, xinv_issued⟩⟩
  · have hpush (k : XKind) (imm xb n : Nat) : add k imm xb n s = s.pushEntry k a xb imm n := hadd k imm xb n s
    simp only [hpush]
    refine ⟨fun h => ?_, fun h => ?_, fun h => ?_, fun h ht => ?_, fun h => ?_, fun h => ?_, fun h => ?_⟩
    · exact coxIssue_issues (.mxstep a b) (fun s => s.pushEntry .step a b 0 16) s h
    · exact coxIssue_issues (.mxdrain a b c) (fun s => s.pushEntry .drain a b c 32) s h
    · exact coxIssue_issues (.mxzero a c) (fun s => s.pushEntry .zero a 0 c 0) s h
    · exact (mxsave_issued h).trans (congrArg Host.Outcome.next (if_neg ht))
    · exact (mxsave_issued h).trans (congrArg Host.Outcome.next (if_pos rfl))
    · exact coxIssue_issues (.mxrest a b u) (fun s => s.pushEntry .rest a b (2 * u) 0) s h
    · exact coxIssue_issues (.mxpair a b g) (fun s => s.pushEntry .pair a b g 16) s h
  · intro s v u base x hrun hstop hland hecc hp hc hoff hla hbase hv
    exact stopSaves_saves hrun hstop hland hecc ⟨hp, hc⟩ hoff hla hbase hv
  · exact coxIssue_issues (.mxstat a d) (fun s => s.putX 4 d (BitVec.ofNat 64 (s.tileStatus (tileNo s.cur (s.xval a % 32))))) s h
  · intro s a b q sh inv i hi h
    obtain ⟨rfl, rfl, rfl⟩ | ⟨rfl, rfl, rfl⟩ := hi
    · exact xfwd_issued h
    · exact xinv_issued h

end Sys2Proof.Machine

/-! # Admission of riders and of turns (R75, R79, R256, R257, R318) -/

namespace Sys2Proof.Machine

/-! ## Riders -/

/-- What is left of admission once the pages are there: unchanged with a result other than 1, or a rider in slots. -/
def AdmitStep (s : State) (r : Rider) (die : Nat) (x : Nat × State) : Prop :=
  (x.1 ≠ 1 ∧ x.2 = s) ∨
    ∃ (q : Rider) (ps : List Part), q.acct = r.acct ∧ q.rcd = r.rcd ∧ q.xa = r.xa ∧ q.stamp = r.stamp ∧ x = (1, s.takeSlots q (s.dieNs die) ps)

/-- A reason for refusal is never the number 1. -/
theorem refusal_ne_one (full held : Bool) : 8 * b2n full + 2 * b2n held ≠ 1 := by omega

/-- Either the rider is refused, or it takes its slots. -/
theorem admitStep_ite {s : State} {r q : Rider} {die n : Nat} {ps : List Part} {p : Prop} [Decidable p] (hn : n ≠ 1) (ha : q.acct = r.acct)
    (hr : q.rcd = r.rcd) (hx : q.xa = r.xa) (ht : q.stamp = r.stamp) :
    AdmitStep s r die (if p then (n, s) else (1, s.takeSlots q (s.dieNs die) ps)) := by
  by_cases hp : p
  · rw [if_pos hp]
    exact Or.inl ⟨hn, rfl⟩
  · rw [if_neg hp]
    exact Or.inr ⟨q, ps, ha, hr, hx, ht, rfl⟩

/-- With its pages there a rider is refused, which changes nothing, or takes slots, whole or as the carrier of its failure. -/
theorem tryAdmit_step {s : State} {r : Rider} {die tile : Nat} (h : (s.find tile r).miss = []) : AdmitStep s r die (s.tryAdmit r die tile) := by
  rw [State.tryAdmit]
  dsimp only
  rw [h]
  dsimp only
  split
  · exact admitStep_ite (by decide) rfl rfl rfl rfl
  · split
    · exact admitStep_ite (refusal_ne_one _ _) rfl rfl rfl rfl
    · exact admitStep_ite (refusal_ne_one _ _) rfl rfl rfl rfl

/-- The result of a rider instruction that is no stream is that of its admission. -/
theorem issueRider_admits {s u : State} {k : RKind} {d a b x : Nat} (hk : k ≠ .stream) (hport : k = .rdstr → (s.askOf k d a b).f 255 252 ≠ 3)
    (h : s.admitCore (s.askOf k d a b) = (x, u)) : s.issueRider k d a b =
      ((if x = 1 then u.fillSource.askNewest else u).putP 16 15 (BitVec.ofNat 16 x)).modMe (fun c => { c with admDue := c.step + 16 }) := by
  rw [State.issueRider]
  dsimp only
  rw [if_neg hk, if_neg (fun hp => hport hp.1 hp.2), h]
  by_cases hx : x = 1
  · rw [if_pos hx, if_pos hx, hx]
  · rw [if_neg hx, if_neg hx]

/-- Settles O49: a rider instruction issues into its request, which is admitted whole or changes nothing. -/
theorem riderAdmission : Obligations.RiderAdmission := by
  unfold Obligations.RiderAdmission
  refine ⟨fun s d a b => ⟨?_, ?_, ?_, ?_, ?_, ?_, ?_, ?_, ?_, ?_, ?_, ?_, ?_, ?_, ?_⟩, fun _ _ _ _ _ => ⟨rfl, rfl, rfl, rfl⟩,
    fun s u k d a b x hk hport h => issueRider_admits hk hport h, fun s u r die tile x hmiss hx => ?_⟩
  · exact coxIssue_issues (.rdstr d a b) (fun s => s.issueRider .rdstr d a b) s
  · exact coxIssue_issues (.rdsieve d a b) (fun s => s.issueRider .rdsieve d a b) s
  · exact coxIssue_issues (.rdfold d a b) (fun s => s.issueRider .rdfold d a b) s
  · exact coxIssue_issues (.rdmat d a b) (fun s => s.issueRider .rdmat d a b) s
  · exact coxIssue_issues (.rdfp d a b) (fun s => s.issueRider .rdfp d a b) s
  · exact coxIssue_issues (.rdcmp d a b) (fun s => s.issueRider .rdcmp d a b) s
  · exact coxIssue_issues (.upd d a b) (fun s => s.issueRider .upd d a b) s
  · exact coxIssue_issues (.dep d a b) (fun s => s.issueRider .dep d a b) s
  · exact coxIssue_issues (.land d a b) (fun s => s.issueRider .land d a b) s
  · exact coxIssue_issues (.bvload d a b) (fun s => s.issueRider .bvload d a b) s
  · exact coxIssue_issues (.importHost d a b) (fun s => s.issueRider .imp d a b) s
  · exact coxIssue_issues (.exportHost d a b) (fun s => s.issueRider .exp d a b) s
  · exact coxIssue_issues (.stream d a b) (fun s => s.issueRider .stream d a b) s
  · exact coxIssue_issues (.crsmode d a b) (fun s => s.issueRider .crsmode d a b) s
  · exact coxIssue_issues (.cursor d a b) (fun s => s.issueRider .cursor d a b) s
  · obtain ⟨hne, hs⟩ | ⟨q, ps, hacct, hrcd, hxa, hstamp, htake⟩ := hx ▸ tryAdmit_step (die := die) hmiss
    · exact ⟨fun _ => hs, fun h1 => absurd h1 hne⟩
    · obtain ⟨rfl, rfl⟩ := Prod.mk.inj htake
      exact ⟨fun h1 => absurd rfl h1, fun _ => ⟨rfl, _, rfl, rfl, rfl, congrArg s.nextAcct hacct, hrcd, hxa, hstamp, rfl⟩⟩

/-! ## Turns -/

/-- The turn that a sequence instruction asks for. -/
def State.turnOf (s : State) (kind d a b : Nat) : Turn :=
  let rcd := BitVec.ofNat 256 (s.recAt (s.xval b) 32)
  let src := if kind = 5 ∨ kind = 8 then s.sourceWords s.cur (bits rcd.toNat 191 128) (bits rcd.toNat 63 32) else ([], [])
  let held := s.seqs.any (fun t => decide (t.stream = s.xval a % 4096 ∧ t.held.isSome ∧ t.core = s.cur ∧ t.team = s.me.team))
  { id := s.nextId, kind := kind, core := s.cur, team := s.me.team, func := s.funcOf s.cur, asid := s.asidOf s.cur, time := s.dieNs (s.cur / 8),
    seq := 0, stream := s.xval a % 4096, rcd := rcd, recAddr := s.xval b, stamp := s.xval d, src := src.1, begun := false, held := none,
    bypass := s.me.tstat.getLsbD 0 && held, busy := false, got := [], lost := src.2, absent := [], again := false, out := none }

/-- Too many riders and turns of the core in flight, or too many turns on a stream: the turn is not taken. -/
def State.seqFull (s : State) (on : List Nat) : Bool := decide (512 ≤ s.coreFlight s.cur) || on.any (fun m => decide (16 ≤ s.onStream m))

/-- A sequence instruction with room appends its turn. -/
theorem issueSeq_admitted {s : State} {kind d a b : Nat} (hecc : s.eccBad = []) (h : s.seqFull (s.turnOf kind d a b).on = false) :
    s.issueSeq kind d a b = (({ s with seqs := s.seqs ++ [s.turnOf kind d a b], nextId := s.nextId + 1 } : State).putP 16 15 1).modMe
      (fun k => { k with admDue := k.step + 16 }) := by
  obtain ⟨hcore, hstream⟩ := Bool.or_eq_false_iff.mp h
  have hroom : ¬(decide (512 ≤ s.coreFlight s.cur) = true ∨ (s.turnOf kind d a b).on.any (fun m => decide (16 ≤ s.onStream m)) = true) := by
    rw [hcore, hstream]
    exact fun h => h.elim Bool.false_ne_true Bool.false_ne_true
  rw [State.issueSeq]
  dsimp only
  rw [State.sourceFixed, wordsFixed_of_clean hecc, ite_self]
  exact congrArg (fun x : Nat × State => (x.2.putP 16 15 (BitVec.ofNat 16 x.1)).modMe (fun k => { k with admDue := k.step + 16 })) (if_neg hroom)

/-- A sequence instruction without room reports why. -/
theorem issueSeq_refused {s : State} {kind d a b : Nat} (h : s.seqFull (s.turnOf kind d a b).on = true) :
    s.issueSeq kind d a b = (s.putP 16 15 (BitVec.ofNat 16 (8 * b2n (decide (512 ≤ s.coreFlight s.cur)) +
      2 * b2n ((s.turnOf kind d a b).on.any (fun m => decide (16 ≤ s.onStream m)))))).modMe (fun k => { k with admDue := k.step + 16 }) :=
  congrArg (fun x : Nat × State => (x.2.putP 16 15 (BitVec.ofNat 16 x.1)).modMe (fun k => { k with admDue := k.step + 16 }))
    (if_pos (Bool.or_eq_true_iff.mp h))

/-- The source words of a turn of this core are read with the stores of its bundle. -/
theorem turnOf_src {s : State} {kind d a b la base : Nat} (hk : kind = 5 ∨ kind = 8) (hla : la = bits (s.turnOf kind d a b).rcd.toNat 191 128)
    (hbase : base = if la.testBit 31 = true then nodeBase (keyOf la) + bits la 12 0 else coxBase s.cur + bits la 19 0) :
    (s.turnOf kind d a b).src = (List.range (bits (s.turnOf kind d a b).rcd.toNat 63 32)).map
      (fun i => BitVec.ofNat 32 (s.memStored.readN (base + 4 * i) 4)) := by
  have hbit : bit la 31 = la.testBit 31 := (Nat.testBit_eq_decide_div_mod_eq).symm
  rw [hbase, ← hbit, hla, State.turnOf]
  dsimp only
  rw [if_pos hk, State.sourceWords]
  dsimp only
  rw [if_pos rfl]

/-- Settles O50: a sequence instruction issues into its turn, or into the reason why there is none. -/
theorem sequenceAdmission : Obligations.SequenceAdmission := by
  unfold Obligations.SequenceAdmission
  refine ⟨fun s d a b => ⟨?_, ?_, ?_, ?_, ?_, ?_, ?_, ?_, ?_⟩, fun s kind d a b n rcd on hn hrcd hon hecc => ?_⟩
  · exact coxIssue_issues (.kvlook d a b) (fun s => s.issueSeq 0 d a b) s
  · exact coxIssue_issues (.kvapp d a b) (fun s => s.issueSeq 1 d a b) s
  · exact coxIssue_issues (.kvfork d a b) (fun s => s.issueSeq 2 d a b) s
  · exact coxIssue_issues (.kvtrunc d a b) (fun s => s.issueSeq 3 d a b) s
  · exact coxIssue_issues (.kvflat d a b) (fun s => s.issueSeq 4 d a b) s
  · exact coxIssue_issues (.kvdep d a b) (fun s => s.issueSeq 5 d a b) s
  · exact coxIssue_issues (.playset d a b) (fun s => s.issueSeq 6 d a b) s
  · exact coxIssue_issues (.framein d a b) (fun s => s.issueSeq 7 d a b) s
  · exact coxIssue_issues (.stateck d a b) (fun s => s.issueSeq 8 d a b) s
  · have hrcd' : (s.turnOf kind d a b).rcd = rcd := hrcd.symm
    have hon' : (s.turnOf kind d a b).on = on := by rw [hon, hn, hrcd]; rfl
    refine ⟨fun hcore hstream => ⟨s.turnOf kind d a b, _, rfl, issueSeq_admitted hecc ?_, rfl, rfl, rfl, rfl, hn.symm, hon', rfl, hrcd', rfl, rfl, rfl,
      fun h5 h8 => ?_, fun hk la base hla hbase => ?_⟩, fun hfull => ?_⟩
    · rw [hon', State.seqFull, Bool.or_eq_false_iff]
      exact ⟨decide_eq_false (Nat.not_le_of_lt hcore),
        List.any_eq_false.mpr fun m hm => by rw [decide_eq_true_eq]; exact Nat.not_le_of_lt (hstream m hm)⟩
    · exact congrArg Prod.fst (if_neg (fun h => h.elim h5 h8))
    · rw [← hrcd'] at hla ⊢
      exact turnOf_src hk hla hbase
    · rw [← hon']
      refine issueSeq_refused ?_
      rw [hon', State.seqFull, Bool.or_eq_true_iff]
      refine hfull.imp decide_eq_true fun ⟨m, hm, h16⟩ => List.any_eq_true.mpr ⟨m, hm, decide_eq_true h16⟩

end Sys2Proof.Machine

/-! # Operations of compute elements (R30, R277 to R286) -/

namespace Sys2Proof.Machine

/-! ## When an operation starts its result -/

theorem ceOp_squashed {s : State} (h : s.el.squash = true) (r : DomRule) (l : List (Nat × Beat)) (lat m : Nat) (f : Unit → Beat × FlagSet) :
    s.ceOp r l lat m f = s := if_pos h

theorem ceOp_issues {s : State} (h : s.el.squash = false) {r : DomRule} {l : List (Nat × Beat)} (hd : domFault r l = none) (lat m : Nat)
    (f : Unit → Beat × FlagSet) : s.ceOp r l lat m f = s.ceIssue lat m (f ()) := by
  rw [State.ceOp, if_neg (by rw [h]; exact Bool.false_ne_true), hd]

theorem lgOp_squashed {s : State} (h : s.el.squash = true) (l : List (Nat × Beat)) (lat m : Nat) (f : Unit → Beat × FlagSet) :
    s.lgOp l lat m f = s := if_pos h

theorem lgOp_issues {s : State} (h : s.el.squash = false) (hg : lgFaults s.el.a s.el.b = none) {l : List (Nat × Beat)} (hd : domFault .none l = none)
    (lat m : Nat) (f : Unit → Beat × FlagSet) : s.lgOp l lat m f = s.ceIssue lat m (f ()) := by
  rw [State.lgOp, if_neg (by rw [h]; exact Bool.false_ne_true), hg]
  exact ceOp_issues h hd lat m f

theorem idx_squashed {s : State} (h : s.el.squash = true) (m : Nat) : s.idx m = s := by
  rw [State.idx]
  split
  · exact ceOp_squashed h ..
  · rfl

theorem temit_squashed {s : State} (h : s.el.squash = true) (c : Nat) : s.temit c = s := if_pos h

/-- CVT issues like any operation once no raw lane read as lg has reserved bits set. -/
theorem cvt_issues {s : State} (h : s.el.squash = false) {t : Nat} (hg : t = 7 → lgReserved s.el.a = none) (hd : domFault .none s.opA = none)
    (m r c : Nat) : exec (.ceCvt t m r c) s = .next (s.ceIssue 3 m (ceCvtR s.ceK t r c s.el.a)) := by
  have hres : (if t = 7 ∧ s.el.squash = false then lgReserved s.el.a else none) = none := by
    by_cases ht : t = 7
    · rw [if_pos ⟨ht, h⟩, hg ht]
    · exact if_neg fun hp => ht hp.1
  refine congrArg Host.Outcome.next ?_
  rw [hres]
  exact ceOp_issues h hd ..

/-- A squashed slot does nothing, whatever its operation. -/
theorem exec_squashed {i : Instr} {s : State} (hp : i.place = .ce) (h : s.el.squash = true) : exec i s = .next s := by
  cases i
  case ceMov | ceAdd | ceSub | ceMul | ceFma | ceFms | ceMin | ceMax | ceAbs | ceNeg | ceRelu | ceAnd | ceOr | ceXor | ceShl | ceShr | ceSra |
      ceCmpeq | ceCmplt | ceCmple | ceSel | ceHsum | ceHmax | ceExp2 | ceLog2 | ceRcp | ceRsqrt | ceTanh | ceSigm | ceCmul | ceCmac | ceCconj |
      ceTmerge | ceHdr | cePay =>
    exact congrArg Host.Outcome.next (ceOp_squashed h ..)
  case ceLmul | ceLmac | ceLdot4 => exact congrArg Host.Outcome.next (lgOp_squashed h ..)
  case ceNop => rfl
  case ceIdx m => exact congrArg Host.Outcome.next (idx_squashed h m)
  case ceTemit c => exact congrArg Host.Outcome.next (temit_squashed h c)
  case ceCvt t m r c =>
    refine congrArg Host.Outcome.next ?_
    rw [if_neg fun hp => Bool.false_ne_true (hp.2.symm.trans h)]
    exact ceOp_squashed h ..
  all_goals exact absurd hp (of_decide_eq_false rfl)

/-! ## Tokens and flags -/

theorem temit_always {s : State} (h : s.el.squash = false) : s.temit 0 = s.modEl s.el.pos (fun e => { e with tok := true }) := by
  rw [State.temit, if_neg (by rw [h]; exact Bool.false_ne_true)]
  exact if_neg fun hc => absurd hc.1 (by decide)

theorem temit_asked {s : State} (h : s.el.squash = false) (hd : domFault .none s.opA = none) :
    s.temit 1 = if s.el.a.lane 0 0 = 0 then s else s.modEl s.el.pos (fun e => { e with tok := true }) := by
  rw [State.temit, if_neg (by rw [h]; exact Bool.false_ne_true), if_pos rfl, hd]
  exact ite_congr (propext ⟨And.right, And.intro rfl⟩) (fun _ => rfl) (fun _ => rfl)

theorem sendToks_one {s : State} {l : Load} {k : Nat} (h : (s.elem k).tok = true) (base : Nat → Nat) : s.sendToks s.el.reg l ([k], base) =
    (s.modEl k (fun e => { e with tok := false })).sendToken s.el.reg k (l.at (base k) 0x128 8) := by
  have hone : [k].filter (fun k => (s.elem k).tok) = [k] := List.filter_cons_of_pos h
  rw [State.sendToks, hone]
  rfl

theorem loadFlags_none (s : State) (n : Nat) : s.loadFlags n 0 = s := if_pos rfl

/-- Flags of a load change no other part of the state than its region. -/
theorem loadFlags_regions (s : State) (n : Nat) (fl : FlagSet) : ({ s.loadFlags n fl with regions := s.regions } : State) = s := by
  rw [State.loadFlags]
  split <;> rfl

/-- A result starts at the element whose slot it is, with its flags in the load. -/
theorem ceIssue_starts (s : State) (lat m : Nat) (b : Beat) (fl : FlagSet) : s.ceIssue lat m (b, fl) = if m = 3 then s.loadFlags s.el.reg fl
    else (s.loadFlags s.el.reg fl).modEl s.el.pos (fun e => { e with res := e.res ++ [⟨lat, m, b⟩] }) := by
  have hel : (s.loadFlags s.el.reg fl).el = s.el := by
    rw [State.loadFlags]
    split <;> rfl
  rw [State.ceIssue]
  dsimp only
  rw [hel]

/-- The active load of a changed region is changed so. -/
theorem active_modActive {s : State} {n : Nat} {r : Region} {l : Load} (h : s.active n = some (r, l)) (f : Load → Load) :
    (s.modActive n f).active n = some ({ r with active := some (f l) }, f l) := by
  obtain ⟨r', hr, hl⟩ := Option.bind_eq_some_iff.mp h
  obtain ⟨l', hl', he⟩ := Option.map_eq_some_iff.mp hl
  obtain ⟨rfl, rfl⟩ := Prod.mk.inj he
  have hnew : (s.modActive n f).region n = some { r' with active := r'.active.map f } := by
    rw [State.region, State.modActive, State.modRegion, List.getElem?_modify_eq, show s.regions[n]? = some r' from hr]
    rfl
  rw [State.active, hnew, hl']
  rfl

/-- Flags of a load are ORed into its flags. -/
theorem active_loadFlags {s : State} {n : Nat} {r : Region} {l : Load} (h : s.active n = some (r, l)) (fl : FlagSet) :
    (s.loadFlags n fl).active n = some ({ r with active := some { l with flags := l.flags ||| fl } }, { l with flags := l.flags ||| fl }) := by
  rw [State.loadFlags]
  by_cases h0 : fl = 0
  · obtain ⟨r', hr, hl⟩ := Option.bind_eq_some_iff.mp h
    obtain ⟨l', hl', he⟩ := Option.map_eq_some_iff.mp hl
    obtain ⟨rfl, rfl⟩ := Prod.mk.inj he
    have hl0 : ({ l' with flags := l'.flags ||| fl } : Load) = l' := by
      rw [h0]
      exact congrArg (fun x => { l' with flags := x }) BitVec.or_zero
    rw [if_pos h0, hl0, ← hl', h]
  · rw [if_neg h0]
    exact active_modActive h _

/-! ## Raw lanes (R277, R279) -/

theorem Beat.lane_lt (b : Beat) (p i : Nat) : b.lane p i < 2 ^ 32 := by
  rw [Beat.lane, bits, show 32 * i + 31 + 1 - 32 * i = 32 by omega]
  exact Nat.mod_lt _ (Nat.two_pow_pos 32)

/-- A lane of a packed result is the lane given, in its 32 bits. -/
theorem lane_mkBeat (k : Nat) (f : Nat → LaneRes) (g : Nat → Nat → Nat → LaneRes) {i : Nat} (hi : i < 4) :
    (mkBeat k f g).1.lane 0 i = (f i).1 % 2 ^ 32 := by
  have hin : 32 * i + 32 ≤ 128 := by omega
  have hget : (((List.range 4).map f).map Prod.fst).getD i 0 = (f i).1 := by
    rw [List.map_map, List.getD_eq_getElem?_getD, List.getElem?_map, List.getElem?_range hi]
    rfl
  have hplane : (mkBeat k f g).1.v 0 = ofQuad (((List.range 4).map f).map Prod.fst) := rfl
  rw [Beat.lane, bits, show 32 * i + 31 + 1 - 32 * i = 32 by omega, hplane, ofQuad, toNat_ofNat_div_mod _ hin, packCodes_div_mod, hget]

/-- The scale of a plain beat is 0. -/
theorem Beat.q_plain {b : Beat} (h : b.scale = plainScale) : b.q 0 = 0 := by
  rw [Beat.q, h]
  decide

/-- A raw lane of type FP32 is its 32 bits. -/
theorem Beat.raw_plain {b : Beat} (h : b.fmt = 32) (i : Nat) : b.raw 0 0 i = f32 (b.lane 0 i) := by
  rw [Beat.raw, h]
  rfl

/-- The value of a plain raw lane of type FP32. -/
theorem Beat.val_plain {b : Beat} (h : b.fmt = 32) (hs : b.scale = plainScale) (i : Nat) : b.val 0 0 i = f32 (b.lane 0 i) := by
  rw [Beat.val, Beat.q_plain hs, Beat.raw_plain h]
  rfl

/-- The exact product of two plain raw lanes. -/
theorem laneProd_plain {a b : Beat} (ha : a.fmt = 32) (hb : b.fmt = 32) (has : a.scale = plainScale) (hbs : b.scale = plainScale) (i : Nat) :
    laneProd a b 0 0 i 0 i = Val.mul (f32 (a.lane 0 i)) (f32 (b.lane 0 i)) := by
  rw [laneProd, Beat.raw_plain ha, Beat.raw_plain hb, Beat.q_plain has, Beat.q_plain hbs]
  rfl

/-- Plain raw FP32 lanes are added, subtracted and multiplied as in the V slot. -/
theorem ceArithmetic_plain {a b : Beat} {i : Nat} (hi : i < 4) (ha : a.fmt = 32) (hb : b.fmt = 32) (has : a.scale = plainScale)
    (hbs : b.scale = plainScale) :
    (ceAddR 0 0 0 false a b).1.lane 0 i = (add32 (a.lane 0 i) (b.lane 0 i)).1 % 2 ^ 32 ∧
    (ceAddR 0 0 0 true a b).1.lane 0 i = (sub32 (a.lane 0 i) (b.lane 0 i)).1 % 2 ^ 32 ∧
    (ceMulR 0 0 0 a b).1.lane 0 i = (mul32 (a.lane 0 i) (b.lane 0 i)).1 % 2 ^ 32 := by
  refine ⟨?_, ?_, ?_⟩
  · rw [ceAddR, lane_mkBeat _ _ _ hi, Beat.val_plain ha has, Beat.val_plain hb hbs]
    rfl
  · rw [ceAddR, lane_mkBeat _ _ _ hi, Beat.val_plain ha has, Beat.val_plain hb hbs]
    rfl
  · rw [ceMulR, lane_mkBeat _ _ _ hi, laneProd_plain ha hb has hbs]
    rfl

/-- Settles O51: an operation issues unless its slot is squashed or its operands fault. -/
theorem computeElements : Obligations.ComputeElements := by
  have next {s t : State} (h : s = t) : (Host.Outcome.next s : Host.Outcome State Fault Refusal) = .next t := congrArg Host.Outcome.next h
  refine ⟨fun s t m r c hs hd => ?_, fun s m hs hd => ?_, fun s t m r hs hd => ?_, fun s t m i hs hd hab => ?_, fun s t m r hs => ?_,
    fun s r l hs hl => ?_, fun s => rfl, fun i s hp h => exec_squashed hp h, fun s u lat m b fl hu => ?_, fun a b i hi ha hb has hbs => ?_⟩
  · exact ⟨next (ceOp_issues hs hd ..), next (ceOp_issues hs hd ..), next (ceOp_issues hs hd ..), fun hg => cvt_issues hs hg hd m r c,
      next (ceOp_issues hs hd ..), next (ceOp_issues hs hd ..), next (ceOp_issues hs hd ..), next (ceOp_issues hs hd ..),
      next (ceOp_issues hs hd ..), next (ceOp_issues hs hd ..), next (ceOp_issues hs hd ..), next (ceOp_issues hs hd ..),
      next (ceOp_issues hs hd ..)⟩
  · exact ⟨next (ceOp_issues hs hd ..), next (ceOp_issues hs hd ..), next (ceOp_issues hs hd ..)⟩
  · exact ⟨next (ceOp_issues hs hd ..), next (ceOp_issues hs hd ..), next (ceOp_issues hs hd ..), next (ceOp_issues hs hd ..),
      next (ceOp_issues hs hd ..), next (ceOp_issues hs hd ..), next (ceOp_issues hs hd ..), next (ceOp_issues hs hd ..),
      next (ceOp_issues hs hd ..), fun hg => next (lgOp_issues hs hg hd ..)⟩
  · have hshift : domFault .none (s.opShift i) = none := by
      rw [State.opShift]
      cases hi : bit i 5 with
      | true => exact hd
      | false => exact hab hi
    exact ⟨next (ceOp_issues hs hshift ..), next (ceOp_issues hs hshift ..), next (ceOp_issues hs hshift ..)⟩
  · exact ⟨fun hd => ⟨next (ceOp_issues hs hd ..), next (ceOp_issues hs hd ..)⟩, fun hd => next (ceOp_issues hs hd ..),
      fun hd => ⟨next (ceOp_issues hs hd ..), next (ceOp_issues hs hd ..)⟩, fun hd => next (ceOp_issues hs hd ..),
      fun hd => next (ceOp_issues hs hd ..), fun hd => ⟨next (ceOp_issues hs hd ..), fun hg => ⟨next (lgOp_issues hs hg hd ..),
        next (lgOp_issues hs hg hd ..)⟩⟩⟩
  · refine ⟨fun m => next ?_, next (temit_always hs), fun hd => next (temit_asked hs hd), fun k base hk => sendToks_one hk base⟩
    rw [State.idx, hl]
    exact ceOp_issues hs rfl ..
  · subst hu
    refine ⟨ceIssue_starts s lat m b fl, fun h0 => h0 ▸ loadFlags_none s _, loadFlags_regions s _ fl, fun r l l' hl hl' => ?_⟩
    rw [hl']
    exact active_loadFlags hl fl
  · obtain ⟨hadd, hsub, hmul⟩ := ceArithmetic_plain hi ha hb has hbs
    exact ⟨hadd, hsub, hmul, rfl, rfl, rfl⟩

end Sys2Proof.Machine

/-! # Launches, rounds and the end of a team (R45 to R66, R119, R214, R363, R364, R408) -/

namespace Sys2Proof.Machine

/-! ## Launch windows (R51, R52, R59) -/

/-- A write of the window that does not reach the hub changes nothing. -/
theorem launch_unreached {s : State} (h : s.hostReaches (s.arg 0) = false) : exec .launch s = .next s :=
  congrArg Host.Outcome.next (if_neg (by rw [h, Bool.and_false]; exact Bool.false_ne_true))

/-- A write of the window that reaches the hub acts on its queue. -/
theorem launch_reached {s : State} (h : s.hostReaches (s.arg 0) = true) (hr : s.responds = true) :
    exec .launch s = .next (s.launchWrite (s.arg 0) (s.arg 1) (s.arg 2) (s.arg 3) (s.arg 4)) :=
  congrArg Host.Outcome.next (if_pos (by rw [h, hr]; rfl))

/-- A full record to an enabled queue with room is judged by R53. -/
theorem launchWrite_held {s : State} {f q data : Nat} (hq : q < 256) (hf : bits (s.queue q) 47 40 = f) (hen : bit (s.queue q) 34 = true)
    (hroom : s.held q < 64) (hcell : Launch.f ⟨q, s.dieNs 4, BitVec.ofNat 512 data, []⟩ 399 384 ≤ 8191) : s.launchWrite f q 0 64 data =
      (let l : Launch := ⟨q, s.dieNs 4, BitVec.ofNat 512 data, []⟩
      if l.bad (bits (s.queue q) 31 0) then s.launchStamp f (l.f 399 384) 0x03 (l.f 511 504) else { s with launches := s.launches ++ [l] }) := by
  rw [State.launchWrite]
  dsimp only
  rw [if_neg (by rw [hf]; omega), if_neg (by rw [hen]; simp; omega), if_neg (by omega)]

/-- A write to a full queue is counted. -/
theorem launchWrite_full {s : State} {f q data : Nat} (hq : q < 256) (hf : bits (s.queue q) 47 40 = f) (hfull : s.held q = 64)
    (hd : Tab.get 0 s.drops q < 0xFFFFFFFF) :
    s.launchWrite f q 0 64 data = { s with drops := Tab.set 0 s.drops q (Tab.get 0 s.drops q + 1) } := by
  have hmin : Nat.min 0xFFFFFFFF (Tab.get 0 s.drops q + 1) = Tab.get 0 s.drops q + 1 := Nat.min_eq_right hd
  rw [State.launchWrite]
  dsimp only
  rw [if_neg (by rw [hf]; omega), if_pos (Or.inr (Or.inr (Or.inr (Nat.le_of_eq hfull.symm)))), State.dropLaunch, Tab.mod, hmin]

/-! ## A round (R55 to R62) -/

/-- The configuration cache changes with a fetch, and what a full cache gives up. -/
theorem cachedN_only (n : Nat) : ∀ {s s' : State} {asid f va v : Nat}, s.cachedN asid f va n = some (v, s') →
    ∃ c g, s' = { s with ccache := c, fresh := g } := by
  have hput (s : State) (k : Nat) (b : BitVec 128) : ∃ c g, s.ccPut k b = { s with ccache := c, fresh := g } := by
    rw [State.ccPut]
    split
    · exact ⟨_, _, rfl⟩
    · exact ⟨_, _, rfl⟩
  have hone {s s' : State} {asid f va : Nat} {b : BitVec 128} (h : s.cached asid f va = some (b, s')) :
      ∃ c g, s' = { s with ccache := c, fresh := g } := by
    rw [State.cached] at h
    split at h
    · obtain ⟨_, rfl⟩ := Prod.mk.inj (Option.some.inj h)
      exact ⟨_, _, rfl⟩
    · split at h
      · obtain ⟨_, rfl⟩ := Prod.mk.inj (Option.some.inj h)
        exact hput ..
      · cases h
  induction n with
  | zero =>
    intro s s' asid f va v h
    obtain ⟨_, rfl⟩ := Prod.mk.inj (Option.some.inj h)
    exact ⟨_, _, rfl⟩
  | succ n ih =>
    intro s s' asid f va v h
    rw [State.cachedN] at h
    split at h
    · cases h
    · next b s1 h1 =>
      split at h
      · cases h
      · next r s2 h2 =>
        obtain ⟨_, rfl⟩ := Prod.mk.inj (Option.some.inj h)
        obtain ⟨c, g, rfl⟩ := hone h1
        obtain ⟨c', g', rfl⟩ := ih h2
        exact ⟨c', g', rfl⟩

/-- With no record held there is none to order. -/
theorem byAge_none {s : State} (h : s.launches = []) : s.byAge = [] := by
  rw [State.byAge, h]
  rfl

theorem byAge_one {s : State} {l : Launch} (h : s.launches = [l]) : s.byAge = [(0, l)] := by
  rw [State.byAge, h]
  rfl

/-- A round leaves the claims of records without claims. -/
theorem dropClaims_unclaimed {s : State} (h : ∀ l ∈ s.launches, l.claim = []) (m : Memory) (t : Nat) : s.dropClaims m t = s := by
  have hmap : s.launches.map (fun l => { l with claim := if s.met m l ∧ s.effPrio t l = 3 then l.claim.filter (bit (s.queue l.queue)) else [] })
      = s.launches := by
    refine (List.map_congr_left fun l hl => ?_).trans (List.map_id _)
    rw [h l hl, List.filter_nil, ite_self]
    exact congrArg (Launch.mk _ _ _) (h l hl).symm
  rw [State.dropClaims, hmap]

/-- Every reservation of the only record is its own. -/
theorem reservations_one {s : State} {l : Launch} (h : s.launches = [l]) (m : Memory) (t : Nat) : ∀ r ∈ s.reservations m t, r.2 = 0 := by
  intro r hr
  rw [State.reservations, byAge_one h, List.foldl_cons, List.foldl_nil] at hr
  split at hr
  · rw [List.nil_append] at hr
    obtain ⟨c, _, rfl⟩ := List.mem_map.mp hr
    rfl
  · cases hr

/-- The only record may count every free core of its mask. -/
theorem avail_one {s : State} {l : Launch} (h : s.launches = [l]) (hc : l.claim = []) {res : List (Nat × Nat)} (hres : ∀ r ∈ res, r.2 = 0) :
    s.avail res 0 l = s.freeCores.filter (bit (s.queue l.queue)) := by
  rw [State.avail]
  refine List.filter_congr fun c _ => ?_
  have hall : res.all (fun r => decide (r.1 ≠ c ∨ r.2 = 0)) = true := List.all_eq_true.mpr fun r hr => decide_eq_true (Or.inr (hres r hr))
  rw [hall, hc, h]
  simp

/-- The only record, if eligible, is the one that the round takes. -/
theorem best_one {s : State} {l : Launch} (h : s.launches = [l]) {m : Memory} {t : Nat} {res : List (Nat × Nat)} (hm : s.met m l = true)
    (hn : l.need ≤ (s.avail res 0 l).length) : s.best m t res = some (0, s.effPrio t l) := by
  have hprio : s.effPrio t l ≤ 3 := Nat.min_le_left ..
  have hok : s.byAge.filter (fun x => s.met m x.2 && decide (x.2.need ≤ (s.avail res x.1 x.2).length)) = [(0, l)] := by
    rw [byAge_one h]
    exact List.filter_cons_of_pos (by rw [hm, decide_eq_true hn]; rfl)
  have he : s.effPrio t l = 0 ∨ s.effPrio t l = 1 ∨ s.effPrio t l = 2 ∨ s.effPrio t l = 3 := by omega
  rw [State.best, hok]
  rcases he with he | he | he | he <;> simp [he]

theorem best_none {s : State} (h : s.launches = []) (m : Memory) (t : Nat) (res : List (Nat × Nat)) : s.best m t res = none := by
  rw [State.best, byAge_none h]
  rfl

/-- A team that is not switched out does not resume. -/
theorem resumable_none {s : State} (h : ∀ tm ∈ s.teams, tm.st ≠ .out) (res : List (Nat × Nat)) : s.resumable res = none := by
  have hins (f : Nat × Team → Nat × Team → Bool) (a : Nat × Team) : ∀ (l : List (Nat × Team)), ∀ x ∈ insTeam f a l, x = a ∨ x ∈ l := by
    intro l
    induction l with
    | nil => exact fun x hx => Or.inl (List.mem_singleton.mp hx)
    | cons b t ih =>
      intro x hx
      rw [insTeam] at hx
      split at hx
      · exact List.mem_cons.mp hx
      · obtain hb | ht := List.mem_cons.mp hx
        · exact Or.inr (List.mem_cons.mpr (Or.inl hb))
        · exact (ih x ht).imp_right (List.mem_cons_of_mem b)
  have hby : ∀ l : List (Nat × Team), ∀ x ∈ l.foldr (insTeam Team.before) [], x ∈ l := by
    intro l
    induction l with
    | nil => exact fun x hx => hx
    | cons a l ih => exact fun x hx => List.mem_cons.mpr ((hins _ a _ x hx).imp_right (ih x))
  rw [State.resumable, Option.map_eq_none_iff, List.find?_eq_none]
  intro x hx
  have hmem := (List.of_mem_zip (hby _ x hx)).2
  rw [Bool.and_eq_true, Bool.and_eq_true, decide_eq_true_eq]
  exact fun hp => h x.2 hmem hp.1.1

/-- A round with no record held and no team switched out ends. -/
theorem roundLoop_none {s : State} (h : s.launches = []) (ht : ∀ tm ∈ s.teams, tm.st ≠ .out) (m : Memory) (t : Nat) (n : Nat) :
    State.roundLoop m t n s = s := by
  cases n with
  | zero => rfl
  | succ n =>
    rw [State.roundLoop]
    dsimp only
    rw [dropClaims_unclaimed (by rw [h]; exact fun _ hl => absurd hl List.not_mem_nil), best_none h, resumable_none ht]

/-- A round takes the only record if it is eligible. -/
theorem roundLoop_one {s : State} {l : Launch} (h : s.launches = [l]) (hc : l.claim = []) (ht : s.teams = []) {m : Memory} {t : Nat}
    (hm : s.met m l = true) (hn : l.need ≤ (s.freeCores.filter (bit (s.queue l.queue))).length) (n : Nat) : State.roundLoop m t (n + 1) s =
      State.roundLoop m t n (s.dispatch 0 (s.effPrio t l) t ((s.freeCores.filter (bit (s.queue l.queue))).take l.need)) := by
  have havail := avail_one h hc (reservations_one h m t)
  have hrun : s.launches[0]? = some l := by rw [h]; rfl
  rw [State.roundLoop]
  dsimp only
  rw [dropClaims_unclaimed (by rw [h]; exact fun x hx => (List.mem_singleton.mp hx) ▸ hc), best_one h hm (by rw [havail]; exact hn),
    resumable_none (by rw [ht]; exact fun _ hx => absurd hx List.not_mem_nil)]
  by_cases h3 : s.effPrio t l = 3
  · rw [h3]
    refine congrArg (State.roundLoop m t n) ?_
    rw [hrun]
    dsimp only
    rw [havail]
  · split
    · next i hi => exact absurd (Prod.mk.inj (Option.some.inj hi)).2 h3
    · dsimp only
      rw [hrun]
      dsimp only
      rw [havail]

/-! ## Cores set one after the other -/

/-- Cores set by a row of pairs, each with its own. -/
def State.setCores (s : State) (g : Nat × Nat → Core) (l : List (Nat × Nat)) : State := l.foldl (fun (s : State) x => s.setCore x.2 (g x)) s

theorem setCores_only (g : Nat × Nat → Core) (l : List (Nat × Nat)) : ∀ s : State, ∃ cs, s.setCores g l = { s with cores := cs } := by
  induction l with
  | nil => exact fun s => ⟨_, rfl⟩
  | cons x l ih =>
    intro s
    obtain ⟨cs, h⟩ := ih (s.setCore x.2 (g x))
    exact ⟨cs, h⟩

theorem core_setCores_other (g : Nat × Nat → Core) {d : Nat} (l : List (Nat × Nat)) : ∀ s : State, (∀ x ∈ l, x.2 ≠ d) →
    (s.setCores g l).core d = s.core d := by
  induction l with
  | nil => exact fun s _ => rfl
  | cons x l ih =>
    intro s h
    exact (ih _ fun y hy => h y (List.mem_cons_of_mem x hy)).trans (core_setCore_other s x.2 d _ (h x List.mem_cons_self).symm)

/-- Of cores set once each, every one stands as set. -/
theorem core_setCores (g : Nat × Nat → Core) {x : Nat × Nat} (l : List (Nat × Nat)) : ∀ s : State, (l.map Prod.snd).Nodup → x ∈ l →
    x.2 < s.cores.length → (s.setCores g l).core x.2 = g x := by
  induction l with
  | nil => exact fun s _ hx => absurd hx List.not_mem_nil
  | cons y l ih =>
    intro s hnd hx hlt
    obtain ⟨hy, hnd'⟩ := List.nodup_cons.mp hnd
    obtain rfl | hx := List.mem_cons.mp hx
    · refine (core_setCores_other g l _ fun z hz he => hy (List.mem_map.mpr ⟨z, hz, he⟩)).trans (core_setCore_same s x.2 _ hlt)
    · exact ih _ hnd' hx (by rw [setCore_cores, List.length_set]; exact hlt)

/-! ## Dispatch (R59 to R62) -/

/-- A core at entry runs at the entry point as the member that it is. -/
theorem entry_starts (l : Launch) (h team m regbase : Nat) : (Core.entry l h team m regbase).run = .running ∧
    (Core.entry l h team m regbase).member = m ∧ (Core.entry l h team m regbase).pc = BitVec.ofNat 64 (l.f 63 0 + bits h 63 0) := by
  rw [Core.entry]
  dsimp only
  obtain ⟨x, d, hx⟩ := Core.onlyX_zeroX { Core.empty with
    pc := BitVec.ofNat 64 (l.f 63 0 + bits h 63 0), regbase := BitVec.ofNat 64 regbase, k := l.f 489 488, ax := (bits h 175 168 + 7) / 8 * 8
    av := (bits h 167 160 + 7) / 8 * 8, lx := (bits h 175 168 + 7) / 8 * 8, lv := (bits h 167 160 + 7) / 8 * 8, run := .running
    team := some team, member := m } [0, 1, 2, 3] 0 ((bits h 175 168 + 7) / 8 * 8)
  rw [hx]
  obtain ⟨v, e, hv⟩ := Core.onlyV_zeroV _ [0, 1, 2, 3] 0 ((bits h 167 160 + 7) / 8 * 8)
  rw [hv]
  split
  · exact ⟨rfl, rfl, rfl⟩
  · obtain ⟨y, f, hy⟩ := ((((Core.onlyX_wx _ 0 1 (BitVec.ofNat 64 (l.f 127 64))).trans (Core.onlyX_wx _ 0 2 (BitVec.ofNat 64 m))).trans
      (Core.onlyX_wx _ 0 3 (BitVec.ofNat 64 l.need))).trans (Core.onlyX_wx _ 0 4 (BitVec.ofNat 64 (l.f 511 504)))).trans
      (Core.onlyX_wx _ 0 5 (BitVec.ofNat 64 (l.f 489 488)))
    rw [hy]
    exact ⟨rfl, rfl, rfl⟩

/-- A record whose header passes becomes a running team on its cores. -/
theorem dispatch_enters {s s1 : State} {l : Launch} {e t h : Nat} {cores : List Nat} (hl : s.launches = [l])
    (hfetch : ({ s with launches := [] } : State).cachedN (bits (s.queue l.queue) 59 48) (s.launchFunc l) (l.f 63 0) 4 = some (h, s1))
    (hok : headerOk h (l.f 489 488) (l.f 63 0) = true) (ht : s.teams = []) (hnd : cores.Nodup) :
    ∃ tm, (s.dispatch 0 e t cores).launches = [] ∧ (s.dispatch 0 e t cores).teams = [tm] ∧ tm.cores = cores ∧ tm.func = s.launchFunc l ∧
      tm.st = .running ∧ ∀ i < cores.length, cores.getD i 0 < s.cores.length →
        ((s.dispatch 0 e t cores).core (cores.getD i 0)).run = .running ∧ ((s.dispatch 0 e t cores).core (cores.getD i 0)).member = i ∧
        ((s.dispatch 0 e t cores).core (cores.getD i 0)).pc = BitVec.ofNat 64 (l.f 63 0 + bits h 63 0) := by
  obtain ⟨c, g, rfl⟩ := cachedN_only 4 hfetch
  obtain ⟨tm, htm, hcores, hfunc, hst⟩ : ∃ tm, tm = Team.make { s with launches := [], ccache := c, fresh := g } l cores h e t ∧ tm.cores = cores ∧
    tm.func = s.launchFunc l ∧ tm.st = .running := ⟨_, rfl, rfl, rfl, rfl⟩
  obtain ⟨f, hf, hd⟩ : ∃ f : Nat × Nat → Core, (∀ x, ∃ team reg, f x = Core.entry l h team x.1 reg) ∧ s.dispatch 0 e t cores =
      ({ s with launches := [], ccache := c, fresh := g, teams := s.teams ++ [tm] } : State).setCores f ((List.range cores.length).zip cores) := by
    have herase : s.launches.eraseIdx 0 = [] := by rw [hl]; rfl
    have hhead : s.launches[0]? = some l := by rw [hl]; rfl
    have hfetch' : ({ s with launches := [] } : State).cachedN (bits (({ s with launches := [] } : State).queue l.queue) 59 48)
      (({ s with launches := [] } : State).launchFunc l) (l.f 63 0) 4 = _ := hfetch
    rw [State.dispatch, hhead]
    dsimp only
    rw [herase, hfetch']
    dsimp only
    rw [if_pos hok, htm]
    exact ⟨_, fun x => ⟨_, _, rfl⟩, rfl⟩
  obtain ⟨cs, hcs⟩ := setCores_only f ((List.range cores.length).zip cores)
    { s with launches := [], ccache := c, fresh := g, teams := s.teams ++ [tm] }
  refine ⟨tm, by rw [hd, hcs], by rw [hd, hcs, ht]; rfl, hcores, hfunc, hst, fun i hi hlt => ?_⟩
  have hmem : (i, cores.getD i 0) ∈ (List.range cores.length).zip cores := by
    refine List.mem_iff_getElem?.mpr ⟨i, ?_⟩
    rw [List.getElem?_zip_eq_some]
    exact ⟨List.getElem?_range hi, by rw [List.getD_eq_getElem?_getD, List.getElem?_eq_getElem hi]; rfl⟩
  have hsnd : (((List.range cores.length).zip cores).map Prod.snd).Nodup := by
    rw [List.map_snd_zip (Nat.le_of_eq List.length_range.symm)]
    exact hnd
  have hcore := core_setCores f _
    { s with launches := [], ccache := c, fresh := g, teams := s.teams ++ [tm] } hsnd hmem hlt
  obtain ⟨team, reg, hentry⟩ := hf (i, cores.getD i 0)
  rw [hd, hcore, hentry]
  exact entry_starts ..

/-- The number of free cores is bounded by their list, which names each once. -/
theorem freeCores_nodup (s : State) : s.freeCores.Nodup := List.nodup_range.filter _

/-- A round that is held takes its loop and then looks at the records left. -/
theorem dispatchRound_held {s : State} (h : s.dieNs 4 % 250 = 0) : s.dispatchRound =
    (let u := State.roundLoop s.mem (s.dieNs 4) (s.launches.length + s.teams.length + 1) { s with qcfg := s.qnew }
    u.byAge.foldl (fun (v : State) x => v.preemptFor s.mem (s.dieNs 4) x.1) u) :=
  if_neg (not_not_intro h)

/-- A round with nothing to do takes the configuration. -/
theorem dispatchRound_idle {s : State} (h : s.dieNs 4 % 250 = 0) (hl : s.launches = []) (ht : s.teams = []) :
    s.dispatchRound = { s with qcfg := s.qnew } := by
  have hl' : ({ s with qcfg := s.qnew } : State).launches = [] := hl
  rw [dispatchRound_held h]
  dsimp only
  rw [roundLoop_none hl' (fun _ hx => absurd (ht ▸ hx) List.not_mem_nil), byAge_none hl']
  rfl

/-- A round with one eligible record dispatches it on the lowest of its free cores. -/
theorem dispatchRound_one {s s0 s1 : State} {l : Launch} {h : Nat} {cs : List Nat} (hround : s.dieNs 4 % 250 = 0) (hl : s.launches = [l])
    (ht : s.teams = []) (hc : l.claim = []) (h0 : s0 = { s with qcfg := s.qnew }) (hm : s0.met s.mem l = true)
    (hcs : cs = s0.freeCores.filter (bit (s0.queue l.queue))) (hn : l.need ≤ cs.length)
    (hfetch : ({ s0 with launches := [] } : State).cachedN (bits (s0.queue l.queue) 59 48) (s0.launchFunc l) (l.f 63 0) 4 = some (h, s1))
    (hok : headerOk h (l.f 489 488) (l.f 63 0) = true) :
    ∃ tm, s.dispatchRound.launches = [] ∧ s.dispatchRound.teams = [tm] ∧ tm.cores = cs.take l.need ∧ tm.func = s0.launchFunc l ∧
      tm.st = .running ∧ ∀ i < l.need, cs.getD i 0 < s.cores.length → (s.dispatchRound.core (cs.getD i 0)).run = .running ∧
        (s.dispatchRound.core (cs.getD i 0)).member = i ∧
        (s.dispatchRound.core (cs.getD i 0)).pc = BitVec.ofNat 64 (l.f 63 0 + bits h 63 0) := by
  have hl0 : s0.launches = [l] := by rw [h0]; exact hl
  have ht0 : s0.teams = [] := by rw [h0]; exact ht
  have hcores : s0.cores = s.cores := by rw [h0]
  have hnd : (cs.take l.need).Nodup := (hcs ▸ (freeCores_nodup s0).filter _ : cs.Nodup).sublist (List.take_sublist ..)
  obtain ⟨tm, hlaunch, hteams, htc, hfunc, hst, hin⟩ :=
    dispatch_enters (e := s0.effPrio (s.dieNs 4) l) (t := s.dieNs 4) hl0 hfetch hok ht0 hnd
  have hround' : s.dispatchRound = s0.dispatch 0 (s0.effPrio (s.dieNs 4) l) (s.dieNs 4) (cs.take l.need) := by
    have hlen : s.launches.length + s.teams.length + 1 = 1 + 1 := by rw [hl, ht]; rfl
    rw [dispatchRound_held hround, hlen, ← h0]
    dsimp only
    rw [roundLoop_one hl0 hc ht0 hm (hcs ▸ hn), ← hcs, roundLoop_none hlaunch (by
      rw [hteams]
      intro x hx
      rw [List.mem_singleton.mp hx, hst]
      decide), byAge_none hlaunch]
    rfl
  rw [hround']
  refine ⟨tm, hlaunch, hteams, htc, hfunc, hst, fun i hi hlt => ?_⟩
  have hget : (cs.take l.need).getD i 0 = cs.getD i 0 := by
    rw [List.getD_eq_getElem?_getD, List.getElem?_take_of_lt hi, ← List.getD_eq_getElem?_getD]
  rw [← hget]
  exact hin i (by rw [List.length_take]; omega) (by rw [hget, hcores]; exact hlt)

/-! ## Switching out and in (R64, R66, R120) -/

/-- Cores emptied one after the other are empty. -/
theorem core_foldl_empty {d : Nat} (l : List Nat) : ∀ s : State, d ∈ l ∨ s.core d = Core.empty →
    (l.foldl (fun (s : State) c => s.setCore c Core.empty) s).core d = Core.empty := by
  induction l with
  | nil => exact fun s h => h.resolve_left List.not_mem_nil
  | cons c l ih =>
    intro s h
    refine ih _ ?_
    by_cases hd : d = c
    · subst hd
      refine Or.inr ?_
      show (s.setCore d Core.empty).core d = Core.empty
      by_cases hlt : d < s.cores.length
      · exact core_setCore_same s d _ hlt
      · rw [setCore_beyond _ _ _ (Nat.le_of_not_lt hlt), State.core, getD_of_length_le (Nat.le_of_not_lt hlt)]
    · rw [core_setCore_other s c d _ hd]
      exact h.imp_left fun hm => (List.mem_cons.mp hm).resolve_left hd

theorem foldl_setCore_only (v : Core) (l : List Nat) : ∀ s : State,
    ∃ cs, l.foldl (fun (s : State) c => s.setCore c v) s = { s with cores := cs } := by
  induction l with
  | nil => exact fun s => ⟨_, rfl⟩
  | cons c l ih =>
    intro s
    obtain ⟨cs, h⟩ := ih (s.setCore c v)
    exact ⟨cs, h⟩

theorem team_modTeam_some {s : State} {t : Nat} {tm : Team} (h : s.team? t = some tm) (f : Team → Team) : (s.modTeam t f).team? t = some (f tm) := by
  rw [team_modTeam_same, h]
  rfl

theorem movingTeam_of {s : State} {c t : Nat} {tm : Team} (hrun : (s.core c).run = .switchedOut) (hteam : (s.core c).team = some t)
    (htm : s.team? t = some tm) : s.movingTeam c tm.st = some t := by
  rw [State.movingTeam, if_pos hrun, hteam, Option.bind_some, htm]
  exact if_pos rfl

/-- The last save releases the cores of its team. -/
theorem switchedOutNow_last {s : State} {c t : Nat} {tm : Team} (hrun : (s.core c).run = .switchedOut) (hteam : (s.core c).team = some t)
    (htm : s.team? t = some tm) (hst : tm.st = .leaving)
    (hall : tm.cores.all (fun d => decide ((s.core d).run = .switchedOut) && !s.moving t d) = true) :
    (∀ d ∈ tm.cores, (s.switchedOutNow c).core d = Core.empty) ∧
      (s.switchedOutNow c).team? t = some { tm with st := .out, ran := tm.ran + (s.ns - tm.since) } := by
  have hmove : s.movingTeam c .leaving = some t := hst ▸ movingTeam_of hrun hteam htm
  have hnow : s.switchedOutNow c = tm.cores.foldl (fun (s : State) c => s.setCore c Core.empty)
      (s.modTeam t (fun tm => { tm with st := .out, ran := tm.ran + (s.ns - tm.since) })) := by
    rw [State.switchedOutNow, hmove]
    dsimp only
    rw [htm]
    exact if_pos hall
  rw [hnow]
  refine ⟨fun d hd => core_foldl_empty _ _ (Or.inl hd), ?_⟩
  obtain ⟨cs, hcs⟩ := foldl_setCore_only Core.empty tm.cores (s.modTeam t (fun tm => { tm with st := .out, ran := tm.ran + (s.ns - tm.since) }))
  rw [hcs]
  exact team_modTeam_some htm _

/-- What a switch-in does to the tiles of a core. -/
theorem tilesBack_only (s : State) (t c : Nat) : ∃ x, s.tilesBack t c = { s with xtiles := x } := by
  have hfold : ∀ (l : List Nat) (s : State), ∃ x, l.foldl (fun (s : State) i => if (s.xtile (32 * c + i)).away = some t then
      s.modTile (32 * c + i) (fun x => { x with away := none }) else s) s = { s with xtiles := x } := by
    intro l
    induction l with
    | nil => exact fun s => ⟨_, rfl⟩
    | cons i l ih =>
      intro s
      obtain ⟨x, h⟩ := ih (if (s.xtile (32 * c + i)).away = some t then s.modTile (32 * c + i) (fun x => { x with away := none }) else s)
      rw [List.foldl_cons, h]
      split
      · exact ⟨_, rfl⟩
      · exact ⟨_, rfl⟩
  obtain ⟨x, h⟩ := hfold (List.range 32) s
  rw [State.tilesBack, h]
  exact ⟨_, rfl⟩

/-- The last fill lets a team of one member go on, with nothing held for it and no region. -/
theorem restoredNow_last {s : State} {c t : Nat} {tm : Team} (hlt : c < s.cores.length) (hrun : (s.core c).run = .switchedOut)
    (hteam : (s.core c).team = some t) (htm : s.team? t = some tm) (hst : tm.st = .returning) (hcores : tm.cores = [c])
    (hmoving : s.moving t c = false) (hheld : tm.held = []) (hreg : s.regions = []) :
    (s.restoredNow c).core c = tm.saved.getD 0 Core.empty ∧
      ∃ m, (s.restoredNow c).team? t = some m ∧ m.st = .running ∧ m.since = s.ns := by
  have hmove : s.movingTeam c .returning = some t := hst ▸ movingTeam_of hrun hteam htm
  have hnone : ¬ [c].any (s.moving t) = true := by
    rw [List.any_cons, hmoving]
    exact Bool.false_ne_true
  obtain ⟨a, hba, hca, hta, hra, hna⟩ : ∃ a : State, (s.setCore c (tm.saved.getD 0 Core.empty)).tilesBack t c = a ∧
      a.core c = tm.saved.getD 0 Core.empty ∧ a.team? t = some tm ∧ a.regions = [] ∧ a.ns = s.ns := by
    obtain ⟨x, hback⟩ := tilesBack_only (s.setCore c (tm.saved.getD 0 Core.empty)) t c
    exact ⟨_, hback, core_setCore_same s c _ hlt, htm, hreg, rfl⟩
  obtain ⟨b, hbb, hcb, htb, hrb, hnb⟩ : ∃ b : State, a.flushLate t = b ∧ b.core c = a.core c ∧ b.team? t = some { tm with late := [] } ∧
      b.regions = [] ∧ b.ns = a.ns := by
    refine ⟨_, rfl, ?_⟩
    rw [State.flushLate, hta]
    exact ⟨rfl, team_modTeam_some (s := { a with mem := _ }) hta _, hra, rfl⟩
  rw [State.restoredNow, hmove]
  dsimp only
  rw [htm]
  dsimp only
  rw [hcores, if_neg hnone, hheld]
  simp only [List.length_singleton, List.foldl_nil, show (List.range 1).zip [c] = [(0, c)] from rfl, List.foldl_cons, hba, hbb, modTeam_regions,
    hrb, List.length_nil, List.range_zero, List.filter_nil]
  refine ⟨hcb.trans hca, _, team_modTeam_some htb _, rfl, hnb.trans hna⟩

/-! ## The end of a team (R54, R214, R364) -/

/-- The cores of a list that are team `t`'s are changed, one after the other. -/
def State.onMembers (s : State) (t : Nat) (l : List Nat) (f : Core → Core) : State :=
  l.foldl (fun (s : State) c => if (s.core c).team = some t then s.modCore c f else s) s

theorem onMembers_only (t : Nat) (f : Core → Core) (l : List Nat) : ∀ s : State, ∃ cs, s.onMembers t l f = { s with cores := cs } := by
  induction l with
  | nil => exact fun s => ⟨_, rfl⟩
  | cons c l ih =>
    intro s
    obtain ⟨cs, h⟩ := ih (if (s.core c).team = some t then s.modCore c f else s)
    refine ⟨cs, h.trans ?_⟩
    split <;> rfl

/-- What a core of the team keeps through the change, every core of the list keeps. -/
theorem onMembers_core (t : Nat) (f : Core → Core) (p : Core → Prop) (d : Nat) (hstep : ∀ k, p k → p (f k)) (l : List Nat) : ∀ s : State,
    p (s.core d) → p ((s.onMembers t l f).core d) := by
  induction l with
  | nil => exact fun s h => h
  | cons c l ih =>
    intro s h
    refine ih (if (s.core c).team = some t then s.modCore c f else s) ?_
    split
    · by_cases hd : d = c
      · subst hd
        by_cases hlt : d < s.cores.length
        · rw [core_modCore_same s d f hlt]
          exact hstep _ h
        · rw [State.modCore, setCore_beyond _ _ _ (Nat.le_of_not_lt hlt)]
          exact h
      · rw [core_modCore_other s c d f hd]
        exact h
    · exact h

/-- A member on its core is emptied. -/
theorem onMembers_empty (t : Nat) {d : Nat} (l : List Nat) : ∀ s : State, d ∈ l → (s.core d).team = some t →
    (s.onMembers t l (fun _ => Core.empty)).core d = Core.empty := by
  induction l with
  | nil => exact fun s hd => absurd hd List.not_mem_nil
  | cons c l ih =>
    intro s hd hteam
    by_cases hc : d = c
    · subst hc
      refine onMembers_core t _ (· = Core.empty) d (fun _ _ => rfl) l _ ?_
      show (if (s.core d).team = some t then s.setCore d Core.empty else s).core d = Core.empty
      rw [if_pos hteam]
      by_cases hlt : d < s.cores.length
      · exact core_setCore_same s d _ hlt
      · rw [setCore_beyond _ _ _ (Nat.le_of_not_lt hlt), State.core, getD_of_length_le (Nat.le_of_not_lt hlt)]
    · refine ih (if (s.core c).team = some t then s.modCore c (fun _ => Core.empty) else s) ((List.mem_cons.mp hd).resolve_left hc) ?_
      split
      · rw [core_modCore_other s c d _ hc]
        exact hteam
      · exact hteam

/-- The units that a team drove are emptied, and their accumulators. -/
theorem emptyUnits_only (s : State) (t : Nat) : ∃ x m, s.emptyUnits t = { s with xtiles := x, mem := m } := by
  rw [State.emptyUnits]
  generalize s.xtiles.filter _ = l
  induction l generalizing s with
  | nil => exact ⟨_, _, rfl⟩
  | cons x l ih =>
    obtain ⟨y, m, h⟩ := ih _
    rw [List.foldl_cons, h]
    exact ⟨_, _, rfl⟩

/-- With no function-level reset under way the end of a team ends none. -/
theorem flrDone_none {s : State} (h : s.flr = []) (f : Nat) : s.flrDone f = s := if_neg fun hp => absurd (h ▸ hp.1) List.not_mem_nil

theorem stampWord_lt (st seq time : Nat) : stampWord st seq time < 2 ^ 64 := by
  rw [stampWord]
  omega

/-- A stamp in a cell changes memory and interrupts alone. -/
theorem launchStamp_rest (s : State) (f cell st seq : Nat) :
    ∃ a b m w, s.launchStamp f cell st seq = { s with mem := w, intst := a, inten := b, msix := m } := by
  obtain ⟨a, b, m, h⟩ := launchStamp_only s f cell st seq
  exact ⟨a, b, m, _, h⟩

theorem emptied_eq (s : State) (t : Nat) (l : List Nat) :
    l.foldl (fun (s : State) c => if (s.core c).team = some t then s.setCore c Core.empty else s) s = s.onMembers t l (fun _ => Core.empty) := rfl

/-- The end of a team with no function-level reset under way, part by part. -/
theorem finishTeam_eq {s : State} (hflr : s.flr = []) (t : Nat) (tm : Team) (status : Nat) : ∃ x m, s.finishTeam t tm status =
    ((({ s with xtiles := x, mem := m } : State).onMembers t tm.cores (fun _ => Core.empty)).modTeam t
      (fun tm => { tm with st := .ended, saved := [], late := [], held := [] })).launchStamp tm.func tm.csidx status tm.seq := by
  obtain ⟨x, m, hunits⟩ := emptyUnits_only s t
  obtain ⟨cs, hcs⟩ := onMembers_only t (fun _ => Core.empty) tm.cores { s with xtiles := x, mem := m }
  refine ⟨x, m, ?_⟩
  rw [State.finishTeam, hunits]
  simp only [emptied_eq]
  obtain ⟨i, j, k, w, hst⟩ := launchStamp_rest ((({ s with xtiles := x, mem := m } : State).onMembers t tm.cores (fun _ => Core.empty)).modTeam t
    (fun tm => { tm with st := .ended, saved := [], late := [], held := [] })) tm.func tm.csidx status tm.seq
  refine flrDone_none ?_ _
  rw [hst]
  dsimp only
  rw [modTeam_flr, hcs]
  exact hflr

/-- A team that is over has left its cores, and its stamp stands. -/
theorem finishTeam_ends {s : State} {t : Nat} {tm : Team} (htm : s.team? t = some tm) (hflr : s.flr = []) (tm' : Team) (status : Nat) :
    ((s.finishTeam t tm' status).team? t).map Team.st = some .ended ∧
      (∀ c ∈ tm'.cores, (s.core c).team = some t → (s.finishTeam t tm' status).core c = Core.empty) ∧
      (s.finishTeam t tm' status).rvq = s.rvq ∧
      (s.finishTeam t tm' status).mem.readN (cellAddr tm'.func tm'.csidx) 8 = stampWord status tm'.seq (s.dieNs 4) := by
  obtain ⟨x, m, hfin⟩ := finishTeam_eq hflr t tm' status
  obtain ⟨cs, hcs⟩ := onMembers_only t (fun _ => Core.empty) tm'.cores { s with xtiles := x, mem := m }
  have hempty := fun c hc hteam => onMembers_empty t (d := c) tm'.cores { s with xtiles := x, mem := m } hc hteam
  have htm' : (({ s with xtiles := x, mem := m } : State).onMembers t tm'.cores (fun _ => Core.empty)).team? t = some tm := by
    rw [hcs]
    exact htm
  have hns : (({ s with xtiles := x, mem := m } : State).onMembers t tm'.cores (fun _ => Core.empty)).dieNs 4 = s.dieNs 4 := by
    rw [hcs]
    rfl
  have hrvq : (({ s with xtiles := x, mem := m } : State).onMembers t tm'.cores (fun _ => Core.empty)).rvq = s.rvq := by rw [hcs]
  generalize ({ s with xtiles := x, mem := m } : State).onMembers t tm'.cores (fun _ => Core.empty) = u at hfin hempty htm' hns hrvq
  obtain ⟨i, j, k, w, hst⟩ := launchStamp_rest (u.modTeam t (fun tm => { tm with st := .ended, saved := [], late := [], held := [] }))
    tm'.func tm'.csidx status tm'.seq
  have hstamp : ((u.modTeam t (fun tm => { tm with st := .ended, saved := [], late := [], held := [] })).launchStamp tm'.func tm'.csidx status
      tm'.seq).mem.readN (cellAddr tm'.func tm'.csidx) 8 = stampWord status tm'.seq (u.dieNs 4) :=
    (Memory.readN_writeN ..).trans (Nat.mod_eq_of_lt (Nat.lt_of_lt_of_le (stampWord_lt ..) (by decide)))
  rw [hns] at hstamp
  rw [hfin]
  refine ⟨?_, ?_, ?_, hstamp⟩
  · rw [hst]
    exact congrArg (Option.map Team.st) (team_modTeam_some htm' _)
  · rw [hst]
    exact hempty
  · rw [hst]
    exact hrvq

/-- With no region left a team that has exited and is not busy is over. -/
theorem completion_exited {s : State} {t : Nat} {tm : Team} (htm : s.team? t = some tm) (hst : tm.st = .running) (hend : tm.ending = none)
    (hreg : s.regions = []) (hbusy : s.teamBusy t = false)
    (hall : tm.cores.all (fun c => decide ((s.core c).run = .exited) && (s.core c).pend.isEmpty && (s.core c).trapq.isEmpty) = true) :
    s.completion t = s.finishTeam t tm (if tm.failed then 0x04 else 0x01) := by
  have hrelease : s.releaseTeam t = s := by
    rw [State.releaseTeam, hreg]
    rfl
  have hloads : s.teamLoads t = false := by
    rw [State.teamLoads, hreg]
    rfl
  rw [State.completion, htm]
  dsimp only
  rw [hend, if_neg (by rw [hst]; decide)]
  dsimp only
  rw [if_neg (by rw [hst]; exact fun h => h.elim (absurd rfl) (absurd hall)), hrelease, if_neg (by rw [hbusy, hloads]; decide)]

/-- With nothing of it left a team that is being ended is over. -/
theorem completion_ending {s : State} {t st code : Nat} {tm : Team} (htm : s.team? t = some tm) (hst : tm.st ≠ .ended)
    (hend : tm.ending = some (st, code)) (hbusy : s.teamBusy t = false) : s.completion t = s.finishTeam t tm st := by
  rw [State.completion, htm]
  dsimp only
  rw [if_neg hst, hend]
  exact if_neg (by rw [hbusy]; exact Bool.false_ne_true)

theorem with_riders {s : State} {a b : List Rider} {c : List Strm} (ha : s.riders = a) (hb : s.waiting = b) (hc : s.streams = c) :
    ({ s with riders := a, waiting := b, streams := c } : State) = s := by
  subst ha hb hc
  rfl

theorem with_xforms {s : State} {x : Tab (List Xform)} (h : s.xforms = x) : ({ s with xforms := x } : State) = s := by
  subst h
  rfl

theorem withdrawRiders_none {s : State} (hr : s.riders = []) (hw : s.waiting = []) (hs : s.streams = []) (t : Nat) : s.withdrawRiders t = s := by
  rw [State.withdrawRiders, hw, hr]
  simp only [List.filter_nil, List.map_nil, List.foldl_nil, hs]
  exact with_riders hr hw hs

theorem dropTurns_none {s : State} (hs : s.seqs = []) (t : Nat) : s.dropTurns t = s := by
  rw [State.dropTurns, hs]
  rfl

theorem discardLoads_none {s : State} (hr : s.regions = []) (t : Nat) : s.discardLoads t = s := by
  rw [State.discardLoads, hr]
  rfl

theorem clearUnits_none {s : State} (hx : s.xtiles = []) (hf : s.xforms = []) (t : Nat) : s.clearUnits t = s := by
  rw [State.clearUnits, hx]
  simp only [List.foldl_nil, hf, List.map_nil, List.filter_nil]
  exact with_xforms hf

/-- A member that the management core has stopped. -/
def Core.taken (k : Core) : Core := { k with run := .stopped, pend := [], trapq := [], hold := Held.none, arrs := [], taking := none }

theorem taken_eq (s : State) (t : Nat) (l : List Nat) : l.foldl (fun (s : State) c => if (s.core c).team = some t then
    s.modCore c (fun k => { k with run := .stopped, pend := [], trapq := [], hold := Held.none, arrs := [], taking := none }) else s) s
      = s.onMembers t l Core.taken := rfl

/-- A team taken in hand that has nothing left outside its cores is over at once (R364). -/
theorem teamEnd_alone {s : State} {t st code : Nat} {tm : Team} (htm : s.team? t = some tm) (hst : tm.st = .running)
    (hend : tm.ending = some (st, code)) (hreg : s.regions = []) (hr : s.riders = []) (hw : s.waiting = []) (hstr : s.streams = [])
    (hseq : s.seqs = []) (hx : s.xtiles = []) (hf : s.xforms = []) (hflr : s.flr = [])
    (hoar : s.oars.all (fun o => (o.unacked ++ o.sendq).all (fun p => decide (p.team ≠ some t))) = true) :
    ((s.teamEnd t).team? t).map Team.st = some .ended ∧ (∀ c ∈ tm.cores, (s.core c).team = some t → (s.teamEnd t).core c = Core.empty) ∧
      (∀ q ∈ (s.teamEnd t).rvq, q.team ≠ t) ∧
      (s.teamEnd t).mem.readN (cellAddr tm.func tm.csidx) 8 = stampWord st tm.seq (s.dieNs 4) := by
  obtain ⟨cs, hcs⟩ := onMembers_only t Core.taken tm.cores s
  have hteams := onMembers_core t Core.taken (fun k => k.team = some t) (hstep := fun k h => h) (l := tm.cores) (s := s)
  obtain ⟨u, hu, hcore, htu, hru, hnu, hfu, hbusy⟩ : ∃ u : State, s.teamEnd t = u.completion t ∧ u.cores = (s.onMembers t tm.cores Core.taken).cores ∧
      u.team? t = some { tm with rv := [], held := [] } ∧ (∀ q ∈ u.rvq, q.team ≠ t) ∧ u.dieNs 4 = s.dieNs 4 ∧ u.flr = [] ∧
      u.teamBusy t = false := by
    rw [State.teamEnd, htm]
    dsimp only
    rw [if_neg (by rw [hst, hend]; exact fun h => h.elim (fun h => nomatch h) Bool.false_ne_true), taken_eq]
    generalize s.onMembers t tm.cores Core.taken = w at hcs
    rw [withdrawRiders_none (s := w) (by rw [hcs]; exact hr) (by rw [hcs]; exact hw) (by rw [hcs]; exact hstr),
      dropTurns_none (s := w) (by rw [hcs]; exact hseq), discardLoads_none (s := w) (by rw [hcs]; exact hreg),
      clearUnits_none (s := w) (by rw [hcs]; exact hx) (by rw [hcs]; exact hf)]
    rw [hcs]
    refine ⟨_, rfl, rfl, team_modTeam_some (s := { s with cores := cs, rvq := _, toks := _ }) htm _, ?_, rfl, hflr, ?_⟩
    · exact fun q hq => of_decide_eq_true (List.mem_filter.mp hq).2
    · have hrv : (s.rvq.filter (fun q => decide (q.team ≠ t))).any (fun q => decide (q.team = t)) = false :=
        List.any_eq_false.mpr fun q hq => by
          rw [decide_eq_true_eq]
          exact of_decide_eq_true (List.mem_filter.mp hq).2
      have hno : s.oars.any (fun o => (o.unacked ++ o.sendq).any (fun p => decide (p.team = some t))) = false :=
        List.any_eq_false.mpr fun o ho hp => by
          obtain ⟨p, hp, he⟩ := List.any_eq_true.mp hp
          exact of_decide_eq_true (List.all_eq_true.mp (List.all_eq_true.mp hoar o ho) p hp) (of_decide_eq_true he)
      rw [State.teamBusy]
      simp only [modTeam_riders, modTeam_waiting, modTeam_streams, modTeam_seqs, modTeam_xtiles, modTeam_xforms, modTeam_rvq, modTeam_oars, hr, hw,
        hstr, hseq, hx, hf, hrv, hno, List.append_nil, List.any_nil, Bool.or_false]
  obtain ⟨hst', hcore', hrvq', hmem'⟩ := finishTeam_ends htu hfu { tm with rv := [], held := [] } st
  rw [hu, completion_ending htu (by rw [show ({ tm with rv := [], held := [] } : Team).st = tm.st from rfl, hst]; decide) hend hbusy]
  refine ⟨hst', fun c hc hteam => hcore' c hc ?_, ?_, hmem'.trans (by rw [hnu])⟩
  · rw [State.core, hcore]
    exact hteams c hteam
  · rw [hrvq']
    exact hru

/-! ## Abort and time limit (R408) -/

/-- The record of a team that the hub itself ends. -/
def State.hubRec (s : State) (code func : Nat) : RecF := { time := s.dieNs 4, code := code, sk := 6, func := func }

theorem hubRec_func (s : State) (code : Nat) {func : Nat} (h : func < 256) : recBits (s.hubRec code func).pack 423 416 = func :=
  RecF.recBits_pack _ 10 (by decide) rfl h

/-- A team that has exceeded its limit is ended, with its record queued. -/
theorem watchdog_ends {s : State} {t : Nat} {tm : Team} (htm : s.team? t = some tm) (hlim : tm.limit ≠ 0) (hst : tm.st = .running)
    (hend : tm.ending = none) (hover : 1000 * tm.limit < tm.ran + (s.ns - tm.since)) :
    s.watchdog t = (s.queueRec (s.hubRec 0x19 tm.func).pack).endTeam t 0x04 0x19 := by
  have hin : decide (tm.st = .out ∨ tm.st = .returning) = false := by rw [hst]; rfl
  rw [State.watchdog, htm]
  dsimp only
  rw [hin]
  exact if_pos ⟨hlim, by rw [hst]; decide, by rw [hend]; rfl, hover⟩

/-- The cores of a team that is ended stop. -/
theorem endTeam_stops {s : State} {t st code : Nat} {tm : Team} (htm : s.team? t = some tm) (hend : tm.ending = none) (hst : tm.st = .running)
    {c : Nat} (hc : c ∈ tm.cores) (hlt : c < s.cores.length) : ((s.endTeam t st code).core c).run = .stopped := by
  obtain ⟨q, l, a, b, x, hq⟩ := queueRecs_only (s.waitingRecs t tm) s
  have hfold : ∀ (l : List Nat) (v : State), c < v.cores.length → c ∈ l ∨ (v.core c).run = .stopped →
      ((l.foldl (fun s c => s.modCore c (fun k => { k with run := .stopped, pend := [], trapq := [] })) v).core c).run = .stopped := by
    intro l
    induction l with
    | nil => exact fun v _ h => h.resolve_left List.not_mem_nil
    | cons d l ih =>
      intro v hv h
      refine ih (v.modCore d (fun k => { k with run := .stopped, pend := [], trapq := [] })) (by rw [modCore_cores, List.length_set]; exact hv) ?_
      by_cases hd : c = d
      · subst hd
        refine Or.inr ?_
        rw [core_modCore_same v c _ hv]
      · rw [core_modCore_other v d c _ hd]
        exact h.imp_left fun hm => (List.mem_cons.mp hm).resolve_left hd
  rw [State.endTeam, htm]
  dsimp only
  rw [if_neg (by rw [hend, hst]; exact fun h => h.elim Bool.false_ne_true (fun h => nomatch h)), hq, if_neg (by rw [hst]; decide)]
  exact hfold tm.cores (State.modTeam _ t _) hlt (Or.inl hc)

/-- The end of a team for whose members no record waits queues none. -/
theorem endTeam_fq {s : State} {t st code : Nat} {tm : Team} (htm : s.team? t = some tm) (hrecs : s.waitingRecs t tm = []) :
    (s.endTeam t st code).fq = s.fq := by
  rw [State.endTeam, htm]
  dsimp only
  rw [hrecs]
  split
  · rfl
  · split
    · rfl
    · obtain ⟨cs, h⟩ := foldl_modCore_only (fun k => { k with run := .stopped, pend := [], trapq := [] }) tm.cores
        (s.modTeam t (fun tm => { tm with ending := some (st, code), saved := tm.saved.map (fun k => { k with trapq := [] }) }))
      rw [List.foldl_nil, h]
      rfl

/-- The piece of a write of 8 aligned bytes is what was written. -/
theorem mergePiece_whole (old w data : Nat) : mergePiece old w w 8 data = data % 2 ^ 64 := by
  have hin : ∀ j ∈ List.range 8, (if w ≤ w + j ∧ w + j < w + 8 then data / 2 ^ (8 * (w + j - w)) % 256 else old / 2 ^ (8 * j) % 256)
      = data / 2 ^ (8 * j) % 256 := fun j hj => by
    have := List.mem_range.mp hj
    rw [if_pos (by omega), Nat.add_sub_cancel_left]
  rw [mergePiece, List.map_congr_left hin]
  show packCodes 8 [_, _, _, _, _, _, _, _] = _
  simp only [packCodes]
  omega

theorem onlyBits_low {v hi : Nat} (h : v < 2 ^ (hi + 1)) : onlyBits v [(hi, 0)] = true := by
  refine decide_eq_true ?_
  show bits v hi 0 * 2 ^ 0 + 0 = v
  rw [bits, Nat.pow_zero, Nat.div_one, Nat.mul_one, Nat.add_zero, Nat.sub_zero, Nat.mod_eq_of_lt h]

/-- A write of TABORT that finds the one team ends it. -/
theorem hostAbort_ends {s : State} {f cell : Nat} {tm : Team} (hf : s.arg 0 = f) (hcell : s.arg 1 = cell) (hresp : s.responds = true)
    (hfun : f ≤ 64) (hlt : cell < 8192) (htm : s.teams = [tm]) (htf : tm.func = f) (htc : tm.csidx = cell) (hst : tm.st ≠ .ended)
    (hend : tm.ending = none) : exec .hostAbort s = .next ((s.queueRec (s.hubRec 0x18 f).pack).endTeam 0 0x05 0x18) := by
  have hwrite : exec .hostAbort s = .next (s.bar4Write f 0x20 8 cell) := by rw [← hf, ← hcell]; rfl
  have hpiece : ∀ new, s.bar4Piece f 0x20 cell new = some (s.hostAbort f cell) := fun new => by
    have hbits : onlyBits cell [(12, 0)] = true := onlyBits_low hlt
    show (if onlyBits cell [(12, 0)] then some (s.hostAbort f cell) else none) = _
    exact if_pos hbits
  have hmerge : mergePiece 0 0x20 0x20 8 cell = cell := (mergePiece_whole ..).trans (Nat.mod_eq_of_lt (by omega))
  have hfind : (List.range s.teams.length).find? (fun n =>
      (s.team? n).any (fun t => decide (t.func = f ∧ t.csidx = cell % 8192 ∧ t.st ≠ .ended) && t.ending.isNone)) = some 0 := by
    have hteam : s.team? 0 = some tm := by rw [State.team?, htm]; rfl
    rw [htm]
    refine List.find?_cons_of_pos (l := []) ?_
    rw [hteam]
    show (decide (tm.func = f ∧ tm.csidx = cell % 8192 ∧ tm.st ≠ .ended) && tm.ending.isNone) = true
    rw [decide_eq_true ⟨htf, htc.trans (Nat.mod_eq_of_lt hlt).symm, hst⟩, hend]
    rfl
  rw [hwrite, State.bar4Write, if_neg (by rw [hresp]; simp; omega)]
  refine congrArg Host.Outcome.next ?_
  show (match s.bar4Piece f 0x20 (mergePiece 0 0x20 0x20 8 cell) (mergePiece (s.bar4Read f 0x20) 0x20 0x20 8 cell) with
    | some s => s
    | none => s.reject 0x20) = _
  rw [hmerge, hpiece]
  show s.hostAbort f cell = _
  rw [State.hostAbort, if_neg (by omega), hfind]
  rfl

/-- Settles O54: each event of the dispatcher by the step of the hub that it runs. -/
theorem dispatchEvents : Obligations.DispatchEvents := by
  refine ⟨fun s f q data l up hup hf hq h2 h3 h4 hlt hresp hfun => ?_, fun s hr hl ht => congrArg Host.Outcome.next (dispatchRound_idle hr hl ht),
    fun s hr => congrArg Host.Outcome.next (if_pos hr), fun s s0 s1 l h cs hr hl ht hc h0 hm _ hcs hn hfetch hok => ?_,
    fun s c t tm harg hrun hteam htm hst hall => ?_, fun s c t tm harg hlt hrun hteam htm hst hcores hmoving hheld hreg => ?_,
    fun s t tm harg htm hst hend hreg hbusy hflr hall => ?_,
    fun s t st code tm harg htm hst hend hreg hr hw hstr hseq hx hf hflr hoar => ?_,
    fun s t tm harg htm hlim hst hend hover hfun hroom hrecs => ?_,
    fun s f cell tm hf hcell hresp hfun hlt htm htf htc hst hend => hostAbort_ends hf hcell hresp hfun hlt htm htf htc hst hend⟩
  · have hreach : s.hostReaches (s.arg 0) = up := by rw [hf, hup]; rfl
    refine ⟨fun hdown => launch_unreached (hreach.trans hdown), fun hopen hl => ?_⟩
    have hexec := launch_reached (hreach.trans hopen) hresp
    rw [hf, hq, h2, h3, h4] at hexec
    rw [hexec, hl]
    refine ⟨fun hen hroom hcell hbad => ?_, fun hen hroom hcell hbad => ?_, fun hfull hd => ?_⟩
    · rw [launchWrite_held hlt hfun hen hroom hcell]
      exact congrArg Host.Outcome.next (if_neg (by rw [hbad]; exact Bool.false_ne_true))
    · rw [launchWrite_held hlt hfun hen hroom hcell]
      exact congrArg Host.Outcome.next (if_pos hbad)
    · rw [launchWrite_full hlt hfun hfull hd]
  · obtain ⟨tm, hlaunch, hteams, htc, hfunc, hst, hin⟩ := dispatchRound_one hr hl ht hc h0 hm hcs hn hfetch hok
    exact ⟨_, tm, rfl, hlaunch, hteams, htc, hfunc, hst, hin⟩
  · obtain ⟨hempty, hteam'⟩ := switchedOutNow_last hrun hteam htm hst hall
    subst harg
    exact ⟨_, rfl, hempty, _, hteam', rfl, rfl⟩
  · subst harg
    exact ⟨_, rfl, restoredNow_last hlt hrun hteam htm hst hcores hmoving hheld hreg⟩
  · subst harg
    obtain ⟨hended, hempty, _, hstamp⟩ := finishTeam_ends htm hflr tm (if tm.failed then 0x04 else 0x01)
    rw [← completion_exited htm hst hend hreg hbusy hall] at hended hempty hstamp
    exact ⟨_, rfl, hended, hempty, hstamp⟩
  · subst harg
    exact ⟨_, rfl, teamEnd_alone htm hst hend hreg hr hw hstr hseq hx hf hflr hoar⟩
  · subst harg
    have hend' : tm.st ≠ .ended := by rw [hst]; decide
    obtain ⟨q, l, a, b, m, hq⟩ := queueRec_only s (s.hubRec 0x19 tm.func).pack
    have hfq := queueRec_fq s (s.hubRec 0x19 tm.func).pack tm.func (by rw [hubRec_func s 0x19 hfun]; exact hroom)
    rw [hubRec_func s 0x19 hfun, if_pos rfl] at hfq
    have htm' : (s.queueRec (s.hubRec 0x19 tm.func).pack).team? (s.arg 0) = some tm := by rw [hq]; exact htm
    have hrecs' : (s.queueRec (s.hubRec 0x19 tm.func).pack).waitingRecs (s.arg 0) tm = [] := by rw [hq]; exact hrecs
    obtain ⟨hteam, hturns⟩ := endTeam_ending _ (s.arg 0) 0x04 0x19 tm htm' hend hend'
    refine ⟨_, rfl, ?_⟩
    rw [watchdog_ends htm hlim hst hend hover]
    refine ⟨hturns.trans (by rw [hq]), by rw [hteam]; rfl, fun c hc hlt => endTeam_stops htm' hend hst hc (by rw [hq]; exact hlt), ?_⟩
    rw [endTeam_fq htm' hrecs', hfq]
    rfl

end Sys2Proof.Machine

/-! # Events of fabric loads (R29 to R44, R358, R361, R362) -/

namespace Sys2Proof.Machine

/-- What every step of a fold keeps, the fold keeps. -/
theorem foldl_keeps {α β : Type} (get : State → β) (f : State → α → State) (h : ∀ s x, get (f s x) = get s) (l : List α) : ∀ s : State,
    get (l.foldl f s) = get s := by
  induction l with
  | nil => exact fun _ => rfl
  | cons x l ih => exact fun s => (ih (f s x)).trans (h s x)

/-- A fold of steps that change nothing. -/
theorem foldl_keeps_self {α : Type} {f : State → α → State} (h : ∀ s x, f s x = s) (l : List α) : ∀ s : State, l.foldl f s = s := by
  induction l with
  | nil => exact fun _ => rfl
  | cons x l ih => exact fun s => (ih (f s x)).trans (h s x)

/-! ## The region of an active load -/

theorem active_iff {s : State} {n : Nat} {r : Region} {l : Load} : s.active n = some (r, l) ↔ s.region n = some r ∧ r.active = some l := by
  constructor
  · intro h
    obtain ⟨r', hr, hl⟩ := Option.bind_eq_some_iff.mp h
    obtain ⟨l', hl', he⟩ := Option.map_eq_some_iff.mp hl
    obtain ⟨rfl, rfl⟩ := Prod.mk.inj he
    exact ⟨hr, hl'⟩
  · rintro ⟨hr, hl⟩
    rw [State.active, hr, Option.bind_some, hl]
    rfl

theorem region_modRegion {s : State} {n : Nat} {r : Region} (h : s.region n = some r) (f : Region → Region) :
    (s.modRegion n f).region n = some (f r) := by
  rw [State.region, State.modRegion, List.getElem?_modify_eq, show s.regions[n]? = some r from h]
  rfl

theorem active_modIsl {s : State} {n : Nat} {r : Region} {l : Load} (h : s.active n = some (r, l)) (i : Nat) (f : Isl → Isl) :
    (s.modIsl n i f).active n = some ({ r with active := some { l with isl := l.isl.modify i f } }, { l with isl := l.isl.modify i f }) :=
  active_modActive h _

theorem isl_modify_same (l : List Isl) {i : Nat} (h : i < l.length) (f : Isl → Isl) :
    (l.modify i f).getD i Isl.idle = f (l.getD i Isl.idle) := by
  rw [List.getD_eq_getElem?_getD, List.getElem?_modify_eq, List.getD_eq_getElem?_getD, List.getElem?_eq_getElem h]
  rfl

theorem isl_modify_other (l : List Isl) {i j : Nat} (h : j ≠ i) (f : Isl → Isl) : (l.modify i f).getD j Isl.idle = l.getD j Isl.idle := by
  simp only [List.getD_eq_getElem?_getD, List.getElem?_modify, if_neg (Ne.symm h), Option.map_eq_map, Option.map_id_fun', id]

/-! ## Fetch, drain, swap, fill (R39 to R42) -/

section Fetch
variable {s : State} {n : Nat} {r : Region} {c : Cmd} {t : Team} (hr : s.region n = some r) (hc : r.fetching = some c) (hp : r.phase = .fetch)
  (hq : (s.riders ++ s.waiting).any (fun q => decide (q.owner = .fetch n)) = false) (ht : s.team? c.team = some t)
include hr hc hp hq ht

/-- A list that does not name the image refuses the command (R403). -/
theorem fetchGo_unlisted {v : Nat} (hv : s.listVa t c.fl = .inl v) : s.fetchGo n = s.refuseFetch n { reason := 1, op0 := v } := by
  rw [State.fetchGo, hr]
  dsimp only
  rw [hc]
  dsimp only
  rw [if_neg (by rw [hp, hq]; exact fun h => h.elim (absurd rfl) Bool.false_ne_true), ht]
  dsimp only
  rw [hv]

/-- An image that is whole and passes its checks leaves the region Armed (R40). -/
theorem fetchGo_ready {s1 : State} {va : Nat} {l : Load} (hv : s.listVa t c.fl = .inr (va, s1)) (hl : s1.fetchState n r c t va = .ready l)
    (hh : s1.heldTiles n r l.img = []) :
    s.fetchGo n = (({ s1 with nextId := s1.nextId + 1 } : State).modRegion n (fun r => { r with shadow := some l, phase := .armed })).post .drain [n] := by
  rw [State.fetchGo, hr]
  dsimp only
  rw [hc]
  dsimp only
  rw [if_neg (by rw [hp, hq]; exact fun h => h.elim (absurd rfl) Bool.false_ne_true), ht]
  dsimp only
  rw [hv]
  dsimp only
  rw [hl]
  dsimp only
  rw [hh, List.foldl_nil]
end Fetch

section Drain
variable {s : State} {n : Nat} {r : Region} {l : Load} (hr : s.region n = some r) (hp : r.phase = .armed) (hl : r.shadow = some l)
  (hh : l.handler = none) (ht : (s.team? l.team).any (fun tm => decide (tm.st ≠ .running)) = false)
include hr hp hl hh ht

/-- With no load to drain the region waits for its token (R39). -/
theorem drainGo_empty (ha : r.active = none) : s.drainGo n = (s.modRegion n (fun r => { r with phase := .token })).post .reconfigurationToken [n] := by
  rw [State.drainGo, hr]
  dsimp only
  rw [hl]
  dsimp only
  rw [if_neg (by rw [hh, ht, hp]; exact fun h => h.elim Bool.false_ne_true (fun h => h.1 rfl)), if_neg (by rw [hh]; exact Bool.false_ne_true),
    State.active, hr, Option.bind_some, ha]
  rfl

/-- A load that has not reported its finish is left to run (R41). -/
theorem drainGo_running {o : Load} (ha : r.active = some o) (hd : o.discarded = false) (hf : o.reported = false) : s.drainGo n = s := by
  rw [State.drainGo, hr]
  dsimp only
  rw [hl]
  dsimp only
  rw [if_neg (by rw [hh, ht, hp]; exact fun h => h.elim Bool.false_ne_true (fun h => h.1 rfl)), if_neg (by rw [hh]; exact Bool.false_ne_true),
    State.active, hr, Option.bind_some, ha]
  dsimp only [Option.map_some]
  rw [if_neg (by rw [hd]; exact Bool.false_ne_true), if_neg (by rw [hf]; exact Bool.false_ne_true)]
end Drain

/-- Changes of nodes in a fold leave all else as it is. -/
theorem foldl_modNode_only {α : Type} (k : α → Nat) (f : α → Node → Node) (l : List α) : ∀ s : State,
    ∃ ns, l.foldl (fun s x => s.modNode (k x) (f x)) s = { s with nodes := ns } := by
  induction l with
  | nil => exact fun s => ⟨_, rfl⟩
  | cons x l ih =>
    intro s
    obtain ⟨ns, h⟩ := ih (s.modNode (k x) (f x))
    exact ⟨ns, h⟩

/-- The swap of planes changes nodes, elements, FIFOs and the region alone (R42). -/
theorem takePlanes_only {s : State} {n : Nat} {r : Region} (hr : s.region n = some r) (l : Load) : ∃ ns es fs, s.takePlanes n l =
    ({ s with nodes := ns, els := es, fifos := fs } : State).modRegion n
      (fun _ => { r with w := imgW l.img, h := imgH l.img, active := some l, prev := r.active }) := by
  rw [State.takePlanes, hr]
  dsimp only [State.freeNode]
  obtain ⟨ns, h⟩ := foldl_modNode_only (fun k => elNode k) (fun _ nd => { Node.free with queue := nd.queue })
    (r.els.filter (fun k => decide (elKind k = .node))) s
  rw [h]
  obtain ⟨ns', h'⟩ := foldl_modNode_only (fun k => elNode k) (fun k nd => { Node.free with
    owner := some n, mode := l.nodeMode (Region.elAt { r with w := imgW l.img, h := imgH l.img } l k)
    depth := l.nodeDepth (Region.elAt { r with w := imgW l.img, h := imgH l.img } l k)
    shared := bit (l.at (Region.elAt { r with w := imgW l.img, h := imgH l.img } l k) 0x043 1) 5, queue := nd.queue, next := nd.next })
      ((Region.els { r with w := imgW l.img, h := imgH l.img }).filter (fun k => decide (elKind k = .node))) { s with nodes := ns }
  rw [h']
  exact ⟨ns', _, _, rfl⟩

theorem swapPlanes_token {s : State} {n : Nat} {r : Region} {l : Load} (hr : s.region n = some r) (hp : r.phase = .token) (hl : r.shadow = some l) :
    s.swapPlanes n = ((s.takePlanes n l).modRegion n (fun r => { r with shadow := none, fetching := none, phase := .fill })).post .fill [n] := by
  rw [State.swapPlanes, hr]
  dsimp only
  rw [hp, hl]

/-- A region with no command, no release and no fetch under way stays as it is. -/
theorem nextCommand_idle {s : State} {n : Nat} {r : Region} (hr : s.region n = some r) (hc : r.cmds = []) (hf : r.frel = false) :
    s.nextCommand n = s := by
  rw [State.nextCommand, hr]
  dsimp only
  split
  · rfl
  · rw [hc]
    dsimp only
    rw [State.tryRelease, hr]
    dsimp only
    rw [if_neg (by rw [hf]; exact fun h => Bool.false_ne_true h.1)]

/-- What Fill sets in an element is no part of a region. -/
theorem fillElement_regions (s : State) (r : Region) (l : Load) (k : Nat) : (s.fillElement r l k).regions = s.regions := by
  unfold State.fillElement
  cases elKind k with
  | xt => dsimp only; split <;> rfl
  | _ => rfl

/-- With no start token kept for an island none is started. -/
theorem startPending_none {s : State} {n : Nat} {r : Region} {l : Load} (h : l.isl.all (fun x => !x.startPend) = true) (is : List Nat) :
    is.foldl (fun (s : State) i => if (l.isl.getD i Isl.idle).startPend ∧ l.edgesOpen r i = true then s.startIsland n i else s) s = s := by
  refine foldl_keeps_self (fun s i => if_neg fun hi => ?_) is s
  have hp : (l.isl.getD i Isl.idle).startPend = false := by
    rw [List.getD_eq_getElem?_getD]
    cases hx : l.isl[i]? with
    | none => rfl
    | some x => simpa using List.all_eq_true.mp h x (List.mem_of_getElem? hx)
  exact Bool.false_ne_true (hp.symm.trans hi.1)

/-- No block of contents meets a bad word where there is none. -/
theorem initLost_none {s : State} (h : s.eccBad = []) (r : Region) (b : Nat × Nat × Nat × Nat × Nat × Nat) : s.initLost r b = none := by
  unfold State.initLost
  dsimp only
  rw [if_neg]
  rw [wordsBad_of_clean h, wordsBad_of_clean h]
  exact fun h => h.elim (fun h => Bool.false_ne_true h.2) (fun h => Bool.false_ne_true h.2)

/-- Fill with nothing kept for the load changes no region. -/
theorem fillPlanes_regions {s : State} {n : Nat} {r : Region} {l : Load} (ha : s.active n = some (r, l)) (hh : l.handler = none) (hc : l.carry = [])
    (he : s.eccBad = []) (hp : l.isl.all (fun x => !x.startPend) = true) : (s.fillPlanes n).regions = s.regions := by
  rw [State.fillPlanes, ha]
  dsimp only
  rw [hh, hc, startPending_none hp, List.findSome?_eq_none_iff.mpr (fun b _ => initLost_none he r b), List.foldl_nil]
  exact foldl_keeps State.regions _ (fun s k => fillElement_regions s r l k) r.els _

/-- A filled region with no command waiting runs (R42). -/
theorem fillRegion_runs {s : State} {n : Nat} {r : Region} {l : Load} (ha : s.active n = some (r, l)) (hph : r.phase = .fill) (hcm : r.cmds = [])
    (hf : r.frel = false) (hh : l.handler = none) (hc : l.carry = []) (he : s.eccBad = []) (hp : l.isl.all (fun x => !x.startPend) = true) :
    (s.fillRegion n).region n = some { r with phase := .run } := by
  have hr : (((s.fillPlanes n).modRegion n (fun r => { r with phase := .run })).newClock n).region n = some { r with phase := .run } :=
    region_modRegion (s := s.fillPlanes n) (r := r)
      ((congrArg (fun rs : List Region => rs[n]?) (fillPlanes_regions ha hh hc he hp)).trans (active_iff.mp ha).1) _
  rw [State.fillRegion, ha]
  dsimp only
  rw [if_neg (by rw [hph]; exact fun h => h rfl), nextCommand_idle hr hcm hf]
  exact hr

/-! ## Tokens and finish (R29, R37, R38, R44) -/

/-- What an island becomes that accepts its start token (R29). -/
def Isl.begin (x : Isl) (m : Memory) (i : Nat) : Isl := { x with started := true, startPend := false, s := x.from? * islII m i, cyc := 0 }

theorem startTransforms_keeps {β : Type} (get : State → β) (h : ∀ (s : State) xs, get { s with xforms := xs } = get s) (s : State) (n : Nat)
    (r : Region) (l : Load) (i : Nat) : get (s.startTransforms n r l i) = get s := by
  unfold State.startTransforms
  refine foldl_keeps get _ (fun s k => ?_) _ s
  dsimp only
  split
  · rfl
  · exact h s _

/-- The start of an island changes islands, elements, nodes and transforms (R29, R294, R299). -/
theorem startIsland_keeps {β : Type} (get : State → β) (hx : ∀ (s : State) xs, get { s with xforms := xs } = get s)
    (he : ∀ (s : State) es, get { s with els := es } = get s) (hn : ∀ (s : State) ns, get { s with nodes := ns } = get s)
    {s : State} {n : Nat} {r : Region} {l : Load} (ha : s.active n = some (r, l)) (i : Nat) :
    get (s.startIsland n i) = get (s.modIsl n i (fun x => x.begin l.img i)) := by
  rw [State.startIsland, ha]
  dsimp only
  rw [startTransforms_keeps get hx, hn]
  exact foldl_keeps get _ (fun s k => he s _) _ _

/-- A start token that finds its island idle and its edges open starts it (R37). -/
theorem tokenArrive_starts {s : State} {n i time src c due : Nat} {r : Region} {l : Load} (ht : s.toks = [⟨.island n i, time, src, c, due⟩])
    (ha : s.active n = some (r, l)) (hph : r.phase.clocked = true) (hpa : s.paused (r.clock l i) = false) (hd : due ≤ s.cycle (r.clock l i))
    (ho : l.edgesOpen r i = true) (hfr : (l.isl.getD i Isl.idle).frozen = false) (hfo : (l.isl.getD i Isl.idle).fold = none)
    (hs : (l.isl.getD i Isl.idle).started = false) (hi : i < l.isl.length) : s.tokenArrive 0 = (s.startIsland n i).takeTok 0 := by
  have hgo : ∀ b, s.islandToken ⟨.island n i, time, src, c, due⟩ n i b = some (s.startIsland n i) := by
    intro b
    rw [State.islandToken, ha]
    dsimp only
    rw [if_neg, if_neg (by rw [hfo]; exact fun h => Bool.false_ne_true h.1), if_neg (by rw [hs]; exact Bool.false_ne_true), if_pos ho]
    rw [hph, hfr, hpa]
    rintro (h | h | h | h | h)
    · exact h rfl
    · exact absurd hi (Nat.not_lt.mpr h)
    · exact Bool.false_ne_true h
    · exact Bool.false_ne_true h
    · exact absurd hd (Nat.not_le.mpr h)
  rw [State.tokenArrive, ht]
  dsimp only [List.getElem?_cons_zero]
  rw [hgo]

/-- A token that reaches a port of a member on its core is counted (R207). -/
theorem tokenArrive_counts {s : State} {t c p time src due : Nat} (ht : s.toks = [⟨.port t c p, time, src, c, due⟩]) (hp : s.present (some t) c = true)
    (hpa : s.paused (coreIsl c) = false) (hd : s.dieHeld (tokenDie src) (c / 8) time = false) :
    s.tokenArrive 0 = (s.countToken c p).takeTok 0 := by
  rw [State.tokenArrive, ht]
  dsimp only [List.getElem?_cons_zero]
  rw [if_neg (by rw [hpa, hd]; exact fun h => h.elim Bool.false_ne_true Bool.false_ne_true), if_pos hp]

section Finish
variable {s : State} {n i : Nat} {r : Region} {l : Load} {x : Isl} (ha : s.active n = some (r, l)) (hx : x = l.isl.getD i Isl.idle)
  (hst : x.started = true) (hen : x.ended = false) (hfr : x.frozen = false) (hto : l.total i ≤ x.s) (hq : s.islandQuiet n r l i = true)
include ha hx hst hq hto

include hen hfr in
/-- An island that has run all its steps and is quiet ends (R38). -/
theorem islandFinish_ends (hd : l.discarded = false) (hf : x.fold = none) : s.islandFinish n i =
    ((s.modIsl n i (fun x => { x with ended := true })).modActive n (fun l => { l with finAt := s.dieNs r.die })).finishLoad n := by
  subst hx
  rw [State.islandFinish, ha]
  dsimp only
  rw [if_pos ⟨hst, hen, hf, hfr, hd, hto, hq⟩]

/-- One drained to its fold point waits there; with nothing to refold the load stays (R44). -/
theorem foldPoint_waits (hf : x.fold ≠ none) (hr : r.refold = none) : (s.foldReached n i).refoldNow n =
    s.modIsl n i (fun x => { x with atFold := true }) := by
  subst hx
  rw [State.foldReached, ha]
  dsimp only
  rw [if_pos ⟨hst, Option.isSome_iff_ne_none.mpr hf, hto, hq⟩, State.refoldNow, active_modIsl ha]
  dsimp only
  rw [hr]
end Finish

/-! ## A cycle of an island (R29 to R31) -/

theorem ite_keeps {s : State} {β : Type} (get : State → β) {p : Prop} [Decidable p] {f g : State} (hf : get f = get s) (hg : get g = get s) :
    get (if p then f else g) = get s := by
  split
  · exact hf
  · exact hg

theorem pushLinks_turns (s : State) (r : Region) (l : Load) (i : Nat) (a : Bool) : (s.pushLinks r l i a).turns = s.turns := by
  unfold State.pushLinks
  refine foldl_keeps State.turns _ (fun s key => ?_) _ _
  exact ite_keeps State.turns rfl rfl

theorem sendToken_turns (s : State) (n k t : Nat) : (s.sendToken n k t).turns = s.turns := by
  unfold State.sendToken
  split <;> rfl

theorem sendToks_turns (s : State) (n : Nat) (l : Load) (ks : List Nat × (Nat → Nat)) : (s.sendToks n l ks).turns = s.turns := by
  unfold State.sendToks
  exact foldl_keeps State.turns _ (fun s k => sendToken_turns (s.modEl k (fun e => { e with tok := false })) n k (l.at (ks.2 k) 0x128 8)) _ _

theorem cfgStamp_turns (s : State) (t c a q st : Nat) : (s.cfgStamp t c a q st).turns = s.turns := by
  obtain ⟨m, ts, rs, n', ac, w, u, h⟩ := deliver_only s (some t) c a 8 (stampWord st q (s.dieNs (c / 8)))
  rw [State.cfgStamp, State.cfgStampAt, h]

theorem dropShadow_turns (s : State) (n : Nat) : (s.dropShadow n).turns = s.turns := by
  unfold State.dropShadow
  split
  · rfl
  · split
    · split
      · exact cfgStamp_turns _ _ _ _ _ _
      · rfl
    · rfl

theorem cancelRefold_turns (s : State) (n t : Nat) : (s.cancelRefold n t).turns = s.turns := by
  unfold State.cancelRefold
  split
  · rfl
  · exact ite_keeps State.turns rfl rfl

theorem freezeFault_turns (s : State) (n i k c a b d : Nat) : (s.freezeFault n i k c a b d).turns = s.turns := by
  unfold State.freezeFault
  split
  · rfl
  · refine ite_keeps State.turns rfl (ite_keeps State.turns ((dropShadow_turns _ _).trans ?_) ?_)
    all_goals exact ite_keeps State.turns (cancelRefold_turns _ _ _) rfl

theorem shiftLines_turns (s : State) (n : Nat) (r : Region) (l : Load) (i t k : Nat) : (s.shiftLines n r l i t k).turns = s.turns := by
  unfold State.shiftLines
  refine ite_keeps State.turns rfl ?_
  dsimp only
  split
  · exact freezeFault_turns _ _ _ _ _ _ _ _
  · rfl

theorem portTake_turns (s : State) (r : Region) (l : Load) (k d : Nat) (a : Bool) : (s.portTake r l k d a).turns = s.turns :=
  ite_keeps State.turns rfl rfl

theorem tilePorts_turns (s : State) (r : Region) (l : Load) (i : Nat) : (s.tilePorts r l i).turns = s.turns :=
  foldl_keeps State.turns _ (fun _ _ => ite_keeps State.turns ((portTake_turns _ _ _ _ _ _).trans (portTake_turns _ _ _ _ _ _)) rfl) _ _

/-- What a cycle does whose step is ready (R30): pushes, tokens, operand lines, ports and heads, then the turns of the step. -/
def State.stepBody (s : State) (n : Nat) (r : Region) (l : Load) (i t : Nat) : State :=
  let s := (s.pushLinks r l i false).sendToks n l (r.islEls l.img i, r.elAt l)
  let s := ((r.islEls l.img i).filter (fun k => decide (elKind k = .ce))).foldl (fun s k => s.shiftLines n r l i t k) s
  let s := s.tilePorts r l i
  let src := (r.islEls l.img i).filterMap (fun k =>
    if elKind k = .conv then some (k, s.sourceValue r l k (l.at (r.elAt l k) 0x043 1 % 16) 0 0) else none)
  let s := src.foldl (fun (s : State) x => s.modEl x.1 (fun e => { e with a := [x.2] })) s
  let s := (r.popped l i t).foldl State.fifoPop s
  { s with turns := stepTurns n r l i t ++ s.turns }

theorem stepBody_turns (s : State) (n : Nat) (r : Region) (l : Load) (i t : Nat) : (s.stepBody n r l i t).turns = stepTurns n r l i t ++ s.turns := by
  refine congrArg (stepTurns n r l i t ++ ·) ?_
  refine (foldl_keeps State.turns State.fifoPop ?_ _ _).trans ((foldl_keeps State.turns _ ?_ _ _).trans ((tilePorts_turns _ _ _ _).trans
    ((foldl_keeps State.turns _ ?_ _ _).trans ((sendToks_turns _ _ _ _).trans (pushLinks_turns _ _ _ _ _)))))
  · exact fun _ _ => rfl
  · exact fun _ _ => rfl
  · exact fun _ _ => shiftLines_turns _ _ _ _ _ _ _

section Cycle
variable {s s1 : State} {n i : Nat} {r : Region} {l : Load} {x : Isl} (ha : s.active n = some (r, l)) (hx : x = l.isl.getD i Isl.idle)
  (hc : r.phase.clocked = true) (hp : s.paused (r.clock l i) = false) (hd : l.discarded = false) (hfr : x.frozen = false) (hfi : x.freezeIn = none)
  (hst : x.started = true) (hen : x.ended = false) (haf : x.atFold = false) (hto : x.s < l.total i)
  (hsp : l.spread.any (fun t => decide (t ≤ s.ns)) = false)
  (hs1 : s1 = (s.modIsl n i (fun x => { x with freezeIn := x.freezeIn.map (· - 1) })).ageLinks r l i) (hk : l.k ≤ x.cyc)
  (hdp : s1.deadPort r l i x.s = none)
include ha hx hc hp hd hfr hfi hst hen haf hto hsp hs1 hk hdp

/-- A cycle in which a step is due either stalls or runs it. -/
theorem islandCycle_due : s.islandCycle n i =
    if ¬ s1.stepReady r l i x.s then s1.modIsl n i (fun x => { x with cyc := x.cyc + 1 }) else s1.stepBody n r l i x.s := by
  subst hx hs1
  have hgo : ¬ (¬ r.phase.clocked = true ∨ l.discarded = true ∨ (l.isl.getD i Isl.idle).frozen = true ∨ s.paused (r.clock l i) = true) := by
    rw [hc, hd, hfr, hp]
    exact fun h => h.elim (fun h => h rfl) (fun h => h.elim Bool.false_ne_true (fun h => h.elim Bool.false_ne_true Bool.false_ne_true))
  rw [State.islandCycle, ha]
  dsimp only
  rw [hsp, Bool.and_false, if_neg hgo,
    if_neg (by rw [hfi]; exact nofun), if_neg (fun h => h hst), if_neg (by rw [hen, haf]; exact fun h => h.elim Bool.false_ne_true Bool.false_ne_true),
    if_neg (Nat.not_le.mpr hto), if_neg (Nat.not_lt.mpr hk)]
  simp only [Bool.false_eq_true, if_false]
  rw [State.portFreeze, hdp]
  rfl

/-- A cycle whose step is not ready counts (R31). -/
theorem islandCycle_stalls (hsr : s1.stepReady r l i x.s = false) : s.islandCycle n i = s1.modIsl n i (fun x => { x with cyc := x.cyc + 1 }) :=
  (islandCycle_due ha hx hc hp hd hfr hfi hst hen haf hto hsp hs1 hk hdp).trans (if_pos (by rw [hsr]; exact Bool.false_ne_true))

/-- A step whose needs are met runs the ring word of every element (R30). -/
theorem islandCycle_steps (hsr : s1.stepReady r l i x.s = true) : (s.islandCycle n i).turns = stepTurns n r l i x.s ++ s.turns := by
  rw [islandCycle_due ha hx hc hp hd hfr hfi hst hen haf hto hsp hs1 hk hdp, if_neg (fun h => h hsr), stepBody_turns, hs1]
  rfl
end Cycle

/-! ## Freeze and fault edges (R358, R361, R362) -/

theorem active_heldNow {s : State} {n : Nat} {r : Region} {l : Load} (h : s.active n = some (r, l)) :
    ∃ l', ((s.heldNow n).active n).map Prod.snd = some l' ∧ l'.isl = l.isl := by
  refine ⟨_, congrArg (Option.map Prod.snd) (active_modActive h _), ?_⟩
  split <;> rfl

/-- The gated clock freezes its island alone, and the load looks at its edge (R358). -/
theorem islandFreeze_freezes {s : State} {n i : Nat} {r : Region} {l : Load} (ha : s.active n = some (r, l))
    (hf : (l.isl.getD i Isl.idle).freezeIn = some 0) (hz : (l.isl.getD i Isl.idle).frozen = false) (hi : i < l.isl.length) :
    (s.islandFreeze n i).turns = ⟨0, .event .faultEdge [n]⟩ :: s.turns ∧ ∃ l', ((s.islandFreeze n i).active n).map Prod.snd = some l' ∧
      (l'.isl.getD i Isl.idle).frozen = true ∧ ∀ j, j ≠ i → l'.isl.getD j Isl.idle = l.isl.getD j Isl.idle := by
  obtain ⟨l', hl, he⟩ := active_heldNow (active_modIsl ha i (fun x => { x with frozen := true }))
  have hgo : s.islandFreeze n i = ((s.modIsl n i (fun x => { x with frozen := true })).heldNow n).post .faultEdge [n] := by
    rw [State.islandFreeze, ha]
    dsimp only
    rw [if_pos ⟨hf, hz⟩]
  rw [hgo]
  refine ⟨rfl, l', hl, ?_, fun j hj => ?_⟩
  · rw [he, isl_modify_same _ hi]
  · rw [he, isl_modify_other _ hj]

/-- What each island becomes when a freeze elsewhere reaches it (R358). -/
theorem freezeSpread_reaches {s : State} {n t : Nat} {r : Region} {l : Load} (ha : s.active n = some (r, l)) (hs : l.spread = some t) (ht : t ≤ s.ns) :
    s.freezeSpread n = s.modActive n (fun l => { l with
      spread := none, isl := l.isl.map (fun x => if x.freezeIn.isNone then { x with freezeIn := some 1 } else x) }) := by
  rw [State.freezeSpread, ha]
  dsimp only
  rw [hs]
  dsimp only
  rw [if_pos ht]

/-- A frozen load without a handler takes its trap and its region the next command (R362). -/
theorem faultEdge_traps {s : State} {n : Nat} {r : Region} {l : Load} {q : BitVec 512} (ha : s.active n = some (r, l)) (hq : l.rcd = some q)
    (hf : l.isFrozen = true) (hh : l.held = false) (he : l.edged = false) (hdis : l.discarded = false) (hi : hd l.img 79 79 = 1) :
    s.faultEdge n = ((s.modActive n (fun l => { l with edged := true })).trapTo (some l.team) l.core q).nextCommand n := by
  rw [State.faultEdge, ha]
  dsimp only
  rw [hq]
  dsimp only
  rw [if_neg (by simp [hf, hh, he, hdis]), if_pos hi]

/-- The only region's load goes on to its edge when held loads are released (R361). -/
theorem releaseHeld_one {s : State} {r : Region} {l : Load} {q : BitVec 512} (hr : s.regions = [r]) (ha : r.active = some l) (hq : l.rcd = some q)
    (hf : l.isFrozen = true) (he : l.edged = false) (hdis : l.discarded = false) (hi : hd l.img 79 79 = 1) : s.releaseHeld =
      ((({ s with regions := [{ r with active := some { l with held := false, edged := true } }] } : State).trapTo (some l.team) l.core q).nextCommand 0) := by
  rw [State.releaseHeld, hr, List.map_singleton, ha]
  exact faultEdge_traps (s := { s with regions := [{ r with active := some { l with held := false } }] }) (n := 0) (l := { l with held := false })
    rfl hq hf rfl he hdis hi

/-- Settles O55, clause by clause. -/
theorem loadEvents : Obligations.LoadEvents := by
  unfold Obligations.LoadEvents
  refine ⟨?_, ?_, ?_, ?_, ?_, ?_, ?_, ?_, ?_, ?_, ?_⟩
  · intro s s1 n va r c t hn hr hc hp hq ht
    subst hn
    exact ⟨fun l hv hl hh => congrArg Host.Outcome.next (fetchGo_ready hr hc hp hq ht hv hl hh),
      fun v hv => congrArg Host.Outcome.next (fetchGo_unlisted hr hc hp hq ht hv)⟩
  · intro s n r l hn hr hp hl hh ht
    subst hn
    exact ⟨fun ha => congrArg Host.Outcome.next (drainGo_empty hr hp hl hh ht ha),
      fun o ha hd hf => congrArg Host.Outcome.next (drainGo_running hr hp hl hh ht ha hd hf)⟩
  · intro s n r l hn hr hp hl
    subst hn
    obtain ⟨ns, es, fs, h⟩ := takePlanes_only hr l
    refine ⟨_, rfl, ?_⟩
    rw [swapPlanes_token hr hp hl, h]
    refine ⟨rfl, rfl, ?_⟩
    exact region_modRegion (region_modRegion (s := { s with nodes := ns, els := es, fifos := fs }) hr _) _
  · intro s n r l hn ha hph hcm hf _ hh hc he hp
    subst hn
    exact ⟨_, rfl, fillRegion_runs ha hph hcm hf hh hc he hp⟩
  · intro s t c p time src due a h0 ht hp hpa hd hc rfl
    refine congrArg Host.Outcome.next ?_
    rw [h0, tokenArrive_counts ht hp hpa hd, State.takeTok]
    exact congrArg (fun ks : List Tok => { s.countToken c p with toks := ks.eraseIdx 0 }) ht
  · intro s n i time src c due r l h0 ht ha hph hpa hd ho hfr hfo hs hi
    refine ⟨_, { l with isl := l.isl.modify i (fun x => x.begin l.img i) }, rfl, ?_⟩
    rw [h0, tokenArrive_starts ht ha hph hpa hd ho hfr hfo hs hi]
    have hr := startIsland_keeps State.regions (fun _ _ => rfl) (fun _ _ => rfl) (fun _ _ => rfl) ha i
    have hk := startIsland_keeps State.toks (fun _ _ => rfl) (fun _ _ => rfl) (fun _ _ => rfl) ha i
    refine ⟨?_, ?_, isl_modify_same _ hi _⟩
    · exact congrArg (fun ks : List Tok => ks.eraseIdx 0) (hk.trans ht)
    · exact (congrArg (fun rs : List Region => rs[n]?.bind (fun r => r.active.map (fun l => (r, l)))) hr).trans (active_modIsl ha i _)
  · intro s n i r l x hn hi ha hx hst hen hfr hto hq
    subst hn hi
    exact ⟨fun hd hf => congrArg Host.Outcome.next (islandFinish_ends ha hx hst hen hfr hto hq hd hf),
      fun hf hr => congrArg Host.Outcome.next (foldPoint_waits ha hx hst hto hq hf hr)⟩
  · intro s s1 n i r l x hn hi ha hx hc hp hd hfr hfi hst hen haf hto hsp hs1
    subst hn hi
    exact ⟨fun hk hsr hdp => ⟨_, rfl, islandCycle_steps ha hx hc hp hd hfr hfi hst hen haf hto hsp hs1 hk hdp hsr⟩,
      fun hk hsr hdp => congrArg Host.Outcome.next (islandCycle_stalls ha hx hc hp hd hfr hfi hst hen haf hto hsp hs1 hk hdp hsr)⟩
  · intro s n i r l hn hi ha hf hz hl
    subst hn hi
    obtain ⟨ht, l', hl', hrest⟩ := islandFreeze_freezes ha hf hz hl
    exact ⟨_, l', rfl, ht, hl', hrest⟩
  · intro s n t r l hn ha hs ht
    subst hn
    exact congrArg Host.Outcome.next (freezeSpread_reaches ha hs ht)
  · intro s r l q hr ha hq hf he hd hi
    refine ⟨fun h0 hh => congrArg Host.Outcome.next ?_, congrArg Host.Outcome.next (releaseHeld_one hr ha hq hf he hd hi)⟩
    rw [h0]
    exact faultEdge_traps (active_iff.mpr ⟨by rw [State.region, hr]; rfl, ha⟩) hq hf hh he hd hi

end Sys2Proof.Machine

/-! # Events of courses, riders, walks, streams, landings and host transfers (R71 to R95, R270, R382 to R394, R407) -/

namespace Sys2Proof.Machine

/-! ## Course steps and ticks with no rider in flight (R71, R72) -/

section NoRider
variable {s : State} (h : s.riders = [])
include h

theorem partsOf_none (p c : Nat) : s.partsOf p c = [] := by rw [State.partsOf, h]; rfl

theorem modeAsks_none (p c : Nat) : s.modeAsks p c = [] := by rw [State.modeAsks, partsOf_none h]; rfl

theorem finishStep_none (p c : Nat) : s.finishStep p c = s := by rw [State.finishStep, partsOf_none h]; rfl

theorem modePend_none (p c : Nat) : s.modePend p c = s := by rw [State.modePend, modeAsks_none h]; rfl

omit h in
theorem modeStep_none {p c : Nat} (hp : Tab.get 0 s.pendMode (crsKey p c) = 0) : s.modeStep p c = s := by
  rw [State.modeStep, if_neg (fun h => h.2.2.1 hp)]

theorem withdrawStep_none (p c : Nat) : s.withdrawStep p c = s := by rw [State.withdrawStep, partsOf_none h]; rfl

theorem boardStep_none (w p c : Nat) : s.boardStep w p c = s := by rw [State.boardStep, partsOf_none h]; rfl

theorem bvStep_none (p c : Nat) : s.bvStep p c = s := by rw [State.bvStep, partsOf_none h]; rfl

/-- The cursor that a step of a course leaves (R72). -/
def State.nextCursor (s : State) (p c : Nat) : Nat :=
  if (s.crs p c).words ≤ s.cur? p c + modeW (s.crs p c).mode then 0 else s.cur? p c + modeW (s.crs p c).mode

/-- With no rider in flight a step moves the cursor and counts (R72). -/
theorem courseStep_none {p c : Nat} (hp : Tab.get 0 s.pendMode (crsKey p c) = 0) : s.courseStep p c = { s with
    cursor := Tab.set 0 s.cursor (crsKey p c) (s.nextCursor p c), courseSteps := Tab.mod 0 s.courseSteps (crsKey p c) (· + 1) } := by
  rw [State.courseStep, finishStep_none h, modePend_none h, modeStep_none hp, withdrawStep_none h, boardStep_none h, finishStep_none h, bvStep_none h,
    partsOf_none h]
  rfl
end NoRider

/-- What one PC does at a tick with no rider in flight: the course that its grant table names, where valid, takes a step (R71). -/
def State.tickPc (s : State) (t p : Nat) : State :=
  if s.grantAt p t < 8 ∧ (s.crs p (s.grantAt p t)).valid then s.courseStep p (s.grantAt p t) else s

/-- Course `c` of PC `p` is the valid one that the tick's grant entry names. -/
def State.granted (s : State) (t p c : Nat) : Prop := s.grantAt p t = c ∧ (s.crs p c).valid = true

/-- The cursors `cur` and step counts `n` of `s` after the PCs of `P` have had their tick: the granted course of each has taken its step. -/
def Advanced (s : State) (cur n : Tab Nat) (t : Nat) (P : Nat → Prop) : Prop :=
  ∀ p c, c < 8 →
    (P p ∧ s.granted t p c → Tab.get 0 cur (crsKey p c) = s.nextCursor p c ∧ Tab.get 0 n (crsKey p c) = Tab.get 0 s.courseSteps (crsKey p c) + 1) ∧
    (¬ (P p ∧ s.granted t p c) → Tab.get 0 cur (crsKey p c) = Tab.get 0 s.cursor (crsKey p c) ∧
      Tab.get 0 n (crsKey p c) = Tab.get 0 s.courseSteps (crsKey p c))

/-- State `u` is `s` after the PCs of `P` have had their tick, and nothing else has changed. -/
def Ticked (s u : State) (t : Nat) (P : Nat → Prop) : Prop :=
  ∃ cur n, u = { s with cursor := cur, courseSteps := n } ∧ Advanced s cur n t P

theorem crsKey_inj {p c q e : Nat} (hc : c < 8) (he : e < 8) (h : crsKey p c = crsKey q e) : p = q ∧ c = e := by
  unfold crsKey at h
  omega

theorem Advanced.congr {s : State} {cur n : Tab Nat} {t : Nat} {P Q : Nat → Prop} (h : Advanced s cur n t P) (hPQ : ∀ p, Q p ↔ P p) :
    Advanced s cur n t Q := by
  rw [show Q = P from funext fun p => propext (hPQ p)]
  exact h

/-- The tick of one more PC. -/
theorem Ticked.tickPc {s u : State} {t q : Nat} {P : Nat → Prop} (hr : s.riders = []) (hp : s.pendMode = []) (h : Ticked s u t P) (hq : ¬ P q) :
    Ticked s (u.tickPc t q) t (fun p => P p ∨ p = q) := by
  obtain ⟨cur, n, rfl, hk⟩ := h
  by_cases hg : s.grantAt q t < 8 ∧ (s.crs q (s.grantAt q t)).valid = true
  · obtain ⟨he, hv⟩ := hg
    obtain ⟨hcur, hsteps⟩ := (hk q _ he).2 (fun h => hq h.1)
    have hnext : State.nextCursor { s with cursor := cur, courseSteps := n } q (s.grantAt q t) = s.nextCursor q (s.grantAt q t) :=
      congrArg (fun x => if (s.crs q (s.grantAt q t)).words ≤ x + modeW (s.crs q (s.grantAt q t)).mode then 0
        else x + modeW (s.crs q (s.grantAt q t)).mode) hcur
    have hstep := courseStep_none (s := { s with cursor := cur, courseSteps := n }) hr (p := q) (c := s.grantAt q t)
      (by rw [show State.pendMode _ = [] from hp]; rfl)
    rw [hnext] at hstep
    refine ⟨_, _, (if_pos ⟨he, hv⟩).trans hstep, fun p c hc => ?_⟩
    by_cases hpc : p = q ∧ c = s.grantAt q t
    · obtain ⟨rfl, rfl⟩ := hpc
      refine ⟨fun _ => ⟨Tab.get_set_same _ _ _ _, ?_⟩, fun h => absurd ⟨Or.inr rfl, rfl, hv⟩ h⟩
      rw [Tab.get_mod_same, hsteps]
    · have hne : crsKey p c ≠ crsKey q (s.grantAt q t) := fun h => hpc (crsKey_inj hc he h)
      have hiff : (P p ∨ p = q) ∧ s.granted t p c ↔ P p ∧ s.granted t p c := by
        refine and_congr_left fun hg => or_iff_left ?_
        rintro rfl
        exact hpc ⟨rfl, hg.1.symm⟩
      rw [hiff, Tab.get_set_other _ _ _ _ _ hne, Tab.get_mod_other _ _ _ _ _ hne]
      exact hk p c hc
  · refine ⟨cur, n, if_neg hg, fun p c hc => ?_⟩
    have hiff : (P p ∨ p = q) ∧ s.granted t p c ↔ P p ∧ s.granted t p c := by
      refine and_congr_left fun hg' => or_iff_left ?_
      rintro rfl
      exact hg ⟨hg'.1.symm ▸ hc, hg'.1.symm ▸ hg'.2⟩
    rw [hiff]
    exact hk p c hc

/-- The tick of the first `N` PCs of a stack. -/
theorem ticked_range {s : State} {t : Nat} (st : Nat) (hr : s.riders = []) (hp : s.pendMode = []) (N : Nat) :
    Ticked s ((List.range N).foldl (fun s i => s.tickPc t (64 * st + i)) s) t (fun p => ∃ i < N, p = 64 * st + i) := by
  induction N with
  | zero => exact ⟨_, _, rfl, fun p c _ => ⟨fun h => absurd h.1 (fun ⟨i, hi, _⟩ => Nat.not_lt_zero i hi), fun _ => ⟨rfl, rfl⟩⟩⟩
  | succ N ih =>
    rw [List.range_succ, List.foldl_append, List.foldl_cons, List.foldl_nil]
    obtain ⟨cur, n, hu, hk⟩ := ih.tickPc hr hp (q := 64 * st + N) (fun ⟨i, hi, h⟩ => absurd (Nat.add_left_cancel h) (Nat.ne_of_gt hi))
    refine ⟨cur, n, hu, hk.congr fun p => ?_⟩
    constructor
    · rintro ⟨i, hi, rfl⟩
      exact (Nat.lt_succ_iff_lt_or_eq.mp hi).elim (fun h => Or.inl ⟨i, h, rfl⟩) (fun h => Or.inr (h ▸ rfl))
    · rintro (⟨i, hi, rfl⟩ | rfl)
      · exact ⟨i, Nat.lt_succ_of_lt hi, rfl⟩
      · exact ⟨N, Nat.lt_succ_self N, rfl⟩

/-- Entries from key `b` on, set one by one. -/
theorem Tab.get_foldl_setFrom {α : Type} [DecidableEq α] (d : α) (f : Nat → α) (b m : Nat) (N : Nat) : ∀ t : Tab α,
    Tab.get d ((List.range N).foldl (fun t n => Tab.set d t (b + n) (f (b + n))) t) m = if b ≤ m ∧ m < b + N then f m else Tab.get d t m := by
  induction N with
  | zero => exact fun t => (if_neg (fun h => absurd h.2 (Nat.not_lt.mpr h.1))).symm
  | succ N ih =>
    intro t
    rw [List.range_succ, List.foldl_append, List.foldl_cons, List.foldl_nil]
    by_cases hm : m = b + N
    · subst hm
      rw [Tab.get_set_same, if_pos ⟨Nat.le_add_right _ _, Nat.lt_succ_self _⟩]
    · rw [Tab.get_set_other _ _ _ _ _ hm, ih]
      refine ite_congr (propext (and_congr_right fun _ => ?_)) (fun _ => rfl) (fun _ => rfl)
      omega

/-- The grant tables in force at a tick of a stack: every 64 ticks those written since are taken (R71). -/
def State.grantNow (s : State) (st : Nat) : Tab DWord :=
  if Tab.get 0 s.tick st % 64 = 0 then
    (List.range 256).foldl (fun g i => Tab.set 0 g (256 * st + i) (Tab.get 0 s.grantNew (256 * st + i))) s.grant
  else s.grant

theorem grantNow_get (s : State) (st i : Nat) : Tab.get 0 (s.grantNow st) i =
    if Tab.get 0 s.tick st % 64 = 0 ∧ i / 256 = st then Tab.get 0 s.grantNew i else Tab.get 0 s.grant i := by
  unfold State.grantNow
  split
  · next h =>
    rw [Tab.get_foldl_setFrom 0 (fun k => Tab.get 0 s.grantNew k)]
    refine ite_congr (propext ?_) (fun _ => rfl) (fun _ => rfl)
    omega
  · next h => rw [if_neg (fun h' => h h'.1)]

theorem ite_grant (s : State) (p : Prop) [Decidable p] (g : Tab DWord) :
    (if p then { s with grant := g } else s) = { s with grant := if p then g else s.grant } := by
  split <;> rfl

/-- A tick of a PC leaves riders as they are. -/
theorem Ticked.foldl_congr {s : State} {t : Nat} (st : Nat) (hr : s.riders = []) (hp : s.pendMode = []) {f : State → Nat → State}
    (hf : ∀ u i, u.riders = [] → f u i = u.tickPc t (64 * st + i)) (N : Nat) :
    (List.range N).foldl f s = (List.range N).foldl (fun s i => s.tickPc t (64 * st + i)) s := by
  induction N with
  | zero => rfl
  | succ N ih =>
    rw [List.range_succ, List.foldl_append, List.foldl_append, ih, List.foldl_cons, List.foldl_cons, List.foldl_nil, List.foldl_nil]
    obtain ⟨cur, n, hu, _⟩ := ticked_range (t := t) st hr hp N
    exact hf _ _ (by rw [hu]; exact hr)

/-- With no rider in flight no request for a mode outlasts a tick (R74). -/
theorem pcModes_none {s : State} (hr : s.riders = []) (p : Nat) (l : List Nat) :
    l.foldl (fun (s : State) c => if (s.crs p c).valid then s.modePend p c else s) s = s := by
  induction l with
  | nil => rfl
  | cons c l ih =>
    rw [List.foldl_cons, modePend_none hr, ite_self]
    exact ih

/-- A tick with no rider in flight is the tick of its 64 PCs under the tables in force (R71). -/
theorem tickStack_none {s : State} (hr : s.riders = []) (hp : s.pendMode = []) (st : Nat) : ∃ cur n,
    Advanced { s with grant := s.grantNow st } cur n (Tab.get 0 s.tick st % 64) (fun p => p / 64 = st) ∧
    s.tickStack st = { s with grant := s.grantNow st, cursor := cur, courseSteps := n, tick := Tab.set 0 s.tick st (Tab.get 0 s.tick st + 1) } := by
  have ht := ticked_range (s := { s with grant := s.grantNow st }) (t := Tab.get 0 s.tick st % 64) st hr hp 64
  obtain ⟨cur, n, hu, hk⟩ := ht
  refine ⟨cur, n, hk.congr (fun p => ?_), ?_⟩
  · constructor
    · exact fun h => ⟨p % 64, Nat.mod_lt _ (by decide), by omega⟩
    · rintro ⟨i, hi, rfl⟩
      omega
  · rw [State.tickStack]
    dsimp only
    rw [ite_grant]
    refine congrArg (fun v : State => { v with tick := Tab.set 0 v.tick st (Tab.get 0 s.tick st + 1) })
      ((Ticked.foldl_congr (s := { s with grant := s.grantNow st }) (t := Tab.get 0 s.tick st % 64) st hr hp (fun u i hu => ?_) 64).trans hu)
    rw [pcModes_none hu]
    rfl

/-! ## Deliveries and stamps (R82, R258, R359, R382, R394) -/

theorem rider?_id {s : State} {id : Nat} {r : Rider} (h : s.rider? id = some r) : r.id = id :=
  of_decide_eq_true (List.find?_some (p := fun r : Rider => decide (r.id = id)) h)

/-- A change of a rider that keeps its number is seen at that number. -/
theorem rider?_modRider {s : State} {id : Nat} {r : Rider} (h : s.rider? id = some r) {f : Rider → Rider} (hf : ∀ q, (f q).id = q.id) :
    (s.modRider id f).rider? id = some (f r) := by
  have hid : ∀ q : Rider, decide ((if q.id = id then f q else q).id = id) = decide (q.id = id) := fun q => by split <;> simp [hf]
  unfold State.rider? State.modRider
  rw [List.find?_map, show (fun r : Rider => decide (r.id = id)) ∘ (fun r => if r.id = id then f r else r) = fun r => decide (r.id = id) from
    funext hid, show s.riders.find? (fun r => decide (r.id = id)) = some r from h, Option.map_some, if_pos (rider?_id h)]

theorem teamFlags_zero (s : State) (t : Option Nat) (c : Nat) : s.teamFlags t c 0 = s := if_pos rfl

section Delivery
variable {s : State} {id cap : Nat} {r : Rider} (hr : s.rider? id = some r) (hp : r.parts.all Part.done = true) (hf : r.fail = none)
  (hs : r.stopped = false) (ho : r.owner = .core) (hh : s.deliveryHeld r = false)
include hr hp hf hs ho hh

/-- A finished rider of a discarded load ends FAULTED (R359). -/
theorem riderDeliver_void (hv : r.void = true) : s.riderDeliver id cap = s.stampRider r 0x04 r.fin := by
  rw [State.riderDeliver, hr]
  dsimp only
  rw [if_neg (fun h => Bool.false_ne_true (h.2.symm.trans hp)), if_neg (by rw [hh]; exact Bool.false_ne_true), if_neg (fun h => h hp),
    if_neg (by rw [hf, hs]; exact fun h => h.elim Bool.false_ne_true Bool.false_ne_true), if_pos ⟨hv, ho⟩]

/-- A finished rider of a core that goes to no host, peer or window delivers its results (R82). -/
theorem riderDeliver_core (hv : r.void = false) (hk : r.kind ≠ .exp) (hd : ¬ (r.kind = .rdstr ∧ r.f 255 252 = 4)) (hl : r.kind ≠ .land) :
    s.riderDeliver id cap = s.deliverRider r cap := by
  rw [State.riderDeliver, hr]
  dsimp only
  rw [if_neg (fun h => Bool.false_ne_true (h.2.symm.trans hp)), if_neg (by rw [hh]; exact Bool.false_ne_true), if_neg (fun h => h hp),
    if_neg (by rw [hf, hs]; exact fun h => h.elim Bool.false_ne_true Bool.false_ne_true),
    if_neg (by rw [hv]; exact fun h => Bool.false_ne_true h.1), ho]
  dsimp only
  rw [if_neg hk, if_neg hd, if_neg hl]
end Delivery

/-- An update has no results: its stamp is written (R82). -/
theorem deliverRider_upd (s : State) {r : Rider} (hk : r.kind = .upd) (hf : r.flags = 0) (cap : Nat) : s.deliverRider r cap = s.stampRider r 0x01 r.fin := by
  have hres : r.results = (none, 0, 0) := by rw [Rider.results, hk]
  rw [State.deliverRider, hres, hk, hf]
  dsimp only
  rw [if_neg (fun h => nomatch h.1)]
  exact congrArg (fun v : State => v.stampRider r 0x01 r.fin) (teamFlags_zero s _ _)

section Words
variable {s : State} {r : Rider} (hk : r.kind = .rdstr) (hd : r.f 255 252 = 0) (hf : r.flags = 0) (h0 : r.sent = 0)
include hk hd

theorem results_rdstr : r.results = (some (r.f 127 64, r.words), 0, 0) := by
  rw [Rider.results, hk]
  dsimp only
  rw [if_pos (by rw [hd]; decide)]

include hf h0

/-- An RDSTR to a core's reach delivers its words and, after the last of them, its stamp (R258, R260). -/
theorem deliverRider_rdstr (cap : Nat) (u : State) (k : Nat) (hgo : s.deliverFrom r.team r.acct (r.f 127 64) r.words 0 cap 129 = (u, k)) :
    s.deliverRider r cap = if k < r.words.length then u.modRider r.id (fun q => { q with sent := k }) else u.stampRider r 0x01 r.fin := by
  rw [State.deliverRider, results_rdstr hk hd, hf, h0, if_neg (by rw [hd]; exact fun h => nomatch h.2)]
  dsimp only
  rw [hgo]
  dsimp only
  rw [show (0 : FlagSet) ||| 0 = 0 from rfl, teamFlags_zero]
end Words

/-- A delivery into a cox store is one write of its words (R116). -/
theorem deliverFrom_store (s : State) (t : Option Nat) (c : Nat) {la cap : Nat} {ws : List Nat} (hw : ws ≠ []) (hc : ws.length ≤ cap)
    (hb : bit la 31 = false) (fuel : Nat) : s.deliverFrom t c la ws 0 cap (fuel + 1) = (s.deliverWords t c la ws, ws.length) := by
  have hpos := List.length_pos_iff.mpr hw
  have hcap : Nat.min ws.length cap = ws.length := Nat.min_eq_left hc
  rw [State.deliverFrom]
  dsimp only
  rw [if_neg (by omega), hb]
  rw [if_neg Bool.false_ne_true]
  dsimp only
  rw [List.drop_zero, List.take_of_length_le hc, Nat.sub_zero, Nat.zero_add, hcap]
  rfl

/-- A delivery that fills one empty buffer of a node leaves it full (R146). -/
theorem deliverFrom_buffer (s : State) (t : Option Nat) (c : Nat) {la cap b : Nat} {ws : List Nat} (hw : ws ≠ []) (hc : ws.length ≤ cap)
    (hb : bit la 31 = true) (hbuf : (s.node (keyOf la)).bufAt (bits la 12 0 + 4 * 0) = some b)
    (hl : ws.length = ((b + 1) * bufBytes (s.node (keyOf la)).depth - (bits la 12 0 + 4 * 0)) / 4) (he : bit (s.node (keyOf la)).f b = false) (fuel : Nat) :
    s.deliverFrom t c la ws 0 cap (fuel + 2) = ((s.deliverWords t c la ws).modNode (keyOf la) (fun nd => { nd with f := nd.f + 2 ^ b }), ws.length) := by
  have hpos := List.length_pos_iff.mpr hw
  have hself : Nat.min ws.length ws.length = ws.length := Nat.min_self _
  have hcap : Nat.min ws.length cap = ws.length := Nat.min_eq_left hc
  rw [State.deliverFrom]
  dsimp only
  rw [if_neg (by omega), if_pos hb, hbuf]
  dsimp only
  rw [← hl, Nat.sub_zero, hself, hcap,
    if_neg (by rw [he]; exact fun h => h.elim Bool.false_ne_true (by omega)),
    if_neg (Nat.lt_irrefl _), List.drop_zero, List.take_of_length_le (Nat.le_refl _), Nat.zero_add, State.deliverFrom]
  dsimp only
  rw [if_pos (Or.inl (Nat.sub_self _))]
  rfl

/-- A delivery to a full buffer waits (R146). -/
theorem deliverFrom_full (s : State) (t : Option Nat) (c : Nat) {la cap b : Nat} {ws : List Nat} (hb : bit la 31 = true)
    (hbuf : (s.node (keyOf la)).bufAt (bits la 12 0 + 4 * 0) = some b) (he : bit (s.node (keyOf la)).f b = true) (fuel : Nat) :
    s.deliverFrom t c la ws 0 cap (fuel + 1) = (s, 0) := by
  rw [State.deliverFrom]
  dsimp only
  by_cases hn : ws.length - 0 = 0 ∨ cap = 0
  · rw [if_pos hn]
  · rw [if_neg hn, if_pos hb, hbuf]
    dsimp only
    rw [if_pos (Or.inl he)]

section Fault
variable {s : State} {id : Nat} {r : Rider} (hr : s.rider? id = some r) (hov : s.overNow r = true) (ho : r.owner = .core)
  (hh : s.deliveryHeld r = false) (hl : r.kind ≠ .land) (hp : r.parts ≠ []) (hf : r.flags = 0) (hk : r.kind = .rdstr → r.f 255 252 ≠ 4)
include hr hov ho hh hl hp hf hk

/-- A failed rider of a core ends FAULTED with its record (R382). -/
theorem riderFault_failed {q : BitVec 512} (hq : r.fail = some q) : s.riderFault id = (s.queueRec (s.failRec r q)).stampRider r 0x04 r.fin := by
  rw [State.riderFault, hr]
  dsimp only
  rw [if_neg (by rw [State.mayEnd, ho, hov, hh]; exact fun h => h.elim (fun h => h rfl) (fun h => h.elim (nofun) Bool.false_ne_true)),
    if_neg (show ¬ r.parts.isEmpty = true from fun h => hp (List.isEmpty_iff.mp h)), hq, ho]
  dsimp only
  rw [if_neg (fun h : r.kind = .rdstr ∧ r.f 255 252 = 4 => hk h.1 h.2), if_neg hl, hf, teamFlags_zero]
  exact if_pos rfl

/-- A stopped one ends KILLED with the words acted on (R394). -/
theorem riderFault_stopped (hq : r.fail = none) : s.riderFault id =
    (s.deliver r.team r.acct r.stamp 8 (0x05 * 2 ^ 56 + r.sq * 2 ^ 48 + r.nact % 2 ^ 32)).dropRider r.id := by
  rw [State.riderFault, hr]
  dsimp only
  rw [if_neg (by rw [State.mayEnd, ho, hov, hh]; exact fun h => h.elim (fun h => h rfl) (fun h => h.elim (nofun) Bool.false_ne_true)),
    if_neg (show ¬ r.parts.isEmpty = true from fun h => hp (List.isEmpty_iff.mp h)), hq, ho]
  dsimp only
  rw [if_neg (fun h : r.kind = .rdstr ∧ r.f 255 252 = 4 => hk h.1 h.2), if_neg hl, hf, teamFlags_zero]
  exact if_neg Bool.false_ne_true
end Fault

/-! ## Walks, streams, landings and waiting riders (R75, R88, R92, R271, R393) -/

section Walk
variable {s : State} {w : Walk} {e : Tlb} {l : List Tlb} (hw : s.walks = [w]) (he : w.found = some e)
  (hl : l = s.tlb.filter (fun x => !decide (x.tile = w.tile ∧ x.asid = w.asid ∧ x.va = e.va)))
include hw he hl

/-- The end of the only walk fills its cache; an entry gives way where the event names one or the cache is full (R92). -/
theorem walkFill_one (out : Nat) : s.walkFill 0 out = { s with walks := [], tlb := (if out ≠ 0 then dropTlb w.tile (out - 1) l
    else if 4096 ≤ (l.filter (fun x => decide (x.tile = w.tile))).length then dropTlb w.tile 0 l else l) ++ [e] } := by
  subst hl
  rw [State.walkFill, hw]
  dsimp only [List.getElem?_cons_zero]
  rw [he]
  dsimp only
  simp only [decide_eq_true_eq] <;> rfl
end Walk

/-- The next emission of a stream of a running team that is admitted joins those under way, and the one behind it is asked for (R271). -/
theorem emissionAdmit_admits {s u : State} {c p m : Nat} {t : Strm} {tm : Team} (ht : s.portStream c p = some t) (hn : t.next < t.total)
    (hm : t.team = some m) (htm : s.team? m = some tm) (hst : tm.st = .running) (hen : tm.ending = none) (hb : s.boundRegion t.team p = none)
    (ha : s.admitCore (Rider.ask .stream (.stream c p) c tm.func tm.asid (some m) (mkRecord t.n p 0 (bits t.rcd.toNat 199 192) 0) (t.va t.next) 0)
      = (1, u)) : s.emissionAdmit c p =
    ({ u with streams := modStream c p (fun t => { t with next := t.next + 1, rid := t.rid ++ [s.nextId] }) u.streams } : State).post
      .streamEmissionAdmit [c, p] := by
  have hlive : (decide (tm.st = .ended) || tm.ending.isSome) = false := by rw [hst, hen]; rfl
  rw [State.emissionAdmit, ht]
  dsimp only
  rw [State.teamIds, hb, hm, Option.bind_some, htm]
  dsimp only [Option.bind_none]
  rw [if_neg (by rw [hlive]; exact fun h => h.elim (Nat.not_le.mpr hn) (fun h => h.elim Bool.false_ne_true Bool.false_ne_true)), ha, if_pos rfl]

theorem drainNote_none (s : State) {c : Contrib} (hu : c.unit = none) (b : Bool) : s.drainNote c b = s := by rw [State.drainNote, hu]

/-- A contribution that finds room enters the landing buffer (R88). -/
theorem contribArrive_enters {s : State} {n : Nat} {c : Contrib} (hc : s.contribs[n]? = some c) (ha : c.arrived = 0) (hu : c.unit = none)
    (hw : s.window c.stack c.win = none) (hh : c.half = 0) (hd : s.dieHeld 4 (c.stack / 3) c.time = false) (hl : s.landBytes c.stack + 4 ≤ 262144) :
    s.contribArrive n = { s with contribs := s.contribs.set n { c with arrived := s.ns + 1 } } := by
  rw [State.contribArrive, hc]
  dsimp only
  rw [hu]
  dsimp only
  rw [hd, hw, if_neg (by rw [ha]; exact fun h => h.elim (fun h => h rfl) Bool.false_ne_true), if_neg Bool.false_ne_true,
    if_neg (by rw [hh, if_pos rfl]; omega)]
  exact drainNote_none _ hu _

/-- A LAND whose contributions stay away past LWAIT acts on no word and fails (R393). -/
theorem landTimeout_fails {s : State} {id : Nat} {r : Rider} {p : Part} {t : List Part} (hr : s.rider? id = some r) (hp : r.parts = p :: t)
    (hk : r.kind = .land) (hf : r.fail = none) (hb : p.boarded = false) (hl : s.landReady r p = false)
    (ht : r.time + 1000 * (s.lnd (p.pc / 64) / 65536) ≤ s.pcNs p.pc) : s.landTimeout id = s.modRider id (fun q => { q with
      parts := q.parts.map (fun z => { z.idle with gave := z.runs }), fail := some (s.landRec r.func r.acct (s.partPa p p.first) (r.f 255 250) 0x2A) }) := by
  rw [State.landTimeout, hr]
  dsimp only
  rw [hp]
  dsimp only
  rw [if_pos ⟨hk, by rw [hf]; rfl, hb, hl, ht⟩]

/-- The only contribution of a stack, held past LHOLD with no window open, is dropped with its record (R393). -/
theorem holdExpiry_drops {s : State} {st : Nat} {c : Contrib} (hc : s.contribs = [c]) (hs : c.stack = st) (ha : c.arrived ≠ 0)
    (ht : c.arrived - 1 + 1000 * (s.lnd st % 65536) ≤ s.ns) (hw : s.window c.stack c.win = none) (hu : c.unit = none) :
    s.holdExpiry st = ({ s with contribs := [] } : State).queueRec (s.landRec (s.funcOfAddr c.pa) 0 c.pa c.win 0x28) := by
  have hlate : (decide (c.stack = st ∧ c.arrived ≠ 0 ∧ c.arrived - 1 + 1000 * (s.lnd st % 65536) ≤ s.ns)
      && (s.window c.stack c.win).isNone) = true := by
    rw [hw, decide_eq_true ⟨hs, ha, ht⟩]
    rfl
  rw [State.holdExpiry, hc]
  dsimp only
  simp only [List.filter_cons, List.filter_nil, hlate, if_true, Bool.not_true, Bool.false_eq_true, if_false]
  rw [List.foldl_cons, List.foldl_nil, State.dropNote, hu]
  rfl

/-- A drain's rider that waits is admitted when there is room (R247). -/
theorem retryAdmit_drain {s u : State} {q : Rider} {d n : Nat} (hq : s.waiting = [q]) (ho : q.owner = .drain d n)
    (ha : s.tryAdmit q q.die (s.admitTile q) = (1, u)) : s.retryAdmit 0 = { u with waiting := u.waiting.eraseIdx 0 } := by
  rw [State.retryAdmit, hq]
  dsimp only [List.getElem?_cons_zero]
  rw [ho]
  dsimp only [List.take_zero, List.any_nil]
  rw [if_neg Bool.false_ne_true, if_neg Bool.false_ne_true]
  refine (if_neg Bool.false_ne_true).trans ?_
  rw [ha, if_pos rfl]

/-! ## Host transfers (R270, R336, R407) -/

/-- The flush read of an EXPORT completes (R336). -/
theorem hostComplete_export {s : State} {id : Nat} {r : Rider} (hr : s.rider? id = some r) (hh : r.host = true) (hk : r.kind = .exp) (hs : r.sent ≠ 0)
    (off size data : Nat) : s.hostComplete id off size data = (s.modRider id (fun q => { q with host := false })).post .riderDelivery [id] := by
  rw [State.hostComplete, hr]
  dsimp only
  rw [if_neg (by rw [hk]; exact fun h => nomatch h.1), if_pos ⟨hk, hh, hs⟩]

/-- The only word of an IMPORT's source arrives (R270). -/
theorem hostComplete_import {s : State} {id : Nat} {r : Rider} (hr : s.rider? id = some r) (hh : r.host = true) (hk : r.kind = .imp) (hn : r.n = 1)
    (hse : r.seen = []) (hs : r.sent = 0) (data : Nat) :
    ∃ q, (s.hostComplete id 0 4 data).rider? id = some q ∧ q.src = [BitVec.ofNat 32 data] ∧ q.host = false := by
  rw [State.hostComplete, hr]
  dsimp only
  rw [if_pos ⟨hk, hh⟩]
  refine ⟨_, rider?_modRider hr (fun q => rfl), ?_, ?_⟩
  · simp [hn, hse, Tab.get]
  · simp [hn, hse, hs, Tab.get]

theorem riderOver_rider? (s : State) (r : Rider) (id : Nat) : (s.riderOver r).rider? id = s.rider? id := by
  unfold State.riderOver
  split
  · split <;> rfl
  · rfl

/-- A transfer whose completion stays away fails (R407). -/
theorem hostFail_fails {s : State} {id : Nat} {r : Rider} (hr : s.rider? id = some r) (hh : r.host = true) (hk : r.kind = .imp ∨ r.kind = .exp)
    (hf : r.fail = none) (status : Nat) : ∃ q, (s.hostFail id status).rider? id = some q ∧ q.host = false ∧ q.fail ≠ none := by
  rw [State.hostFail, hr]
  dsimp only
  rw [if_pos ⟨hk, hh, by rw [hf]; rfl⟩, rider?_modRider hr (by intro q; rfl)]
  dsimp only
  rw [riderOver_rider?, rider?_modRider hr (by intro q; rfl)]
  exact ⟨_, rfl, rfl, nofun⟩

/-- Settles O56, clause by clause. -/
theorem memoryEvents : Obligations.MemoryEvents := by
  unfold Obligations.MemoryEvents
  refine ⟨?_, ?_, ?_, ?_, ?_, ?_, ?_, ?_, ?_, ?_, ?_⟩
  · exact fun s p c hr hp => courseStep_none hr hp
  · intro s st h0 hr hp he
    obtain ⟨cur, n, hk, ht⟩ := tickStack_none hr hp st
    have hecc : s.eccFlushAll = s := by rw [State.eccFlushAll, he, List.foldl_nil]
    have hgo : exec .sweepTick s = .next _ := congrArg Host.Outcome.next
      ((congr (congrArg State.tickStack hecc) h0).trans ht)
    refine ⟨_, hgo, Tab.get_set_same 0 s.tick st (Tab.get 0 s.tick st + 1), rfl, grantNow_get s st, fun p c hc => ?_⟩
    rw [courseStep_none hr (by rw [hp]; rfl), Tab.get_set_same]
    exact hk p c hc
  · intro s id r h0 hr hp hf hs ho hh
    subst h0
    refine ⟨fun hv => congrArg Host.Outcome.next (riderDeliver_void hr hp hf hs ho hh hv), fun hv hk hfl => ?_, fun hv hk hd hfl h0 h1 hw hl hb => ?_,
      fun key b hv hk hd hfl h0 h1 hb hkey hbuf hw hl hc => ?_⟩
    · refine congrArg Host.Outcome.next ?_
      rw [riderDeliver_core hr hp hf hs ho hh hv (by rw [hk]; nofun) (by rw [hk]; exact fun h => nomatch h.1) (by rw [hk]; nofun)]
      exact deliverRider_upd s hk hfl _
    · refine congrArg Host.Outcome.next ?_
      rw [h1, if_pos rfl, riderDeliver_core hr hp hf hs ho hh hv (by rw [hk]; nofun) (by rw [hd]; exact fun h => nomatch h.2) (by rw [hk]; nofun),
        deliverRider_rdstr hk hd hfl h0 _ _ _ (deliverFrom_store s _ _ hw hl hb 128), if_neg (Nat.lt_irrefl _)]
    · subst hkey
      have hgo : ∀ v, s.deliverRider r (2 ^ 32) = v → exec .riderDelivery s = .next v := by
        rintro _ rfl
        refine congrArg Host.Outcome.next ?_
        rw [h1, if_pos rfl, riderDeliver_core hr hp hf hs ho hh hv (by rw [hk]; nofun) (by rw [hd]; exact fun h => nomatch h.2) (by rw [hk]; nofun)]
      refine ⟨fun he => hgo _ ?_, fun he => hgo _ ?_⟩
      · rw [deliverRider_rdstr hk hd hfl h0 _ _ _ (deliverFrom_buffer s _ _ hw hc hb hbuf hl he 127), if_neg (Nat.lt_irrefl _)]
      · rw [deliverRider_rdstr hk hd hfl h0 _ _ _ (deliverFrom_full s _ _ hb hbuf he 128), if_pos (List.length_pos_iff.mpr hw), rider?_id hr]
  · intro s id r h0 hr hov ho hh hl hp hf hk
    subst h0
    exact ⟨fun q hq => congrArg Host.Outcome.next (riderFault_failed hr hov ho hh hl hp hf hk hq),
      fun hq => congrArg Host.Outcome.next (riderFault_stopped hr hov ho hh hl hp hf hk hq)⟩
  · intro s w e l h0 hw he hl
    have hgo : exec .walkFill s = .next _ := congrArg Host.Outcome.next ((congrArg (fun n => s.walkFill n (s.arg 1)) h0).trans (walkFill_one hw he hl _))
    refine ⟨fun h1 hlen => hgo.trans ?_, fun h1 hlen => hgo.trans ?_, fun h1 => hgo.trans ?_⟩
    · rw [if_neg (fun h => h h1), if_neg (Nat.not_le.mpr hlen)]
    · rw [if_neg (fun h => h h1), if_pos hlen]
    · rw [if_pos h1]
  · intro s u c p m t tm h0 h1 ht hn hm htm hst hen hb ha
    subst h0 h1
    exact congrArg Host.Outcome.next (emissionAdmit_admits ht hn hm htm hst hen hb ha)
  · intro s n c h0 hc ha hu hw hh hd hl
    subst h0
    exact congrArg Host.Outcome.next (contribArrive_enters hc ha hu hw hh hd hl)
  · intro s id r p t h0 hr hp hk hf hb hl ht
    subst h0
    exact congrArg Host.Outcome.next (landTimeout_fails hr hp hk hf hb hl ht)
  · intro s st c h0 hc hs ha ht hw hu
    subst h0
    exact congrArg Host.Outcome.next (holdExpiry_drops hc hs ha ht hw hu)
  · intro s u q d n h0 hq ho ha
    exact congrArg Host.Outcome.next ((congrArg s.retryAdmit h0).trans (retryAdmit_drain hq ho ha))
  · intro s id r h0 hr hh
    subst h0
    refine ⟨fun hk hs => congrArg Host.Outcome.next (hostComplete_export hr hh hk hs _ _ _), fun hk hn hse hs h1 h2 => ?_, fun hk hf => ?_⟩
    · obtain ⟨q, hq, hsrc, hhost⟩ := hostComplete_import hr hh hk hn hse hs (s.arg 3)
      exact ⟨_, q, congrArg Host.Outcome.next (by rw [h1, h2]), hq, hsrc, hhost⟩
    · obtain ⟨q, hq, hhost, hfail⟩ := hostFail_fails hr hh hk hf (s.arg 1)
      exact ⟨_, q, rfl, hq, hhost, hfail⟩

end Sys2Proof.Machine

/-! # Events of memory nodes, X tiles, transform nodes and the sequence unit (R102, R147) -/

namespace Sys2Proof.Machine

/-- A load of one running island whose node 2048 has a read view that an edge within the island holds back (R147): the pattern before the edge is the
view's own first, which has not ended. -/
def heldLoad : Load :=
  { id := 0, img := [], fl := 0, core := 0, team := 0, func := 0, asid := 0, stamp := 0, k := 0, tp := [], flags := 0
    isl := [{ Isl.idle with started := true }], overlaps := 0, rcd := none, held := false, spread := none, handler := none, discarded := false
    edged := false, reported := false, ran := [], inner := [(0, true, 0, true)], carry := [], finAt := 0 }

/-- The region of that load: the one tile of node 2048. -/
def heldRegion : Region :=
  { die := 0, x := 2, y := 0, w := 1, h := 1, team := 0, phase := .run, active := some heldLoad, shadow := none, cmds := [], fetching := none
    frel := false, back := .run, refold := none, prev := none }

/-- A machine in which that load runs: its node streams, the buffer of its read view is full, and the view stands at the beginning of a pattern. -/
def heldView : State :=
  { State.reset with ev := [2048], regions := [heldRegion], nodes := [(2048, { Node.free with mode := 0, owner := some 0, f := 1 })] }

/-- A read view that an edge holds back reads nothing ahead. -/
theorem readAhead_behind {s : State} {key n : Nat} {r : Region} {l : Load} (ho : (s.node key).owner = some n) (ha : s.active n = some (r, l))
    (hb : s.edgeBehind r l (nodeEl key) true = true) : s.readAhead key = s := by
  rw [State.readAhead, ho, Option.bind_some, ha]
  dsimp only
  rw [if_neg]
  rintro ⟨-, -, h, -⟩
  exact Bool.false_ne_true (h.symm.trans hb)

/-- A view that has read a word ahead differs from one that has read none. -/
theorem ahead_modNode (s : State) (key : Nat) (v : Beat) :
    ((s.modNode key (fun nd => { nd with ahead := nd.ahead ++ [v] })).node key).ahead = (s.node key).ahead ++ [v] :=
  congrArg Node.ahead (Tab.get_mod_same Node.free s.nodes key (fun nd => { nd with ahead := nd.ahead ++ [v] }))

/-- Refutes O57: a streaming view reads ahead only where no edge declared within its island holds its pattern back (R147), which the clause on
READ_AHEAD does not ask. -/
theorem not_unitEvents : ¬ Obligations.UnitEvents := by
  rintro ⟨-, hread, -⟩
  have hreads : (heldView.viewRead heldRegion heldLoad (nodeEl 2048)).isRight = true := by decide +kernel
  obtain ⟨⟨v, s1⟩, hv⟩ := Sum.isRight_iff.mp hreads
  have hahead := hread heldView s1 2048 0 heldRegion heldLoad v rfl rfl rfl rfl (by decide +kernel) (by decide +kernel) (by decide +kernel)
    (by decide +kernel) (by decide +kernel) rfl hv
  have hheld : exec .readAhead heldView = .next heldView :=
    congrArg Host.Outcome.next (readAhead_behind (key := 2048) (n := 0) (r := heldRegion) (l := heldLoad) rfl rfl (by decide +kernel))
  rw [hheld] at hahead
  injection hahead with hahead
  have hnone : (heldView.node 2048).ahead = [] := rfl
  rw [hahead, ahead_modNode] at hnone
  exact absurd hnone (by simp)

end Sys2Proof.Machine

/-! # Events of register accesses (R70, R71, R94, R95, R335, R338, R357, R386) -/

namespace Sys2Proof.Machine

/-! ## A write of one whole piece (R386) -/

theorem piecesOf_whole {w : Nat} (h : w % 8 = 0) : piecesOf w 8 = [w] := by
  rw [piecesOf, h]
  show [w / 8 * 8 + 8 * 0] = [w]
  congr 1
  omega

theorem onlyBits_iff (v : Nat) (l : List (Nat × Nat)) : onlyBits v l = true ↔ (l.map (fun p => bits v p.1 p.2 * 2 ^ p.2)).sum = v :=
  decide_eq_true_iff

section Pieces
variable {s : State} (hr : s.responds = true) {w : Nat} (hw : w % 8 = 0)
include hr hw

/-- A whole piece of BAR0 written by the physical function takes effect or is counted in WREJ. -/
theorem bar0Write_whole {v : Nat} (hv : v < 2 ^ 64) : s.bar0Write 0 w 8 v = (s.bar0Piece w v).getD (s.reject w) := by
  rw [State.bar0Write, hr, piecesOf_whole hw, List.foldl_cons, List.foldl_nil, mergePiece_whole, Nat.mod_eq_of_lt hv]
  show (match s.bar0Piece w v with
    | some s => s
    | none => s.reject w) = _
  cases s.bar0Piece w v <;> rfl

/-- A virtual function's write to BAR0 is discarded. -/
theorem bar0Write_foreign {f : Nat} (hf : f ≠ 0) (v : Nat) : s.bar0Write f w 8 v = s.reject w := by
  rw [State.bar0Write, hr, piecesOf_whole hw, List.foldl_cons, List.foldl_nil]
  exact if_pos hf

/-- A whole piece of BAR4 takes effect or is counted in WREJ. -/
theorem bar4Write_whole {f v : Nat} (hf : f ≤ 64) (hv : v < 2 ^ 64) : s.bar4Write f w 8 v = (s.bar4Piece f w v v).getD (s.reject w) := by
  rw [State.bar4Write, hr, if_neg (fun h => h.elim (nofun) (fun h => absurd hf (Nat.not_le.mpr h))), piecesOf_whole hw, List.foldl_cons, List.foldl_nil,
    mergePiece_whole, mergePiece_whole, Nat.mod_eq_of_lt hv]
  cases s.bar4Piece f w v v <;> rfl
end Pieces

/-! ## BAR4 (R335, R357, R408) -/

theorem intFields_only {f v : Nat} (h : v < 32 ∧ (f = 0 ∨ v &&& 0x12 = 0)) : onlyBits v (intFields f) = true := by
  have hcases : ∀ v < 32, v &&& 0x12 = 0 → onlyBits v [(3, 2), (0, 0)] = true := by decide
  rw [intFields]
  split
  · exact onlyBits_low h.1
  · next hf => exact hcases v h.1 (h.2.resolve_left hf)

/-- FQPOP removes the oldest record (R357). -/
theorem bar4Write_fqpop {s : State} (hr : s.responds = true) {f : Nat} (hf : f ≤ 64) :
    s.bar4Write f 0x18 8 0 = { s with fq := Tab.set [] s.fq f ((Tab.get [] s.fq f).drop 1) } :=
  bar4Write_whole hr (by decide) hf (by decide)

section Interrupts
variable {s : State} (hr : s.responds = true) {f v : Nat} (hf : f ≤ 64) (hv : v < 32 ∧ (f = 0 ∨ v &&& 0x12 = 0))
include hr hf hv

/-- Bits of INTST are cleared by ones (R335). -/
theorem bar4Write_intst : s.bar4Write f 0x00 8 v = s.setInt f (Tab.get 0 s.intst f &&& ~~~(BitVec.ofNat 64 v)) (Tab.get 0 s.inten f) := by
  rw [bar4Write_whole hr (by decide) hf (by omega), State.bar4Piece, if_pos rfl, if_pos (intFields_only hv), Option.getD_some]

/-- INTEN is written (R335). -/
theorem bar4Write_inten : s.bar4Write f 0x08 8 v = s.setInt f (Tab.get 0 s.intst f) (BitVec.ofNat 64 v) := by
  rw [bar4Write_whole hr (by decide) hf (by omega), State.bar4Piece, if_neg (by decide), if_pos rfl, if_pos (intFields_only hv), Option.getD_some]
end Interrupts

/-- The watchdog's limit is written (R408). -/
theorem bar4Write_wdog {s : State} (hr : s.responds = true) {f v : Nat} (hf : f ≤ 64) (hv : v < 2 ^ 32) :
    s.bar4Write f 0x28 8 v = { s with wdog := Tab.set 0 s.wdog f (BitVec.ofNat 64 v) } := by
  rw [bar4Write_whole hr (by decide) hf (by omega), State.bar4Piece, if_neg (by decide), if_neg (by decide), if_neg (by decide), if_neg (by decide),
    if_neg (by decide), if_pos rfl, if_pos (onlyBits_low hv), Option.getD_some]

/-! ## BAR0 (R70, R71, R94, R95, R338) -/

/-- A piece of the courses' window is one of a descriptor or of a grant table. -/
theorem bar0Piece_course (s : State) {w : Nat} (hlo : 0x80000 ≤ w) (hhi : w < 0xB0000) (v : Nat) : s.bar0Piece w v =
    if w % 0x100 < 0x80 then s.descPiece ((w - 0x80000) / 0x100) (w % 0x100 / 16) (decide (w % 0x100 % 16 = 8)) v
    else if w % 0x100 < 0xA0 then s.grantPiece (4 * ((w - 0x80000) / 0x100) + (w % 0x100 - 0x80) / 8) v
    else if v = 0 then some s else none := by
  rw [State.bar0Piece, if_neg (by omega), if_neg (by omega), if_neg (by omega), if_neg (by omega), if_neg (by omega), if_neg (by omega), if_neg (by omega),
    if_neg (by omega), if_neg (by omega), if_neg (by omega), if_neg (by omega), if_neg (by omega), if_neg (by omega), if_neg (by omega), if_neg (by omega),
    if_neg (by omega), if_neg (by omega), if_neg (by omega), if_neg (by omega), if_pos ⟨hlo, hhi⟩]

/-- A piece of OARCFG (R338). -/
theorem bar0Piece_oar (s : State) {w : Nat} (hlo : 0x6000 ≤ w) (hhi : w < 0x6120) (v : Nat) : s.bar0Piece w v = s.oarPiece w v := by
  rw [State.bar0Piece, if_neg (by omega), if_neg (by omega), if_neg (by omega), if_neg (by omega), if_neg (by omega), if_neg (by omega), if_neg (by omega),
    if_neg (by omega), if_pos ⟨hlo, hhi⟩]

/-- A piece of TRINV (R94). -/
theorem bar0Piece_trinv (s : State) {w : Nat} (h : w = 0x3F000 ∨ w = 0x3F008) (v : Nat) : s.bar0Piece w v = s.trinvPiece w v := by
  rw [State.bar0Piece, if_neg (by omega), if_neg (by omega), if_neg (by omega), if_neg (by omega), if_neg (by omega), if_neg (by omega), if_neg (by omega),
    if_neg (by omega), if_neg (by omega), if_neg (by omega), if_neg (by omega), if_neg (by omega), if_neg (by omega), if_neg (by omega), if_neg (by omega),
    if_neg (by omega), if_pos h]

/-- The piece of a stack's access threshold (R95). -/
theorem bar0Piece_threshold (s : State) (v : Nat) : s.bar0Piece 0x20000 v = s.plainPiece 0x20000 v [(15, 0)] true := by
  rw [State.bar0Piece, if_neg (by decide), if_neg (by decide), if_neg (by decide), if_neg (by decide), if_neg (by decide), if_neg (by decide),
    if_neg (by decide), if_neg (by decide), if_neg (by decide), if_neg (by decide), if_neg (by decide), if_neg (by decide), if_neg (by decide),
    if_pos ⟨by decide, by decide⟩]

section Courses
variable {s : State} {p : Nat} (hp : p < 768)
include hp

/-- The piece at a descriptor's offset is that of the descriptor (R70). -/
theorem bar0Piece_desc {c : Nat} (hc : c < 8) (up : Bool) (v : Nat) : s.bar0Piece (0x80000 + 0x100 * p + 16 * c + (if up then 8 else 0)) v = s.descPiece p c up v := by
  obtain ⟨u, hu, hup⟩ : ∃ u, (if up = true then 8 else 0) = u ∧ (u = 8 ∧ up = true ∨ u = 0 ∧ up = false) := by
    cases up
    · exact ⟨0, rfl, .inr ⟨rfl, rfl⟩⟩
    · exact ⟨8, rfl, .inl ⟨rfl, rfl⟩⟩
  rw [hu, bar0Piece_course s (by omega) (by omega), if_pos (by omega)]
  congr 1
  · omega
  · omega
  · rcases hup with ⟨rfl, rfl⟩ | ⟨rfl, rfl⟩
    · exact decide_eq_true (by omega)
    · exact decide_eq_false (by omega)

/-- The piece at a grant table's offset is that of the table (R71). -/
theorem bar0Piece_grant {w : Nat} (hw : w < 4) (v : Nat) : s.bar0Piece (0x80080 + 0x100 * p + 8 * w) v = s.grantPiece (4 * p + w) v := by
  rw [bar0Piece_course s (by omega) (by omega), if_neg (by omega), if_pos (by omega)]
  congr 1
  omega
end Courses

theorem ofNat_nxor (a b : Nat) : BitVec.ofNat 64 (nxor a b) = BitVec.ofNat 64 a ^^^ BitVec.ofNat 64 b := BitVec.ofNat_xor

/-- A grant table none of whose entries is above 8 is taken (R71). -/
theorem grantPiece_taken (s : State) (k : Nat) {v : Nat} (h : ∀ i < 16, v / 16 ^ i % 16 ≤ 8) : s.grantPiece k v = some { s with
    grantNew := Tab.set 0 s.grantNew k (BitVec.ofNat 64 v ^^^ 0x8888888888888888) } := by
  rw [State.grantPiece, if_pos (List.all_eq_true.mpr fun i hi => decide_eq_true (h i (List.mem_range.mp hi))), ofNat_nxor]
  rfl

/-- One with an entry above 8 is not. -/
theorem grantPiece_bad (s : State) (k : Nat) {v : Nat} (h : ∃ i < 16, 8 < v / 16 ^ i % 16) : s.grantPiece k v = none := by
  obtain ⟨i, hi, hlt⟩ := h
  rw [State.grantPiece, if_neg]
  intro hall
  exact absurd (of_decide_eq_true (List.all_eq_true.mp hall i (List.mem_range.mpr hi))) (Nat.not_le.mpr hlt)

/-! ## TRINV (R94) -/

/-- The upper half of TRINV holds an address space and the bit that starts it. -/
theorem onlyBits_upper {v : Nat} (hv : v < 2 ^ 64) (h : v % 2 ^ 52 ≤ 1) : onlyBits v [(63, 52), (0, 0)] = true := by
  refine (onlyBits_iff v _).mpr ?_
  show bits v 63 52 * 2 ^ 52 + (bits v 0 0 * 2 ^ 0 + 0) = v
  unfold bits
  omega

section Trinv
variable {s : State} (hr : s.responds = true)
include hr

theorem bar0Write_trinvLower {v : Nat} (hv : v < 2 ^ 49) : s.bar0Write 0 0x3F000 8 v = s.setReg 0x3F000 v := by
  rw [bar0Write_whole hr (by decide) (by omega), bar0Piece_trinv s (.inl rfl), State.trinvPiece, if_pos rfl, State.plainPiece,
    if_pos (by rw [onlyBits_low hv]; rfl), Option.getD_some]

theorem bar0Write_trinvUpper {v : Nat} (hv : v < 2 ^ 64) (h : v % 2 ^ 52 ≤ 1) : s.bar0Write 0 0x3F008 8 v = s.trinvTake v (s.reg 0x3F000) := by
  rw [bar0Write_whole hr (by decide) hv, bar0Piece_trinv s (.inr rfl), State.trinvPiece, if_neg (by decide), onlyBits_upper hv h,
    if_neg (by decide), Option.getD_some]
end Trinv

section TrinvDone
variable {s : State} (hd : s.trinvDone = false) (hr : s.riders = [])
include hd hr

/-- With no rider in flight an invalidation is done (R94). -/
theorem trinvEnd_done (hh : s.trinvHeld = []) : s.trinvEnd = { s with trinvDone := true } := by
  rw [State.trinvEnd, hd, hr]
  dsimp only
  rw [if_neg (by exact Bool.false_ne_true), hh]

/-- The oldest held write then starts its invalidation over the range that came with it (R94). -/
theorem trinvEnd_next {h : BitVec 64 × BitVec 64} {t : List (BitVec 64 × BitVec 64)} (hh : s.trinvHeld = h :: t) : s.trinvEnd =
    ({ s with trinvDone := true, trinvHeld := t } : State).post .trinvStart [h.1.toNat, 1 + h.2.toNat] := by
  rw [State.trinvEnd, hd, hr]
  dsimp only
  rw [if_neg (by exact Bool.false_ne_true), hh]
end TrinvDone

/-! ## Reads that change the machine (R95, R386) -/

/-- The oldest report of a stack is returned and removed (R95). -/
theorem reportRead_some {s : State} {st p : Nat} {t : List Nat} (h : Tab.get [] s.reports st = p :: t) (hp : p < 2 ^ 24) : s.reportRead st =
    { s with hostRead := BitVec.ofNat 64 (2 ^ 63 + b2n (Tab.get false s.ovf st) * 2 ^ 62 + p), reports := Tab.set [] s.reports st t
             ovf := Tab.set false s.ovf st false } := by
  rw [State.reportRead, h]
  dsimp only
  rw [Nat.mod_eq_of_lt hp]

theorem ofNat_low32 (x : BitVec 64) : BitVec.ofNat 64 (x.toNat % 2 ^ 32) = x &&& 0xFFFFFFFF := by
  apply BitVec.eq_of_toNat_eq
  rw [BitVec.toNat_ofNat, BitVec.toNat_and, show (0xFFFFFFFF : BitVec 64).toNat = 2 ^ 32 - 1 from rfl, Nat.and_two_pow_sub_one_eq_mod,
    Nat.mod_eq_of_lt (by omega)]

/-! ## REGISTER_WRITE (R386) -/

/-- The access threshold of stack 0 is a 16-bit field (R95). -/
theorem bar0Write_threshold {s : State} (hr : s.responds = true) {v : Nat} (hv : v < 2 ^ 64) :
    s.bar0Write 0 0x20000 8 v = if v < 2 ^ 16 then s.setReg 0x20000 v else s.reject 0x20000 := by
  rw [bar0Write_whole hr (by decide) hv, bar0Piece_threshold, State.plainPiece]
  by_cases h : v < 2 ^ 16
  · rw [if_pos (by rw [onlyBits_low h]; rfl), if_pos h, Option.getD_some]
  · rw [if_neg, if_neg h, Option.getD_none]
    intro hb
    have hsum : bits v 15 0 * 2 ^ 0 + 0 = v := (onlyBits_iff v _).mp ((Bool.and_true _).symm.trans hb)
    unfold bits at hsum
    omega

/-- OARCFG_WRITE is a write of one piece of OARCFG (R338). -/
theorem exec_oarcfgWrite {s : State} (hr : s.responds = true) {n v : Nat} {up : Bool} (h0 : s.arg 0 = 0)
    (h1 : s.arg 1 = 0x6000 + 16 * n + (if up then 8 else 0)) (h2 : s.arg 2 = v) (hv : v < 2 ^ 64) (hn : n < 18) :
    exec .oarcfgWrite s = .next ((s.oarPiece (s.arg 1) v).getD (s.reject (s.arg 1))) := by
  have hw : s.arg 1 % 8 = 0 := by rw [h1]; cases up <;> simp <;> omega
  have hwin : 0x6000 ≤ s.arg 1 ∧ s.arg 1 < 0x6120 := by rw [h1]; cases up <;> simp <;> omega
  refine congrArg Host.Outcome.next ((if_pos hwin).trans ?_)
  rw [h0, h2, Nat.div_mul_cancel (Nat.dvd_of_mod_eq_zero hw), bar0Write_whole hr hw hv, bar0Piece_oar s hwin.1 hwin.2]

/-- Settles O58, clause by clause. -/
theorem registerEvents : Obligations.RegisterEvents := by
  unfold Obligations.RegisterEvents
  refine ⟨?_, ?_, ?_, ?_, ?_, ?_, ?_, ?_, ?_, ?_, ?_, ?_⟩
  · intro s f hf hle hr
    subst hf
    exact congrArg Host.Outcome.next (bar4Write_fqpop hr hle)
  · intro s f v hf hv hle hr hbits
    subst hf hv
    exact ⟨congrArg Host.Outcome.next (bar4Write_intst hr hle hbits), congrArg Host.Outcome.next (bar4Write_inten hr hle hbits)⟩
  · intro s p c v up h0 h1 h2 hv hp hc hr
    have hw : s.arg 1 % 8 = 0 := by rw [h1]; cases up <;> simp <;> omega
    have hwin : 0x80000 ≤ s.arg 1 ∧ s.arg 1 < 0xB0000 ∧ s.arg 1 % 0x100 < 0x80 := by rw [h1]; cases up <;> simp <;> omega
    have hgo : exec .courseDescriptorWrite s = .next ((s.descPiece p c up v).getD (s.reject (s.arg 1))) := by
      refine congrArg Host.Outcome.next ((if_pos hwin).trans ?_)
      rw [h0, h2, Nat.div_mul_cancel (Nat.dvd_of_mod_eq_zero hw), bar0Write_whole hr hw hv, h1, bar0Piece_desc hp hc]
    exact ⟨fun u hu => by rw [hgo, hu, Option.getD_some], fun hn => by rw [hgo, hn, Option.getD_none]⟩
  · intro s p w v h0 h1 h2 hv hp hw4 hr
    have hw : s.arg 1 % 8 = 0 := by omega
    have hwin : 0x80000 ≤ s.arg 1 ∧ s.arg 1 < 0xB0000 ∧ 0x80 ≤ s.arg 1 % 0x100 ∧ s.arg 1 % 0x100 < 0xA0 := by omega
    have hgo : exec .grantTableWrite s = .next ((s.grantPiece (4 * p + w) v).getD (s.reject (s.arg 1))) := by
      refine congrArg Host.Outcome.next ((if_pos hwin).trans ?_)
      rw [h0, h2, Nat.div_mul_cancel (Nat.dvd_of_mod_eq_zero hw), bar0Write_whole hr hw hv, h1, bar0Piece_grant hp hw4]
    exact ⟨fun h => by rw [hgo, grantPiece_taken s _ h, Option.getD_some], fun h => by rw [hgo, grantPiece_bad s _ h, Option.getD_none]⟩
  · intro s u n v up h0 h1 h2 hv hn hr hu
    rw [exec_oarcfgWrite hr h0 h1 h2 hv hn, hu, Option.getD_some]
  · intro s n v up h0 h1 h2 hv hn hr hu
    rw [exec_oarcfgWrite hr h0 h1 h2 hv hn, hu, Option.getD_none]
  · intro s v h0 hr
    subst h0
    refine ⟨fun hv => congrArg Host.Outcome.next (bar0Write_trinvLower hr hv), fun h1 hv h => congrArg Host.Outcome.next ?_,
      fun lo h1 hd => congrArg Host.Outcome.next ?_⟩
    · exact (if_pos h1).trans (bar0Write_trinvUpper hr hv h)
    · refine (if_neg (by omega)).trans ?_
      rw [h1, Nat.add_sub_cancel_left]
      exact if_pos hd
  · exact fun s hd hr => ⟨fun hh => congrArg Host.Outcome.next (trinvEnd_done hd hr hh), fun h t hh => congrArg Host.Outcome.next (trinvEnd_next hd hr hh)⟩
  · intro s st p t h0 hr ht hp
    subst h0
    exact congrArg Host.Outcome.next ((if_pos hr).trans (reportRead_some ht hp))
  · intro s hr
    refine congrArg Host.Outcome.next ((if_pos hr).trans ?_)
    rw [State.wrejRead, ofNat_low32]
  · intro s hr
    have hno : ¬ s.responds = true := by rw [hr]; exact Bool.false_ne_true
    refine ⟨congrArg Host.Outcome.next (if_neg hno), congrArg Host.Outcome.next (if_neg hno), congrArg Host.Outcome.next (if_neg ?_)⟩
    rw [hr]
    exact Bool.false_ne_true
  · intro s f v hf hv hr
    subst hf hv
    have hgo : exec .registerWrite s = .next (s.registerWrite (s.arg 0) (s.arg 1) (s.arg 2) (s.arg 3) (s.arg 4)) := rfl
    refine ⟨fun h0 h2 h3 hle hlt => ?_, fun h0 h2 h3 hf hlt => ?_, fun h0 h2 h3 hf => ?_⟩
    · rw [hgo, h0, h2, h3]
      exact congrArg Host.Outcome.next (bar4Write_wdog hr hle hlt)
    · rw [hgo, h0, h2, h3, hf]
      exact congrArg Host.Outcome.next (bar0Write_threshold hr hlt)
    · rw [hgo, h0, h2, h3]
      exact congrArg Host.Outcome.next (bar0Write_foreign hr (by decide) hf _)

end Sys2Proof.Machine

/-! # Events of host, oar and die links (R337 to R340, R407, R409, R410) -/

namespace Sys2Proof.Machine

/-! ## Folds -/

/-- What every step of a fold preserves, the fold preserves. -/
theorem foldl_preserves {α : Type} {P : State → Prop} {f : State → α → State} (h : ∀ s x, P s → P (f s x)) (l : List α) : ∀ s : State,
    P s → P (l.foldl f s) := by
  induction l with
  | nil => exact fun _ hs => hs
  | cons x l ih => exact fun s hs => ih (f s x) (h s x hs)

/-- What one step of a fold establishes and every step preserves, holds after a fold with that step. -/
theorem foldl_reaches {α : Type} {P : State → Prop} {f : State → α → State} (h : ∀ s x, P s → P (f s x)) {x : α} (hx : ∀ s, P (f s x))
    {l : List α} (hm : x ∈ l) : ∀ s : State, P (l.foldl f s) := by
  induction l with
  | nil => exact absurd hm List.not_mem_nil
  | cons y l ih =>
    intro s
    rcases List.mem_cons.mp hm with rfl | hm
    · exact foldl_preserves h l _ (hx s)
    · exact ih hm _

/-! ## Interrupt bits -/

theorem raiseInt_intst (s : State) (f b g : Nat) :
    Tab.get 0 (s.raiseInt f b).intst g = if g = f then Tab.get 0 s.intst f ||| BitVec.ofNat 64 (2 ^ b) else Tab.get 0 s.intst g :=
  Tab.get_set 0 s.intst f g _

/-- A bit of INTST of function `f` is set. -/
def State.intBit (s : State) (f b : Nat) : Prop := (Tab.get 0 s.intst f).getLsbD b = true

theorem raiseInt_intBit_keeps (s : State) (g c f b : Nat) (h : s.intBit f b) : (s.raiseInt g c).intBit f b := by
  rw [State.intBit] at h ⊢
  rw [raiseInt_intst]
  split
  · next he => rw [← he, BitVec.getLsbD_or, h, Bool.true_or]
  · exact h

/-- LINK, bit 3 of INTST, after it was raised. -/
theorem raiseInt_link (s : State) (f : Nat) : (s.raiseInt f 3).intBit f 3 := by
  rw [State.intBit, raiseInt_intst, if_pos rfl, BitVec.getLsbD_or]
  exact Bool.or_true _

theorem queueRec_intBit_keeps (s : State) (r : BitVec 512) (f b : Nat) (h : s.intBit f b) : (s.queueRec r).intBit f b := by
  unfold State.queueRec
  dsimp only
  split
  · exact raiseInt_intBit_keeps _ _ _ f b h
  · exact h

/-- Team `tm` told to end. -/
def Team.toEnd (tm : Team) (st code : Nat) : Team :=
  { tm with ending := some (st, code), saved := tm.saved.map (fun k => { k with trapq := [] }) }

/-- Ending a team leaves the state, or queues the records that wait, marks the team and stops its cores. -/
theorem endTeam_forms (s : State) (t st code : Nat) : s.endTeam t st code = s ∨
    ∃ tm cs, s.endTeam t st code =
      ({ ((s.waitingRecs t tm).foldl State.queueRec s).modTeam t (fun tm => tm.toEnd st code) with cores := cs } : State).post .teamEnd [t] := by
  unfold State.endTeam
  split
  · exact Or.inl rfl
  · next tm _ =>
    split
    · exact Or.inl rfl
    · refine Or.inr ⟨tm, ?_⟩
      dsimp only
      split
      · exact ⟨_, rfl⟩
      · obtain ⟨cs, h⟩ := foldl_modCore_only (fun k => { k with run := .stopped, pend := [], trapq := [] }) tm.cores
          (((s.waitingRecs t tm).foldl State.queueRec s).modTeam t (fun tm => tm.toEnd st code))
        exact ⟨cs, congrArg (fun s : State => s.post .teamEnd [t]) h⟩

theorem endTeam_intBit_keeps (s : State) (t st code f b : Nat) (h : s.intBit f b) : (s.endTeam t st code).intBit f b := by
  obtain he | ⟨tm, cs, he⟩ := endTeam_forms s t st code
  · rw [he]
    exact h
  · rw [he]
    exact foldl_preserves (P := fun s => s.intBit f b) (fun s r => queueRec_intBit_keeps s r f b) _ s h

theorem raiseLinks_intBit (l : List Nat) {f : Nat} (hm : f ∈ l) (s : State) : (l.foldl (fun (s : State) f => s.raiseInt f 3) s).intBit f 3 :=
  foldl_reaches (P := fun s => s.intBit f 3) (fun s g => raiseInt_intBit_keeps s g 3 f 3) (fun s => raiseInt_link s f) hm s

/-! ## Teams that end together -/

theorem endTeam_team?_other (s : State) {t n st code : Nat} (h : n ≠ t) : (s.endTeam t st code).team? n = s.team? n := by
  obtain he | ⟨tm, cs, he⟩ := endTeam_forms s t st code
  · rw [he]
  · obtain ⟨q, l, a, b, m, hq⟩ := queueRecs_only (s.waitingRecs t tm) s
    rw [he, hq]
    exact team_modTeam_other _ t n _ h

/-- A team that ends already is left as it is. -/
theorem endTeam_again {s : State} {t st code : Nat} {e : Nat × Nat} (h : (s.team? t).bind Team.ending = some e) : s.endTeam t st code = s := by
  obtain ⟨tm, htm, he⟩ := Option.bind_eq_some_iff.mp h
  rw [State.endTeam, htm]
  dsimp only
  rw [if_pos (Or.inl (by rw [he]; rfl))]

/-- Every team of the list ends, where each step ends its own team, after what leaves the teams. -/
theorem foldl_endTeam_ending {α : Type} {f : State → α → State} {key : α → Nat} {st code : Nat}
    (hf : ∀ s x, ∃ u : State, u.teams = s.teams ∧ f s x = u.endTeam (key x) st code) {t : Nat} {tm : Team} (hend : tm.ending = none)
    (hst : tm.st ≠ .ended) (l : List α) : ∀ s : State,
    ((s.team? t).bind Team.ending = some (st, code) ∨ (s.team? t = some tm ∧ ∃ x ∈ l, key x = t)) →
      ((l.foldl f s).team? t).bind Team.ending = some (st, code) := by
  induction l with
  | nil => exact fun s h => h.resolve_right fun ⟨_, x, hx, _⟩ => absurd hx List.not_mem_nil
  | cons y l ih =>
    intro s h
    obtain ⟨u, hu, hy⟩ := hf s y
    have hut : u.team? t = s.team? t := congrArg (·[t]?) hu
    refine ih (f s y) ?_
    rw [hy]
    by_cases hk : t = key y
    · subst hk
      refine Or.inl ?_
      rcases h with h | ⟨h, _⟩
      · rw [endTeam_again (hut ▸ h), hut]
        exact h
      · rw [(endTeam_ending u (key y) st code tm (hut.trans h) hend hst).1]
        rfl
    · rw [endTeam_team?_other u hk, hut]
      refine h.imp_right fun ⟨hs, x, hx, hxk⟩ => ⟨hs, x, (List.mem_cons.mp hx).resolve_left ?_, hxk⟩
      rintro rfl
      exact hk hxk.symm

/-! ## Host links -/

theorem hostFail_only (s : State) (id status : Nat) : ∃ rs g, s.hostFail id status = { s with riders := rs, turns := g } := by
  unfold State.hostFail
  split
  · exact ⟨_, _, rfl⟩
  · split
    · dsimp only
      split
      · unfold State.riderOver
        split
        · split
          · exact ⟨_, _, rfl⟩
          · exact ⟨_, _, rfl⟩
        · exact ⟨_, _, rfl⟩
      · exact ⟨_, _, rfl⟩
    · exact ⟨_, _, rfl⟩

theorem hostCuts_only (l : List Rider) : ∀ s : State,
    ∃ rs g n, l.foldl (fun (s : State) r => s.hostCut r.id) s = { s with riders := rs, turns := g, fresh := n } := by
  induction l with
  | nil => exact fun s => ⟨_, _, _, rfl⟩
  | cons r l ih =>
    intro s
    obtain ⟨rs, g, h⟩ := hostFail_only ({ s with fresh := s.fresh + 1 } : State) r.id (Config.cutStatus s.fresh).toNat
    obtain ⟨rs', g', n, h'⟩ := ih (s.hostCut r.id)
    exact ⟨rs', g', n, by rw [List.foldl_cons, h', State.hostCut, h]⟩

theorem raiseLinks_only (l : List Nat) : ∀ s : State,
    ∃ a b m, l.foldl (fun (s : State) f => s.raiseInt f 3) s = { s with intst := a, inten := b, msix := m } := by
  induction l with
  | nil => exact fun s => ⟨_, _, _, rfl⟩
  | cons f l ih =>
    intro s
    obtain ⟨a, b, m, h⟩ := ih (s.raiseInt f 3)
    exact ⟨a, b, m, by rw [List.foldl_cons, h]; rfl⟩

theorem mem_carried {s : State} {l f : Nat} (hf : f < 65) (h : s.linkOf f = l) : f ∈ s.carried l :=
  List.mem_filter.mpr ⟨List.mem_range.mpr hf, decide_eq_true h⟩

theorem linkRec_func (s : State) {f : Nat} (hf : f < 256) (loc op0 op1 : Nat) : recBits (s.linkRec f loc op0 op1) 423 416 = f :=
  RecF.recBits_pack _ 10 (by decide) rfl hf

theorem getD_set_same {α : Type} {l : List α} {n : Nat} (h : n < l.length) (v d : α) : (l.set n v).getD n d = v := by
  rw [List.getD_eq_getElem?_getD, List.getElem?_set_self h]
  rfl

/-- The loss of a host link that was up (R407). -/
theorem dlDown_up {s : State} {l : Nat} (hl : l < 2) (hlen : l < s.hostLinkUp.length) (hup : s.hostLinkUp.getD l true = true) :
    (s.dlDown l).hostLinkUp.getD l true = false ∧ (s.dlDown l).mem = s.mem ∧
      ((Tab.get [] s.fq 0).length < 64 → Tab.get [] (s.dlDown l).fq 0 = Tab.get [] s.fq 0 ++ [s.linkRec 0 (32 + l) 0 0]) ∧
      ∀ f < 65, s.linkOf f = l → (s.dlDown l).intBit f 3 := by
  have hcar : ∀ (rs g n), ({ s with hostLinkUp := s.hostLinkUp.set l false, riders := rs, turns := g, fresh := n } : State).carried l = s.carried l :=
    fun _ _ _ => rfl
  rw [State.dlDown, if_neg (by rw [hup]; exact fun h => h.elim (Nat.not_le.mpr hl) nofun)]
  dsimp only
  obtain ⟨rs, g, n, hcut⟩ := hostCuts_only ((({ s with hostLinkUp := s.hostLinkUp.set l false } : State).riders.filter
    (fun r => decide (r.kind = .imp ∨ r.kind = .exp) && r.host
      && decide (({ s with hostLinkUp := s.hostLinkUp.set l false } : State).hostLink r = l ∧ r.fail.isNone))))
    { s with hostLinkUp := s.hostLinkUp.set l false }
  rw [hcut]
  have hrec := linkRec_func ({ s with hostLinkUp := s.hostLinkUp.set l false, riders := rs, turns := g, fresh := n } : State) (f := 0) (by decide) (32 + l) 0 0
  obtain ⟨q, l', a, b, m, hq⟩ := queueRec_only ({ s with hostLinkUp := s.hostLinkUp.set l false, riders := rs, turns := g, fresh := n } : State)
    (State.linkRec { s with hostLinkUp := s.hostLinkUp.set l false, riders := rs, turns := g, fresh := n } 0 (32 + l) 0 0)
  have hfq := queueRec_fq ({ s with hostLinkUp := s.hostLinkUp.set l false, riders := rs, turns := g, fresh := n } : State)
    (State.linkRec { s with hostLinkUp := s.hostLinkUp.set l false, riders := rs, turns := g, fresh := n } 0 (32 + l) 0 0) 0
  rw [hrec, hq, if_pos rfl] at hfq
  rw [hq]
  obtain ⟨a', b', m', hr⟩ := raiseLinks_only (State.carried { s with
    hostLinkUp := s.hostLinkUp.set l false, riders := rs, turns := g, fresh := n, fq := q, lost := l', intst := a, inten := b, msix := m } l)
    { s with hostLinkUp := s.hostLinkUp.set l false, riders := rs, turns := g, fresh := n, fq := q, lost := l', intst := a, inten := b, msix := m }
  refine ⟨?_, ?_, fun h => ?_, fun f hf hlf => raiseLinks_intBit _ (mem_carried (s := s) hf hlf) _⟩
  · rw [hr]
    exact getD_set_same hlen _ _
  · rw [hr]
  · rw [hr]
    exact hfq h

theorem dlUp_down {s : State} {l : Nat} (hl : l < 2) (hlen : l < s.hostLinkUp.length) (hup : s.hostLinkUp.getD l true = false) :
    (s.dlUp l).hostLinkUp.getD l false = true ∧ (s.dlUp l).mem = s.mem := by
  rw [State.dlUp, if_neg (by rw [hup]; exact fun h => h.elim (Nat.not_le.mpr hl) nofun)]
  obtain ⟨a, b, m, hr⟩ := raiseLinks_only (s.carried l) s
  dsimp only
  rw [hr]
  exact ⟨getD_set_same hlen _ _, rfl⟩

/-! ## Packets (R339, R340) -/

theorem oar_modOar_same {s : State} {n : Nat} (h : n < s.oars.length) (f : Oar → Oar) : (s.modOar n f).oar n = f (s.oar n) := by
  rw [State.oar, State.oar, State.modOar, List.getD_eq_getElem?_getD, List.getElem?_modify_eq, List.getD_eq_getElem?_getD, List.getElem?_eq_getElem h]
  rfl

/-- A link changed where it is known. -/
theorem modOar_eq_set (s : State) {n : Nat} (h : n < s.oars.length) (f : Oar → Oar) : s.modOar n f = { s with oars := s.oars.set n (f (s.oar n)) } := by
  rw [State.modOar, @List.modify_eq_set _ ⟨Oar.down⟩, State.oar, List.getD_eq_getElem?_getD, List.getElem?_eq_getElem h] <;> rfl

/-- The header of a packet sent carries its SEQN in bits [191:176]. -/
theorem seqn_of_header (h : BitVec 256) {n : Nat} (hn : n < 2 ^ 16) (time : Nat) :
    bits (BitVec.ofNat 256 (h.toNat % 2 ^ 176 + n * 2 ^ 176 + time * 2 ^ 192)).toNat 191 176 = n := by
  rw [BitVec.toNat_ofNat, bits]
  omega

theorem rider?_modOar (s : State) (n : Nat) (f : Oar → Oar) (id : Nat) : (s.modOar n f).rider? id = s.rider? id := rfl

/-- Packet `p` as link `n` sends it: with the next SEQN and the time (R339). -/
def State.sentPacket (s : State) (n : Nat) (p : OarPkt) : OarPkt :=
  { p with hdr := BitVec.ofNat 256 (p.hdr.toNat % 2 ^ 176 + (s.oar n).nextSeq * 2 ^ 176 + s.dieNs 4 * 2 ^ 192) }

theorem words_of_hdr (p : OarPkt) (h : BitVec 256) : ({ p with hdr := h } : OarPkt).words = p.words := rfl

theorem words_sentPacket (s : State) (n : Nat) (p : OarPkt) : (s.sentPacket n p).words = p.words := words_of_hdr p _

theorem seqn_sentPacket (s : State) (n : Nat) (p : OarPkt) (h : (s.oar n).nextSeq < 2 ^ 16) : (s.sentPacket n p).seqn = (s.oar n).nextSeq := by
  rw [OarPkt.seqn, State.sentPacket]
  exact seqn_of_header p.hdr h (s.dieNs 4)

/-- The next packet of a link is sent, where its rider is gone. -/
theorem oarSend_sends {s : State} {n : Nat} {o : Oar} {p : OarPkt} (ho : s.oar n = o) (hq : o.sendq = [p]) (hl : o.lup = true)
    (he : s.oarEn n = true) (hu : o.unacked.length < 1024) (hr : s.rider? p.rider = none) :
    s.oarSend n = s.modOar n (fun o => { o with
      sendq := [], nextSeq := (o.nextSeq + 1) % 2 ^ 16, unacked := o.unacked ++ [s.sentPacket n p] }) := by
  have hgo : ¬ ((!o.lup) = true ∨ s.oarEn n = false ∨ 1024 ≤ o.unacked.length) := by
    rw [hl, he]
    exact fun h => h.elim nofun fun h => h.elim nofun (Nat.not_le.mpr hu)
  rw [State.oarSend, State.sentPacket]
  dsimp only
  rw [ho, hq]
  dsimp only
  rw [if_neg hgo]
  rw [rider?_modOar, hr]
  exact if_pos rfl

/-- The oldest packet received leaves the link; one that is no data packet is acted on at once (R339). -/
theorem oarTake_other {s : State} {n : Nat} {o : Oar} {p : OarPkt} {t : List OarPkt} (ho : s.oar n = o) (hr : o.recv = p :: t) (hw : s.waiting = [])
    (h1 : bits p.hdr.toNat 175 172 ≠ 1) (h2 : bits p.hdr.toNat 175 172 = 2 → p.stale = true) :
    s.oarTake n = s.modOar n (fun o => { o with recv := t }) := by
  have hack : ¬ (bits p.hdr.toNat 175 172 = 2 ∧ p.stale = false) := fun ⟨h, hs⟩ => Bool.false_ne_true (hs.symm.trans (h2 h))
  rw [State.oarTake, ho, hr]
  dsimp only
  rw [hw, List.any_nil, if_neg hack, if_pos h1]
  exact if_neg Bool.false_ne_true

theorem oarTake_ack {s : State} {n : Nat} {o : Oar} {p : OarPkt} {t : List OarPkt} (ho : s.oar n = o) (hr : o.recv = p :: t) (hw : s.waiting = [])
    (h2 : bits p.hdr.toNat 175 172 = 2) (hs : p.stale = false) :
    s.oarTake n = (s.modOar n (fun o => { o with recv := t })).oarAck n p.seqn := by
  have hack : bits p.hdr.toNat 175 172 = 2 ∧ p.stale = false := ⟨h2, hs⟩
  rw [State.oarTake, ho, hr]
  dsimp only
  rw [hw, List.any_nil, if_pos hack]
  exact if_neg Bool.false_ne_true

theorem oarTake_held {s : State} {n : Nat} (hw : s.waiting.any (fun q => decide (q.owner = .oar n)) = true) : s.oarTake n = s := by
  rw [State.oarTake]
  dsimp only
  split
  · rfl
  · exact if_pos hw

/-- With no event operands beyond the link nothing arrives. -/
theorem oarPacketReceive_none {s : State} {n : Nat} (h0 : s.arg 0 = n) (hev : s.ev = [n]) : exec .oarPacketReceive s = .next (s.oarTake n) := by
  subst h0
  refine congrArg Host.Outcome.next ?_
  rw [hev]

theorem oarPacketReceive_arrives {s : State} {n h : Nat} {ws : List Nat} (hev : s.ev = n :: h :: ws) (hc : s.carries n = true) :
    exec .oarPacketReceive s = .next ((s.modOar n (fun o =>
      { o with recv := o.recv ++ [(⟨BitVec.ofNat 256 h, ws.map (BitVec.ofNat 32), 0, 36, none⟩ : OarPkt)] })).oarTake n) := by
  have h0 : s.arg 0 = n := by rw [State.arg, hev]; rfl
  refine congrArg Host.Outcome.next ?_
  rw [h0, hev, hc]

theorem oarPacketReceive_lost {s : State} {n h : Nat} {ws : List Nat} (hev : s.ev = n :: h :: ws) (hc : s.carries n = false) :
    exec .oarPacketReceive s = .next (s.oarTake n) := by
  have h0 : s.arg 0 = n := by rw [State.arg, hev]; rfl
  refine congrArg Host.Outcome.next ?_
  rw [h0, hev, hc]

/-! ## A data packet (R340) -/

/-- A state that differs from another in its riders, walks and their accounts alone. -/
def State.SameButRiders (s u : State) : Prop :=
  ∃ rs wt wk i a, u = { s with riders := rs, waiting := wt, walks := wk, nextId := i, acct := a }

theorem sameButRiders_ite {s u v : State} {p : Prop} [Decidable p] (hu : s.SameButRiders u) (hv : s.SameButRiders v) :
    s.SameButRiders (if p then u else v) := by
  split
  · exact hu
  · exact hv

theorem sameButRiders_trans {s u v : State} (hu : s.SameButRiders u) (hv : u.SameButRiders v) : s.SameButRiders v := by
  obtain ⟨_, _, _, _, _, rfl⟩ := hu
  exact hv

/-- What a pass of a walk can be: a rider that waits, a rider in slots, or the walk's end. `walkPass` is unfolded as a function, not at its operands, and
its course is generalised before its local values are put in: the kernel would else evaluate the course of a symbolic address. -/
theorem walkPass_forms {P : State → Prop} {s : State} {w : Walk} (hwait : ∀ wk q, P { s with walks := wk, waiting := s.waiting ++ [q] })
    (htake : ∀ wk q time ps, P (State.takeSlots { s with walks := wk } q time ps)) (hover : ∀ r, P (s.walkOver w r)) (lv tab : Nat) :
    P (s.walkPass w lv tab) := by
  obtain ⟨f, hf⟩ : ∃ f, f = State.walkPass := ⟨_, rfl⟩
  rw [← hf]
  conv at hf => { rhs; unfold State.walkPass }
  rw [hf]
  dsimp -zeta only
  extract_lets +onlyGivenNames address
  generalize s.crsOfPa address = course
  rcases course with _ | ⟨p, c⟩
  · exact hover _
  · generalize (if w.tile < 48 then 32 + w.tile / 12 else 36) = acct
    dsimp only
    split
    · split
      · exact hwait _ _
      · exact htake _ _ _ _
    · exact hover _

theorem walkPass_only (s : State) (w : Walk) (lv tab : Nat) : s.SameButRiders (s.walkPass w lv tab) :=
  walkPass_forms (fun _ _ => ⟨_, _, _, _, _, rfl⟩) (fun _ _ _ _ => ⟨_, _, _, _, _, rfl⟩) (fun _ => ⟨_, _, _, _, _, rfl⟩) lv tab

theorem startWalk_only (s : State) (tile asid va : Nat) : s.SameButRiders (s.startWalk tile asid va) := by
  unfold State.startWalk
  dsimp only
  refine sameButRiders_ite ⟨_, _, _, _, _, rfl⟩ (sameButRiders_ite ⟨_, _, _, _, _, rfl⟩ ?_)
  exact sameButRiders_trans ⟨_, _, _, _, _, rfl⟩ (walkPass_only ..)

theorem startWalks_only (tile asid : Nat) (l : List Nat) (s : State) : s.SameButRiders (s.startWalks tile asid l) :=
  foldl_preserves (P := s.SameButRiders) (fun _ va h => sameButRiders_trans h (startWalk_only _ tile asid va)) l s ⟨_, _, _, _, _, rfl⟩

theorem tryAdmit_only (s : State) (r : Rider) (die tile : Nat) : s.SameButRiders (s.tryAdmit r die tile).2 := by
  by_cases hm : (s.find tile r).miss = []
  · obtain ⟨_, h⟩ | ⟨q, ps, _, _, _, _, h⟩ := tryAdmit_step (die := die) hm
    · exact ⟨_, _, _, _, _, h⟩
    · rw [h]
      exact ⟨_, _, _, _, _, rfl⟩
  · obtain ⟨x, l, hx⟩ := List.exists_cons_of_ne_nil hm
    rw [State.tryAdmit]
    dsimp only
    rw [hx]
    exact startWalks_only tile r.asid (x :: l) s

theorem admitOrWait_only (s : State) (r : Rider) (die tile : Nat) : s.SameButRiders (s.admitOrWait r die tile) :=
  sameButRiders_ite (tryAdmit_only s r die tile) (sameButRiders_trans (tryAdmit_only s r die tile) ⟨_, _, _, _, _, rfl⟩)

/-- With no rider aboard no window is open: every word of a packet is a deposit. -/
theorem packetWords_none {s : State} (h : s.riders = []) (runs : List (Nat × Nat × Nat × Option Nat)) (n : Nat) :
    s.packetWords runs n = List.replicate n none := by
  have hnone : ∀ pa, s.windowAt pa = none := fun pa => by rw [State.windowAt, h, List.find?_nil]
  refine List.eq_replicate_iff.mpr ⟨by rw [State.packetWords, List.length_map, List.length_range], fun b hb => ?_⟩
  obtain ⟨i, _, rfl⟩ := List.mem_map.mp hb
  split
  · rfl
  · next r _ =>
    exact congrArg (Option.map _) (hnone (r.1 + 4 * (i - r.2.2.1)))

theorem runsOf_range' (n p : Nat) (hn : n < 2 ^ 20) : runsOf (List.range' p (n + 1)) = [(p, n + 1)] := by
  induction n generalizing p with
  | zero => rfl
  | succ n ih =>
    rw [List.range'_succ, runsOf, ih (p + 1) (Nat.lt_of_succ_lt hn)]
    exact if_pos ⟨rfl, hn⟩

theorem runsOf_range {n : Nat} (h0 : 0 < n) (hn : n ≤ 2 ^ 20) : runsOf (List.range n) = [(0, n)] := by
  obtain ⟨m, rfl⟩ := Nat.exists_eq_succ_of_ne_zero (Nat.pos_iff_ne_zero.mp h0)
  rw [List.range_eq_range']
  exact runsOf_range' m 0 hn

/-- A rider that deposits the words of a packet from word `i` on (R340). -/
def State.packetDeposit (s : State) (n : Nat) (p : OarPkt) (i len : Nat) : Rider :=
  { Rider.ask .dep (.oar n) 36 (bits (s.reg (0x6000 + 16 * n + 8)) 35 28) (bits (s.reg (0x6000 + 16 * n + 8)) 47 36) none
      (mkRecord len 0 0 0 0) (bits p.hdr.toNat 48 0 + 4 * i) p.seqn with
    src := (List.range len).map (fun j => p.words.getD (i + j) 0) }

/-- The rider of a whole packet. -/
theorem packetDeposit_whole (s : State) (n : Nat) (p : OarPkt) (len : Nat) : s.packetDeposit n p 0 len =
    { Rider.ask .dep (.oar n) 36 (bits (s.reg (0x6000 + 16 * n + 8)) 35 28) (bits (s.reg (0x6000 + 16 * n + 8)) 47 36) none
        (mkRecord len 0 0 0 0) (bits p.hdr.toNat 48 0) p.seqn with
      src := (List.range len).map (fun j => p.words.getD j 0) } := by
  simp only [State.packetDeposit, Nat.mul_zero, Nat.add_zero, Nat.zero_add]

/-- A link after it has taken in packet `p`, the first of those received. -/
def Oar.takes (o : Oar) (p : OarPkt) (t : List OarPkt) : Oar :=
  { o with recv := t, taken := if p.stale then o.taken else o.taken ++ [(p.seqn, [])] }

section Data
variable {s : State} {n : Nat} {o : Oar} {p : OarPkt} {t : List OarPkt} (ho : s.oar n = o) (hr : o.recv = p :: t) (hw : s.waiting = [])
  (h1 : bits p.hdr.toNat 175 172 = 1)
  (hx : (s.xlate 48 (bits (s.reg (0x6000 + 16 * n + 8)) 47 36) true (bits p.hdr.toNat 48 0) (bits p.hdr.toNat 171 166 + 1) 0 1025).miss = [])
include ho hr hw h1 hx

/-- A data packet whose pages are there becomes contributions and deposits, and its acknowledgement is asked for. -/
theorem oarTake_data : ∃ cs rest,
    s.oarTake n = (List.range cs.length).foldr (fun i (s' : State) => s'.post .landingContribution [s.contribs.length + i])
      ((rest.foldl (fun (s' : State) r => s'.admitOrWait (s.packetDeposit n p r.1 r.2) 4 48)
        ({ s.modOar n (fun o => o.takes p t) with contribs := s.contribs ++ cs } : State)).post .oarAckSend [n]) ∧
    (s.riders = [] → cs = [] ∧ rest = [(0, bits p.hdr.toNat 171 166 + 1)]) := by
  have h2 : ¬ (bits p.hdr.toNat 175 172 = 2 ∧ p.stale = false) := fun h => absurd (h1.symm.trans h.1) (by decide)
  have hlt : bits p.hdr.toNat 171 166 < 2 ^ 20 := Nat.lt_trans (Nat.mod_lt _ (by decide)) (by decide)
  rw [State.oarTake, ho, hr]
  dsimp only
  rw [hw, List.any_nil, if_neg h2, if_neg (not_not_intro h1), hx]
  refine ⟨_, _, (if_neg Bool.false_ne_true).trans (if_neg Bool.false_ne_true), fun hrid => ?_⟩
  rw [packetWords_none hrid]
  have hget : ∀ i, ((List.replicate (bits p.hdr.toNat 171 166 + 1) (none : Option (Nat × Nat)))[i]?).bind id = none := fun i => by
    rw [List.getElem?_replicate]
    split <;> rfl
  simp only [hget, Option.map_none, Option.isNone_none]
  rw [List.filter_eq_self.mpr fun _ _ => rfl]
  exact ⟨List.filterMap_eq_nil_iff.mpr fun _ _ => rfl, runsOf_range (Nat.succ_pos _) (Nat.succ_le_of_lt hlt)⟩

end Data

section Receive
variable {s : State} {n : Nat} {o : Oar} {p : OarPkt} {t : List OarPkt} (hn : n < s.oars.length) (ho : s.oar n = o) (hr : o.recv = p :: t)
  (hw : s.waiting = []) (h1 : bits p.hdr.toNat 175 172 = 1)
  (hx : (s.xlate 48 (bits (s.reg (0x6000 + 16 * n + 8)) 47 36) true (bits p.hdr.toNat 48 0) (bits p.hdr.toNat 171 166 + 1) 0 1025).miss = [])
include ho hr hw h1 hx

theorem oarTake_keeps {α : Type} (get : State → α) (hpost : ∀ (u : State) i a, get (u.post i a) = get u)
    (hrid : ∀ {u v : State}, u.SameButRiders v → get v = get u) :
    ∃ cs, get (s.oarTake n) = get { s.modOar n (fun o => o.takes p t) with contribs := s.contribs ++ cs } := by
  obtain ⟨cs, rest, he, _⟩ := oarTake_data ho hr hw h1 hx
  refine ⟨cs, ?_⟩
  rw [he, ← List.foldl_reverse]
  refine (foldl_keeps get _ ?_ _ _).trans ((hpost _ _ _).trans ?_)
  · exact fun u i => hpost u _ _
  · exact foldl_keeps get _ (fun u r => hrid (admitOrWait_only u _ _ _)) rest _

/-- A data packet whose pages are there leaves those received and is noted as taken, which changes no byte. -/
theorem oarTake_takes (hn : n < s.oars.length) : (s.oarTake n).oar n = o.takes p t ∧ (s.oarTake n).mem = s.mem := by
  have hsame : ∀ {u v : State}, u.SameButRiders v → v.oars = u.oars ∧ v.mem = u.mem := by
    rintro u v ⟨_, _, _, _, _, rfl⟩
    exact ⟨rfl, rfl⟩
  obtain ⟨_, hoar⟩ := oarTake_keeps ho hr hw h1 hx (fun u => u.oar n) (fun _ _ _ => rfl) (fun h => congrArg (List.getD · n Oar.down) (hsame h).1)
  obtain ⟨_, hmem⟩ := oarTake_keeps ho hr hw h1 hx State.mem (fun _ _ _ => rfl) (fun h => (hsame h).2)
  refine ⟨hoar.trans ?_, hmem⟩
  exact (oar_modOar_same hn _).trans (congrArg (Oar.takes · p t) ho)

/-- With no rider aboard the whole packet is one deposit. -/
theorem oarTake_deposits (hrid : s.riders = []) : s.oarTake n =
    ((s.modOar n (fun o => o.takes p t)).admitOrWait (s.packetDeposit n p 0 (bits p.hdr.toNat 171 166 + 1)) 4 48).post .oarAckSend [n] := by
  obtain ⟨cs, rest, he, hnone⟩ := oarTake_data ho hr hw h1 hx
  obtain ⟨rfl, rfl⟩ := hnone hrid
  have hc : ({ s.modOar n (fun o => o.takes p t) with contribs := s.contribs ++ [] } : State) = s.modOar n (fun o => o.takes p t) := by
    rw [List.append_nil]
    rfl
  rw [he, hc, List.length_nil, List.range_zero, List.foldr_nil, List.foldl_cons, List.foldl_nil]

end Receive

/-! ## Acknowledgements (R339) -/

theorem oarAckSend_sends {s : State} {n : Nat} (hc : s.carries n = true) : s.oarAckSend n = s.modOar n (fun o => { o with
    taken := o.taken.filter (fun x => !s.oarDone n x.1)
    acks := o.acks ++ ((s.oar n).taken.filter (fun x => s.oarDone n x.1)).map (fun x => ackHeader (s.dieNs 4) x.1) }) := by
  rw [State.oarAckSend, hc]
  exact if_neg Bool.false_ne_true

theorem foldl_post_keeps {α : Type} (get : State → α) (i : Instr) (h : ∀ s a, get (State.post s i a) = get s) (l : List Nat) (s : State) :
    get (l.foldl (fun (s : State) t => s.post i [t]) s) = get s :=
  foldl_keeps get (fun s t => s.post i [t]) (fun s _ => h s _) l s

/-- Turns posted one by one for the members of a list. -/
theorem foldl_post_turns (i : Instr) {l : List Nat} {t : Nat} (h : t ∈ l) (s : State) :
    (⟨0, .event i [t]⟩ : Go) ∈ (l.foldl (fun (s : State) t => s.post i [t]) s).turns :=
  foldl_reaches (P := fun s : State => (⟨0, .event i [t]⟩ : Go) ∈ s.turns) (fun _ _ hm => List.mem_cons_of_mem _ hm)
    (fun _ => List.mem_cons_self) h s

/-- The packets acknowledged are kept no longer, and the launches that sent them look at their completion. -/
theorem oarAck_acks {s : State} {n : Nat} (hn : n < s.oars.length) (hq : (s.oar n).sendq = []) (q : Nat) :
    ((s.oarAck n q).oar n).unacked = (s.oar n).unacked.filter (fun p => decide (p.seqn ≠ q)) ∧
      ∀ p ∈ (s.oar n).unacked, ∀ t, p.seqn = q → p.team = some t → (⟨0, .event .completionStamp [t]⟩ : Go) ∈ (s.oarAck n q).turns := by
  obtain ⟨u, hu⟩ : ∃ u, u = s.modOar n (fun o => { o with unacked := o.unacked.filter (fun p => decide (p.seqn ≠ q)) }) := ⟨_, rfl⟩
  have huo : u.oar n = { s.oar n with unacked := (s.oar n).unacked.filter (fun p => decide (p.seqn ≠ q)) } := hu ▸ oar_modOar_same hn _
  have hoar : ∀ l : List Nat, (l.foldl (fun (s : State) t => s.post .completionStamp [t]) u).oar n = u.oar n :=
    fun l => foldl_post_keeps (fun s => s.oar n) _ (fun _ _ => rfl) l u
  rw [State.oarAck]
  rw [← hu, if_pos (by rw [hoar, huo, hq]; rfl), hoar, huo]
  exact ⟨rfl, fun p hp t hs ht => foldl_post_turns _ (List.mem_filterMap.mpr ⟨p, List.mem_filter.mpr ⟨hp, decide_eq_true hs⟩, ht⟩) _⟩

/-! ## Retraining (R337, R409, R410) -/

theorem oarTrained_back {s : State} {n : Nat} (hn : n < s.oars.length) (hr : (s.oar n).retrain = true) (ht : s.ns ≤ (s.oar n).since + 2000000) (peer : Nat) :
    (s.oarTrained n peer).oar n = { s.oar n with up := true, retrain := false, retries := 0, peer := peer % 2 ^ 16 } := by
  rw [State.oarTrained]
  dsimp only
  rw [if_pos ⟨hr, ht⟩]
  exact getD_set_same hn _ _

theorem modTeams_failed {l : List Nat} {t : Nat} (h : t ∈ l) {s : State} {tm : Team} (htm : s.team? t = some tm) :
    ((l.foldl (fun (s : State) t => s.modTeam t (fun tm => { tm with failed := true })) s).team? t).map Team.failed = some true := by
  have hkeep : ∀ (s : State) (n : Nat), (s.team? t).isSome = true → ((s.modTeam n (fun tm => { tm with failed := true })).team? t).isSome = true := by
    intro s n hs
    by_cases hn : t = n
    · rw [← hn, team_modTeam_same, Option.isSome_map]
      exact hs
    · rw [team_modTeam_other s n t _ hn]
      exact hs
  have hstep : ∀ (s : State) (n : Nat), (s.team? t).map Team.failed = some true →
      ((s.modTeam n (fun tm => { tm with failed := true })).team? t).map Team.failed = some true := by
    intro s n hs
    by_cases hn : t = n
    · rw [← hn, team_modTeam_same]
      obtain ⟨tm, htm, _⟩ := Option.map_eq_some_iff.mp hs
      rw [htm]
      rfl
    · rw [team_modTeam_other s n t _ hn]
      exact hs
  have hsome : (s.team? t).isSome = true := by rw [htm]; rfl
  clear htm
  induction l generalizing s with
  | nil => exact absurd h List.not_mem_nil
  | cons n l ih =>
    rcases List.mem_cons.mp h with rfl | h
    · refine foldl_preserves (P := fun s => (s.team? t).map Team.failed = some true) hstep l _ ?_
      rw [team_modTeam_same]
      obtain ⟨tm, htm⟩ := Option.isSome_iff_exists.mp hsome
      rw [htm]
      rfl
    · exact ih h (hkeep s n hsome)

theorem modTeams_only (f : Team → Team) (l : List Nat) : ∀ s : State, ∃ ts, l.foldl (fun (s : State) t => s.modTeam t f) s = { s with teams := ts } := by
  induction l with
  | nil => exact fun s => ⟨_, rfl⟩
  | cons t l ih =>
    intro s
    obtain ⟨ts, h⟩ := ih (s.modTeam t f)
    exact ⟨ts, by rw [List.foldl_cons, h]; rfl⟩

/-- A link that is not retrained in time drops its packets; the launches that sent them fail. -/
theorem oarDown_fails {s : State} {n : Nat} (hn : n < s.oars.length) (hr : (s.oar n).retrain = true) (hu : (s.oar n).up = true)
    (ht : (s.oar n).since + 2000000 ≤ s.ns) :
    (s.oarDown n).oar n = { s.oar n with up := false, retrain := false, unacked := [] } ∧
      ∀ q ∈ (s.oar n).unacked, ∀ t tm, q.team = some t → s.team? t = some tm → ((s.oarDown n).team? t).map Team.failed = some true := by
  have hgo : ¬ (¬ (s.oar n).retrain = true ∨ s.ns < (s.oar n).since + 2000000) := fun h => h.elim (absurd hr) (Nat.not_lt.mpr ht)
  rw [State.oarDown]
  dsimp only
  rw [if_neg hgo, if_neg (not_not_intro hu)]
  obtain ⟨u, hu⟩ : ∃ u, u = s.modOar n (fun o => { o with up := false, retrain := false, unacked := [] }) := ⟨_, rfl⟩
  have huo : u.oar n = { s.oar n with up := false, retrain := false, unacked := [] } := hu ▸ oar_modOar_same hn _
  have hut : ∀ t, u.team? t = s.team? t := fun t => hu ▸ rfl
  obtain ⟨ts, hts⟩ := modTeams_only (fun tm => { tm with failed := true }) ((s.oar n).unacked.filterMap OarPkt.team) u
  have hfailed : ∀ t tm, t ∈ (s.oar n).unacked.filterMap OarPkt.team → s.team? t = some tm →
      ((({ u with teams := ts } : State).team? t).map Team.failed) = some true := fun t tm hm htm => hts ▸ modTeams_failed hm ((hut t).trans htm)
  rw [← hu, hts]
  obtain ⟨q, l, a, b, m, hq⟩ := queueRec_only { u with teams := ts }
    (State.linkRec { u with teams := ts } 0 n (((s.oar n).unacked.head?.map OarPkt.seqn).getD 0) (s.oar n).unacked.length)
  rw [hq]
  refine ⟨(foldl_post_keeps (fun s => s.oar n) _ (fun _ _ => rfl) _ _).trans huo, fun q hq t tm hqt htm => ?_⟩
  exact (congrArg (Option.map Team.failed) (foldl_post_keeps (fun s => s.team? t) _ (fun _ _ => rfl) _ _)).trans
    (hfailed t tm (List.mem_filterMap.mpr ⟨q, hq, hqt⟩) htm)

theorem queueRec_teams (s : State) (r : BitVec 512) : (s.queueRec r).teams = s.teams := by
  obtain ⟨q, l, a, b, m, h⟩ := queueRec_only s r
  rw [h]

/-- A team of the table stands in it with its number. -/
theorem mem_numbered {s : State} {t : Nat} {tm : Team} (h : s.team? t = some tm) : (t, tm) ∈ (List.range s.teams.length).zip s.teams := by
  have hlt : t < s.teams.length := (List.getElem?_eq_some_iff.mp h).1
  refine List.mem_of_getElem? (i := t) (List.getElem?_zip_eq_some.mpr ⟨?_, h⟩)
  rw [List.getElem?_range hlt]

/-- The end of the teams of a die link, each after its record. -/
theorem endTeams_keeps {α : Type} (get : State → α) {f : State → Nat × Team → State} {st code : Nat} (rec : State → Nat × Team → BitVec 512)
    (hf : ∀ s x, f s x = (s.queueRec (rec s x)).endTeam x.1 st code)
    (hkeep : ∀ (s : State) cs ts g q l a b m,
      get { s with cores := cs, teams := ts, turns := g, fq := q, lost := l, intst := a, inten := b, msix := m } = get s)
    (l : List (Nat × Team)) (s : State) : get (l.foldl f s) = get s := by
  refine foldl_keeps get f (fun s x => ?_) l s
  obtain ⟨q, l, a, b, m, hq⟩ := queueRec_only s (rec s x)
  obtain ⟨cs, ts, g, q', l', a', b', m', he⟩ := endTeam_only (s.queueRec (rec s x)) x.1 st code
  rw [hf, he, hq]
  exact hkeep s cs ts g q' l' a' b' m'

/-- A die link that is not retrained in time goes down and ends the teams on its two dies. -/
theorem dieDown_ends {s : State} {l : Nat} (hr : s.dieRetrain.getD l false = true) (ht : Tab.get 0 s.dieSince l + 2000000 ≤ s.ns) :
    (s.dieDown l).dieLinkUp = s.dieLinkUp.set l false ∧ (s.dieDown l).dieRetrain = s.dieRetrain.set l false ∧ (s.dieDown l).mem = s.mem ∧
      (s.dieDown l).intBit 0 3 ∧ ∀ t tm, s.team? t = some tm → tm.st ≠ .ended → tm.ending = none →
        s.teamOnDie t tm (dieLinkEnds l).1 = true ∨ s.teamOnDie t tm (dieLinkEnds l).2 = true →
          ((s.dieDown l).team? t).bind Team.ending = some (0x04, 0x17) := by
  have hgo : ¬ (¬ s.dieRetrain.getD l false = true ∨ s.ns < Tab.get 0 s.dieSince l + 2000000) := fun h => h.elim (absurd hr) (Nat.not_lt.mpr ht)
  rw [State.dieDown, if_neg hgo]
  dsimp only
  refine ⟨?_, ?_, ?_, ?_, fun t tm htm hst hend hon => ?_⟩
  · exact endTeams_keeps State.dieLinkUp (fun s x => s.linkRec x.2.func (40 + dieLinkName l) 0 0) (fun _ _ => rfl) (fun _ _ _ _ _ _ _ _ _ => rfl) _ _
  · exact endTeams_keeps State.dieRetrain (fun s x => s.linkRec x.2.func (40 + dieLinkName l) 0 0) (fun _ _ => rfl) (fun _ _ _ _ _ _ _ _ _ => rfl) _ _
  · exact endTeams_keeps State.mem (fun s x => s.linkRec x.2.func (40 + dieLinkName l) 0 0) (fun _ _ => rfl) (fun _ _ _ _ _ _ _ _ _ => rfl) _ _
  · exact foldl_preserves (P := fun s => s.intBit 0 3) (fun s x h => endTeam_intBit_keeps _ _ _ _ 0 3 (queueRec_intBit_keeps s _ 0 3 h)) _ _
      (raiseInt_link _ 0)
  · refine foldl_endTeam_ending (key := Prod.fst) (tm := tm) (fun s x => ⟨_, queueRec_teams s _, rfl⟩) hend hst _ _ (Or.inr ⟨htm, (t, tm), ?_, rfl⟩)
    refine List.mem_filter.mpr ⟨mem_numbered htm, ?_⟩
    dsimp only
    rw [hend, decide_eq_true hst]
    exact Bool.or_eq_true_iff.mpr hon

/-- Settles O59, clause by clause. -/
theorem linkEvents : Obligations.LinkEvents := by
  unfold Obligations.LinkEvents
  refine ⟨?_, ?_, ?_, ?_, ?_, ?_, ?_, ?_, ?_, ?_, ?_, ?_, ?_⟩
  · intro s l h0 hl hlen
    subst h0
    refine ⟨fun hup => ?_, fun hup => ?_⟩
    · obtain ⟨hdown, hmem, hfq, hint⟩ := dlDown_up hl hlen hup
      exact ⟨_, rfl, hdown, hmem, hfq, hint⟩
    · obtain ⟨hback, hmem⟩ := dlUp_down hl hlen hup
      exact ⟨_, rfl, hback, hmem⟩
  · intro s n o p h0 hn ho hq hl he hu hr hseq
    subst h0 ho
    refine ⟨_, s.sentPacket (s.arg 0) p, congrArg Host.Outcome.next (oarSend_sends rfl hq hl he hu hr), ?_, ?_, ?_,
      seqn_sentPacket s (s.arg 0) p hseq, words_sentPacket s (s.arg 0) p, rfl⟩
    · rw [oar_modOar_same hn]
    · rw [oar_modOar_same hn]
    · rw [oar_modOar_same hn]
  · intro s n o p t h0 hev ho hr hw
    refine ⟨fun h1 h2 => ?_, fun h2 hs => ?_⟩
    · rw [oarPacketReceive_none h0 hev, oarTake_other ho hr hw h1 h2]
    · rw [oarPacketReceive_none h0 hev, oarTake_ack ho hr hw h2 hs]
  · intro s n o p t h0 hev ho hr hw h1 hn hx
    obtain ⟨hoar, hmem⟩ := oarTake_takes ho hr hw h1 hx hn
    exact ⟨_, oarPacketReceive_none h0 hev, congrArg Oar.recv hoar, congrArg Oar.taken hoar, hmem, fun hrid => by
      refine (oarTake_deposits ho hr hw h1 hx hrid).trans ?_
      rw [packetDeposit_whole]
      rfl⟩
  · exact fun s n => rfl
  · intro s n h ws hev hw
    refine ⟨fun hc => ?_, fun hc => ?_⟩
    · rw [oarPacketReceive_lost hev hc, oarTake_held hw]
    · exact (oarPacketReceive_arrives hev hc).trans (congrArg Host.Outcome.next (oarTake_held (s := s.modOar n _) hw))
  · intro s n q h0 h1 hc
    subst h0
    refine ⟨congrArg Host.Outcome.next ?_, congrArg Host.Outcome.next ?_⟩
    · rw [State.oarAckSend, hc]
      rfl
    · rw [hc]
      rfl
  · intro s n h0 hc
    subst h0
    exact congrArg Host.Outcome.next (oarAckSend_sends hc)
  · intro s n q h0 h1 hn hc hq
    subst h0
    obtain ⟨hun, hturns⟩ := oarAck_acks hn hq q
    exact ⟨_, congrArg Host.Outcome.next (by rw [hc, h1]; rfl), hun, hturns⟩
  · intro s n p o h0 h1 hn ho
    subst h0 ho
    refine ⟨fun hl => congrArg Host.Outcome.next ?_, fun hr ht => ⟨_, rfl, ?_, ?_, ?_⟩, fun hr hu ht => ?_⟩
    · rw [State.oarRetrain, if_pos hl, modOar_eq_set s hn]
    · rw [oarTrained_back hn hr ht]
      rfl
    · rw [oarTrained_back hn hr ht, h1]
    · rw [oarTrained_back hn hr ht]
    · obtain ⟨hoar, hfailed⟩ := oarDown_fails hn hr hu ht
      exact ⟨_, rfl, congrArg Oar.up hoar, congrArg Oar.unacked hoar, hfailed⟩
  · intro s l h0 hl
    subst h0
    refine ⟨fun hu hr => congrArg Host.Outcome.next ?_, fun hr ht => congrArg Host.Outcome.next ?_, fun hr ht => ?_⟩
    · rw [State.dieRetrainStart, if_pos ⟨hu, by rw [hr]; exact Bool.false_ne_true⟩]
    · rw [State.dieTrained, if_pos ⟨hr, ht⟩]
    · obtain ⟨hup, hre, hmem, hint, hteams⟩ := dieDown_ends hr ht
      exact ⟨_, rfl, hup, hre, hmem, hint, hteams⟩
  · intro s u l q n h0 h1 hl hn hu
    subst h0 h1 hn hu
    refine congrArg Host.Outcome.next ?_
    rw [State.flitRetry, if_pos hl]
  · intro s u l q n h0 h1 hl hn hu
    subst h1 hn hu
    have hbig : ¬ 40 + l < 18 := by omega
    refine congrArg Host.Outcome.next ?_
    rw [h0, State.flitRetry, if_neg hbig, if_pos ⟨Nat.le_add_right 40 l, by omega⟩, Nat.add_sub_cancel_left]

end Sys2Proof.Machine

/-! # Boot, keys, alarm, resets and power (R22, R24) -/

namespace Sys2Proof.Machine

/-- A machine in which the pause of island 0 is over and flags for core 0 wait in the island's retiming FIFO: an entry of no bytes, whose last number is the
flags. -/
def pausedFlags : State := { State.reset with ev := [0], now := 2000, islHold := [(0, 1)], retime := [(none, 0, 0, 0, 1)] }

/-- That machine with its FIFO empty and the pause over. -/
def resumed : State := { pausedFlags with islHold := Tab.set 0 pausedFlags.islHold 0 0, retime := [] }

/-- At the end of the pause the flags enter the core. -/
theorem clockResume_flags : ((pausedFlags.clockResume 0).core 0).flags = 1 := by decide +kernel

/-- A delivery of no bytes changes no core. -/
theorem deliverNow_flags : ((resumed.deliverNow none 0 0 0 1).core 0).flags = 0 := by decide +kernel

/-- Refutes O60: what waits in a retiming FIFO with no bytes is flags, which enter the core at the end of the pause (R22, R24); the clause on CLOCK_RESUME
claims a delivery of bytes for every entry. -/
theorem not_platformEvents : ¬ Obligations.PlatformEvents := by
  rintro ⟨-, -, -, -, -, -, -, -, -, -, -, -, -, -, -, -, -, -, hresume, -⟩
  have hclaim := hresume pausedFlags resumed 0 0 0 0 1 none rfl (by decide +kernel) (by decide +kernel) (by decide +kernel) rfl rfl rfl (by decide +kernel)
  have hsame : pausedFlags.clockResume 0 = resumed.deliverNow none 0 0 0 1 := Host.Outcome.next.inj hclaim
  have hflags := clockResume_flags
  rw [hsame, deliverNow_flags] at hflags
  exact absurd hflags (by decide)

end Sys2Proof.Machine
/-! # The canonical form of memory through the state and the cores

Every function of the model that a turn goes through gets one lemma, in the order of the model: from a state whose memory is in canonical form it
answers such a state. Memory itself changes by writes, clears and copies alone, each of which keeps the form (Laws/Tab.lean).
A local value is compared with its definition as a state (`memOk_of_eq`), or the value as a whole is named first (`obtain ⟨v, hv⟩`), where the kernel would
else evaluate the definition to reach its memory. -/

namespace Sys2Proof.Machine

/-! ## Choices, folds and lists -/

theorem ite_memOk {p : Prop} [Decidable p] {s u : State} (hs : s.mem.wf = true) (hu : u.mem.wf = true) : (if p then s else u).mem.wf = true := by
  split
  · exact hs
  · exact hu

theorem foldl_memOk {α : Type} {f : State → α → State} (hf : ∀ s x, s.mem.wf = true → (f s x).mem.wf = true) {l : List α} {s : State}
    (hs : s.mem.wf = true) : (l.foldl f s).mem.wf = true :=
  foldl_preserves (P := fun s => s.mem.wf = true) hf l s hs

theorem foldr_memOk {α : Type} {f : α → State → State} (hf : ∀ x s, s.mem.wf = true → (f x s).mem.wf = true) {l : List α} {s : State}
    (hs : s.mem.wf = true) : (l.foldr f s).mem.wf = true := by
  induction l with
  | nil => exact hs
  | cons x l ih => exact hf x _ ih

theorem foldl_wf {α : Type} {f : Memory → α → Memory} (hf : ∀ m x, m.wf = true → (f m x).wf = true) {l : List α} {m : Memory}
    (hm : m.wf = true) : (l.foldl f m).wf = true := by
  induction l generalizing m with
  | nil => exact hm
  | cons x l ih => exact ih (hf m x hm)

theorem foldl_fst_wf {α β : Type} {f : Memory × β → α → Memory × β} (hf : ∀ m x, m.1.wf = true → (f m x).1.wf = true) {l : List α}
    {m : Memory × β} (hm : m.1.wf = true) : (l.foldl f m).1.wf = true := by
  induction l generalizing m with
  | nil => exact hm
  | cons x l ih => exact ih (hf m x hm)

/-- The equation is of two states, which the kernel can compare without evaluating them. -/
theorem memOk_of_eq {s u : State} (h : u.mem.wf = true) (e : s = u) : s.mem.wf = true := e ▸ h

/-- As `memOk_of_eq`, of a state in a pair. -/
theorem snd_memOk {α : Type} {x y : α × State} (h : y.2.mem.wf = true) (e : x = y) : x.2.mem.wf = true := e ▸ h

theorem sameButRiders_memOk {s u : State} (hu : s.SameButRiders u) (h : s.mem.wf = true) : u.mem.wf = true := by
  obtain ⟨_, _, _, _, _, rfl⟩ := hu
  exact h

/-- A memory put in place of that of a state. -/
theorem mem_memOk {s : State} {m : Memory} (h : m.wf = true) : ({ s with mem := m } : State).mem.wf = true := h

theorem mem_above_lt {α : Type} {k : Nat} {t : Tab α} (h : Tab.above k t = true) : ∀ x ∈ t, k < x.1 := by
  induction t with
  | nil => exact fun _ hx => absurd hx List.not_mem_nil
  | cons e t ih =>
    obtain ⟨a, v⟩ := e
    simp only [Tab.above, Bool.and_eq_true, decide_eq_true_eq] at h
    intro x hx
    rcases List.mem_cons.mp hx with rfl | hx
    · exact h.1
    · exact ih h.2 x hx

theorem above_of_lt {α : Type} {k : Nat} {t : Tab α} (h : ∀ x ∈ t, k < x.1) : Tab.above k t = true := by
  induction t with
  | nil => rfl
  | cons e t ih =>
    obtain ⟨a, v⟩ := e
    simp only [Tab.above, Bool.and_eq_true, decide_eq_true_eq]
    exact ⟨h (a, v) List.mem_cons_self, ih fun x hx => h x (List.mem_cons_of_mem _ hx)⟩

/-- Leaving entries out keeps the canonical form. -/
theorem wf_filter {α : Type} [DecidableEq α] (d : α) (p : Nat × α → Bool) {t : Tab α} (h : Tab.wf d t = true) : Tab.wf d (t.filter p) = true := by
  induction t with
  | nil => rfl
  | cons e t ih =>
    obtain ⟨a, v⟩ := e
    simp only [Tab.wf, Bool.and_eq_true, decide_eq_true_eq] at h
    obtain ⟨⟨hv, ha⟩, ht⟩ := h
    rw [List.filter_cons]
    split
    · simp only [Tab.wf, Bool.and_eq_true, decide_eq_true_eq]
      exact ⟨⟨hv, above_of_lt fun x hx => mem_above_lt ha x (List.mem_filter.mp hx).1⟩, ih ht⟩
    · exact ih ht

/-! ## Requests at a memory -/

theorem storeTans_wf {m : Memory} (h : m.wf = true) {base mask planes ts} : (storeTans m base mask planes ts).wf = true := by
  unfold storeTans
  refine foldl_wf (fun m t hm => ?_) h
  refine foldl_wf (fun m i hm => ?_) hm
  split
  · exact Memory.wf_writeN _ _ _ _ hm
  · exact hm

theorem storeLanes_wf {m : Memory} (h : m.wf = true) {a mask v} : (storeLanes m a mask v).wf = true := by
  unfold storeLanes
  refine foldl_wf (fun m i hm => ?_) h
  split
  · exact Memory.wf_writeN _ _ _ _ hm
  · exact hm

theorem performReq_wf {m : Memory} (h : m.wf = true) {base r} : (performReq m base r).mem.wf = true := by
  unfold performReq
  dsimp only
  split
  · exact Memory.wf_writeN _ _ _ _ h
  · split
    · exact h
    · split
      · exact storeTans_wf (Memory.wf_writeN _ _ _ _ h)
      · split
        · exact h
        · exact storeTans_wf (storeLanes_wf h)

/-! ## Results that may hold a state -/

/-- A plan that ends its turn leaves a memory in canonical form. -/
def PlanMemOk (p : Plan) : Prop := ∀ s, p = .inr s → s.mem.wf = true

theorem planMemOk_end {s : State} (h : s.mem.wf = true) : PlanMemOk (.inr s) := by
  intro u hu
  injection hu with hu
  exact hu ▸ h

theorem planMemOk_asks {l : List SeqOp} : PlanMemOk (.inl l) := fun _ h => (Sum.inl_ne_inr h).elim

/-- Where a register piece is taken, it leaves a memory in canonical form. -/
def OptMemOk (o : Option State) : Prop := ∀ u, o = some u → u.mem.wf = true

theorem optMemOk_none : OptMemOk none := fun _ h => (Option.some_ne_none _ h.symm).elim

theorem optMemOk_some {s : State} (h : s.mem.wf = true) : OptMemOk (some s) := fun _ hu => Option.some.inj hu ▸ h

theorem optMemOk_ite {p : Prop} [Decidable p] {a b : Option State} (ha : OptMemOk a) (hb : OptMemOk b) : OptMemOk (if p then a else b) := by
  split
  · exact ha
  · exact hb

/-- Where a step goes on, the memory is left in canonical form. -/
def NextMemOk (o : Host.Outcome State Fault Refusal) : Prop := ∀ u, o = .next u → u.mem.wf = true

theorem nextMemOk_next {s : State} (h : s.mem.wf = true) : NextMemOk (.next s) := fun _ hu => Host.Outcome.next.inj hu ▸ h

theorem nextMemOk_fault {f : Fault} : NextMemOk (.fault f) := fun _ hu => by cases hu

theorem nextMemOk_refused {r : Refusal} : NextMemOk (.refused r) := fun _ hu => by cases hu

section Kept
variable {s : State} (h : s.mem.wf = true)
include h

/-! ## Other fields

Each is stated of any value of its field. The kernel would else take the value apart to compare two states, and where it computes an address or a
register word that is out of its reach. -/

theorem streams_memOk {l} : ({ s with streams := l } : State).mem.wf = true := h

theorem tick_memOk {t} : ({ s with tick := t } : State).mem.wf = true := h

theorem grant_memOk {g} : ({ s with grant := g } : State).mem.wf = true := h

theorem wrej_memOk {w} : ({ s with wrej := w } : State).mem.wf = true := h

theorem contribs_memOk {l} : ({ s with contribs := l } : State).mem.wf = true := h

theorem frzctl_memOk {v} : ({ s with frzctl := v } : State).mem.wf = true := h

theorem nonce_memOk {v} : ({ s with nonce := v } : State).mem.wf = true := h

theorem oars_memOk {l} : ({ s with oars := l } : State).mem.wf = true := h

theorem keyBusy_memOk {v} : ({ s with keyBusy := v } : State).mem.wf = true := h

theorem course_memOk {a b c} : ({ s with cursor := a, courseSteps := b, pendMode := c } : State).mem.wf = true := h

theorem grantNew_memOk {v} : ({ s with grantNew := v } : State).mem.wf = true := h

theorem alarm_memOk {v} : ({ s with alarm := v } : State).mem.wf = true := h

theorem lndctl_memOk {v} : ({ s with lndctl := v } : State).mem.wf = true := h

theorem hostRead_memOk {v} : ({ s with hostRead := v } : State).mem.wf = true := h

theorem reportShown_memOk {v a b} : ({ s with hostRead := v, reports := a, ovf := b } : State).mem.wf = true := h

/-! ## Operations of the state -/

theorem setCore_memOk {c v} : (s.setCore c v).mem.wf = true := h

theorem modCore_memOk {c f} : (s.modCore c f).mem.wf = true := h

theorem modMe_memOk {f} : (s.modMe f).mem.wf = true := h

theorem post_memOk {i a} : (s.post i a).mem.wf = true := h

theorem putW_memOk {lat d ps lmask pmask fl wait poison} : (s.putW lat d ps lmask pmask fl wait poison).mem.wf = true := h

theorem putX_memOk {lat d v fl ts} : (s.putX lat d v fl ts).mem.wf = true := by
  unfold State.putX
  exact ite_memOk (ite_memOk h h) h

theorem putDiv_memOk {d v fl} : (s.putDiv d v fl).mem.wf = true := by
  unfold State.putDiv
  exact ite_memOk h (putX_memOk h)

theorem putV_memOk {lat d m vs fl} : (s.putV lat d m vs fl).mem.wf = true := h

theorem putP_memOk {lat d v} : (s.putP lat d v).mem.wf = true := by
  unfold State.putP
  exact ite_memOk h h

theorem putCsr_memOk {fn n v} : (s.putCsr fn n v).mem.wf = true := h

theorem memStored_wf : s.memStored.wf = true := by
  unfold State.memStored
  exact foldl_wf (fun _ _ hm => Memory.wf_writeN _ _ _ _ hm) h

theorem modNode_memOk {key f} : (s.modNode key f).mem.wf = true := h

theorem setInt_memOk {f st en} : (s.setInt f st en).mem.wf = true := h

theorem raiseInt_memOk {f b} : (s.raiseInt f b).mem.wf = true := h

theorem queueRec_memOk {r} : (s.queueRec r).mem.wf = true := by
  unfold State.queueRec
  extract_lets +onlyGivenNames -underBinder -merge f q
  exact ite_memOk h h

theorem modTeam_memOk {t f} : (s.modTeam t f).mem.wf = true := h

theorem endTeam_memOk {t status code} : (s.endTeam t status code).mem.wf = true := by
  unfold State.endTeam
  split
  · exact h
  · refine ite_memOk h ?_
    extract_lets +onlyGivenNames -underBinder -merge s1 s2 s3
    have h1 : s1.mem.wf = true := foldl_memOk (fun _ _ hs => by exact queueRec_memOk hs) h
    have h2 : s2.mem.wf = true := modTeam_memOk h1
    have h3 : s3.mem.wf = true := ite_memOk h2 (foldl_memOk (fun _ _ hs => by exact hs) h2)
    exact post_memOk h3

theorem handlerStart_memOk {c} : (s.handlerStart c).mem.wf = true := by
  unfold State.handlerStart
  extract_lets +onlyGivenNames -underBinder -merge k
  exact ite_memOk h h

theorem escalate_memOk {t r} : (s.escalate t r).mem.wf = true := by
  unfold State.escalate
  extract_lets +onlyGivenNames -underBinder -merge s1
  have h1 : s1.mem.wf = true := queueRec_memOk h
  split
  · exact endTeam_memOk h1
  · exact h1

theorem takeTrap_memOk {c code slot tv r} : (s.takeTrap c code slot tv r).mem.wf = true := by
  unfold State.takeTrap
  refine ite_memOk ?_ (escalate_memOk h)
  extract_lets +onlyGivenNames -underBinder -merge s1
  have h1 : s1.mem.wf = true := by
    unfold s1
    split
    · extract_lets +onlyGivenNames -underBinder -merge s2
      have h2 : s2.mem.wf = true := queueRec_memOk h
      dsimp only
      exact Memory.wf_writeN _ _ _ _ h2
    · exact h
  exact handlerStart_memOk (modCore_memOk h1)

theorem unitTrap_memOk {c r} : (s.unitTrap c r).mem.wf = true := by
  unfold State.unitTrap
  exact ite_memOk (escalate_memOk h) (ite_memOk (queueRec_memOk h) h)

theorem modContext_memOk {t c f} : (s.modContext t c f).mem.wf = true := by
  unfold State.modContext
  refine ite_memOk h ?_
  split
  · exact h
  · exact h

theorem trapTo_memOk {t c r} : (s.trapTo t c r).mem.wf = true := by
  unfold State.trapTo
  refine ite_memOk (unitTrap_memOk h) ?_
  split
  · exact ite_memOk (queueRec_memOk h) (ite_memOk (escalate_memOk h) (modContext_memOk h))
  · exact queueRec_memOk h

/-! ## Instruction fetch -/

theorem setReg_memOk {o v} : (s.setReg o v).mem.wf = true := h

/-! ## Checks, precise faults and holds -/

theorem precise_memOk {b slot} : (s.precise b slot).mem.wf = true := by
  unfold State.precise
  exact takeTrap_memOk h

theorem modHold_memOk {f} : (s.modHold f).mem.wf = true := h

theorem sendRv_memOk {i p set holds} : (s.sendRv i p set holds).mem.wf = true := h

theorem holdStep_memOk {i} : OptMemOk (s.holdStep i) := by
  have hs : OptMemOk (some s) := optMemOk_some h
  unfold State.holdStep
  extract_lets +onlyGivenNames full busy
  have hfull : ∀ a, OptMemOk (full a) := fun _ => optMemOk_ite hs optMemOk_none
  have hbusy : ∀ a, OptMemOk (busy a) := fun _ => optMemOk_ite optMemOk_none hs
  clear_value full busy
  split
  · exact optMemOk_ite optMemOk_none (optMemOk_ite (optMemOk_some (modHold_memOk h)) (optMemOk_some (modHold_memOk h)))
  · split
    case h_1 | h_2 | h_3 | h_6 | h_7 => exact optMemOk_ite optMemOk_none hs
    case h_4 => exact optMemOk_ite hs optMemOk_none
    case h_5 => exact optMemOk_ite optMemOk_none (optMemOk_ite hs (optMemOk_some (modHold_memOk (sendRv_memOk h))))
    case h_11 => exact optMemOk_ite optMemOk_none (hfull _)
    case h_8 | h_9 | h_10 | h_12 | h_13 => exact hfull _
    case h_14 | h_15 => exact hbusy _
    case h_16 => exact optMemOk_none

theorem trapEsc_memOk {i} : OptMemOk (s.trapEsc i) := by
  unfold State.trapEsc
  split
  · exact optMemOk_ite optMemOk_none (optMemOk_some (takeTrap_memOk h))
  · exact optMemOk_none

theorem stopBefore_memOk {i} : OptMemOk (s.stopBefore i) := by
  unfold State.stopBefore
  split
  · exact optMemOk_some (precise_memOk h)
  · split
    · next u hu => exact optMemOk_some (trapEsc_memOk h u hu)
    · exact optMemOk_ite (optMemOk_some h) (holdStep_memOk h)

/-- A syllable whose effect keeps the canonical form does so whether it issues or is stopped. -/
theorem coxIssue_memOk {i eff} (he : (eff s).mem.wf = true) : NextMemOk (coxIssue i eff s) := by
  unfold coxIssue
  split
  · exact nextMemOk_next he
  · split
    · next u hu => exact nextMemOk_next (stopBefore_memOk h u hu)
    · exact nextMemOk_next he

/-! ## Check codes of memory -/

theorem eccFlush_memOk {unit} : (s.eccFlush unit).mem.wf = true := by
  unfold State.eccFlush
  extract_lets +onlyGivenNames -underBinder -merge v
  refine ite_memOk ?_ h
  extract_lets +onlyGivenNames -underBinder -merge a l s1
  have h1 : s1.mem.wf = true := h
  exact queueRec_memOk h1

theorem eccFlushAll_memOk : s.eccFlushAll.mem.wf = true := by
  unfold State.eccFlushAll
  exact foldl_memOk (fun _ _ hs => by exact eccFlush_memOk hs) h

theorem eccNote_memOk {a} : (s.eccNote a).mem.wf = true := by
  unfold State.eccNote
  extract_lets +onlyGivenNames -underBinder -merge u s1 v
  have h1 : s1.mem.wf = true := eccFlush_memOk h
  dsimp only
  exact h1

theorem wordsFixed_memOk {a n} : (s.wordsFixed a n).mem.wf = true := by
  unfold State.wordsFixed
  refine foldl_memOk (fun _ _ hs => ?_) h
  refine ite_memOk ?_ hs
  refine eccNote_memOk ?_
  exact hs

theorem eccTrap_memOk {c loc la} : (s.eccTrap c loc la).mem.wf = true := by
  unfold State.eccTrap
  exact unitTrap_memOk h

theorem readCheck_memOk {c a n la runs} : (s.readCheck c a n la runs).1.mem.wf = true := by
  unfold State.readCheck
  extract_lets fixed
  have hf : fixed.mem.wf = true := foldl_memOk (fun _ _ h => wordsFixed_memOk h) h
  split
  · exact eccTrap_memOk hf
  · exact hf

/-! ## Requests at memory nodes -/

theorem nodeRequest_memOk {key r snk} : (s.nodeRequest key r snk).mem.wf = true := by
  unfold State.nodeRequest
  split
  · extract_lets +onlyGivenNames _ s1
    have h1 : s1.mem.wf = true := h
    split
    · refine putW_memOk ?_
      exact h1
    · exact h1
  · extract_lets +onlyGivenNames p c _ s1
    have h1 : s1.mem.wf = true := performReq_wf h
    split
    · refine putW_memOk ?_
      exact h1
    · exact h1

theorem fillWait_memOk {c id planes fl lost} : (s.fillWait c id planes fl lost).mem.wf = true := h

/-! ## Check trees -/

theorem treePut_memOk {st l j} : (s.treePut st l j).mem.wf = true := by
  unfold State.treePut
  extract_lets +onlyGivenNames -underBinder -merge p
  dsimp only
  exact Memory.wf_writeN _ _ _ _ h

theorem treeLay_memOk {st} : (s.treeLay st).mem.wf = true := by
  unfold State.treeLay
  extract_lets +onlyGivenNames -underBinder -merge s1
  have h1 : s1.mem.wf = true := h
  exact foldl_memOk (fun _ _ hs => by exact foldl_memOk (fun _ _ hs => by exact treePut_memOk hs) hs) h1

theorem newTreeKey_memOk {st} : (s.newTreeKey st).mem.wf = true := h

theorem treeUpdate_memOk {st i} : (s.treeUpdate st i).mem.wf = true := by
  unfold State.treeUpdate
  exact ite_memOk (foldl_memOk (fun _ _ hs => by exact treePut_memOk hs) h) h

/-! ## Admission, walks and deliveries to a core -/

theorem modRider_memOk {id f} : (s.modRider id f).mem.wf = true := h

theorem dropRider_memOk {id} : (s.dropRider id).mem.wf = true := h

theorem takeSlots_memOk {r time ps} : (s.takeSlots r time ps).mem.wf = true := h

theorem admitPhys_memOk {q} : (s.admitPhys q).mem.wf = true := by
  unfold State.admitPhys
  exact ite_memOk h (ite_memOk h h)

theorem redirect_memOk {t c tm off n v} : (s.redirect t c tm off n v).mem.wf = true := by
  unfold State.redirect
  extract_lets +onlyGivenNames -underBinder -merge pa k
  exact ite_memOk h (admitPhys_memOk h)

theorem coxDeliver_memOk {t c off n v} : (s.coxDeliver t c off n v).mem.wf = true := by
  unfold State.coxDeliver
  refine ite_memOk ?_ ?_
  · dsimp only
    exact Memory.wf_writeN _ _ _ _ h
  · split
    · exact ite_memOk h (ite_memOk h (redirect_memOk h))
    · exact h

theorem deliverNow_memOk {t c la n v} : (s.deliverNow t c la n v).mem.wf = true := by
  unfold State.deliverNow
  refine ite_memOk ?_ (coxDeliver_memOk h)
  dsimp only
  exact Memory.wf_writeN _ _ _ _ h

theorem deliver_memOk {t c la n v} : (s.deliver t c la n v).mem.wf = true := by
  unfold State.deliver
  exact ite_memOk h (deliverNow_memOk h)

theorem walkOver_memOk {w r} : (s.walkOver w r).mem.wf = true := h

theorem walkPass_memOk {w lv tab} : (s.walkPass w lv tab).mem.wf = true :=
  walkPass_forms (P :=
    fun u => u.mem.wf = true) (fun _ _ => h) (fun wk _ _ _ => takeSlots_memOk (s := { s with walks := wk }) h) (fun _ => walkOver_memOk h) lv tab

theorem startWalk_memOk {tile asid va} : (s.startWalk tile asid va).mem.wf = true := by
  unfold State.startWalk
  extract_lets +onlyGivenNames -underBinder -merge v
  refine ite_memOk h ?_
  extract_lets +onlyGivenNames -underBinder -merge w s1
  have h1 : s1.mem.wf = true := h
  exact ite_memOk (walkOver_memOk h1) (walkPass_memOk h1)

theorem startWalks_memOk {tile asid l} : (s.startWalks tile asid l).mem.wf = true := by
  unfold State.startWalks
  exact foldl_memOk (fun _ _ hs => by exact startWalk_memOk hs) h

theorem treePass_memOk {w e} : (s.treePass w e).mem.wf = true := by
  unfold State.treePass
  extract_lets +onlyGivenNames -underBinder -merge pa st page p c
  refine ite_memOk h ?_
  extract_lets +onlyGivenNames -underBinder -merge s1 q runs _ q2
  have h1 : s1.mem.wf = true := ite_memOk h (treeLay_memOk h)
  refine ite_memOk ?_ (takeSlots_memOk h1)
  dsimp only
  exact h1

theorem walkRead_memOk {id e} : (s.walkRead id e).mem.wf = true := by
  unfold State.walkRead
  split
  · exact h
  · exact h
  · split
    · exact ite_memOk (treePass_memOk h) h
    · exact h
    · exact ite_memOk (walkPass_memOk h) h

theorem treeRead_memOk {id e} : (s.treeRead id e).mem.wf = true := by
  unfold State.treeRead
  split
  · exact h
  · extract_lets +onlyGivenNames -underBinder -merge pa st i ws
    split
    · exact ite_memOk h h
    · exact h
    · exact h

theorem tryAdmit_memOk {r die tile} : (s.tryAdmit r die tile).2.mem.wf = true :=
  sameButRiders_memOk (tryAdmit_only s r die tile) h

theorem admitCore_memOk {r} : (s.admitCore r).2.mem.wf = true := tryAdmit_memOk h

theorem admitOrWait_memOk {r die tile} : (s.admitOrWait r die tile).mem.wf = true :=
  sameButRiders_memOk (admitOrWait_only s r die tile) h

/-! ## Frozen and discarded loads -/

theorem modRegion_memOk {n f} : (s.modRegion n f).mem.wf = true := h

theorem modActive_memOk {n f} : (s.modActive n f).mem.wf = true := h

theorem modIsl_memOk {n i f} : (s.modIsl n i f).mem.wf = true := h

theorem loadFlags_memOk {n fl} : (s.loadFlags n fl).mem.wf = true := by
  unfold State.loadFlags
  exact ite_memOk h h

theorem modEl_memOk {k f} : (s.modEl k f).mem.wf = true := h

theorem cfgStampAt_memOk {team core stamp seq status t} : (s.cfgStampAt team core stamp seq status t).mem.wf = true := by
  unfold State.cfgStampAt
  exact deliver_memOk h

theorem cfgStamp_memOk {team core stamp seq status} : (s.cfgStamp team core stamp seq status).mem.wf = true := by
  unfold State.cfgStamp
  exact cfgStampAt_memOk h

theorem dropShadow_memOk {n} : (s.dropShadow n).mem.wf = true := by
  unfold State.dropShadow
  split
  · exact h
  · extract_lets +onlyGivenNames -underBinder -merge s1
    have h1 : s1.mem.wf = true := by
      unfold s1
      split
      · exact ite_memOk (cfgStamp_memOk h) h
      · exact h
    exact modRegion_memOk h1

theorem cancelRefold_memOk {n t} : (s.cancelRefold n t).mem.wf = true := by
  unfold State.cancelRefold
  split
  · exact h
  · extract_lets +onlyGivenNames -underBinder -merge s1
    have h1 : s1.mem.wf = true := h
    refine ite_memOk ?_ h1
    extract_lets +onlyGivenNames -underBinder -merge s2
    have h2 : s2.mem.wf = true := modTeam_memOk h1
    dsimp only
    exact h2

theorem freezeFault_memOk {n i key code op0 op1 op2} : (s.freezeFault n i key code op0 op1 op2).mem.wf = true := by
  unfold State.freezeFault
  split
  · exact h
  · refine ite_memOk h ?_
    extract_lets +onlyGivenNames -underBinder -merge il rec_ s1 s2
    have h1 : s1.mem.wf = true := h
    have h2 : s2.mem.wf = true := ite_memOk (cancelRefold_memOk h1) h1
    exact ite_memOk (dropShadow_memOk h2) h2

theorem noteRan_memOk {team rcd xa} : (s.noteRan team rcd xa).mem.wf = true := h

theorem dropPorts_memOk {r l} : (s.dropPorts r l).mem.wf = true := by
  unfold State.dropPorts
  exact foldl_memOk (fun _ _ hs => by exact ite_memOk hs hs) h

theorem haltStream_memOk {t} : (s.haltStream t).mem.wf = true := by
  unfold State.haltStream
  refine ite_memOk ?_ h
  refine deliver_memOk ?_
  exact h

theorem discardLoad_memOk {n stamp} : (s.discardLoad n stamp).mem.wf = true := by
  unfold State.discardLoad
  split
  · exact h
  · refine ite_memOk h ?_
    extract_lets +onlyGivenNames -underBinder -merge fed s1 s2 s3 s4
    have h1 : s1.mem.wf = true := h
    have h2 : s2.mem.wf = true := dropPorts_memOk (foldl_memOk (fun _ _ hs => by exact haltStream_memOk hs) h1)
    have h3 : s3.mem.wf = true := by
      unfold s3
      split
      · exact ite_memOk h2 (queueRec_memOk h2)
      · exact h2
    have h4 : s4.mem.wf = true := modActive_memOk h3
    refine ite_memOk ?_ h4
    extract_lets +onlyGivenNames -underBinder -merge a
    exact modActive_memOk (cfgStamp_memOk h4)

end Kept

end Sys2Proof.Machine
/-! # The canonical form of memory through the sweep, the fabric and the loads -/

namespace Sys2Proof.Machine

theorem storeBeatTans_wf {m : Memory} (h : m.wf = true) {l key off w v} : (storeBeatTans m l key off w v).1.wf = true := by
  unfold storeBeatTans
  refine foldl_fst_wf (fun m t hm => ?_) h
  exact foldl_fst_wf (fun m i hm => Memory.wf_writeN _ _ _ _ hm) hm

section Kept
variable {s : State} (h : s.mem.wf = true)
include h

/-! ## Cells of DRAM: what the model writes of them -/

theorem putWord_memOk {pa key v} : (s.putWord pa key v).mem.wf = true := by
  unfold State.putWord
  extract_lets +onlyGivenNames -underBinder -merge c
  dsimp only
  exact Memory.wf_writeN _ _ _ _ h

theorem macSet_memOk {pa k} : (s.macSet pa k).mem.wf = true := h

theorem putCell_memOk {pa k ws} : (s.putCell pa k ws).mem.wf = true := by
  unfold State.putCell
  exact foldl_memOk (fun _ _ hs => by exact putWord_memOk hs) h

theorem ccStep_memOk {pa k} : (s.ccStep pa k).mem.wf = true := by
  unfold State.ccStep
  extract_lets +onlyGivenNames -underBinder -merge ws s1
  have h1 : s1.mem.wf = true := h
  exact putCell_memOk h1

theorem rekeyCell_memOk {id pa k} : (s.rekeyCell id pa k).mem.wf = true := by
  unfold State.rekeyCell
  extract_lets +onlyGivenNames -underBinder -merge ws s1 s2
  have h1 : s1.mem.wf = true := h
  have h2 : s2.mem.wf = true := by
    unfold s2
    dsimp only
    exact h1
  exact macSet_memOk (putCell_memOk h2)

theorem ccPut_memOk {key b} : (s.ccPut key b).mem.wf = true := by
  unfold State.ccPut
  exact ite_memOk h h

theorem cached_memOk {u : State} {asid f va b} (hc : s.cached asid f va = some (b, u)) : u.mem.wf = true := by
  unfold State.cached at hc
  dsimp only at hc
  split at hc
  · simp only [Option.some.injEq, Prod.mk.injEq] at hc
    rw [← hc.2]
    exact h
  · split at hc
    · simp only [Option.some.injEq, Prod.mk.injEq] at hc
      rw [← hc.2]
      exact ccPut_memOk h
    · cases hc

theorem cachedN_memOk {u : State} {asid f va n x} (hc : s.cachedN asid f va n = some (x, u)) : u.mem.wf = true := by
  induction n generalizing s u va x with
  | zero =>
    simp only [State.cachedN, Option.some.injEq, Prod.mk.injEq] at hc
    rw [← hc.2]
    exact h
  | succ n ih =>
    rw [State.cachedN] at hc
    split at hc
    · cases hc
    · next b s1 h1 =>
      split at hc
      · cases hc
      · next r s2 h2 =>
        simp only [Option.some.injEq, Prod.mk.injEq] at hc
        rw [← hc.2]
        exact ih (cached_memOk h h1) h2

/-! ## The sweep of the courses -/

theorem failWord_memOk {r p w code reason} : (s.failWord r p w code reason).mem.wf = true := h

theorem postpone_memOk {r p w} : (s.postpone r p w).mem.wf = true := h

theorem startRekey_memOk {p c pa k} : (s.startRekey p c pa k).mem.wf = true := by
  unfold State.startRekey
  exact ite_memOk h h

/-- Check codes and rekeying of a cell touch its bytes through `rekeyCell` and `ccStep` alone. -/
theorem checkCell_memOk {p c ws} : (s.checkCell p c ws).st.mem.wf = true := by
  unfold State.checkCell
  split
  · exact h
  · next w0 t =>
    extract_lets +onlyGivenNames acts
    split
    · exact h
    · extract_lets +onlyGivenNames -underBinder -merge pa cell s1 bad now heal fails s2 s3 skip left rk wr s4
      have h1 : s1.mem.wf = true := ite_memOk (eccNote_memOk (s := { s with eccBad := Tab.set 0 s.eccBad cell 0 }) h) h
      have h2 : s2.mem.wf = true := foldl_memOk (fun _ _ h => by exact failWord_memOk h) h1
      have h3 : s3.mem.wf = true := ite_memOk h2 h2
      have h4 : s4.mem.wf = true := by
        unfold s4
        clear_value rk
        split
        · exact ite_memOk (rekeyCell_memOk h3) h3
        · exact h3
      clear_value wr
      split
      · exact h4
      · extract_lets +onlyGivenNames k wait
        split
        · split
          · exact foldl_memOk (fun _ _ h => by exact failWord_memOk h) h4
          · extract_lets s5
            have h5 : s5.mem.wf = true := foldl_memOk (fun _ _ h => by exact postpone_memOk h) h4
            exact ite_memOk h5 (startRekey_memOk h5)
        · exact ccStep_memOk h4

theorem dropNote_memOk {c} : (s.dropNote c).mem.wf = true := by
  unfold State.dropNote
  split
  · exact h
  · exact h

theorem landAct_memOk {r stack pa m} : (s.landAct r stack pa m).2.2.mem.wf = true := by
  unfold State.landAct
  extract_lets +onlyGivenNames win nsrc one extra vs s1 s2
  have h1 : s1.mem.wf = true := h
  have h2 : s2.mem.wf = true := ite_memOk h1 (foldl_memOk (fun _ _ h => dropNote_memOk h) (queueRec_memOk h1))
  exact h2

theorem writeAct_memOk {r p w} : (s.writeAct r p w).mem.wf = true := by
  unfold State.writeAct
  extract_lets +onlyGivenNames -underBinder -merge pa key i done
  have hd : ∀ (z : State) v fl, z.mem.wf = true → (done z v fl).mem.wf = true := fun _ _ _ hz => modRider_memOk (putWord_memOk hz)
  split
  · exact hd _ _ _ h
  · exact ite_memOk (ite_memOk (modRider_memOk h) (hd _ _ _ h)) (hd _ _ _ h)
  · exact hd _ _ _ h
  · exact hd _ _ _ (modRider_memOk (landAct_memOk h))
  · exact modRider_memOk h

theorem countPage_memOk {pa} : (s.countPage pa).mem.wf = true := by
  unfold State.countPage
  extract_lets +onlyGivenNames -underBinder -merge k st old new s1 th
  have h1 : s1.mem.wf = true := h
  refine ite_memOk ?_ h1
  extract_lets +onlyGivenNames -underBinder -merge q s2
  have h2 : s2.mem.wf = true := by
    unfold s2
    refine ite_memOk ?_ ?_
    · dsimp only
      exact h1
    · dsimp only
      exact h1
  exact raiseInt_memOk h2

theorem countPart_memOk {r p w} : (s.countPart r p w).mem.wf = true := by
  unfold State.countPart
  extract_lets +onlyGivenNames -underBinder -merge pa
  exact ite_memOk h (countPage_memOk (modRider_memOk h))

theorem wordStep_memOk {p c w skip} : (s.wordStep p c w skip).mem.wf = true := by
  unfold State.wordStep
  extract_lets +onlyGivenNames -underBinder -merge as s1 s2
  have h1 : s1.mem.wf = true := foldl_memOk (fun _ _ hs => by exact countPart_memOk hs) h
  have h2 : s2.mem.wf = true := foldl_memOk (fun _ _ hs => by exact writeAct_memOk hs) h1
  exact foldl_memOk (fun _ _ hs => by exact hs) h2

theorem courseWords_memOk {p c cur w} : (s.courseWords p c cur w).mem.wf = true := by
  unfold State.courseWords
  refine foldl_memOk (fun s ws h => ?_) h
  extract_lets x s1
  have h1 : s1.mem.wf = true := foldl_memOk (fun _ _ h => by exact wordStep_memOk h) (checkCell_memOk h)
  split
  · exact h1
  · exact foldl_memOk (fun _ _ h => by exact macSet_memOk h) h1

theorem riderOver_memOk {r} : (s.riderOver r).mem.wf = true := by
  unfold State.riderOver
  exact ite_memOk (ite_memOk h h) h

theorem endPart_memOk {r p stopped} : (s.endPart r p stopped).mem.wf = true := by
  unfold State.endPart
  extract_lets +onlyGivenNames -underBinder -merge s1
  have h1 : s1.mem.wf = true := h
  split
  · exact riderOver_memOk h1
  · exact h1

theorem rekeyEnd_memOk {r} : (s.rekeyEnd r).mem.wf = true := by
  unfold State.rekeyEnd
  refine ite_memOk ?_ h
  extract_lets +onlyGivenNames -underBinder -merge st page s1 s2 i keys
  have h1 : s1.mem.wf = true := h
  have h2 : s2.mem.wf = true := queueRec_memOk h1
  refine ite_memOk ?_ ?_
  · extract_lets +onlyGivenNames -underBinder -merge s3 s4 s5 _ t
    have h3 : s3.mem.wf = true := by
      unfold s3
      refine newTreeKey_memOk ?_
      dsimp only
      exact h2
    have h4 : s4.mem.wf = true := ite_memOk (treeLay_memOk h3) h3
    have h5 : s5.mem.wf = true := queueRec_memOk h4
    dsimp only
    exact h5
  · refine treeUpdate_memOk ?_
    dsimp only
    exact h2

theorem finishStep_memOk {p c} : (s.finishStep p c).mem.wf = true := by
  unfold State.finishStep
  exact foldl_memOk (fun _ _ hs => by exact ite_memOk (rekeyEnd_memOk (dropRider_memOk hs)) (endPart_memOk hs)) h

theorem modePend_memOk {p c} : (s.modePend p c).mem.wf = true := by
  unfold State.modePend
  exact ite_memOk h h

theorem withdrawStep_memOk {p c} : (s.withdrawStep p c).mem.wf = true := by
  unfold State.withdrawStep
  exact foldl_memOk (fun _ _ hs => by exact endPart_memOk hs) h

theorem modeStep_memOk {p c} : (s.modeStep p c).mem.wf = true := by
  obtain ⟨v, hv⟩ : ∃ v, s.modeStep p c = v := ⟨_, rfl⟩
  rw [hv]
  unfold State.modeStep at hv
  split at hv
  · extract_lets +onlyGivenNames -underBinder -merge m o hi s1 s2 at hv
    have h1 : s1.mem.wf = true := setReg_memOk h
    have h2 : s2.mem.wf = true := h1
    rw [← hv]
    exact foldl_memOk (fun _ _ h => by exact endPart_memOk h) h2
  · rw [← hv]
    exact h

theorem boardPart_memOk {cur r p} : (s.boardPart cur r p).mem.wf = true := by
  unfold State.boardPart
  extract_lets +onlyGivenNames -underBinder -merge s1
  have h1 : s1.mem.wf = true := h
  split
  · exact modRider_memOk h1
  · extract_lets +onlyGivenNames -underBinder -merge k pend
    exact modRider_memOk h1
  · refine ite_memOk ?_ h1
    dsimp only
    exact h1
  · exact h1

theorem boardStep_memOk {w p c} : (s.boardStep w p c).mem.wf = true := by
  unfold State.boardStep
  extract_lets +onlyGivenNames -underBinder -merge cur words
  exact foldl_memOk (fun _ _ hs => by exact boardPart_memOk hs) h

theorem loadBv_memOk {pc r} : (s.loadBv pc r).mem.wf = true := by
  unfold State.loadBv
  extract_lets +onlyGivenNames -underBinder -merge n elem
  exact foldl_memOk (fun _ _ hs => by exact hs) h

theorem bvStep_memOk {p c} : (s.bvStep p c).mem.wf = true := by
  unfold State.bvStep
  refine foldl_memOk (fun _ _ hs => ?_) h
  extract_lets +onlyGivenNames -underBinder -merge s1
  have h1 : s1.mem.wf = true := hs
  exact ite_memOk (loadBv_memOk h1) h1

theorem newPass_memOk {p c cur w} : (s.newPass p c cur w).mem.wf = true := by
  unfold State.newPass
  exact foldl_memOk (fun _ _ hs => by exact hs) h

theorem courseStep_memOk {p c} : (s.courseStep p c).mem.wf = true := by
  unfold State.courseStep
  extract_lets +onlyGivenNames -underBinder -merge w s1 s2 d w2 cur s3 s4
  have h1 : s1.mem.wf = true := boardStep_memOk (withdrawStep_memOk (modeStep_memOk (modePend_memOk (finishStep_memOk h))))
  have h2 : s2.mem.wf = true := finishStep_memOk h1
  have h3 : s3.mem.wf = true := bvStep_memOk h2
  have h4 : s4.mem.wf = true := ite_memOk (courseWords_memOk (newPass_memOk h3)) h3
  dsimp only
  exact h4

theorem tickStack_memOk {st} : (s.tickStack st).mem.wf = true := by
  obtain ⟨v, hv⟩ : ∃ v, s.tickStack st = v := ⟨_, rfl⟩
  rw [hv]
  unfold State.tickStack at hv
  extract_lets +onlyGivenNames -underBinder -merge t s1 s2 at hv
  have h1 : s1.mem.wf = true := memOk_of_eq (ite_memOk (grant_memOk h) h) rfl
  have h2 : s2.mem.wf = true := by
    refine memOk_of_eq (foldl_memOk (fun s i h => ?_) h1) rfl
    extract_lets +onlyGivenNames -underBinder -merge p s3 e
    have h3 : s3.mem.wf = true := foldl_memOk (fun _ _ h => by exact ite_memOk (modePend_memOk h) h) h
    exact ite_memOk (courseStep_memOk h3) h3
  rw [← hv]
  exact tick_memOk h2

/-! ## Faults and flags of elements -/

theorem elFault_memOk {f} : (s.elFault f).mem.wf = true := by
  unfold State.elFault
  exact freezeFault_memOk h

theorem ceIssue_memOk {lat dmode x} : (s.ceIssue lat dmode x).mem.wf = true := by
  unfold State.ceIssue
  extract_lets +onlyGivenNames -underBinder -merge s1
  have h1 : s1.mem.wf = true := loadFlags_memOk h
  exact ite_memOk h1 (modEl_memOk h1)

theorem ceOp_memOk {r l lat dmode f} : (s.ceOp r l lat dmode f).mem.wf = true := by
  unfold State.ceOp
  refine ite_memOk h ?_
  split
  · exact elFault_memOk h
  · exact ceIssue_memOk h

theorem lgOp_memOk {l lat dmode f} : (s.lgOp l lat dmode f).mem.wf = true := by
  unfold State.lgOp
  refine ite_memOk h ?_
  split
  · exact elFault_memOk h
  · exact ceOp_memOk h

/-! ## Compute elements -/

theorem sendToken_memOk {n k target} : (s.sendToken n k target).mem.wf = true := by
  unfold State.sendToken
  split
  · exact h
  · exact h

theorem sendToks_memOk {n l ks} : (s.sendToks n l ks).mem.wf = true := by
  unfold State.sendToks
  exact foldl_memOk (fun _ _ hs => by exact sendToken_memOk (modEl_memOk hs)) h

theorem temit_memOk {c} : (s.temit c).mem.wf = true := by
  unfold State.temit
  refine ite_memOk h ?_
  split
  · exact elFault_memOk h
  · exact ite_memOk h h

theorem idx_memOk {m} : (s.idx m).mem.wf = true := by
  unfold State.idx
  split
  · exact ceOp_memOk h
  · exact h

/-! ## System instructions of a core -/

theorem saveRy_memOk {off} : (s.saveRy off).mem.wf = true := h

theorem loadRy_memOk {off} : (s.loadRy off).mem.wf = true := by
  unfold State.loadRy
  exact foldl_memOk (fun _ _ hs => by exact hs) h

theorem takeToken_memOk {d n} : (s.takeToken d n).mem.wf = true := by
  unfold State.takeToken
  extract_lets +onlyGivenNames -underBinder -merge c
  exact putX_memOk (modMe_memOk h)

theorem putPlane_memOk {lat d t v} : (s.putPlane lat d t v).mem.wf = true := h

/-! ## Riders and transfers that have their results -/

theorem deliverWords_memOk {t c la ws} : (s.deliverWords t c la ws).mem.wf = true := by
  unfold State.deliverWords
  exact ite_memOk (deliver_memOk h) (foldl_memOk (fun _ _ hs => by exact deliver_memOk hs) h)

theorem setFull_memOk {la n} : (s.setFull la n).mem.wf = true := by
  unfold State.setFull
  exact ite_memOk h h

theorem teamFlags_memOk {t c fl} : (s.teamFlags t c fl).mem.wf = true := by
  unfold State.teamFlags
  exact ite_memOk h (ite_memOk h (modContext_memOk h))

theorem stampRider_memOk {r status time} : (s.stampRider r status time).mem.wf = true := by
  unfold State.stampRider
  exact noteRan_memOk (dropRider_memOk (deliver_memOk h))

theorem keepWords_memOk {key off n eng} : (s.keepWords key off n eng).mem.wf = true := by
  unfold State.keepWords
  exact ite_memOk h h

theorem writeWide_memOk {key off v} : (s.writeWide key off v).mem.wf = true := by
  unfold State.writeWide
  extract_lets m
  have hm : m.wf = true := by
    refine foldl_wf (fun m i hm => ?_) h
    split
    · exact hm
    · exact Memory.wf_writeN _ _ _ _ hm
  exact hm

theorem modTile_memOk {u f} : (s.modTile u f).mem.wf = true := h

theorem claimTile_memOk {u c team} : (s.claimTile u c team).mem.wf = true := h

/-- A delivery goes buffer by buffer: an induction on the buffers left. -/
theorem deliverFrom_memOk {t c la ws k cap n} : (s.deliverFrom t c la ws k cap n).1.mem.wf = true := by
  induction n generalizing s k cap with
  | zero => exact h
  | succ n ih =>
    rw [State.deliverFrom]
    dsimp only
    split
    · exact h
    · split
      · exact deliverWords_memOk h
      · split
        · exact h
        · split
          · exact deliverWords_memOk h
          · exact ih (modNode_memOk (deliverWords_memOk h))

theorem deliverRider_memOk {r cap} : (s.deliverRider r cap).mem.wf = true := by
  unfold State.deliverRider
  extract_lets +onlyGivenNames x fl
  split
  · extract_lets +onlyGivenNames b
    split
    · extract_lets +onlyGivenNames p s1
      have h1 : s1.mem.wf = true := queueRec_memOk h
      exact stampRider_memOk h1
    · refine ite_memOk h ?_
      extract_lets s1 s2
      have h1 : s1.mem.wf = true := Memory.wf_putBytes _ _ _ h
      have h2 : s2.mem.wf = true := claimTile_memOk (modTile_memOk h1)
      exact stampRider_memOk h2
  · split
    · exact ite_memOk (modRider_memOk (deliverFrom_memOk h)) (stampRider_memOk (teamFlags_memOk (deliverFrom_memOk h)))
    · exact stampRider_memOk (teamFlags_memOk h)

/-! ## Nodes, generators and converters of a fabric -/

theorem portValue_memOk {r l k n} : (s.portValue r l k n).2.mem.wf = true := by
  unfold State.portValue
  split
  · exact h
  · exact h

theorem viewData_memOk {l b key off first g x} (hx : s.viewData l b key off first g = .inr x) : x.2.mem.wf = true := by
  unfold State.viewData at hx
  extract_lets +onlyGivenNames -underBinder -merge w xf z src s1 snap runs v fixed at hx
  have h1 : s1.mem.wf = true := memOk_of_eq (ite_memOk (modNode_memOk h) h) rfl
  have hf : fixed.mem.wf = true := memOk_of_eq (ite_memOk (wordsFixed_memOk h1) (ite_memOk (wordsFixed_memOk h1) h1)) rfl
  have hg : (runs.foldl (fun (s : State) x => s.wordsFixed x.1 x.2) fixed).mem.wf = true := foldl_memOk (fun _ _ h => wordsFixed_memOk h) hf
  split at hx
  · cases hx
  split at hx
  · cases hx
  split at hx
  · cases hx
  split at hx
  · cases hx
  split at hx
  · cases hx
  injection hx with hx
  rw [← hx]
  exact hg

theorem viewRead_memOk {r l k x} (hx : s.viewRead r l k = .inr x) : x.2.mem.wf = true := by
  unfold State.viewRead at hx
  extract_lets +onlyGivenNames key b o at hx
  split at hx
  · cases hx
  · split at hx
    · cases hx
    · next y hy =>
      injection hx with hx
      rw [← hx]
      exact modNode_memOk (viewData_memOk h hy)

theorem portIn_memOk {k lat v} : (s.portIn k lat v).mem.wf = true := h

theorem readAhead_memOk {key} : (s.readAhead key).mem.wf = true := by
  unfold State.readAhead
  extract_lets nd
  split
  · extract_lets +onlyGivenNames k
    split
    · split
      · exact freezeFault_memOk h
      · next x hx => exact modNode_memOk (viewRead_memOk h hx)
    · exact h
  · exact h

theorem fabRequest_memOk {l k op off w v last} : (s.fabRequest l k op off w v last).mem.wf = true := h

theorem nodeRead_memOk : s.nodeRead.mem.wf = true := by
  unfold State.nodeRead
  split
  · exact h
  · next r l hl =>
    extract_lets +onlyGivenNames k key nd
    refine ite_memOk h ?_
    split
    · extract_lets +onlyGivenNames s1
      have h1 : s1.mem.wf = true := ite_memOk (readAhead_memOk h) h
      split
      · exact h1
      · exact portIn_memOk (modNode_memOk h1)
    · split
      · split
        · exact elFault_memOk h
        · next x hx => exact portIn_memOk (viewRead_memOk h hx)
      · extract_lets +onlyGivenNames w o
        split
        · exact elFault_memOk h
        · exact modNode_memOk (fabRequest_memOk h)

theorem nodeWrite_memOk : s.nodeWrite.mem.wf = true := by
  unfold State.nodeWrite
  split
  · exact h
  · next r l hl =>
    extract_lets +onlyGivenNames k key nd b w
    refine ite_memOk h ?_
    extract_lets +onlyGivenNames o v
    have hv : v.2.mem.wf = true := portValue_memOk h
    split
    · exact elFault_memOk h
    · split
      · exact elFault_memOk h
      · next c hc =>
        extract_lets +onlyGivenNames -underBinder -merge off s1 total n last s2 s3 t s4
        have h2 : s2.mem.wf = true := modNode_memOk (modEl_memOk hv)
        refine ite_memOk (fabRequest_memOk h2) ?_
        have h3 : s3.mem.wf = true := memOk_of_eq (ite_memOk (writeWide_memOk h2) (Memory.wf_writeN _ _ _ _ h2)) rfl
        have h4 : s4.mem.wf = true := loadFlags_memOk (storeBeatTans_wf h3)
        exact ite_memOk (modNode_memOk h4) h4

theorem nodeAtomic_memOk {op} : (s.nodeAtomic op).mem.wf = true := by
  unfold State.nodeAtomic
  split
  · exact h
  · next r l hl =>
    extract_lets +onlyGivenNames k key nd b w
    refine ite_memOk h ?_
    extract_lets +onlyGivenNames o v
    have hv : v.2.mem.wf = true := portValue_memOk h
    split
    · exact elFault_memOk h
    · extract_lets +onlyGivenNames off total n last
      refine ite_memOk (modNode_memOk (fabRequest_memOk hv)) (ite_memOk (elFault_memOk h) ?_)
      extract_lets +onlyGivenNames -underBinder -merge s1 old x s2
      have h2 : s2.mem.wf = true := loadFlags_memOk (Memory.wf_writeN _ _ _ _ hv)
      exact portIn_memOk (modNode_memOk (wordsFixed_memOk h2))

theorem fabPerformed_memOk {key n r l q p lost} : (s.fabPerformed key n r l q p lost).mem.wf = true := by
  unfold State.fabPerformed
  extract_lets +onlyGivenNames k i
  split
  · split
    · exact freezeFault_memOk h
    · next x hx => exact modNode_memOk (viewData_memOk h hx)
  · extract_lets s1
    have h1 : s1.mem.wf = true := loadFlags_memOk h
    exact ite_memOk (freezeFault_memOk h1) (ite_memOk h1 (modNode_memOk h1))

theorem orderedExecute_memOk {key} : (s.orderedExecute key).mem.wf = true := by
  unfold State.orderedExecute
  extract_lets +onlyGivenNames nd
  split
  · exact h
  · next q hq =>
    extract_lets +onlyGivenNames t
    refine ite_memOk h ?_
    extract_lets +onlyGivenNames -underBinder -merge a next' s1 p runs lost s2 s3
    have h1 : s1.mem.wf = true := modNode_memOk h
    have h3 : s3.mem.wf = true := performReq_wf h1
    split
    · split
      · exact fabPerformed_memOk h3
      · exact h3
    · extract_lets s4
      have h4 : s4.mem.wf = true := fillWait_memOk h3
      exact ite_memOk (eccTrap_memOk h4) h4

theorem askEmission_memOk {n k p addr} : (s.askEmission n k p addr).mem.wf = true := by
  unfold State.askEmission
  split
  · exact h
  · split
    · exact h
    · extract_lets +onlyGivenNames -underBinder -merge c va q
      exact ite_memOk h (admitOrWait_memOk h)

theorem genEmit_memOk {p} : (s.genEmit p).mem.wf = true := by
  unfold State.genEmit
  split
  · exact h
  · extract_lets +onlyGivenNames -underBinder -merge k b j st addr bd s1 x s2
    have h1 : s1.mem.wf = true := by
      unfold s1
      split
      · exact h
      · exact h
      · exact askEmission_memOk h
      · exact h
    have h2 : s2.mem.wf = true := modEl_memOk h1
    exact ite_memOk (sendToken_memOk h2) h2

theorem convert_memOk {inn out close} : (s.convert inn out close).mem.wf = true := by
  unfold State.convert
  split
  · exact h
  · extract_lets +onlyGivenNames -underBinder -merge k b
    refine ite_memOk h ?_
    extract_lets +onlyGivenNames -underBinder -merge s1 f s2 e n
    have h1 : s1.mem.wf = true := by
      unfold s1
      refine ite_memOk ?_ h
      split
      · split
        · exact h
        · exact h
      · exact h
    have h2 : s2.mem.wf = true := ite_memOk (modEl_memOk h1) h1
    refine ite_memOk ?_ h2
    extract_lets +onlyGivenNames -underBinder -merge x
    exact modEl_memOk (loadFlags_memOk h2)

/-! ## Steps of an island -/

theorem fifoPop_memOk {key} : (s.fifoPop key).mem.wf = true := h

theorem pushLinks_memOk {r l i after} : (s.pushLinks r l i after).mem.wf = true := by
  unfold State.pushLinks
  refine foldl_memOk (fun _ _ hs => ?_) h
  extract_lets +onlyGivenNames -underBinder -merge v
  exact ite_memOk hs hs

theorem shiftLines_memOk {n r l i t k} : (s.shiftLines n r l i t k).mem.wf = true := by
  unfold State.shiftLines
  extract_lets +onlyGivenNames -underBinder -merge b rt
  refine ite_memOk h ?_
  extract_lets +onlyGivenNames -underBinder -merge tp fl e v x y z s1
  have h1 : s1.mem.wf = true := h
  split
  · exact freezeFault_memOk h1
  · exact h1

theorem portTake_memOk {r l k d a} : (s.portTake r l k d a).mem.wf = true := by
  unfold State.portTake
  extract_lets +onlyGivenNames -underBinder -merge v
  exact ite_memOk h h

theorem tilePorts_memOk {r l i} : (s.tilePorts r l i).mem.wf = true := by
  unfold State.tilePorts
  refine foldl_memOk (fun _ _ hs => ?_) h
  extract_lets +onlyGivenNames -underBinder -merge b
  exact ite_memOk (portTake_memOk (portTake_memOk hs)) hs

theorem startTransforms_memOk {n r l i} : (s.startTransforms n r l i).mem.wf = true := by
  unfold State.startTransforms
  refine foldl_memOk (fun _ _ hs => ?_) h
  extract_lets +onlyGivenNames -underBinder -merge b
  exact ite_memOk hs hs

theorem startIsland_memOk {n i} : (s.startIsland n i).mem.wf = true := by
  unfold State.startIsland
  split
  · exact h
  · extract_lets +onlyGivenNames -underBinder -merge s1 s2
    have h1 : s1.mem.wf = true := h
    have h2 : s2.mem.wf = true := foldl_memOk (fun _ _ hs => by exact hs) h1
    refine startTransforms_memOk ?_
    dsimp only
    exact h2

theorem islandFreeze_memOk {n i} : (s.islandFreeze n i).mem.wf = true := by
  unfold State.islandFreeze
  split
  · extract_lets +onlyGivenNames -underBinder -merge il
    exact ite_memOk h h
  · exact h

theorem portFreeze_memOk {n i r l t} : (s.portFreeze n i r l t).mem.wf = true := by
  unfold State.portFreeze
  split
  · exact freezeFault_memOk h
  · exact h

theorem islandCycle_memOk {n i} : (s.islandCycle n i).mem.wf = true := by
  unfold State.islandCycle
  split
  · exact h
  · extract_lets +onlyGivenNames -underBinder -merge il last
    refine ite_memOk h ?_
    refine ite_memOk (islandFreeze_memOk h) ?_
    extract_lets +onlyGivenNames -underBinder -merge s1
    have h1 : s1.mem.wf = true := h
    refine ite_memOk (ite_memOk (startIsland_memOk h1) h1) ?_
    refine ite_memOk h1 ?_
    refine ite_memOk ?_ ?_
    · refine ite_memOk ?_ h1
      extract_lets +onlyGivenNames -underBinder -merge s2
      have h2 : s2.mem.wf = true := sendToks_memOk (pushLinks_memOk h1)
      dsimp only
      exact h2
    · refine ite_memOk (modIsl_memOk h1) ?_
      refine ite_memOk (modIsl_memOk (portFreeze_memOk h1)) ?_
      extract_lets +onlyGivenNames -underBinder -merge s3 s4 s5 s6 src s7 s8
      have h3 : s3.mem.wf = true := portFreeze_memOk h1
      have h4 : s4.mem.wf = true := sendToks_memOk (pushLinks_memOk h3)
      have h5 : s5.mem.wf = true := foldl_memOk (fun _ _ hs => by exact shiftLines_memOk hs) h4
      have h6 : s6.mem.wf = true := tilePorts_memOk h5
      have h7 : s7.mem.wf = true := foldl_memOk (fun _ _ hs => by exact hs) h6
      have h8 : s8.mem.wf = true := foldl_memOk (fun _ _ hs => by exact hs) h7
      dsimp only
      exact h8

theorem enterElement_memOk {n i k} : (s.enterElement n i k).mem.wf = true := by
  unfold State.enterElement
  split
  · exact h
  · exact h

theorem latchCe_memOk {r l k} : (s.latchCe r l k).mem.wf = true := by
  unfold State.latchCe
  extract_lets +onlyGivenNames -underBinder -merge e x data ctl node s1
  have h1 : s1.mem.wf = true := by
    unfold s1
    split
    · exact h
    · exact h
  exact modEl_memOk h1

theorem latchNode_memOk {k} : (s.latchNode k).mem.wf = true := h

theorem latchConv_memOk {l b k} : (s.latchConv l b k).mem.wf = true := h

theorem latchIsland_memOk {n i} : (s.latchIsland n i).mem.wf = true := by
  unfold State.latchIsland
  split
  · exact h
  · next r l hl =>
    extract_lets +onlyGivenNames -underBinder -merge il els after moves pops s1 s2 s3 s4
    have h1 : s1.mem.wf = true := by
      refine foldl_memOk (fun s k h => ?_) h
      split
      · exact latchCe_memOk h
      · exact latchNode_memOk h
      · exact ite_memOk (modEl_memOk h) (latchConv_memOk h)
      · exact h
    have h2 : s2.mem.wf = true := foldl_memOk (fun _ _ h => by exact modEl_memOk h) h1
    have h3 : s3.mem.wf = true := foldl_memOk (fun _ _ h => by exact fifoPop_memOk h) h2
    have h4 : s4.mem.wf = true := ite_memOk h3 (modIsl_memOk h3)
    split
    · exact ite_memOk (post_memOk h4) h4
    · exact ite_memOk (post_memOk h4) h4

theorem foldReached_memOk {n i} : (s.foldReached n i).mem.wf = true := by
  unfold State.foldReached
  split
  · exact h
  · extract_lets +onlyGivenNames -underBinder -merge il
    exact ite_memOk h h

theorem freezeSpread_memOk {n} : (s.freezeSpread n).mem.wf = true := by
  unfold State.freezeSpread
  split
  · split
    · exact ite_memOk h h
    · exact h
  · exact h

end Kept

end Sys2Proof.Machine
/-! # The canonical form of memory through loads, tiles, contexts and a core's instructions -/

namespace Sys2Proof.Machine

section Kept
variable {s : State} (h : s.mem.wf = true)
include h

/-! ## Loads of a fabric -/

theorem clearTiles_memOk {r} : (s.clearTiles r).mem.wf = true := by
  unfold State.clearTiles
  extract_lets +onlyGivenNames -underBinder -merge s1
  have h1 : s1.mem.wf = true := foldl_memOk (fun _ _ hs => by exact hs) h
  dsimp only
  exact h1

theorem yieldTiles_memOk {n} : (s.yieldTiles n).mem.wf = true := by
  unfold State.yieldTiles
  split
  · exact h
  · exact modRegion_memOk (clearTiles_memOk h)

theorem releaseRegion_memOk {n} : (s.releaseRegion n).mem.wf = true := by
  unfold State.releaseRegion
  split
  · exact h
  · extract_lets +onlyGivenNames -underBinder -merge s1 s2
    have h1 : s1.mem.wf = true := clearTiles_memOk h
    have h2 : s2.mem.wf = true := by
      unfold s2
      dsimp only
      exact h1
    exact modRegion_memOk h2

theorem tryRelease_memOk {n} : (s.tryRelease n).mem.wf = true := by
  unfold State.tryRelease
  split
  · exact ite_memOk (releaseRegion_memOk h) h
  · exact h

theorem discardRegion_memOk {n stamp} : (s.discardRegion n stamp).mem.wf = true := by
  unfold State.discardRegion
  exact modRegion_memOk (discardLoad_memOk h)

theorem dropHandler_memOk {n} : (s.dropHandler n).mem.wf = true := h

theorem nextCommand_memOk {n} : (s.nextCommand n).mem.wf = true := by
  unfold State.nextCommand
  split
  · exact h
  · extract_lets +onlyGivenNames -underBinder -merge frozen
    refine ite_memOk h ?_
    split
    · refine ite_memOk h ?_
      extract_lets +onlyGivenNames -underBinder -merge s1
      have h1 : s1.mem.wf = true := ite_memOk (discardRegion_memOk h) h
      exact post_memOk (modRegion_memOk h1)
    · exact tryRelease_memOk h

theorem refuseCmd_memOk {die c j} : (s.refuseCmd die c j).mem.wf = true := by
  unfold State.refuseCmd
  extract_lets +onlyGivenNames -underBinder -merge op r s1
  have h1 : s1.mem.wf = true := ite_memOk (cfgStamp_memOk h) h
  exact trapTo_memOk h1

theorem refuseFetch_memOk {n j} : (s.refuseFetch n j).mem.wf = true := by
  unfold State.refuseFetch
  split
  · exact h
  · split
    · exact h
    · extract_lets +onlyGivenNames -underBinder -merge s1
      have h1 : s1.mem.wf = true := refuseCmd_memOk h
      exact nextCommand_memOk (modRegion_memOk h1)

theorem listVa_memOk {t i x} (hx : s.listVa t i = .inr x) : x.2.mem.wf = true := by
  unfold State.listVa at hx
  extract_lets word at hx
  have hw : ∀ (s : State) va y, s.mem.wf = true → word s va = some y → y.2.mem.wf = true := by
    intro s va y h hy
    obtain ⟨z, hz, he⟩ := Option.map_eq_some_iff.mp hy
    rw [← he]
    exact cached_memOk h hz
  split at hx
  · cases hx
  split at hx
  · cases hx
  · next n s1 h1 =>
    have h1 := hw _ _ _ h h1
    split at hx
    · cases hx
    split at hx
    · cases hx
    split at hx
    · cases hx
    · next y hy =>
      injection hx with hx
      rw [← hx]
      exact hw _ _ _ h1 hy

theorem fetchGo_memOk {n} : (s.fetchGo n).mem.wf = true := by
  unfold State.fetchGo
  split
  · exact h
  · split
    · exact nextCommand_memOk h
    · refine ite_memOk h ?_
      split
      · exact h
      · split
        · exact refuseFetch_memOk h
        · next va s1 h1 =>
          have h1 := listVa_memOk h h1
          split
          · exact admitOrWait_memOk h1
          · exact refuseFetch_memOk h1
          · exact h1
          · extract_lets s2
            have h2 : s2.mem.wf = true := foldl_memOk (fun _ _ h => yieldTiles_memOk h) h1
            refine post_memOk (modRegion_memOk ?_)
            exact h2

theorem drainGo_memOk {n} : (s.drainGo n).mem.wf = true := by
  unfold State.drainGo
  split
  · exact h
  · extract_lets +onlyGivenNames -underBinder -merge away
    refine ite_memOk h ?_
    extract_lets +onlyGivenNames -underBinder -merge s1
    have h1 : s1.mem.wf = true := ite_memOk (discardLoad_memOk h) h
    split
    · exact post_memOk (modRegion_memOk h1)
    · refine ite_memOk (post_memOk (modRegion_memOk h1)) ?_
      refine ite_memOk ?_ h1
      extract_lets +onlyGivenNames -underBinder -merge s2
      have h2 : s2.mem.wf = true := modRegion_memOk h1
      exact ite_memOk (post_memOk (modRegion_memOk h2)) h2

theorem takePlanes_memOk {n l} : (s.takePlanes n l).mem.wf = true := by
  unfold State.takePlanes
  split
  · exact h
  · extract_lets +onlyGivenNames -underBinder -merge r s1 s2 s3
    have h1 : s1.mem.wf = true := foldl_memOk (fun _ _ hs => by exact hs) h
    have h2 : s2.mem.wf = true := foldl_memOk (fun _ _ hs => by exact hs) h1
    have h3 : s3.mem.wf = true := by
      unfold s3
      dsimp only
      exact h2
    exact modRegion_memOk h3

theorem swapPlanes_memOk {n} : (s.swapPlanes n).mem.wf = true := by
  unfold State.swapPlanes
  split
  · exact h
  · split
    · exact post_memOk (modRegion_memOk (takePlanes_memOk h))
    · exact h

theorem fillElement_memOk {r l k} : (s.fillElement r l k).mem.wf = true := by
  unfold State.fillElement
  extract_lets +onlyGivenNames -underBinder -merge b
  split
  · exact h
  · exact h
  · exact h
  · exact ite_memOk h h
  · exact h

theorem putCarry_memOk {r e v} : (s.putCarry r e v).mem.wf = true := by
  unfold State.putCarry
  extract_lets +onlyGivenNames -underBinder -merge k
  refine ite_memOk ?_ h
  dsimp only
  exact Memory.wf_writeN _ _ _ _ h

theorem fillPlanes_memOk {n} : (s.fillPlanes n).mem.wf = true := by
  unfold State.fillPlanes
  split
  · exact h
  · next r l hl =>
    extract_lets +onlyGivenNames -underBinder -merge inits lost mem s1 s2 s3 s4
    have hm : mem.wf = true := foldl_wf (fun _ _ hm => Memory.wf_putBytes _ _ _ hm) h
    have h1 : s1.mem.wf = true := memOk_of_eq (foldl_memOk (fun _ _ h => by exact fillElement_memOk h) (s := { s with mem := mem }) hm) rfl
    have h2 : s2.mem.wf = true := by
      unfold s2
      split
      · exact Memory.wf_writeN _ _ _ _ h1
      · exact h1
    have h3 : s3.mem.wf = true := foldl_memOk (fun _ _ h => by exact putCarry_memOk h) h2
    have h4 : s4.mem.wf = true := by
      unfold s4
      clear_value lost
      split
      · exact freezeFault_memOk h3
      · exact h3
    exact foldl_memOk (fun _ _ h => by exact ite_memOk (startIsland_memOk h) h) h4

theorem newClock_memOk {n} : (s.newClock n).mem.wf = true := h

theorem fillRegion_memOk {n} : (s.fillRegion n).mem.wf = true := by
  unfold State.fillRegion
  split
  · exact h
  · exact ite_memOk h (nextCommand_memOk (newClock_memOk (modRegion_memOk (fillPlanes_memOk h))))

theorem takeTok_memOk {n} : (s.takeTok n).mem.wf = true := h

theorem islandToken_memOk {u : State} {t g i behind} (hu : s.islandToken t g i behind = some u) : u.mem.wf = true := by
  unfold State.islandToken at hu
  split at hu
  · cases hu
  · dsimp only at hu
    split at hu
    · cases hu
    split at hu
    · cases hu
      exact modIsl_memOk h
    split at hu
    · split at hu
      · cases hu
        exact h
      · cases hu
    split at hu
    · cases hu
      exact startIsland_memOk h
    · cases hu
      exact modIsl_memOk h

theorem countToken_memOk {c p} : (s.countToken c p).mem.wf = true := h

theorem tokenArrive_memOk {n} : (s.tokenArrive n).mem.wf = true := by
  unfold State.tokenArrive
  split
  · exact h
  · split
    · split
      · next u hu => exact takeTok_memOk (islandToken_memOk h hu)
      · exact h
    · exact ite_memOk h (ite_memOk (takeTok_memOk (countToken_memOk h)) (takeTok_memOk (modTeam_memOk h)))
    · exact ite_memOk h h

theorem finishLoad_memOk {n} : (s.finishLoad n).mem.wf = true := by
  unfold State.finishLoad
  split
  · exact h
  · extract_lets +onlyGivenNames -underBinder -merge out
    refine ite_memOk h ?_
    extract_lets +onlyGivenNames -underBinder -merge s1 s2 s3
    have h1 : s1.mem.wf = true := teamFlags_memOk h
    have h2 : s2.mem.wf = true := by
      unfold s2
      split
      · exact cfgStampAt_memOk h1
      · exact cfgStampAt_memOk h1
    have h3 : s3.mem.wf = true := modTeam_memOk (modActive_memOk h2)
    exact ite_memOk (nextCommand_memOk (modRegion_memOk h3)) (post_memOk (modRegion_memOk h3))

theorem islandFinish_memOk {n i} : (s.islandFinish n i).mem.wf = true := by
  unfold State.islandFinish
  split
  · exact h
  · extract_lets +onlyGivenNames -underBinder -merge il
    exact ite_memOk (finishLoad_memOk (modActive_memOk (modIsl_memOk h))) h

theorem faultEdge_memOk {n} : (s.faultEdge n).mem.wf = true := by
  unfold State.faultEdge
  split
  · exact h
  · split
    · exact h
    · refine ite_memOk h ?_
      extract_lets +onlyGivenNames -underBinder -merge s1
      have h1 : s1.mem.wf = true := h
      refine ite_memOk (nextCommand_memOk (trapTo_memOk h1)) ?_
      extract_lets +onlyGivenNames -underBinder -merge a c
      exact post_memOk (modRegion_memOk (queueRec_memOk h1))

theorem releaseHeld_memOk : s.releaseHeld.mem.wf = true := by
  unfold State.releaseHeld
  extract_lets +onlyGivenNames -underBinder -merge s1
  have h1 : s1.mem.wf = true := h
  exact foldl_memOk (fun _ _ hs => by exact faultEdge_memOk hs) h1

theorem configure_memOk {core origin stamp fl} : (s.configure core origin stamp fl).mem.wf = true := by
  unfold State.configure
  extract_lets +onlyGivenNames -underBinder -merge k tm c
  split
  · refine ite_memOk (refuseCmd_memOk h) ?_
    extract_lets +onlyGivenNames -underBinder -merge n r
    refine nextCommand_memOk ?_
    exact h
  · split
    · exact h
    · extract_lets +onlyGivenNames -underBinder -merge s1 s2
      have h1 : s1.mem.wf = true := h
      have h2 : s2.mem.wf = true := by
        unfold s2
        split
        · exact ite_memOk (discardRegion_memOk (dropHandler_memOk h1)) h1
        · exact h1
      exact nextCommand_memOk h2

theorem unconfigure_memOk {core origin} : (s.unconfigure core origin).mem.wf = true := by
  unfold State.unconfigure
  split
  · exact h
  · split
    · exact h
    · refine ite_memOk h ?_
      extract_lets +onlyGivenNames -underBinder -merge s1 s2
      have h1 : s1.mem.wf = true := h
      have h2 : s2.mem.wf = true := by
        unfold s2
        split
        · exact ite_memOk (discardRegion_memOk (dropHandler_memOk h1)) h1
        · exact h1
      exact nextCommand_memOk h2

theorem sendStart_memOk {core origin isl} : (s.sendStart core origin isl).mem.wf = true := by
  unfold State.sendStart
  split
  · exact h
  · split
    · exact h
    · exact ite_memOk h h

/-! ## X tiles -/

theorem tileFault_memOk {u f tell} : (s.tileFault u f tell).mem.wf = true := by
  unfold State.tileFault
  extract_lets +onlyGivenNames -underBinder -merge c r others s1
  have h1 : s1.mem.wf = true := h
  split
  · exact trapTo_memOk h1
  · exact unitTrap_memOk h1

theorem accFixed_memOk {u offs} : (s.accFixed u offs).mem.wf = true := by
  unfold State.accFixed
  exact ite_memOk h (foldl_memOk (fun _ _ hs => by exact wordsFixed_memOk hs) h)

theorem pairLanded_memOk {u e} : (s.pairLanded u e).mem.wf = true := by
  unfold State.pairLanded
  extract_lets +onlyGivenNames -underBinder -merge p
  refine ite_memOk (tileFault_memOk h) ?_
  refine ite_memOk ?_ h
  extract_lets +onlyGivenNames -underBinder -merge s1 res put s2
  have h1 : s1.mem.wf = true := accFixed_memOk h
  have h2 : s2.mem.wf = true := modTile_memOk h1
  exact post_memOk h2

theorem rowBegin_memOk {u e} : (s.rowBegin u e).mem.wf = true := by
  unfold State.rowBegin
  extract_lets +onlyGivenNames -underBinder -merge offs
  refine ite_memOk (tileFault_memOk h) ?_
  extract_lets +onlyGivenNames -underBinder -merge s1 snap
  have h1 : s1.mem.wf = true := accFixed_memOk h
  exact modTile_memOk h1

theorem tileSettle_memOk {u} : (s.tileSettle u).mem.wf = true := h

theorem kStep_memOk {u} : (s.kStep u).mem.wf = true := by
  unfold State.kStep
  extract_lets +onlyGivenNames -underBinder -merge s1 t
  have h1 : s1.mem.wf = true := h
  split
  · exact h1
  · refine ite_memOk ?_ h1
    split
    · exact h1
    · exact tileFault_memOk h1
    · split
      · exact h1
      · exact tileFault_memOk h1
      · extract_lets +onlyGivenNames -underBinder -merge offs
        refine ite_memOk (tileFault_memOk h1) ?_
        extract_lets +onlyGivenNames -underBinder -merge s2 w last due l
        have h2 : s2.mem.wf = true := foldl_memOk (fun _ _ hs => by exact wordsFixed_memOk hs) (accFixed_memOk h1)
        exact modTile_memOk h2

theorem kLandNow_memOk {u} : (s.kLandNow u).mem.wf = true := by
  unfold State.kLandNow
  extract_lets +onlyGivenNames -underBinder -merge t
  split
  · exact h
  · extract_lets +onlyGivenNames -underBinder -merge s1 fl s2 s3
    have h1 : s1.mem.wf = true := by
      unfold s1
      dsimp only
      exact foldl_wf (fun _ _ hs => Memory.wf_writeN _ _ _ _ hs) h
    have h2 : s2.mem.wf = true := modTile_memOk h1
    have h3 : s3.mem.wf = true := ite_memOk (teamFlags_memOk h2) h2
    split
    · exact pairLanded_memOk h3
    · exact h3

theorem pairCombine_memOk {u} : (s.pairCombine u).mem.wf = true := by
  unfold State.pairCombine
  extract_lets t
  split
  · exact h
  · next e es he =>
    extract_lets +onlyGivenNames p s1 int
    have h1 : s1.mem.wf = true := accFixed_memOk h
    split
    · split
      · exact h
      · next q hq =>
        split
        · exact tileFault_memOk h
        · extract_lets +onlyGivenNames -underBinder -merge x s2
          have hx : x.1.wf = true := foldl_fst_wf (fun _ _ hm => by exact Memory.wf_writeN _ _ _ _ hm) h1
          have h2 : s2.mem.wf = true := modTile_memOk (s := { s1 with mem := x.1 }) hx
          exact teamFlags_memOk h2
    · exact h

theorem pairFault_memOk {u} : (s.pairFault u).mem.wf = true := by
  unfold State.pairFault
  split
  · exact h
  · extract_lets +onlyGivenNames -underBinder -merge s1
    have h1 : s1.mem.wf = true := h
    exact ite_memOk h1 (tileFault_memOk h1)

theorem pairLate_memOk {u} : (s.pairLate u).mem.wf = true := by
  unfold State.pairLate
  extract_lets +onlyGivenNames -underBinder -merge t
  split
  · extract_lets +onlyGivenNames -underBinder -merge s1
    have h1 : s1.mem.wf = true := h
    exact tileFault_memOk (tileFault_memOk h1)
  · exact h

theorem tileZero_memOk {u e} : (s.tileZero u e).mem.wf = true := by
  unfold State.tileZero
  extract_lets +onlyGivenNames -underBinder -merge a s1
  have h1 : s1.mem.wf = true := by
    unfold s1
    dsimp only
    exact Memory.wf_clear _ _ _ h
  exact modTile_memOk h1

theorem tileSave_memOk {u core team la buf held} : (s.tileSave u core team la buf held).mem.wf = true := by
  unfold State.tileSave
  extract_lets +onlyGivenNames -underBinder -merge t hd hh put s1 s2 s3 s4
  have hp : ∀ {z : State} (off n v : Nat), z.mem.wf = true → (put z off n v).mem.wf = true := fun _ _ _ hz => deliver_memOk hz
  have h1 : s1.mem.wf = true := hp _ _ _ h
  have h2 : s2.mem.wf = true := memOk_of_eq (foldl_memOk (fun _ _ hz => by exact hp _ _ _ hz) h1) rfl
  have h3 : s3.mem.wf = true := memOk_of_eq (foldl_memOk (fun _ _ hz => by exact hp _ _ _ hz) h2) rfl
  have h4 : s4.mem.wf = true := memOk_of_eq (ite_memOk (foldl_memOk (fun _ _ hz => by exact hp _ _ _ hz) h3) h3) rfl
  exact hp _ _ _ h4

theorem saveFixed_memOk {u buf} : (s.saveFixed u buf).mem.wf = true := by
  unfold State.saveFixed
  extract_lets +onlyGivenNames -underBinder -merge s1
  have h1 : s1.mem.wf = true := wordsFixed_memOk h
  exact ite_memOk (wordsFixed_memOk h1) h1

theorem stopSave_memOk {u} : (s.stopSave u).mem.wf = true := by
  unfold State.stopSave
  extract_lets +onlyGivenNames t
  split
  · refine ite_memOk (tileFault_memOk (modTile_memOk h)) ?_
    extract_lets +onlyGivenNames -underBinder -merge s1 held s2 s3
    have h1 : s1.mem.wf = true := saveFixed_memOk h
    have h2 : s2.mem.wf = true := by
      unfold s2
      clear_value held
      split
      · exact ite_memOk (teamFlags_memOk h1) h1
      · exact h1
    exact modTile_memOk (tileSave_memOk h2)
  · exact h

theorem stopSaves_memOk {u} : (s.stopSaves u).mem.wf = true := by
  unfold State.stopSaves
  exact ite_memOk h (foldl_memOk (fun _ _ hs => by exact stopSave_memOk hs) h)

theorem tileStop_memOk {u core team la buf} : (s.tileStop u core team la buf).mem.wf = true := by
  unfold State.tileStop
  exact stopSaves_memOk (modTile_memOk (tileSettle_memOk h))

theorem kLand_memOk {u} : (s.kLand u).mem.wf = true := by
  unfold State.kLand
  extract_lets +onlyGivenNames -underBinder -merge s1
  have h1 : s1.mem.wf = true := h
  refine ite_memOk h1 ?_
  split
  · exact stopSaves_memOk h1
  · exact ite_memOk (stopSaves_memOk (kLandNow_memOk h1)) h1

theorem tileRest_memOk {u e} : (s.tileRest u e).mem.wf = true := by
  obtain ⟨v, hv⟩ : ∃ v, s.tileRest u e = v := ⟨_, rfl⟩
  rw [hv]
  unfold State.tileRest at hv
  extract_lets +onlyGivenNames -underBinder -merge off rd hh qn fb kinds len vs at hv
  split at hv
  · rw [← hv]
    exact tileFault_memOk h
  split at hv
  · rw [← hv]
    exact tileFault_memOk h
  extract_lets +onlyGivenNames -underBinder -merge s1 ents0 row ents s2 s3 s4 at hv
  have h1 : s1.mem.wf = true := memOk_of_eq (wordsFixed_memOk h) rfl
  have h2 : s2.mem.wf = true := memOk_of_eq (mem_memOk (foldl_wf (fun _ _ hm => by exact Memory.wf_writeN _ _ _ _ hm) h1)) rfl
  have h3 : s3.mem.wf = true :=
    memOk_of_eq (ite_memOk (mem_memOk (foldl_wf (fun _ _ hm => by exact Memory.wf_writeN _ _ _ _ hm) h2)) h2) rfl
  have h4 : s4.mem.wf = true := memOk_of_eq (modTile_memOk h3) rfl
  clear_value ents
  split at hv
  · split at hv
    · rw [← hv]
      exact h4
    split at hv
    · rw [← hv]
      exact modTile_memOk h4
    split at hv
    · rw [← hv]
      exact modTile_memOk h4
    · rw [← hv]
      exact h4
  · rw [← hv]
    exact h4

theorem acceptEntry_memOk {u} : (s.acceptEntry u).mem.wf = true := by
  unfold State.acceptEntry
  exact ite_memOk h h

theorem drainBegin_memOk {u e} : (s.drainBegin u e).mem.wf = true := by
  unfold State.drainBegin
  extract_lets +onlyGivenNames -underBinder -merge of t kinds want offs
  refine ite_memOk (tileFault_memOk h) ?_
  refine ite_memOk (tileFault_memOk h) ?_
  extract_lets +onlyGivenNames -underBinder -merge s1 cp d s2
  have h1 : s1.mem.wf = true := accFixed_memOk h
  have h2 : s2.mem.wf = true := by
    unfold s2
    dsimp only
    exact h1
  exact modTile_memOk h2

theorem entryEnd_memOk {u} : (s.entryEnd u).mem.wf = true := by
  unfold State.entryEnd
  extract_lets +onlyGivenNames -underBinder -merge t
  split
  · exact h
  · refine ite_memOk ?_ h
    split
    · exact ite_memOk h h
    · exact ite_memOk h h
    · exact tileZero_memOk h
    · exact h

theorem entryBegin_memOk {u} : (s.entryBegin u).mem.wf = true := by
  unfold State.entryBegin
  extract_lets +onlyGivenNames -underBinder -merge s1 t
  have h1 : s1.mem.wf = true := ite_memOk h (entryEnd_memOk (tileSettle_memOk h))
  split
  · exact h1
  · refine ite_memOk ?_ h1
    split
    · exact rowBegin_memOk h1
    · exact rowBegin_memOk h1
    · refine ite_memOk h1 ?_
      split
      · exact modTile_memOk h1
      · exact drainBegin_memOk h1
      · exact ite_memOk (tileFault_memOk h1) (modTile_memOk (tileSave_memOk (saveFixed_memOk h1)))
      · exact tileRest_memOk h1

theorem drainCopyEnd_memOk {u} : (s.drainCopyEnd u).mem.wf = true := by
  unfold State.drainCopyEnd
  extract_lets +onlyGivenNames -underBinder -merge t
  split
  · exact h
  · exact ite_memOk h h

theorem modDrain_memOk {u n f} : (s.modDrain u n f).mem.wf = true := h

theorem drainEnd_memOk {u d failed} : (s.drainEnd u d failed).mem.wf = true := by
  unfold State.drainEnd
  extract_lets +onlyGivenNames -underBinder -merge e s1 st s2
  have h1 : s1.mem.wf = true := teamFlags_memOk h
  have h2 : s2.mem.wf = true := deliver_memOk h1
  exact modTile_memOk h2

theorem drainLess_memOk {u n failed killed nact} : (s.drainLess u n failed killed nact).mem.wf = true := by
  unfold State.drainLess
  extract_lets +onlyGivenNames -underBinder -merge s1
  have h1 : s1.mem.wf = true := h
  split
  · exact ite_memOk (drainEnd_memOk h1) h1
  · exact h1

theorem drainNode_memOk {u d} : (s.drainNode u d).mem.wf = true := by
  unfold State.drainNode
  extract_lets +onlyGivenNames -underBinder -merge e
  split
  · extract_lets +onlyGivenNames -underBinder -merge s1
    have h1 : s1.mem.wf = true := queueRec_memOk h
    exact drainEnd_memOk h1
  · extract_lets +onlyGivenNames -underBinder -merge base
    refine ite_memOk ?_ h
    extract_lets +onlyGivenNames -underBinder -merge s2 s3 s4
    have h2 : s2.mem.wf = true := foldl_memOk (fun _ _ hs => by exact keepWords_memOk hs) h
    have h3 : s3.mem.wf = true := by
      unfold s3
      dsimp only
      exact foldl_wf (fun _ _ hs => Memory.wf_writeN _ _ _ _ hs) h2
    have h4 : s4.mem.wf = true := modNode_memOk (setFull_memOk h3)
    exact drainEnd_memOk h4

theorem drainWrite_memOk {u} : (s.drainWrite u).mem.wf = true := by
  obtain ⟨v, hv⟩ : ∃ v, s.drainWrite u = v := ⟨_, rfl⟩
  rw [hv]
  unfold State.drainWrite at hv
  split at hv
  · rw [← hv]
    exact h
  split at hv
  · rw [← hv]
    exact h
  · next d hd =>
    split at hv
    · extract_lets +onlyGivenNames rs at hv
      split at hv
      · rw [← hv]
        exact drainEnd_memOk h
      · extract_lets +onlyGivenNames s1 at hv
        have h1 : s1.mem.wf = true := memOk_of_eq (modDrain_memOk h) rfl
        rw [← hv]
        refine foldl_memOk (fun s r h => memOk_of_eq (u := s.admitOrWait (s.drainRider u d r) (d.ent.core / 8)
          (eTile (d.ent.core / 8) (d.ent.core % 8) (s.drainRider u d r).xa)) ?_ ?_) h1
        · exact admitOrWait_memOk h
        · rfl
    · extract_lets +onlyGivenNames x at hv
      split at hv
      · rw [← hv]
        exact foldl_memOk (fun _ _ h => memOk_of_eq (startWalks_memOk h) rfl) h
      · extract_lets +onlyGivenNames good bad at hv
        split at hv
        · rw [← hv]
          exact drainEnd_memOk h
        · extract_lets +onlyGivenNames s1 at hv
          have h1 : s1.mem.wf = true := memOk_of_eq (modDrain_memOk h) rfl
          rw [← hv]
          exact contribs_memOk h1
    · rw [← hv]
      exact drainNode_memOk h

/-! ## Contexts -/

theorem contextRider_memOk {t c pa kind ps src} : (s.contextRider t c pa kind ps src).mem.wf = true := by
  unfold State.contextRider
  extract_lets +onlyGivenNames -underBinder -merge n
  exact admitPhys_memOk h

theorem modPairs_memOk {t c f} : (s.modPairs t c f).mem.wf = true := h

theorem tilesAway_memOk {t c} : (s.tilesAway t c).mem.wf = true := by
  unfold State.tilesAway
  extract_lets +onlyGivenNames -underBinder -merge s1
  have h1 : s1.mem.wf = true := by
    unfold s1
    refine foldl_memOk (fun _ _ hs => ?_) h
    extract_lets +onlyGivenNames -underBinder -merge u x mine
    exact ite_memOk hs hs
  exact modPairs_memOk h1

theorem tilesBack_memOk {t c} : (s.tilesBack t c).mem.wf = true := by
  unfold State.tilesBack
  extract_lets +onlyGivenNames -underBinder -merge s1
  have h1 : s1.mem.wf = true := foldl_memOk (fun _ _ hs => by exact ite_memOk hs hs) h
  exact modPairs_memOk h1

theorem saveMember_memOk {t c} : (s.saveMember t c).mem.wf = true := by
  unfold State.saveMember
  split
  · exact h
  · extract_lets +onlyGivenNames -underBinder -merge k m snap ps src s1 _ s2
    have h1 : s1.mem.wf = true := h
    have h2 : s2.mem.wf = true := tilesAway_memOk (setCore_memOk h1)
    exact post_memOk (contextRider_memOk h2)

theorem leaveStep_memOk {c} : (s.leaveStep c).mem.wf = true := by
  unfold State.leaveStep
  refine ite_memOk ?_ h
  split
  · exact saveMember_memOk (modCore_memOk h)
  · exact h

theorem flushLate_memOk {t} : (s.flushLate t).mem.wf = true := by
  unfold State.flushLate
  split
  · exact h
  · refine modTeam_memOk ?_
    dsimp only
    exact foldl_wf (fun _ _ hs => Memory.wf_writeN _ _ _ _ hs) h

theorem switchedOutNow_memOk {c} : (s.switchedOutNow c).mem.wf = true := by
  unfold State.switchedOutNow
  split
  · exact h
  · split
    · exact h
    · refine ite_memOk ?_ h
      extract_lets +onlyGivenNames -underBinder -merge s1
      have h1 : s1.mem.wf = true := h
      exact foldl_memOk (fun _ _ hs => by exact hs) h1

theorem resumeTeam_memOk {t} : (s.resumeTeam t).mem.wf = true := by
  unfold State.resumeTeam
  split
  · exact h
  · extract_lets +onlyGivenNames -underBinder -merge s1
    have h1 : s1.mem.wf = true := h
    refine foldl_memOk (fun _ _ hs => ?_) h1
    extract_lets +onlyGivenNames -underBinder -merge k _ s2
    have h2 : s2.mem.wf = true := hs
    exact post_memOk (contextRider_memOk h2)

theorem contextFill_memOk {t c w} : (s.contextFill t c w).mem.wf = true := by
  unfold State.contextFill
  split
  · exact h
  · extract_lets +onlyGivenNames m k ps x
    have hx : x.1.2.wf = true := by
      refine List.foldlRecOn (motive := fun acc : (Core × Memory) × Nat => acc.1.2.wf = true) ps _ h fun acc hacc p _ => ?_
      dsimp only
      split
      · exact foldl_wf (fun _ _ hm => Memory.wf_writeN _ _ _ _ hm) hacc
      · split
        · exact hacc
        · exact hacc
    exact modTeam_memOk (mem_memOk hx)

theorem restoredNow_memOk {c} : (s.restoredNow c).mem.wf = true := by
  unfold State.restoredNow
  split
  · exact h
  · split
    · exact h
    · refine ite_memOk h ?_
      extract_lets +onlyGivenNames -underBinder -merge s1 s2 s3 s4 at?13 mine
      have h1 : s1.mem.wf = true := foldl_memOk (fun _ _ hs => by exact tilesBack_memOk (setCore_memOk hs)) h
      have h2 : s2.mem.wf = true := flushLate_memOk h1
      have h3 : s3.mem.wf = true := modTeam_memOk h2
      have h4 : s4.mem.wf = true := foldl_memOk (fun _ _ hs => by exact hs) h3
      exact foldl_memOk (fun _ _ hs => by exact post_memOk (nextCommand_memOk (finishLoad_memOk hs))) h4

/-! ## Branches and waits -/

theorem go_memOk {n} : (s.go n).mem.wf = true := h

theorem startLoop_memOk {a n} : (s.startLoop a n).mem.wf = true := by
  unfold State.startLoop
  extract_lets +onlyGivenNames -underBinder -merge lc lend s1
  have h1 : s1.mem.wf = true := h
  exact ite_memOk (go_memOk h1) h1

theorem stampResult_memOk {d a} : (s.stampResult d a).mem.wf = true := by
  unfold State.stampResult
  exact putX_memOk h

/-! ## Scalar accesses -/

theorem load_memOk {d ea n} : (s.load d ea n).mem.wf = true := by
  unfold State.load
  extract_lets +onlyGivenNames off runs ts
  refine ite_memOk ?_ (putW_memOk ?_)
  · exact readCheck_memOk h
  · exact readCheck_memOk h

theorem flagsNow_memOk {f} : (s.flagsNow f).mem.wf = true := by
  unfold State.flagsNow
  exact ite_memOk h h

theorem store_memOk {r ea n} : (s.store r ea n).mem.wf = true := by
  unfold State.store
  extract_lets +onlyGivenNames -underBinder -merge off s1
  have h1 : s1.mem.wf = true := h
  refine ite_memOk ?_ h1
  extract_lets +onlyGivenNames -underBinder -merge t
  exact flagsNow_memOk (foldl_memOk (fun _ _ hs => by exact hs) h1)

theorem loadNode_memOk {d ea n sg} : (s.loadNode d ea n sg).mem.wf = true := by
  unfold State.loadNode
  extract_lets +onlyGivenNames -underBinder -merge r
  exact nodeRequest_memOk h

theorem storeNode_memOk {r ea n} : (s.storeNode r ea n).mem.wf = true := by
  unfold State.storeNode
  extract_lets +onlyGivenNames -underBinder -merge q t
  exact flagsNow_memOk (nodeRequest_memOk h)

theorem atomicNode_memOk {d la b o} : (s.atomicNode d la b o).mem.wf = true := by
  unfold State.atomicNode
  extract_lets +onlyGivenNames -underBinder -merge r sink
  exact nodeRequest_memOk h

/-! ## Vector results -/

theorem putLanes_memOk {lat d m f t} : (s.putLanes lat d m f t).mem.wf = true := h

theorem lanes2_memOk {lat d a b g f t} : (s.lanes2 lat d a b g f t).mem.wf = true := h

theorem lanes1_memOk {lat d a g f t} : (s.lanes1 lat d a g f t).mem.wf = true := h

theorem lanes3_memOk {lat d a b g f t} : (s.lanes3 lat d a b g f t).mem.wf = true := h

theorem lanesI_memOk {lat d a b g f} : (s.lanesI lat d a b g f).mem.wf = true := h

theorem lanesL_memOk {d a b g f} : (s.lanesL d a b g f).mem.wf = true := h

theorem vcmp_memOk {d a b g f} : (s.vcmp d a b g f).mem.wf = true := by
  unfold State.vcmp
  exact putP_memOk h

theorem vmove_memOk {d m src} : (s.vmove d m src).mem.wf = true := h

theorem redAdd_memOk {d a g} : (s.redAdd d a g).mem.wf = true := h

theorem redMax_memOk {d a g} : (s.redMax d a g).mem.wf = true := h

theorem redIadd_memOk {d a g} : (s.redIadd d a g).mem.wf = true := h

/-! ## Vector accesses and conversions -/

theorem quant_memOk {d a n f rm} : (s.quant d a n f rm).mem.wf = true := h

theorem scaleOf_memOk {d a n f} : (s.scaleOf d a n f).mem.wf = true := h

theorem vload_memOk {d ea g n} : (s.vload d ea g n).mem.wf = true := by
  unfold State.vload
  extract_lets +onlyGivenNames off ts
  refine putW_memOk ?_
  exact readCheck_memOk h

theorem vstore_memOk {r ea g} : (s.vstore r ea g).mem.wf = true := by
  unfold State.vstore
  extract_lets +onlyGivenNames -underBinder -merge off m t s1
  have h1 : s1.mem.wf = true := foldl_memOk (fun _ _ hs => by exact ite_memOk hs hs) h
  exact flagsNow_memOk (foldl_memOk (fun _ _ hs => by exact foldl_memOk (fun _ _ hs => by exact ite_memOk hs hs) hs) h1)

theorem vloadNode_memOk {d ea g} : (s.vloadNode d ea g).mem.wf = true := by
  unfold State.vloadNode
  extract_lets +onlyGivenNames -underBinder -merge r
  exact nodeRequest_memOk h

theorem vstoreNode_memOk {r ea g} : (s.vstoreNode r ea g).mem.wf = true := by
  unfold State.vstoreNode
  extract_lets +onlyGivenNames -underBinder -merge q m t
  exact flagsNow_memOk (nodeRequest_memOk h)

theorem extract_memOk {v d m sg} : (s.extract v d m sg).mem.wf = true := by
  unfold State.extract
  extract_lets +onlyGivenNames -underBinder -merge f
  exact putX_memOk h

/-! ## Requests to the host -/

theorem askHost_memOk {r} : (s.askHost r).mem.wf = true := by
  unfold State.askHost
  refine ite_memOk h ?_
  extract_lets +onlyGivenNames -underBinder -merge l
  exact foldl_memOk (fun _ _ hs => by exact hs) (modRider_memOk h)

/-! ## Rider instructions -/

theorem sourceFixed_memOk {c la n} : (s.sourceFixed c la n).mem.wf = true := by
  unfold State.sourceFixed
  exact wordsFixed_memOk h

theorem readSource_memOk {id} : (s.readSource id).mem.wf = true := by
  unfold State.readSource
  split
  · exact h
  · refine ite_memOk h ?_
    refine ite_memOk h ?_
    extract_lets +onlyGivenNames -underBinder -merge x s1
    have h1 : s1.mem.wf = true := ite_memOk (sourceFixed_memOk h) (ite_memOk (sourceFixed_memOk h) h)
    exact modRider_memOk h1

theorem fillSource_memOk : s.fillSource.mem.wf = true := by
  unfold State.fillSource
  exact readSource_memOk h

theorem askNewest_memOk : s.askNewest.mem.wf = true := by
  unfold State.askNewest
  split
  · exact askHost_memOk h
  · exact h

theorem queueStream_memOk {r pat} : (s.queueStream r pat).2.mem.wf = true := by
  unfold State.queueStream
  dsimp only
  split
  · exact h
  · refine post_memOk ?_
    exact h

theorem issueRider_memOk {kind d a b} : (s.issueRider kind d a b).mem.wf = true := by
  unfold State.issueRider
  extract_lets +onlyGivenNames -underBinder r y x
  have hy : y.2.mem.wf = true := admitCore_memOk h
  have hx : x.2.mem.wf = true := by
    unfold x
    split
    · exact queueStream_memOk h
    · split
      · exact queueStream_memOk h
      · split
        · exact askNewest_memOk (fillSource_memOk hy)
        · exact hy
  exact modMe_memOk (putP_memOk hx)

end Kept

end Sys2Proof.Machine
/-! # The canonical form of memory through deliveries, the hub and the registers -/

namespace Sys2Proof.Machine

section Kept
variable {s : State} (h : s.mem.wf = true)
include h

/-! ## Deliveries and stamps of riders -/

theorem endStream_memOk {t stamp} : (s.endStream t stamp).mem.wf = true := by
  unfold State.endStream
  extract_lets +onlyGivenNames -underBinder -merge s1
  have h1 : s1.mem.wf = true := noteRan_memOk (deliver_memOk h)
  refine post_memOk ?_
  dsimp only
  exact h1

theorem portFeed_memOk {t c p} : (s.portFeed t c p).mem.wf = true := by
  unfold State.portFeed
  split
  · exact h
  · exact ite_memOk h h

theorem toPort_memOk {t c p ws} : (s.toPort t c p ws).mem.wf = true := by
  unfold State.toPort
  refine ite_memOk h ?_
  extract_lets +onlyGivenNames -underBinder -merge key
  refine portFeed_memOk ?_
  exact h

theorem toPortOf_memOk {r c p} : (s.toPortOf r c p).mem.wf = true := by
  unfold State.toPortOf
  extract_lets +onlyGivenNames -underBinder -merge ws
  exact ite_memOk h (modRider_memOk (toPort_memOk h))

theorem postOver_memOk {i} : (s.postOver i).mem.wf = true := by
  unfold State.postOver
  split
  · exact h
  · exact h

theorem streamDeliver_memOk {r c p} : (s.streamDeliver r c p).mem.wf = true := by
  unfold State.streamDeliver
  split
  · exact h
  · refine ite_memOk h ?_
    extract_lets +onlyGivenNames -underBinder -merge s1 t s2
    have h1 : s1.mem.wf = true := dropRider_memOk (toPortOf_memOk h)
    have h2 : s2.mem.wf = true := by
      unfold s2
      dsimp only
      exact h1
    refine ite_memOk (endStream_memOk h2) ?_
    refine ite_memOk (endStream_memOk h2) ?_
    refine ite_memOk (endStream_memOk h2) ?_
    split
    · exact postOver_memOk h2
    · exact h2

theorem loadNext_memOk {r} : (s.loadNext r).mem.wf = true := by
  unfold State.loadNext
  extract_lets +onlyGivenNames -underBinder -merge s1
  have h1 : s1.mem.wf = true := h
  split
  · exact postOver_memOk h1
  · exact h1

theorem emissionAdmit_memOk {c p} : (s.emissionAdmit c p).mem.wf = true := by
  obtain ⟨u, hu⟩ : ∃ u, s.emissionAdmit c p = u := ⟨_, rfl⟩
  rw [hu]
  unfold State.emissionAdmit at hu
  split at hu
  · rw [← hu]
    exact h
  · extract_lets +onlyGivenNames ended frozen at hu
    split at hu
    · rw [← hu]
      exact h
    · extract_lets +onlyGivenNames ids va q id x at hu
      have hx : x.2.mem.wf = true := snd_memOk (admitCore_memOk h) rfl
      split at hu
      · rw [← hu]
        exact post_memOk (streams_memOk hx)
      · rw [← hu]
        exact hx

theorem stopPort_memOk {r c p} : (s.stopPort r c p).mem.wf = true := by
  unfold State.stopPort
  split
  · exact ite_memOk h h
  · exact h

theorem streamFail_memOk {r c p} : (s.streamFail r c p).mem.wf = true := by
  unfold State.streamFail
  split
  · exact h
  · refine ite_memOk h ?_
    extract_lets +onlyGivenNames -underBinder -merge s1 s2 t
    have h1 : s1.mem.wf = true := stopPort_memOk (toPortOf_memOk h)
    have h2 : s2.mem.wf = true := by
      unfold s2
      dsimp only
      exact h1
    exact endStream_memOk h2

theorem sendPeer_memOk {r} : (s.sendPeer r).mem.wf = true := by
  unfold State.sendPeer
  extract_lets +onlyGivenNames -underBinder -merge l o dest m ps
  exact ite_memOk h h

theorem endPeer_memOk {r} : (s.endPeer r).mem.wf = true := by
  unfold State.endPeer
  split
  · exact ite_memOk (stampRider_memOk h) h
  · exact h

theorem hostFail_memOk {id status} : (s.hostFail id status).mem.wf = true := by
  unfold State.hostFail
  split
  · exact h
  · refine ite_memOk ?_ h
    extract_lets +onlyGivenNames -underBinder -merge p s1
    have h1 : s1.mem.wf = true := h
    split
    · exact riderOver_memOk h1
    · exact h1

theorem hostCut_memOk {id} : (s.hostCut id).mem.wf = true := by
  unfold State.hostCut
  refine hostFail_memOk ?_
  exact h

theorem sendHost_memOk {r} : (s.sendHost r).mem.wf = true := by
  unfold State.sendHost
  exact ite_memOk (ite_memOk (hostCut_memOk h) h) (ite_memOk h (stampRider_memOk h))

theorem closeWindow_memOk {r} : (s.closeWindow r).mem.wf = true := by
  unfold State.closeWindow
  split
  · extract_lets +onlyGivenNames -underBinder -merge gone
    refine foldl_memOk (fun _ _ hs => ?_) ?_
    · exact dropNote_memOk hs
    · exact h
  · exact h

theorem fillCache_memOk {r} : (s.fillCache r).mem.wf = true := by
  unfold State.fillCache
  exact foldl_memOk (fun _ _ hs => by exact ccPut_memOk hs) h

theorem deliverPassed_memOk {r} : (s.deliverPassed r).mem.wf = true := by
  unfold State.deliverPassed
  split
  · exact ite_memOk (sendPeer_memOk h) h
  · exact ite_memOk (stopPort_memOk (toPortOf_memOk h)) h
  · exact ite_memOk (stopPort_memOk (toPortOf_memOk h)) h
  · exact h

theorem riderDeliver_memOk {id cap} : (s.riderDeliver id cap).mem.wf = true := by
  unfold State.riderDeliver
  split
  · exact h
  · refine ite_memOk (ite_memOk h (readSource_memOk h)) ?_
    refine ite_memOk h ?_
    refine ite_memOk (ite_memOk h (deliverPassed_memOk h)) ?_
    refine ite_memOk h ?_
    refine ite_memOk (stampRider_memOk h) ?_
    split
    · exact ite_memOk (sendHost_memOk h) (ite_memOk (endPeer_memOk (sendPeer_memOk h))
        (ite_memOk (stampRider_memOk (closeWindow_memOk (teamFlags_memOk h))) (deliverRider_memOk h)))
    · exact streamDeliver_memOk h
    · exact ite_memOk (loadNext_memOk (toPortOf_memOk h)) h
    · exact drainLess_memOk (dropRider_memOk h)
    · split
      · exact h
      · exact h
    · exact post_memOk (dropRider_memOk (fillCache_memOk h))
    · exact h
    · exact ite_memOk h (post_memOk (dropRider_memOk (contextFill_memOk h)))
    · exact h
    · exact h
    · extract_lets +onlyGivenNames -underBinder -merge s1
      have h1 : s1.mem.wf = true := h
      exact ite_memOk (walkRead_memOk h1) (treeRead_memOk h1)

theorem riderFault_memOk {id} : (s.riderFault id).mem.wf = true := by
  unfold State.riderFault
  split
  · exact h
  · refine ite_memOk h ?_
    extract_lets +onlyGivenNames -underBinder -merge fin s1
    have h1 : s1.mem.wf = true := by
      unfold s1
      split
      · exact h
      · exact queueRec_memOk h
      · exact h
    split
    · extract_lets +onlyGivenNames -underBinder -merge s2 s3
      have h2 : s2.mem.wf = true := ite_memOk (sendPeer_memOk h1) h1
      have h3 : s3.mem.wf = true := by
        unfold s3
        refine teamFlags_memOk ?_
        exact ite_memOk (closeWindow_memOk h2) h2
      exact ite_memOk (stampRider_memOk h3) (dropRider_memOk (deliver_memOk h3))
    · exact streamFail_memOk h1
    · exact loadNext_memOk (stopPort_memOk (toPortOf_memOk h1))
    · exact drainLess_memOk (dropRider_memOk h1)
    · split
      · exact post_memOk (modRider_memOk h1)
      · exact dropRider_memOk h1
    · exact refuseFetch_memOk (dropRider_memOk h1)
    · exact post_memOk (dropRider_memOk h1)
    · exact post_memOk (dropRider_memOk h1)
    · exact dropRider_memOk h1
    · exact dropRider_memOk h1
    · exact walkRead_memOk (dropRider_memOk h1)

theorem walkFill_memOk {n out} : (s.walkFill n out).mem.wf = true := by
  unfold State.walkFill
  split
  · exact h
  · split
    · exact h
    · exact h

theorem drainNote_memOk {c failed} : (s.drainNote c failed).mem.wf = true := by
  unfold State.drainNote
  split
  · exact drainLess_memOk h
  · exact h

theorem contribArrive_memOk {n} : (s.contribArrive n).mem.wf = true := by
  unfold State.contribArrive
  split
  · exact h
  · refine ite_memOk h ?_
    refine ite_memOk ?_ ?_
    · refine drainNote_memOk ?_
      refine queueRec_memOk ?_
      exact h
    · refine ite_memOk h ?_
      refine drainNote_memOk ?_
      exact h

theorem landTimeout_memOk {id} : (s.landTimeout id).mem.wf = true := by
  unfold State.landTimeout
  split
  · exact h
  · split
    · exact ite_memOk h h
    · exact h

theorem holdExpiry_memOk {st} : (s.holdExpiry st).mem.wf = true := by
  unfold State.holdExpiry
  extract_lets +onlyGivenNames -underBinder -merge late
  refine foldl_memOk (fun _ _ hs => ?_) ?_
  · exact dropNote_memOk (queueRec_memOk hs)
  · exact h

theorem retryAdmit_memOk {n} : (s.retryAdmit n).mem.wf = true := by
  unfold State.retryAdmit
  split
  · exact h
  · next q hq =>
    extract_lets +onlyGivenNames frozen
    split
    · exact h
    split
    · exact h
    refine ite_memOk ?_ ?_
    · exact ite_memOk h (takeSlots_memOk (s := { s with waiting := s.waiting.eraseIdx n }) h)
    · extract_lets +onlyGivenNames x
      have hx : x.2.mem.wf = true := snd_memOk (tryAdmit_memOk h) rfl
      exact ite_memOk hx hx

theorem hostComplete_memOk {id off size data} : (s.hostComplete id off size data).mem.wf = true := by
  unfold State.hostComplete
  split
  · exact h
  · exact ite_memOk h (ite_memOk h h)

/-! ## The core before and after a bundle -/

theorem endStep_memOk : s.endStep.mem.wf = true := h

theorem doStores_memOk : s.doStores.mem.wf = true := memStored_wf h

theorem retire_memOk : s.retire.mem.wf = true := by
  unfold State.retire
  extract_lets +onlyGivenNames -underBinder -merge s1 s2
  have h1 : s1.mem.wf = true := doStores_memOk h
  have h2 : s2.mem.wf = true := modMe_memOk h1
  split
  · exact endStep_memOk (modMe_memOk h2)
  · exact endStep_memOk (modMe_memOk h2)
  · exact endStep_memOk (modMe_memOk h2)
  · exact endStep_memOk (modMe_memOk h2)
  · exact endStep_memOk (takeTrap_memOk (modMe_memOk h2))
  · extract_lets +onlyGivenNames -underBinder -merge l s3 s4
    have h3 : s3.mem.wf = true := endStep_memOk (modMe_memOk h2)
    have h4 : s4.mem.wf = true := by
      unfold s4
      split
      · exact post_memOk h3
      · exact h3
    exact foldl_memOk (fun _ _ hs => by exact escalate_memOk hs) h4

theorem beforeIssue_memOk : s.beforeIssue.1.mem.wf = true := by
  unfold State.beforeIssue
  extract_lets +onlyGivenNames s1
  have h1 : s1.mem.wf = true := modMe_memOk h
  split
  · split
    · extract_lets s2
      have h2 : s2.mem.wf = true := modMe_memOk h1
      exact endStep_memOk (takeTrap_memOk h2)
    · split
      · exact endStep_memOk h1
      · exact h1
  · exact endStep_memOk (handlerStart_memOk h1)
  · exact endStep_memOk h1
  · exact h1

theorem stopBundle_memOk : OptMemOk s.stopBundle := by
  unfold State.stopBundle
  split
  · exact optMemOk_some (endStep_memOk (precise_memOk h))
  · extract_lets is
    split
    · next u hu =>
      obtain ⟨i, _, hi⟩ := List.exists_of_findSome?_eq_some hu
      exact optMemOk_some (endStep_memOk (trapEsc_memOk h u hi))
    · refine optMemOk_ite (optMemOk_some (endStep_memOk h)) ?_
      split
      · next u hu =>
        rcases Option.or_eq_some_iff.mp hu with hi | ⟨_, hi⟩
        · exact optMemOk_some (endStep_memOk (holdStep_memOk h u hi))
        · exact optMemOk_some (endStep_memOk (holdStep_memOk h u hi))
      · exact optMemOk_none

/-! ## Refolding -/

theorem readImage_memOk {u : State} {asid f va n m} (hc : s.readImage asid f va n = some (m, u)) : u.mem.wf = true := by
  unfold State.readImage at hc
  obtain ⟨x, hx, he⟩ := Option.map_eq_some_iff.mp hc
  rw [← (Prod.mk.inj he).2]
  exact cachedN_memOk h hx

theorem variantEvent_memOk {r l j} : (s.variantEvent r l j).mem.wf = true := by
  unfold State.variantEvent
  extract_lets +onlyGivenNames -underBinder -merge op
  exact queueRec_memOk h

theorem variantLoad_memOk {n r l cores va quarter x} (hx : s.variantLoad n r l cores va quarter = .inr x) :
    x.2.mem.wf = true := by
  unfold State.variantLoad at hx
  split at hx
  · cases hx
  · next hh s1 h1 =>
    have h1 := readImage_memOk h h1
    split at hx
    · cases hx
    · split at hx
      · cases hx
      · next m s2 h2 =>
        have h2 := readImage_memOk h1 h2
        extract_lets v at hx
        split at hx
        · cases hx
        split at hx
        · cases hx
        split at hx
        · cases hx
        split at hx
        · cases hx
        · injection hx with hx
          rw [← hx]
          exact h2

theorem finishSwap_memOk {n} : (s.finishSwap n).mem.wf = true := by
  unfold State.finishSwap
  exact fillRegion_memOk (swapPlanes_memOk h)

theorem drainToFold_memOk {n cores quarter} : (s.drainToFold n cores quarter).mem.wf = true := by
  unfold State.drainToFold
  extract_lets s1
  have h1 : s1.mem.wf = true := finishSwap_memOk h
  split
  · exact h1
  · refine ite_memOk h1 ?_
    extract_lets +onlyGivenNames half qtr x
    refine ite_memOk h1 ?_
    split
    · exact variantEvent_memOk h1
    · next v s2 h2 => exact modActive_memOk (modRegion_memOk (variantLoad_memOk h1 h2))

theorem refoldNow_memOk {n} : (s.refoldNow n).mem.wf = true := by
  unfold State.refoldNow
  split
  · exact h
  · split
    · exact h
    · refine ite_memOk h ?_
      extract_lets +onlyGivenNames -underBinder -merge carry isl v
      exact ite_memOk (swapPlanes_memOk (modRegion_memOk h)) (fillPlanes_memOk (newClock_memOk (modRegion_memOk (takePlanes_memOk (modRegion_memOk h)))))

/-! ## Entries of an X tile -/

theorem pushEntry_memOk {kind a b imm n} : (s.pushEntry kind a b imm n).mem.wf = true := h

/-! ## Transform nodes -/

theorem setXforms_memOk {u l} : (s.setXforms u l).mem.wf = true := h

theorem transformBegin_memOk {u} : (s.transformBegin u).mem.wf = true := by
  unfold State.transformBegin
  split
  · exact h
  · refine ite_memOk h ?_
    extract_lets +onlyGivenNames -underBinder -merge src k a o r
    exact setXforms_memOk (wordsFixed_memOk h)

theorem xformFault_memOk {u x f} : (s.xformFault u x f).mem.wf = true := by
  unfold State.xformFault
  extract_lets +onlyGivenNames -underBinder -merge c q
  split
  · exact trapTo_memOk h
  · split
    · exact ite_memOk (trapTo_memOk h) (freezeFault_memOk h)
    · exact h

theorem transformEnd_memOk {u} : (s.transformEnd u).mem.wf = true := by
  unfold State.transformEnd
  split
  · exact h
  · refine ite_memOk h ?_
    extract_lets +onlyGivenNames -underBinder -merge dst a s1 s2
    have h1 : s1.mem.wf = true := by
      unfold s1
      dsimp only
      exact foldl_wf (fun _ _ hs => Memory.wf_writeN _ _ _ _ hs) h
    have h2 : s2.mem.wf = true := setXforms_memOk h1
    split
    · exact xformFault_memOk h2
    · extract_lets +onlyGivenNames -underBinder -merge s3
      have h3 : s3.mem.wf = true := by
        unfold s3
        split
        · exact loadFlags_memOk h2
        · exact teamFlags_memOk h2
      exact deliver_memOk h3

theorem pushXform_memOk {a b inv sh} : (s.pushXform a b inv sh).mem.wf = true := h

/-! ## The hub: launches, rounds and ends of teams -/

theorem launchStamp_memOk {f cell status seq} : (s.launchStamp f cell status seq).mem.wf = true := by
  unfold State.launchStamp
  refine raiseInt_memOk ?_
  dsimp only
  exact Memory.wf_writeN _ _ _ _ h

theorem launchWrite_memOk {f q off size data} : (s.launchWrite f q off size data).mem.wf = true := by
  unfold State.launchWrite
  extract_lets +onlyGivenNames -underBinder -merge c
  refine ite_memOk h ?_
  refine ite_memOk h ?_
  extract_lets +onlyGivenNames -underBinder -merge l
  exact ite_memOk h (ite_memOk (launchStamp_memOk h) h)

theorem dropClaims_memOk {m t} : (s.dropClaims m t).mem.wf = true := h

theorem dispatch_memOk {i e t cores} : (s.dispatch i e t cores).mem.wf = true := by
  unfold State.dispatch
  split
  · exact h
  · next l hl =>
    extract_lets +onlyGivenNames s1 f
    have h1 : s1.mem.wf = true := h
    split
    · exact launchStamp_memOk h1
    · next hd s2 h2 =>
      have h2 := cachedN_memOk h1 h2
      refine ite_memOk ?_ (launchStamp_memOk h2)
      extract_lets +onlyGivenNames tm n s0 s3
      have h3 : s3.mem.wf = true := h2
      exact foldl_memOk (fun _ _ h => by exact setCore_memOk h) h3

theorem beginLeave_memOk {t quarter} : (s.beginLeave t quarter).mem.wf = true := by
  unfold State.beginLeave
  split
  · exact h
  · extract_lets +onlyGivenNames -underBinder -merge s1
    have h1 : s1.mem.wf = true := h
    exact foldl_memOk (fun _ _ hs => by exact ite_memOk (refoldNow_memOk (drainToFold_memOk hs)) hs) h1

theorem preemptFor_memOk {m t i} : (s.preemptFor m t i).mem.wf = true := by
  unfold State.preemptFor
  split
  · exact h
  · extract_lets +onlyGivenNames -underBinder -merge res av
    refine ite_memOk h ?_
    split
    · exact h
    · extract_lets +onlyGivenNames -underBinder -merge taken mine s1
      have h1 : s1.mem.wf = true := h
      exact foldl_memOk (fun _ _ hs => by exact beginLeave_memOk hs) h1

/-- A round dispatches and resumes until nothing is eligible: an induction on what is left of it. -/
theorem roundLoop_memOk {m t n} : (State.roundLoop m t n s).mem.wf = true := by
  induction n generalizing s with
  | zero => exact h
  | succ n ih =>
    rw [State.roundLoop]
    have h1 : (s.dropClaims m t).mem.wf = true := dropClaims_memOk h
    split
    · refine ih ?_
      dsimp only
      split
      · exact dispatch_memOk h1
      · exact h1
    · split
      · exact ih (resumeTeam_memOk h1)
      · split
        · refine ih ?_
          dsimp only
          split
          · exact dispatch_memOk h1
          · exact h1
        · exact h1

theorem dispatchRound_memOk : s.dispatchRound.mem.wf = true := by
  unfold State.dispatchRound
  extract_lets +onlyGivenNames -underBinder -merge t
  refine ite_memOk h ?_
  extract_lets +onlyGivenNames -underBinder -merge m s1 s2
  have h1 : s1.mem.wf = true := h
  have h2 : s2.mem.wf = true := roundLoop_memOk h1
  exact foldl_memOk (fun _ _ hs => by exact preemptFor_memOk hs) h2

theorem refuseRv_memOk {q o} : (s.refuseRv q o).mem.wf = true := by
  unfold State.refuseRv
  exact ite_memOk (trapTo_memOk h) (ite_memOk (modContext_memOk h) (trapTo_memOk h))

theorem applyRv_memOk {q} : (s.applyRv q).mem.wf = true := by
  unfold State.applyRv
  split
  · exact h
  · extract_lets +onlyGivenNames v put
    have hp : ∀ v, (put v).mem.wf = true := fun _ => modTeam_memOk h
    split
    · exact ite_memOk (hp _) (ite_memOk h (refuseRv_memOk h))
    · refine ite_memOk (refuseRv_memOk h) ?_
      extract_lets s1
      have h1 : s1.mem.wf = true := ite_memOk (hp _) (hp _)
      exact ite_memOk (modContext_memOk h1) h1

theorem rvArrive_memOk : s.rvArrive.mem.wf = true := by
  unfold State.rvArrive
  split
  · exact h
  · refine ite_memOk ?_ h
    refine applyRv_memOk ?_
    exact h

theorem trapEntry_memOk {c} : (s.trapEntry c).mem.wf = true := by
  unfold State.trapEntry
  refine ite_memOk h ?_
  split
  · exact takeTrap_memOk (modCore_memOk (modCore_memOk h))
  · exact h

theorem heldFault_memOk {c code} : (s.heldFault c code).mem.wf = true := by
  unfold State.heldFault
  extract_lets landed s0
  have h0 : s0.mem.wf = true := h
  clear_value s0
  refine ite_memOk h ?_
  split
  · exact h
  · next b s1 h1 =>
    have h2 : s1.mem.wf = true := cached_memOk h0 h1
    extract_lets s2
    split
    · exact ite_memOk (endStep_memOk (precise_memOk (s := s2) h2)) h
    · exact h

theorem hubRefusal_memOk {c} : (s.hubRefusal c).mem.wf = true := by
  unfold State.hubRefusal
  refine ite_memOk (heldFault_memOk h) ?_
  split
  · exact ite_memOk (trapEntry_memOk h) h
  · exact h

theorem emptyUnits_memOk {t} : (s.emptyUnits t).mem.wf = true := by
  unfold State.emptyUnits
  refine foldl_memOk (fun _ _ hs => ?_) h
  dsimp only
  exact Memory.wf_clear _ _ _ hs

theorem flrDone_memOk {f} : (s.flrDone f).mem.wf = true := by
  unfold State.flrDone
  refine ite_memOk ?_ h
  dsimp only
  exact Memory.wf_clear _ _ _ h

theorem finishTeam_memOk {t tm status} : (s.finishTeam t tm status).mem.wf = true := by
  unfold State.finishTeam
  extract_lets +onlyGivenNames -underBinder -merge s1 s2 s3
  have h1 : s1.mem.wf = true := emptyUnits_memOk h
  have h2 : s2.mem.wf = true := foldl_memOk (fun _ _ hs => by exact ite_memOk hs hs) h1
  have h3 : s3.mem.wf = true := modTeam_memOk h2
  exact flrDone_memOk (launchStamp_memOk h3)

theorem releaseTeam_memOk {t} : (s.releaseTeam t).mem.wf = true := by
  unfold State.releaseTeam
  refine foldl_memOk (fun _ _ hs => ?_) h
  split
  · exact hs
  · refine ite_memOk ?_ hs
    extract_lets +onlyGivenNames -underBinder -merge s1 s2
    have h1 : s1.mem.wf = true := hs
    have h2 : s2.mem.wf = true := ite_memOk (discardRegion_memOk (dropHandler_memOk h1)) h1
    exact nextCommand_memOk h2

theorem completion_memOk {t} : (s.completion t).mem.wf = true := by
  unfold State.completion
  split
  · exact h
  · refine ite_memOk h ?_
    split
    · exact ite_memOk h (finishTeam_memOk h)
    · refine ite_memOk h ?_
      extract_lets +onlyGivenNames -underBinder -merge s1
      have h1 : s1.mem.wf = true := releaseTeam_memOk h
      exact ite_memOk h1 (finishTeam_memOk h1)

theorem withdrawRiders_memOk {t} : (s.withdrawRiders t).mem.wf = true := by
  unfold State.withdrawRiders
  extract_lets +onlyGivenNames -underBinder -merge gone s1 s2
  have h1 : s1.mem.wf = true := h
  have h2 : s2.mem.wf = true := by
    unfold s2
    refine foldl_memOk (fun _ _ hs => ?_) h1
    split
    · exact drainLess_memOk hs
    · exact hs
  refine foldl_memOk (fun _ _ hs => ?_) h2
  refine deliver_memOk ?_
  exact hs

theorem dropTurns_memOk {t} : (s.dropTurns t).mem.wf = true := by
  unfold State.dropTurns
  extract_lets +onlyGivenNames -underBinder -merge done
  refine foldl_memOk (fun _ _ hs => ?_) h
  refine deliver_memOk ?_
  exact hs

theorem discardLoads_memOk {t} : (s.discardLoads t).mem.wf = true := by
  unfold State.discardLoads
  refine foldl_memOk (fun _ _ hs => ?_) h
  split
  · exact hs
  · refine ite_memOk ?_ hs
    extract_lets +onlyGivenNames -underBinder -merge cs s1 s2 s3
    have h1 : s1.mem.wf = true := by
      unfold s1
      refine foldl_memOk (fun _ _ hs => ?_) hs
      exact ite_memOk (cfgStamp_memOk hs) hs
    have h2 : s2.mem.wf = true := by
      unfold s2
      dsimp only
      exact h1
    have h3 : s3.mem.wf = true := modRegion_memOk h2
    exact releaseRegion_memOk (discardLoad_memOk h3)

theorem clearUnits_memOk {t} : (s.clearUnits t).mem.wf = true := by
  unfold State.clearUnits
  extract_lets +onlyGivenNames -underBinder -merge mine s1
  have h1 : s1.mem.wf = true := by
    refine foldl_memOk (fun s x h => ?_) h
    split
    · extract_lets s2
      have h2 : s2.mem.wf = true := foldl_memOk (fun _ _ h => by exact drainEnd_memOk h) h
      exact modTile_memOk h2
    · exact modTile_memOk h
  exact h1

theorem teamEnd_memOk {t} : (s.teamEnd t).mem.wf = true := by
  unfold State.teamEnd
  split
  · exact h
  · refine ite_memOk h ?_
    extract_lets +onlyGivenNames -underBinder -merge s1 s2 s3 s4 s5 s6 s7
    have h1 : s1.mem.wf = true := foldl_memOk (fun _ _ hs => by exact ite_memOk hs hs) h
    have h2 : s2.mem.wf = true := withdrawRiders_memOk h1
    have h3 : s3.mem.wf = true := dropTurns_memOk h2
    have h4 : s4.mem.wf = true := discardLoads_memOk h3
    have h5 : s5.mem.wf = true := clearUnits_memOk h4
    have h6 : s6.mem.wf = true := by
      unfold s6
      dsimp only
      exact h5
    have h7 : s7.mem.wf = true := modTeam_memOk h6
    exact completion_memOk h7

theorem hostAbort_memOk {f data} : (s.hostAbort f data).mem.wf = true := by
  unfold State.hostAbort
  extract_lets +onlyGivenNames -underBinder -merge cell
  refine ite_memOk h ?_
  split
  · exact endTeam_memOk (queueRec_memOk h)
  · split
    · refine launchStamp_memOk ?_
      exact h
    · exact h

theorem watchdog_memOk {t} : (s.watchdog t).mem.wf = true := by
  unfold State.watchdog
  split
  · exact h
  · extract_lets +onlyGivenNames -underBinder -merge out
    exact ite_memOk (endTeam_memOk (queueRec_memOk h)) h

/-! ## Registers -/

theorem reject_memOk {off} : (s.reject off).mem.wf = true := by
  unfold State.reject
  exact wrej_memOk h

theorem descPiece_memOk {p c upper new} : OptMemOk (s.descPiece p c upper new) := by
  unfold State.descPiece
  extract_lets +onlyGivenNames o lo0 hi0
  refine optMemOk_ite optMemOk_none ?_
  extract_lets +onlyGivenNames lo hi d0 d
  refine optMemOk_ite optMemOk_none (optMemOk_ite optMemOk_none (optMemOk_ite optMemOk_none (optMemOk_ite optMemOk_none ?_)))
  extract_lets +onlyGivenNames s1
  have h1 : s1.mem.wf = true := memOk_of_eq (setReg_memOk (setReg_memOk h)) rfl
  exact optMemOk_ite (optMemOk_some (course_memOk h1)) (optMemOk_some h1)

theorem grantPiece_memOk {k new} : OptMemOk (s.grantPiece k new) := by
  unfold State.grantPiece
  exact optMemOk_ite (optMemOk_some (grantNew_memOk h)) optMemOk_none

theorem sqPiece_memOk {w new} : OptMemOk (s.sqPiece w new) := by
  unfold State.sqPiece
  extract_lets +onlyGivenNames -underBinder -merge n i f old rw new' was is
  refine optMemOk_ite optMemOk_none (optMemOk_ite optMemOk_none (optMemOk_ite optMemOk_none (optMemOk_ite optMemOk_none ?_)))
  extract_lets +onlyGivenNames s1
  have h1 : s1.mem.wf = true := memOk_of_eq (setReg_memOk h) rfl
  refine optMemOk_ite ?_ (optMemOk_some h1)
  extract_lets +onlyGivenNames o
  exact optMemOk_some (setReg_memOk (setReg_memOk (setReg_memOk h1)))

theorem plainPiece_memOk {w new l ok} : OptMemOk (s.plainPiece w new l ok) :=
  optMemOk_ite (optMemOk_some (setReg_memOk h)) optMemOk_none

theorem queuePiece_memOk {q new} : OptMemOk (s.queuePiece q new) := by
  unfold State.queuePiece
  refine optMemOk_ite (optMemOk_some ?_) optMemOk_none
  exact h

theorem frzPiece_memOk {new} : OptMemOk (s.frzPiece new) := by
  unfold State.frzPiece
  split
  · extract_lets t
    have ht : t.mem.wf = true := memOk_of_eq (frzctl_memOk h) rfl
    exact optMemOk_some (ite_memOk (post_memOk ht) ht)
  · exact optMemOk_none

theorem oarPiece_memOk {w new} : OptMemOk (s.oarPiece w new) := by
  unfold State.oarPiece
  extract_lets +onlyGivenNames n en
  split
  · extract_lets +onlyGivenNames v
    exact optMemOk_ite optMemOk_none (optMemOk_some (setReg_memOk h))
  · refine optMemOk_ite optMemOk_none ?_
    extract_lets +onlyGivenNames s1
    have h1 : s1.mem.wf = true := memOk_of_eq (setReg_memOk h) rfl
    split
    · extract_lets +onlyGivenNames o
      exact optMemOk_some (oars_memOk h1)
    · exact optMemOk_some h1

theorem keyPiece_memOk {new} : OptMemOk (s.keyPiece new) := by
  unfold State.keyPiece
  refine optMemOk_ite optMemOk_none (optMemOk_ite (optMemOk_some h) ?_)
  extract_lets +onlyGivenNames s1
  have h1 : s1.mem.wf = true := memOk_of_eq (setReg_memOk h) rfl
  exact optMemOk_ite (optMemOk_some (post_memOk (keyBusy_memOk h1))) (optMemOk_some h1)

theorem encPiece_memOk {w new} : OptMemOk (s.encPiece w new) := by
  unfold State.encPiece
  extract_lets +onlyGivenNames st o up lo hi enp live
  exact optMemOk_ite optMemOk_none (optMemOk_some (newTreeKey_memOk (setReg_memOk h)))

theorem mailPiece_memOk {w new} : OptMemOk (s.mailPiece w new) := by
  unfold State.mailPiece
  refine optMemOk_ite (optMemOk_some h) (optMemOk_ite ?_ ?_)
  · extract_lets k n
    exact optMemOk_some (nonce_memOk h)
  · exact optMemOk_ite (optMemOk_ite (optMemOk_some (ite_memOk (post_memOk h) h)) optMemOk_none) (optMemOk_some h)

theorem counterPiece_memOk {w new} : (s.counterPiece w new).mem.wf = true := h

theorem trinvGo_memOk {hi lo} : (s.trinvGo hi lo).mem.wf = true := by
  unfold State.trinvGo
  extract_lets +onlyGivenNames -underBinder -merge a r old s1
  have h1 : s1.mem.wf = true := by
    unfold s1
    refine foldl_memOk (fun _ _ hs => ?_) ?_
    · exact startWalk_memOk hs
    · exact h
  refine post_memOk ?_
  extract_lets +onlyGivenNames -underBinder -merge s2
  have h2 : s2.mem.wf = true := setReg_memOk h1
  dsimp only
  exact h2

theorem trinvTake_memOk {hi lo} : (s.trinvTake hi lo).mem.wf = true := by
  unfold State.trinvTake
  exact ite_memOk (trinvGo_memOk h) h

theorem trinvPiece_memOk {w new} : OptMemOk (s.trinvPiece w new) := by
  unfold State.trinvPiece
  exact optMemOk_ite (plainPiece_memOk h) (optMemOk_ite optMemOk_none (optMemOk_some (trinvTake_memOk h)))

theorem trinvEnd_memOk : s.trinvEnd.mem.wf = true := by
  unfold State.trinvEnd
  extract_lets +onlyGivenNames -underBinder -merge a r on
  refine ite_memOk h ?_
  extract_lets +onlyGivenNames -underBinder -merge s1
  have h1 : s1.mem.wf = true := h
  split
  · exact h1
  · refine post_memOk ?_
    dsimp only
    exact h1

theorem bar0Piece_memOk {w new} : OptMemOk (s.bar0Piece w new) := by
  unfold State.bar0Piece
  refine optMemOk_ite (plainPiece_memOk h) ?_
  refine optMemOk_ite (optMemOk_some h) ?_
  refine optMemOk_ite (plainPiece_memOk h) ?_
  refine optMemOk_ite (optMemOk_some h) ?_
  refine optMemOk_ite (frzPiece_memOk h) ?_
  refine optMemOk_ite (queuePiece_memOk h) ?_
  refine optMemOk_ite (optMemOk_ite (plainPiece_memOk h) (plainPiece_memOk h)) ?_
  refine optMemOk_ite (mailPiece_memOk h) ?_
  refine optMemOk_ite (oarPiece_memOk h) ?_
  refine optMemOk_ite (plainPiece_memOk h) ?_
  refine optMemOk_ite (keyPiece_memOk h) ?_
  refine optMemOk_ite (encPiece_memOk h) ?_
  refine optMemOk_ite (optMemOk_ite (optMemOk_some (ite_memOk (alarm_memOk h) h)) optMemOk_none) ?_
  refine optMemOk_ite (plainPiece_memOk h) ?_
  refine optMemOk_ite (optMemOk_some h) ?_
  refine optMemOk_ite (optMemOk_ite (optMemOk_some (lndctl_memOk h)) optMemOk_none) ?_
  refine optMemOk_ite (trinvPiece_memOk h) ?_
  refine optMemOk_ite (optMemOk_ite (plainPiece_memOk h) (plainPiece_memOk h)) ?_
  refine optMemOk_ite ?_ ?_
  · split
    · exact plainPiece_memOk h
    · exact plainPiece_memOk h
    · exact plainPiece_memOk h
  refine optMemOk_ite ?_ ?_
  · exact optMemOk_ite (descPiece_memOk h) (optMemOk_ite (grantPiece_memOk h) (optMemOk_ite (optMemOk_some h) optMemOk_none))
  refine optMemOk_ite (sqPiece_memOk h) ?_
  refine optMemOk_ite (optMemOk_some (counterPiece_memOk h)) ?_
  exact optMemOk_ite (optMemOk_some h) optMemOk_none

theorem bar0Write_memOk {f off size data} : (s.bar0Write f off size data).mem.wf = true := by
  unfold State.bar0Write
  refine ite_memOk h (foldl_memOk (fun s w h => ite_memOk (reject_memOk h) ?_) h)
  split
  · next u hu => exact bar0Piece_memOk h u hu
  · exact reject_memOk h

theorem bar4Piece_memOk {f w val new} : OptMemOk (s.bar4Piece f w val new) := by
  unfold State.bar4Piece
  refine optMemOk_ite (optMemOk_ite (optMemOk_some (setInt_memOk h)) optMemOk_none) ?_
  refine optMemOk_ite (optMemOk_ite (optMemOk_some (setInt_memOk h)) optMemOk_none) ?_
  refine optMemOk_ite (optMemOk_some h) ?_
  refine optMemOk_ite (optMemOk_some ?_) ?_
  · exact h
  refine optMemOk_ite (optMemOk_ite (optMemOk_some (hostAbort_memOk h)) optMemOk_none) ?_
  refine optMemOk_ite (optMemOk_ite (optMemOk_some ?_) optMemOk_none) ?_
  · exact h
  refine optMemOk_ite (optMemOk_some h) ?_
  refine optMemOk_ite (optMemOk_some (mem_memOk (Memory.wf_writeN _ _ _ _ h))) ?_
  refine optMemOk_ite (optMemOk_some h) ?_
  refine optMemOk_ite (optMemOk_some h) ?_
  refine optMemOk_ite (optMemOk_some (mem_memOk (Memory.wf_writeN _ _ _ _ h))) ?_
  exact optMemOk_ite (optMemOk_some h) optMemOk_none

theorem bar4Write_memOk {f off size data} : (s.bar4Write f off size data).mem.wf = true := by
  unfold State.bar4Write
  refine ite_memOk h (foldl_memOk (fun s w h => ?_) h)
  split
  · next u hu => exact bar4Piece_memOk h u hu
  · exact reject_memOk h

theorem registerWrite_memOk {bar f off size data} : (s.registerWrite bar f off size data).mem.wf = true := by
  unfold State.registerWrite
  exact ite_memOk (bar0Write_memOk h) (ite_memOk (bar4Write_memOk h) h)

theorem wrejRead_memOk : s.wrejRead.mem.wf = true := h

theorem reportRead_memOk {st} : (s.reportRead st).mem.wf = true := by
  unfold State.reportRead
  split
  · exact hostRead_memOk h
  · exact reportShown_memOk h

end Kept

end Sys2Proof.Machine
/-! # Every step keeps the canonical form of memory -/

namespace Sys2Proof.Machine

theorem stage_memOk {ops got k} (hk : ∀ ws got, PlanMemOk (k ws got)) : PlanMemOk (stage ops got k) := by
  unfold stage
  split
  · exact hk _ _
  · split
    · exact planMemOk_asks
    · exact hk _ _

theorem viewGo_memOk {k} (hk : ∀ hits got, PlanMemOk (k hits got)) {ts lvl ps f got} : PlanMemOk (viewGo k ts lvl ps f got) := by
  induction ts generalizing lvl ps f got with
  | nil => exact hk _ _
  | cons t ts ih =>
    obtain ⟨tva, lim⟩ := t
    unfold viewGo
    dsimp only
    split
    · exact hk _ _
    · split
      · exact planMemOk_asks
      · exact ih

theorem view_memOk {s : State} {n ps got k} (hk : ∀ hits got, PlanMemOk (k hits got)) : PlanMemOk (s.view n ps got k) := viewGo_memOk hk

theorem appendPlan_memOk {s : State} {t hits g0 n got k} (hk : ∀ got, PlanMemOk (k got)) : PlanMemOk (s.appendPlan t hits g0 n got k) := by
  unfold State.appendPlan
  dsimp only
  exact stage_memOk fun _ _ => stage_memOk fun _ _ => hk _

theorem dram_wf {m : Memory} (h : m.wf = true) : m.dram.wf = true := wf_filter _ _ h

/-- The places of a bundle's syllables. -/
def placeInSlot : Place → Bool
  | .any | .s | .v | .m | .c => true
  | _ => false

/-- The places of the ring words of a fabric's elements. -/
def placeInRing : Place → Bool
  | .ce | .node | .gen | .conv => true
  | _ => false

section Kept
variable {s : State} (h : s.mem.wf = true)
include h

/-! ## The sequence unit -/

theorem sqSet_memOk {n w hi lo v} : (s.sqSet n w hi lo v).mem.wf = true := h

theorem modTurn_memOk {id f} : (s.modTurn id f).mem.wf = true := h

theorem overTurn_memOk {t stamp} : (s.overTurn t stamp).mem.wf = true := by
  unfold State.overTurn
  extract_lets +onlyGivenNames -underBinder -merge s1 s2
  have h1 : s1.mem.wf = true := by
    unfold s1
    refine deliver_memOk ?_
    exact h
  have h2 : s2.mem.wf = true := foldl_memOk (fun _ _ hs => by exact hs) h1
  exact ite_memOk (post_memOk h2) h2

theorem endTurn_memOk {t status} : (s.endTurn t status).mem.wf = true := by
  unfold State.endTurn
  exact overTurn_memOk h

theorem failTurn_memOk {t code op0 op1 op2} : (s.failTurn t code op0 op1 op2).mem.wf = true := by
  unfold State.failTurn
  exact endTurn_memOk (queueRec_memOk h)

theorem holdTurn_memOk {t code op0 op1 op2} : (s.holdTurn t code op0 op1 op2).mem.wf = true := by
  unfold State.holdTurn
  exact ite_memOk (failTurn_memOk h) (ite_memOk (overTurn_memOk h) (trapTo_memOk (modTurn_memOk h)))

theorem turnResult_memOk {t ws k} (hk : ∀ u : State, u.mem.wf = true → (k u).mem.wf = true) :
    PlanMemOk (s.turnResult t ws k) := by
  unfold State.turnResult
  exact planMemOk_end (ite_memOk (modTurn_memOk (deliverFrom_memOk h)) (hk _ (deliverFrom_memOk h)))

theorem planPres_memOk {t} : PlanMemOk (s.planPres t) := by
  unfold State.planPres
  exact stage_memOk fun _ _ => planMemOk_end (ite_memOk (post_memOk (modTurn_memOk h)) (post_memOk h))

theorem planLook_memOk {t} : PlanMemOk (s.planLook t) := by
  unfold State.planLook
  split
  · exact planPres_memOk h
  · extract_lets +onlyGivenNames lo ps
    refine view_memOk fun hits got => ?_
    extract_lets +onlyGivenNames gs
    refine stage_memOk fun ws _ => ?_
    extract_lets +onlyGivenNames dir away result done
    clear_value away
    split
    · exact turnResult_memOk h fun _ h => endTurn_memOk h
    · exact planMemOk_end (modTurn_memOk (holdTurn_memOk h))

theorem planApp_memOk {t} : PlanMemOk (s.planApp t) := by
  unfold State.planApp
  extract_lets +onlyGivenNames n
  split
  · exact turnResult_memOk h fun _ h => endTurn_memOk h
  · exact view_memOk fun hits got => appendPlan_memOk fun _ => turnResult_memOk h fun _ h => endTurn_memOk (sqSet_memOk h)

theorem planFork_memOk {t} : PlanMemOk (s.planFork t) := by
  unfold State.planFork
  extract_lets +onlyGivenNames n c
  refine view_memOk fun hits got => stage_memOk fun _ _ => ?_
  extract_lets +onlyGivenNames -underBinder -merge anc x y
  have ha : ∀ (x : State) m, x.mem.wf = true → (anc x m).mem.wf = true :=
    fun _ _ hx => foldl_memOk (fun _ _ h => by exact setReg_memOk h) (sqSet_memOk hx)
  have hx : x.mem.wf = true := ha _ _ (ha _ _ h)
  have hy : y.mem.wf = true := sqSet_memOk (sqSet_memOk hx)
  exact planMemOk_end (endTurn_memOk (sqSet_memOk (sqSet_memOk hy)))

theorem planTrunc_memOk {t} : PlanMemOk (s.planTrunc t) := by
  unfold State.planTrunc
  extract_lets +onlyGivenNames n lo
  exact view_memOk fun hits got => stage_memOk fun _ _ => planMemOk_end (endTurn_memOk (sqSet_memOk (sqSet_memOk h)))

theorem planFlat_memOk {t} : PlanMemOk (s.planFlat t) := by
  unfold State.planFlat
  extract_lets +onlyGivenNames n
  refine view_memOk fun hits got => ?_
  extract_lets +onlyGivenNames far at_ ps
  exact stage_memOk fun _ _ => planMemOk_end (endTurn_memOk (foldl_memOk (fun _ _ h => by exact setReg_memOk h) (sqSet_memOk h)))

theorem resolveHeld_memOk {t} : (s.resolveHeld t).mem.wf = true := by
  unfold State.resolveHeld
  split
  · exact endTurn_memOk h
  · exact h

theorem planDep_memOk {t} : PlanMemOk (s.planDep t) := by
  unfold State.planDep
  extract_lets +onlyGivenNames n g fpw fp
  refine stage_memOk fun ws got => ?_
  extract_lets +onlyGivenNames rf
  split
  · exact planMemOk_end (holdTurn_memOk h)
  · refine stage_memOk fun _ _ => stage_memOk fun _ _ => stage_memOk fun _ _ => ?_
    extract_lets +onlyGivenNames -underBinder -merge s1 s2
    have h1 : s1.mem.wf = true := ite_memOk (deliverWords_memOk h) h
    have h2 : s2.mem.wf = true := endTurn_memOk h1
    exact planMemOk_end (ite_memOk (resolveHeld_memOk h2) h2)

theorem planPlay_memOk {t} : PlanMemOk (s.planPlay t) :=
  planMemOk_end (endTurn_memOk (sqSet_memOk (sqSet_memOk h)))

theorem planFrame_memOk {t} : PlanMemOk (s.planFrame t) := by
  unfold State.planFrame
  extract_lets +onlyGivenNames n ct pt late ckb d
  split
  · exact planMemOk_end (failTurn_memOk h)
  · extract_lets +onlyGivenNames -underBinder -merge g p cut done
    have hd : ∀ ck st, PlanMemOk (done ck st) := by
      intro ck st
      unfold done
      extract_lets +onlyGivenNames pos
      refine turnResult_memOk h fun u hu => ?_
      extract_lets +onlyGivenNames -underBinder -merge s1 s2
      have h1 : s1.mem.wf = true := sqSet_memOk (sqSet_memOk hu)
      have h2 : s2.mem.wf = true := ite_memOk h1 (sqSet_memOk h1)
      exact endTurn_memOk h2
    clear_value done
    refine view_memOk fun hits got => ?_
    split
    · exact appendPlan_memOk fun _ => hd _ _
    · refine stage_memOk fun _ _ => stage_memOk fun _ _ => ?_
      extract_lets +onlyGivenNames ck
      exact stage_memOk fun _ _ => appendPlan_memOk fun _ => hd _ _

theorem planState_memOk {t} : PlanMemOk (s.planState t) := by
  unfold State.planState
  extract_lets +onlyGivenNames n cnt va
  exact stage_memOk fun _ _ => stage_memOk fun _ _ => planMemOk_end (endTurn_memOk (sqSet_memOk h))

/-- The plan of a turn, by its kind. -/
theorem plan_memOk {t} : PlanMemOk (s.plan t) := by
  unfold State.plan
  split
  · exact planMemOk_end (failTurn_memOk h)
  · split
    · exact planLook_memOk h
    · exact planApp_memOk h
    · exact planFork_memOk h
    · exact planTrunc_memOk h
    · exact planFlat_memOk h
    · exact planDep_memOk h
    · exact planPlay_memOk h
    · exact planFrame_memOk h
    · exact planState_memOk h

theorem goTurn_memOk {t} : (s.goTurn t).mem.wf = true := by
  unfold State.goTurn
  split
  · next u hu => exact plan_memOk h u hu
  · exact foldl_memOk (fun _ _ h => by exact admitOrWait_memOk h) (modTurn_memOk h)

theorem advanceTurn_memOk {id} : (s.advanceTurn id).mem.wf = true := by
  unfold State.advanceTurn
  split
  · exact h
  · next t ht =>
    extract_lets +onlyGivenNames -underBinder -merge rs drop
    have hd : ∀ s : State, s.mem.wf = true → (drop s).mem.wf = true := fun _ h => h
    split
    · exact h
    split
    · exact ite_memOk h (goTurn_memOk h)
    split
    · extract_lets +onlyGivenNames s1
      have h1 : s1.mem.wf = true := h
      exact ite_memOk (endTurn_memOk (hd _ h1)) h1
    split
    · exact h
    · extract_lets +onlyGivenNames -underBinder -merge ws t' s1
      have h1 : s1.mem.wf = true := goTurn_memOk (modTurn_memOk (hd _ h))
      exact ite_memOk (post_memOk (modTurn_memOk h1)) h1

theorem turnBegin_memOk {n} : (s.turnBegin n).mem.wf = true := by
  unfold State.turnBegin
  split
  · exact h
  · exact advanceTurn_memOk (modTurn_memOk h)

theorem turnEnd_memOk {n} : (s.turnEnd n).mem.wf = true := by
  unfold State.turnEnd
  exact foldl_memOk (fun _ _ hs => by exact advanceTurn_memOk hs) h

theorem turnResume_memOk {n} : (s.turnResume n).mem.wf = true := by
  unfold State.turnResume
  split
  · exact h
  · refine ite_memOk h ?_
    extract_lets +onlyGivenNames -underBinder -merge t
    exact goTurn_memOk (modTurn_memOk h)

theorem issueSeq_memOk {kind d a b} : (s.issueSeq kind d a b).mem.wf = true := by
  unfold State.issueSeq
  extract_lets +onlyGivenNames -underBinder xb c rcd n la nw src held t full ns _ x
  have hx : x.2.mem.wf = true := by
    unfold x
    split
    · exact h
    · exact ite_memOk (sourceFixed_memOk h) h
  exact modMe_memOk (putP_memOk hx)

/-! ## Links -/

theorem dlDown_memOk {l} : (s.dlDown l).mem.wf = true := by
  unfold State.dlDown
  refine ite_memOk h ?_
  extract_lets +onlyGivenNames -underBinder -merge s1 out s2 s3
  have h1 : s1.mem.wf = true := h
  have h2 : s2.mem.wf = true := foldl_memOk (fun _ _ hs => by exact hostCut_memOk hs) h1
  have h3 : s3.mem.wf = true := queueRec_memOk h2
  exact foldl_memOk (fun _ _ hs => by exact hs) h3

theorem dlUp_memOk {l} : (s.dlUp l).mem.wf = true := by
  unfold State.dlUp
  refine ite_memOk h ?_
  extract_lets +onlyGivenNames -underBinder -merge s1 fire
  have h1 : s1.mem.wf = true := foldl_memOk (fun _ _ hs => by exact hs) h
  dsimp only
  exact h1

theorem modOar_memOk {n f} : (s.modOar n f).mem.wf = true := h

theorem oarSend_memOk {n} : (s.oarSend n).mem.wf = true := by
  unfold State.oarSend
  extract_lets +onlyGivenNames -underBinder -merge o
  split
  · exact h
  · refine ite_memOk h ?_
    extract_lets +onlyGivenNames -underBinder -merge h3 s1 s2
    have h1 : s1.mem.wf = true := h
    have h2 : s2.mem.wf = true := by
      unfold s2
      split
      · exact ite_memOk (endPeer_memOk h1) h1
      · exact h1
    exact ite_memOk h2 (post_memOk h2)

theorem oarAck_memOk {n q} : (s.oarAck n q).mem.wf = true := by
  unfold State.oarAck
  extract_lets +onlyGivenNames -underBinder -merge ps s1 s2
  have h1 : s1.mem.wf = true := h
  have h2 : s2.mem.wf = true := foldl_memOk (fun _ _ hs => by exact hs) h1
  exact ite_memOk h2 (post_memOk h2)

theorem oarTake_memOk {n} : (s.oarTake n).mem.wf = true := by
  obtain ⟨u, hu⟩ : ∃ u, s.oarTake n = u := ⟨_, rfl⟩
  rw [hu]
  unfold State.oarTake at hu
  extract_lets +onlyGivenNames o at hu
  split at hu
  · rw [← hu]
    exact h
  next p t hr =>
  extract_lets +onlyGivenNames hi asid func hh va nw at hu
  split at hu
  · rw [← hu]
    exact h
  split at hu
  · rw [← hu]
    exact oarAck_memOk (modOar_memOk h)
  split at hu
  · rw [← hu]
    exact modOar_memOk h
  extract_lets +onlyGivenNames x at hu
  split at hu
  · rw [← hu]
    exact startWalks_memOk h
  extract_lets +onlyGivenNames -underBinder -merge ws word cs rest first s1 s2 s3 at hu
  have h1 : s1.mem.wf = true := memOk_of_eq (modOar_memOk h) rfl
  have h2 : s2.mem.wf = true := memOk_of_eq (contribs_memOk h1) rfl
  have h3 : s3.mem.wf = true := by
    refine memOk_of_eq (foldl_memOk (fun u r h => memOk_of_eq (u := u.admitOrWait (s.packetDeposit n p r.1 r.2) 4 48) ?_ ?_) h2) rfl
    · exact admitOrWait_memOk h
    · rfl
  rw [← hu]
  exact foldr_memOk (fun _ _ h => post_memOk h) (post_memOk h3)

theorem oarAckSend_memOk {n} : (s.oarAckSend n).mem.wf = true := by
  unfold State.oarAckSend
  exact ite_memOk h h

theorem oarRetrain_memOk {n} : (s.oarRetrain n).mem.wf = true := by
  unfold State.oarRetrain
  exact ite_memOk h h

theorem oarTrained_memOk {n peer} : (s.oarTrained n peer).mem.wf = true := by
  unfold State.oarTrained
  extract_lets +onlyGivenNames -underBinder -merge o
  exact ite_memOk h h

theorem oarDown_memOk {n} : (s.oarDown n).mem.wf = true := by
  unfold State.oarDown
  extract_lets +onlyGivenNames -underBinder -merge o
  refine ite_memOk h ?_
  refine ite_memOk h ?_
  extract_lets +onlyGivenNames -underBinder -merge s1 s2 s3
  have h1 : s1.mem.wf = true := h
  have h2 : s2.mem.wf = true := foldl_memOk (fun _ _ hs => by exact hs) h1
  have h3 : s3.mem.wf = true := raiseInt_memOk (queueRec_memOk h2)
  exact foldl_memOk (fun _ _ hs => by exact hs) h3

theorem dieRetrainStart_memOk {l} : (s.dieRetrainStart l).mem.wf = true := by
  unfold State.dieRetrainStart
  exact ite_memOk h h

theorem dieTrained_memOk {l} : (s.dieTrained l).mem.wf = true := by
  unfold State.dieTrained
  exact ite_memOk h h

theorem dieDown_memOk {l} : (s.dieDown l).mem.wf = true := by
  unfold State.dieDown
  refine ite_memOk h ?_
  extract_lets +onlyGivenNames -underBinder -merge s1 e on
  have h1 : s1.mem.wf = true := h
  exact foldl_memOk (fun _ _ hs => by exact endTeam_memOk (queueRec_memOk hs)) (raiseInt_memOk h1)

theorem flitRetry_memOk {l q} : (s.flitRetry l q).mem.wf = true := by
  unfold State.flitRetry
  refine ite_memOk ?_ ?_
  · extract_lets +onlyGivenNames -underBinder -merge n s1
    have h1 : s1.mem.wf = true := h
    exact ite_memOk (post_memOk h1) h1
  · refine ite_memOk ?_ h
    extract_lets +onlyGivenNames -underBinder -merge n2 s2
    have h2 : s2.mem.wf = true := h
    exact ite_memOk (post_memOk h2) h2

/-! ## Power -/

theorem setPoint_memOk {i v} : (s.setPoint i v).mem.wf = true := by
  unfold State.setPoint
  exact ite_memOk h h

theorem throttled_memOk {i t} : (s.throttled i t).mem.wf = true := by
  unfold State.throttled
  exact ite_memOk h h

theorem publish_memOk {i budget t} : (s.publish i budget t).mem.wf = true := h

theorem reassign_memOk : s.reassign.mem.wf = true := by
  unfold State.reassign
  extract_lets +onlyGivenNames -underBinder -merge t
  refine ite_memOk h ?_
  extract_lets +onlyGivenNames -underBinder -merge s1 s2
  have h1 : s1.mem.wf = true := foldl_memOk (fun _ _ hs => by exact publish_memOk (setPoint_memOk (throttled_memOk hs))) h
  have h2 : s2.mem.wf = true := foldl_memOk (fun _ _ hs => by exact hs) h1
  dsimp only
  exact h2

theorem release_memOk {i} : (s.release i).mem.wf = true := by
  unfold State.release
  refine ite_memOk h ?_
  extract_lets +onlyGivenNames -underBinder -merge mine s1
  have h1 : s1.mem.wf = true := by
    unfold s1
    refine foldl_memOk (fun _ _ hs => ?_) ?_
    · exact ite_memOk (modContext_memOk hs) (deliverNow_memOk hs)
    · exact h
  exact foldl_memOk (fun _ _ hs => by exact portFeed_memOk hs) h1

theorem clockResume_memOk {i} : (s.clockResume i).mem.wf = true := by
  unfold State.clockResume
  extract_lets +onlyGivenNames -underBinder -merge h2
  refine ite_memOk ?_ h
  refine release_memOk ?_
  exact h

theorem thermalCap_memOk {d} : (s.thermalCap d).mem.wf = true := by
  unfold State.thermalCap
  refine ite_memOk ?_ h
  refine foldl_memOk (fun _ _ hs => ?_) ?_
  · exact setPoint_memOk hs
  · exact h

/-! ## Boot, keys and resets -/

theorem hubRelease_memOk : s.hubRelease.mem.wf = true := by
  unfold State.hubRelease
  exact ite_memOk h h

theorem romCheck_memOk {ok svn digest} : (s.romCheck ok svn digest).mem.wf = true := by
  unfold State.romCheck
  exact ite_memOk h (ite_memOk h (ite_memOk h h))

theorem firmwareReady_memOk {digest svn} : (s.firmwareReady digest svn).mem.wf = true := by
  unfold State.firmwareReady
  exact ite_memOk h h

theorem attestGo_memOk : s.attestGo.mem.wf = true := by
  unfold State.attestGo
  exact ite_memOk h h

theorem attestDone_memOk : s.attestDone.mem.wf = true := by
  unfold State.attestDone
  exact ite_memOk h (ite_memOk h h)

theorem keySet_memOk {n} : (s.keySet n).mem.wf = true := h

theorem keyDone_memOk : s.keyDone.mem.wf = true := by
  unfold State.keyDone
  exact ite_memOk h h

theorem eraseKeys_memOk : s.eraseKeys.mem.wf = true := by
  unfold State.eraseKeys
  extract_lets +onlyGivenNames -underBinder -merge s1
  have h1 : s1.mem.wf = true := h
  exact foldl_memOk (fun _ _ hs => by exact endTeam_memOk hs) h1

theorem alarmFires_memOk {n} : (s.alarmFires n).mem.wf = true := by
  unfold State.alarmFires
  refine ite_memOk h ?_
  extract_lets +onlyGivenNames -underBinder -merge s1 r s2
  have h1 : s1.mem.wf = true := h
  have h2 : s2.mem.wf = true := raiseInt_memOk (queueRec_memOk h1)
  exact ite_memOk (eraseKeys_memOk h2) h2

theorem vfReset_memOk {f} : (s.vfReset f).mem.wf = true := by
  unfold State.vfReset
  refine ite_memOk h ?_
  extract_lets +onlyGivenNames -underBinder -merge s1 ts s2
  have h1 : s1.mem.wf = true := h
  have h2 : s2.mem.wf = true := foldl_memOk (fun _ _ hs => by exact endTeam_memOk (queueRec_memOk hs)) h1
  exact flrDone_memOk h2

omit h in
theorem afterReset_memOk {s : State} : s.afterReset.mem.wf = true := reset_mem_wf

theorem deviceReset_memOk {c} : (s.deviceReset c).mem.wf = true := by
  unfold State.deviceReset
  exact dram_wf h

theorem thermalRestart_memOk : s.thermalRestart.mem.wf = true := by
  unfold State.thermalRestart
  exact ite_memOk h h

/-! ## Every instruction and every event -/

theorem thermCap_memOk {l} : ({ s with thermCap := l } : State).mem.wf = true := h

theorem boot_memOk {b} : ({ s with boot := b } : State).mem.wf = true := h

/-- The syllables of a bundle, by what their effect goes through. -/
theorem coxSyllable_memOk {i} (hp : placeInSlot i.place = true) : NextMemOk (exec i s) := by
  delta exec
  cases i
  case add | sub | and | or | xor | sll | srl | sra | min | max | minu | maxu | mul | mulh | mulhu | pmov | extu | exts | ins | clz | ctz |
      popc | addi | andi | ori | xori | slli | srli | srai | lui | csrr | tget | mxstat =>
    exact coxIssue_memOk h (putX_memOk h)
  case div | divu | rem | remu =>
    exact coxIssue_memOk h (putDiv_memOk h)
  case cmpEq | cmpNe | cmpLt | cmpGe | cmpLtu | cmpGeu | pand | por | pxor | pandn | pset | cmpiEq | cmpiNe | cmpiLt | cmpiGe | cmpiLtu |
      cmpiGeu =>
    exact coxIssue_memOk h (putP_memOk h)
  case ldB | ldH | ldW | ldD =>
    exact coxIssue_memOk h (load_memOk h)
  case stB | stH | stW | stD =>
    exact coxIssue_memOk h (store_memOk h)
  case ldnB | ldnH | ldnW | ldnD | ldnBu | ldnHu | ldnWu =>
    exact coxIssue_memOk h (loadNode_memOk h)
  case stnB | stnH | stnW | stnD =>
    exact coxIssue_memOk h (storeNode_memOk h)
  case atn =>
    exact coxIssue_memOk h (atomicNode_memOk h)
  case br =>
    exact coxIssue_memOk h (ite_memOk (go_memOk h) h)
  case brNot =>
    exact coxIssue_memOk h (ite_memOk h (go_memOk h))
  case jal | jalr =>
    exact coxIssue_memOk h (go_memOk (putX_memOk h))
  case loop =>
    exact coxIssue_memOk h (startLoop_memOk h)
  case rvset =>
    exact coxIssue_memOk h (sendRv_memOk h)
  case rvarr =>
    exact coxIssue_memOk h (ite_memOk (sendRv_memOk h) (putX_memOk h))
  case rvwait | nop | fenceT | fenceD | fenceS =>
    exact coxIssue_memOk h h
  case waitstampNe | waitstampTag | waitstampAny =>
    exact coxIssue_memOk h (stampResult_memOk h)
  case fcfg =>
    exact coxIssue_memOk h (configure_memOk h)
  case frel =>
    exact coxIssue_memOk h (unconfigure_memOk h)
  case tksend =>
    exact coxIssue_memOk h (sendStart_memOk h)
  case tktake =>
    exact coxIssue_memOk h (takeToken_memOk h)
  case csrw | csrs | csrc =>
    exact coxIssue_memOk h (putCsr_memOk h)
  case dual | tplane | regshrinkX | regshrinkV | reggrowX | reggrowV | dualend =>
    exact coxIssue_memOk h (putW_memOk h)
  case tgetV | vins | vsplat =>
    exact coxIssue_memOk h (putV_memOk h)
  case tset =>
    exact coxIssue_memOk h (ite_memOk h (putPlane_memOk h))
  case tsetV =>
    exact coxIssue_memOk h (putPlane_memOk h)
  case trap | rett | exit =>
    exact coxIssue_memOk h (go_memOk h)
  case rysave =>
    exact coxIssue_memOk h (saveRy_memOk h)
  case ryload =>
    exact coxIssue_memOk h (loadRy_memOk h)
  case vadd | vsub | vmul | vmin | vmax | vdiv =>
    exact coxIssue_memOk h (lanes2_memOk h)
  case vabs | vneg | vexp2 | vlog2 | vrcp | vrsqrt | vtanh | vsigm | vsqrt =>
    exact coxIssue_memOk h (lanes1_memOk h)
  case vfma | vfnma =>
    exact coxIssue_memOk h (lanes3_memOk h)
  case viadd | visub | vimul | vimin | vimax | vsll | vsrl | vsra =>
    exact coxIssue_memOk h (lanesI_memOk h)
  case vand | vor | vxor | vandn =>
    exact coxIssue_memOk h (lanesL_memOk h)
  case vcmpEqF | vcmpLtF | vcmpLeF | vcmpEqI | vcmpLtI =>
    exact coxIssue_memOk h (vcmp_memOk h)
  case vsel | vperm | vbcast =>
    exact coxIssue_memOk h (vmove_memOk h)
  case vredadd =>
    exact coxIssue_memOk h (redAdd_memOk h)
  case vredmax =>
    exact coxIssue_memOk h (redMax_memOk h)
  case vrediadd =>
    exact coxIssue_memOk h (redIadd_memOk h)
  case vcvtTo | vcvtFrom =>
    exact coxIssue_memOk h (putLanes_memOk h)
  case vscale =>
    exact coxIssue_memOk h (scaleOf_memOk h)
  case vquant =>
    exact coxIssue_memOk h (quant_memOk h)
  case vld | vldb =>
    exact coxIssue_memOk h (vload_memOk h)
  case vst =>
    exact coxIssue_memOk h (vstore_memOk h)
  case vldn =>
    exact coxIssue_memOk h (vloadNode_memOk h)
  case vstn =>
    exact coxIssue_memOk h (vstoreNode_memOk h)
  case vext | vexts =>
    exact coxIssue_memOk h (extract_memOk h)
  case mxstep | mxdrain | mxzero | mxrest | mxpair =>
    exact coxIssue_memOk h (pushEntry_memOk h)
  case mxsave =>
    exact coxIssue_memOk h (ite_memOk (tileStop_memOk h) (pushEntry_memOk h))
  case xfwd | xinv =>
    exact coxIssue_memOk h (pushXform_memOk h)
  case rdstr | rdsieve | rdfold | rdmat | rdfp | rdcmp | upd | dep | land | bvload | importHost | exportHost | stream | crsmode | cursor =>
    exact coxIssue_memOk h (issueRider_memOk h)
  case kvlook | kvapp | kvfork | kvtrunc | kvflat | kvdep | playset | framein | stateck =>
    exact coxIssue_memOk h (issueSeq_memOk h)
  all_goals cases hp

/-- The ring words of elements, by what their effect goes through. -/
theorem ringWord_memOk {i} (hp : placeInRing i.place = true) : NextMemOk (exec i s) := by
  delta exec
  cases i
  case ceMov | ceAdd | ceSub | ceMul | ceFma | ceFms | ceMin | ceMax | ceAbs | ceNeg | ceRelu | ceAnd | ceOr | ceXor | ceShl | ceShr |
      ceSra | ceCmpeq | ceCmplt | ceCmple | ceSel | ceHsum | ceHmax | ceExp2 | ceLog2 | ceRcp | ceRsqrt | ceTanh | ceSigm | ceCmul |
      ceCmac | ceCconj | ceTmerge | ceHdr | cePay =>
    exact nextMemOk_next (ceOp_memOk h)
  case ceCvt =>
    refine nextMemOk_next ?_
    split
    · exact elFault_memOk h
    · exact ceOp_memOk h
  case ceLmul | ceLmac | ceLdot4 =>
    exact nextMemOk_next (lgOp_memOk h)
  case ceTemit =>
    exact nextMemOk_next (temit_memOk h)
  case ceIdx =>
    exact nextMemOk_next (idx_memOk h)
  case nat =>
    exact nextMemOk_next (ite_memOk h (nodeAtomic_memOk h))
  case gemit =>
    exact nextMemOk_next (ite_memOk h (genEmit_memOk h))
  case ceNop | nnop | gnop | cnop =>
    exact nextMemOk_next h
  case nw =>
    exact nextMemOk_next (ite_memOk h (nodeWrite_memOk h))
  case nr =>
    exact nextMemOk_next (ite_memOk h (nodeRead_memOk h))
  case nwr =>
    refine nextMemOk_next (ite_memOk h ?_)
    split
    · exact elFault_memOk h
    · exact nodeWrite_memOk (nodeRead_memOk h)
  case cin | cout | cinCout | cclose | cinCclose | coutCclose | cinCoutCclose =>
    exact nextMemOk_next (ite_memOk h (convert_memOk h))
  all_goals cases hp

/-- The events, each a call of its meaning. -/
theorem event_memOk {i} (hp : i.place = .event) : NextMemOk (exec i s) := by
  delta exec
  cases i
  case resultLanding =>
    exact nextMemOk_next (modCore_memOk h)
  case trapEntry =>
    exact nextMemOk_next (trapEntry_memOk h)
  case handlerStart =>
    exact nextMemOk_next (handlerStart_memOk h)
  case stampTimeout =>
    exact nextMemOk_next (heldFault_memOk h)
  case hubRefusal =>
    exact nextMemOk_next (hubRefusal_memOk h)
  case rvArrival =>
    exact nextMemOk_next (rvArrive_memOk h)
  case launch =>
    exact nextMemOk_next (ite_memOk (launchWrite_memOk h) h)
  case dispatchRound =>
    exact nextMemOk_next (dispatchRound_memOk h)
  case switchOutComplete =>
    exact nextMemOk_next (switchedOutNow_memOk h)
  case contextRestored =>
    exact nextMemOk_next (restoredNow_memOk h)
  case completionStamp =>
    exact nextMemOk_next (completion_memOk h)
  case powerReassignment =>
    exact nextMemOk_next (reassign_memOk h)
  case clockResume =>
    exact nextMemOk_next (clockResume_memOk h)
  case islandStep =>
    exact nextMemOk_next (islandCycle_memOk h)
  case tokenArrival =>
    exact nextMemOk_next (tokenArrive_memOk h)
  case finishToken =>
    exact nextMemOk_next (islandFinish_memOk h)
  case fetchComplete =>
    exact nextMemOk_next (fetchGo_memOk h)
  case drain =>
    exact nextMemOk_next (drainGo_memOk h)
  case reconfigurationToken =>
    exact nextMemOk_next (swapPlanes_memOk h)
  case fill =>
    exact nextMemOk_next (fillRegion_memOk h)
  case foldPointReached =>
    exact nextMemOk_next (refoldNow_memOk (foldReached_memOk h))
  case sweepTick =>
    exact nextMemOk_next (tickStack_memOk (eccFlushAll_memOk h))
  case riderDelivery =>
    exact nextMemOk_next (riderDeliver_memOk h)
  case faultedRiderStamp =>
    exact nextMemOk_next (riderFault_memOk h)
  case walkFill =>
    exact nextMemOk_next (walkFill_memOk h)
  case streamEmissionAdmit =>
    exact nextMemOk_next (emissionAdmit_memOk h)
  case landingContribution =>
    exact nextMemOk_next (contribArrive_memOk h)
  case landTimeout =>
    exact nextMemOk_next (landTimeout_memOk h)
  case contributionHoldExpiry =>
    exact nextMemOk_next (holdExpiry_memOk h)
  case orderedUpdateExecute =>
    exact nextMemOk_next (orderedExecute_memOk h)
  case readAhead =>
    exact nextMemOk_next (readAhead_memOk h)
  case xqEntryAccept =>
    exact nextMemOk_next (acceptEntry_memOk h)
  case xqEntryBegin =>
    exact nextMemOk_next (entryBegin_memOk h)
  case kStep =>
    exact nextMemOk_next (kStep_memOk h)
  case kStepLanding =>
    exact nextMemOk_next (kLand_memOk h)
  case pairCombine =>
    exact nextMemOk_next (pairCombine_memOk h)
  case pairFault =>
    exact nextMemOk_next (pairFault_memOk h)
  case pairLate =>
    exact nextMemOk_next (pairLate_memOk h)
  case drainCopyEnd =>
    exact nextMemOk_next (drainCopyEnd_memOk h)
  case drainWrite =>
    exact nextMemOk_next (drainWrite_memOk h)
  case transformBegin =>
    exact nextMemOk_next (transformBegin_memOk h)
  case transformEnd =>
    exact nextMemOk_next (transformEnd_memOk h)
  case sequenceTurnBegin =>
    exact nextMemOk_next (turnBegin_memOk h)
  case sequenceTurnEnd =>
    exact nextMemOk_next (turnEnd_memOk h)
  case heldTurnResume =>
    exact nextMemOk_next (turnResume_memOk h)
  case islandFreeze =>
    exact nextMemOk_next (islandFreeze_memOk h)
  case freezeSpread =>
    exact nextMemOk_next (freezeSpread_memOk h)
  case faultEdge =>
    exact nextMemOk_next (faultEdge_memOk h)
  case teamEnd =>
    exact nextMemOk_next (teamEnd_memOk h)
  case fqpop | intstClear | intenWrite | hostAbort =>
    exact nextMemOk_next (bar4Write_memOk h)
  case frzctlRel =>
    exact nextMemOk_next (releaseHeld_memOk h)
  case trinvLower =>
    exact nextMemOk_next (bar0Write_memOk h)
  case trinvStart =>
    exact nextMemOk_next (ite_memOk (bar0Write_memOk h) (trinvTake_memOk h))
  case trinvDone =>
    exact nextMemOk_next (trinvEnd_memOk h)
  case accessReportRead =>
    exact nextMemOk_next (ite_memOk (reportRead_memOk h) h)
  case courseDescriptorWrite | grantTableWrite | oarcfgWrite =>
    exact nextMemOk_next (ite_memOk (bar0Write_memOk h) h)
  case wrejRead =>
    exact nextMemOk_next (ite_memOk (wrejRead_memOk h) h)
  case registerWrite =>
    exact nextMemOk_next (registerWrite_memOk h)
  case watchdog =>
    exact nextMemOk_next (watchdog_memOk h)
  case hostCompletion =>
    exact nextMemOk_next (hostComplete_memOk h)
  case completionTimeout =>
    exact nextMemOk_next (hostFail_memOk h)
  case dlDown =>
    exact nextMemOk_next (dlDown_memOk h)
  case dlUp =>
    exact nextMemOk_next (dlUp_memOk h)
  case oarPacketSend =>
    exact nextMemOk_next (oarSend_memOk h)
  case oarPacketReceive =>
    refine nextMemOk_next (oarTake_memOk ?_)
    split
    · exact modOar_memOk h
    · exact h
  case oarAckSend =>
    exact nextMemOk_next (oarAckSend_memOk h)
  case oarAckReceive =>
    exact nextMemOk_next (ite_memOk (oarAck_memOk h) h)
  case oarRetrain =>
    exact nextMemOk_next (oarRetrain_memOk h)
  case oarRetrainComplete =>
    exact nextMemOk_next (oarTrained_memOk h)
  case linkDown =>
    exact nextMemOk_next (oarDown_memOk h)
  case dieLinkDown =>
    exact nextMemOk_next (dieDown_memOk h)
  case hubResetRelease =>
    exact nextMemOk_next (hubRelease_memOk h)
  case romCheck =>
    exact nextMemOk_next (ite_memOk (romCheck_memOk h) (romCheck_memOk h))
  case firmwareReady =>
    exact nextMemOk_next (firmwareReady_memOk h)
  case attestGo =>
    exact nextMemOk_next (ite_memOk (attestGo_memOk h) h)
  case attestDone =>
    exact nextMemOk_next (attestDone_memOk h)
  case keyGenerate | keyErase =>
    exact nextMemOk_next (ite_memOk (keySet_memOk h) h)
  case thermalCap =>
    exact nextMemOk_next (thermalCap_memOk h)
  case thermalCapLift =>
    exact nextMemOk_next (thermCap_memOk h)
  case thermalHalt =>
    exact nextMemOk_next (boot_memOk (deviceReset_memOk h))
  case thermalRestart =>
    exact nextMemOk_next (thermalRestart_memOk h)
  case alarm =>
    exact nextMemOk_next (alarmFires_memOk h)
  case vfFlr =>
    exact nextMemOk_next (vfReset_memOk h)
  case deviceReset =>
    exact nextMemOk_next (deviceReset_memOk h)
  case powerLoss =>
    exact nextMemOk_next (afterReset_memOk)
  case engineAdmissionRetry =>
    exact nextMemOk_next (retryAdmit_memOk h)
  case flitRetry =>
    exact nextMemOk_next (flitRetry_memOk h)
  case dieLinkRetrain =>
    exact nextMemOk_next (dieRetrainStart_memOk h)
  case dieLinkRetrainComplete =>
    exact nextMemOk_next (dieTrained_memOk h)
  case keycmdDone =>
    exact nextMemOk_next (keyDone_memOk h)
  all_goals cases hp

theorem exec_memOk {i} : NextMemOk (exec i s) := by
  cases hp : i.place
  case any | s | v | m | c => exact coxSyllable_memOk h (by rw [hp, placeInSlot])
  case ce | node | gen | conv => exact ringWord_memOk h (by rw [hp, placeInRing])
  case event => exact event_memOk h hp

/-! ## The list of turns -/

theorem refill_memOk : s.refill.mem.wf = true := h

/-! ## Turns -/

theorem runSlots_memOk {l} : NextMemOk (runSlots l s) := by
  induction l generalizing s with
  | nil => exact nextMemOk_next h
  | cons x l ih =>
    obtain ⟨n, i⟩ := x
    rw [runSlots]
    split
    · next u hu => exact ih (exec_memOk (s := { s with curSlot := n }) h u hu)
    · exact nextMemOk_fault
    · exact nextMemOk_refused

/-- The turn of a core: it leaves, waits or traps, is stopped, or runs its four slots and retires. -/
theorem coreTurn_memOk {c} : NextMemOk (coreTurn c s) := by
  unfold coreTurn
  split
  · exact nextMemOk_next h
  split
  · exact nextMemOk_next (leaveStep_memOk h)
  have hb : ({ s with cur := c } : State).beforeIssue.1.mem.wf = true := beforeIssue_memOk (s := { s with cur := c }) h
  split
  · next u hu => exact nextMemOk_next (by rw [hu] at hb; exact hb)
  · next u hu =>
    rw [hu] at hb
    split
    · exact nextMemOk_fault
    · next b v hv =>
      have hv : v.mem.wf = true := cached_memOk hb hv
      extract_lets w
      have hw : w.mem.wf = true := hv
      split
      · next x hx => exact nextMemOk_next (stopBundle_memOk hw x hx)
      · split
        · next x hx => exact nextMemOk_next (retire_memOk (runSlots_memOk (s := { w with checked := true }) hw x hx))
        · exact nextMemOk_fault
        · exact nextMemOk_refused

theorem runTurn_memOk {w} : NextMemOk (runTurn w s) := by
  cases w with
  | core c => exact coreTurn_memOk h
  | event i a => exact exec_memOk (s := { s with ev := a }) h
  | element n i k p w =>
    dsimp only [runTurn]
    split
    · exact exec_memOk (enterElement_memOk h)
    · exact nextMemOk_next h
  | latch n i => exact nextMemOk_next (latchIsland_memOk h)

theorem takeTurn_memOk : NextMemOk (takeTurn s) := by
  unfold takeTurn
  split
  · exact nextMemOk_next (refill_memOk h)
  · next t r _ => exact runTurn_memOk (s := { s with turns := r, now := s.now + t.dt }) h

end Kept

/-- Settles O14: a step is a turn, and every function of the model that a turn goes through keeps the canonical form. -/
theorem memoryStaysCanonical : Obligations.MemoryStaysCanonical := fun _ t h ht => takeTurn_memOk h t ht

end Sys2Proof.Machine

/-! # Words of nodes, generators and converters (R104, R149, R291 to R298, R397)

Every clause of `Obligations.RingEntries` holds but one case of its NW clause: a 16-byte write of a permissive load's node that meets, in one
instant, a word of another engine's wide write. There the order of the two is the free value `Config.wordBefore` (log entry 94), of which
nothing can be proved; `ringEntries_of_order` and `wordBefore_of_ringEntries` say what the statement asks of it. -/

namespace Sys2Proof.Machine

/-! ## An access of a random-mode view outside tangent mode -/

theorem rangeFault_of_fits {off w : Nat} (halign : off % w = 0) (hfit : off + w ≤ 8192) (g : Option Nat) : rangeFault (off : Int) w g = none := by
  have hmod : (off : Int) % (w : Int) = 0 := by exact_mod_cast congrArg (Nat.cast : Nat → Int) halign
  exact if_neg (by omega)

theorem Load.tansAt_primal {l : Load} (h : l.k = 0) (w off : Nat) : l.tansAt w off = [] := by
  unfold Load.tansAt
  rw [h]
  exact ite_self _

theorem accessFault_primal {l : Load} (h : l.k = 0) {off w : Nat} (halign : off % w = 0) (hfit : off + w ≤ 8192) (g : Option Nat) :
    l.accessFault (off : Int) w g = none := by
  unfold Load.accessFault Load.tansOut
  rw [rangeFault_of_fits halign hfit, Load.tansAt_primal h]
  rfl

theorem storeBeatTans_primal {l : Load} (h : l.k = 0) (m : Memory) (key off w : Nat) (v : Beat) : storeBeatTans m l key off w v = (m, 0) := by
  rw [storeBeatTans, Load.tansAt_primal h]
  rfl

theorem Node.ready_random {nd : Node} (h : nd.mode = 1) (read : Bool) : nd.ready read = true := by
  rw [Node.ready, h]
  rfl

theorem portHas_of_no_port {s : State} {r : Region} {l : Load} {k : Nat} (h : r.portOf l k 0 = none) (n : Nat) : s.portHas r l k n = true := by
  rw [State.portHas, h]

theorem portValue_of_no_port {s : State} {r : Region} {l : Load} {k : Nat} (h : r.portOf l k 0 = none) (n : Nat) :
    s.portValue r l k n = ((s.node (elNode k)).wport, s) := by
  rw [State.portValue, h]

theorem writeCheck_raw {v : Beat} (h : v.mark = 0) (d : Dec) (tag k : Nat) : writeCheck d tag k v = .inr (d, tag) := by
  unfold writeCheck
  rw [h]
  rfl

/-! ## What the parts of a ring word leave unchanged -/

theorem Node.recent_advance (nd : Node) (read : Bool) (total : Nat) : (nd.advance read total).recent = nd.recent := by
  unfold Node.advance
  split <;> split <;> rfl

theorem wordWas_congr {s t : State} {key : Nat} (hnow : t.now = s.now) (hrecent : (t.node key).recent = (s.node key).recent) (off eng : Nat) :
    t.wordWas key off eng = s.wordWas key off eng := by
  rw [State.wordWas, State.wordWas, hnow, hrecent]

@[simp] theorem modEl_mem (s : State) (k : Nat) (f : El → El) : (s.modEl k f).mem = s.mem := rfl
@[simp] theorem modEl_now (s : State) (k : Nat) (f : El → El) : (s.modEl k f).now = s.now := rfl
@[simp] theorem node_modEl (s : State) (k : Nat) (f : El → El) (key : Nat) : (s.modEl k f).node key = s.node key := rfl

theorem loadFlags_mem (s : State) (n : Nat) (fl : FlagSet) : (s.loadFlags n fl).mem = s.mem := by
  unfold State.loadFlags
  split <;> rfl

@[simp] theorem portIn_mem (s : State) (k lat : Nat) (v : Beat) : (s.portIn k lat v).mem = s.mem := rfl

theorem loadFlags_eccBad (s : State) (n : Nat) (fl : FlagSet) : (s.loadFlags n fl).eccBad = s.eccBad := by
  unfold State.loadFlags
  split <;> rfl

theorem loadFlags_els (s : State) (n : Nat) (fl : FlagSet) : (s.loadFlags n fl).els = s.els := by
  unfold State.loadFlags
  split <;> rfl

theorem elem_loadFlags (s : State) (n : Nat) (fl : FlagSet) (k : Nat) : (s.loadFlags n fl).elem k = s.elem k := by
  rw [State.elem, loadFlags_els]
  rfl

/-! ## A 16-byte write is four word accesses (R149) -/

theorem Memory.writeN_add (k n : Nat) : ∀ (m : Memory) (a v : Nat), m.writeN a (k + n) v = (m.writeN a k v).writeN (a + k) n (v / 256 ^ k) := by
  induction k with
  | zero => exact fun m a v => by rw [Nat.zero_add, Nat.pow_zero, Nat.div_one]; rfl
  | succ k ih =>
    intro m a v
    rw [Nat.add_right_comm, Memory.writeN, Memory.writeN, ih, Nat.div_div_eq_div_mul, Nat.pow_succ', Nat.add_right_comm, Nat.add_assoc]

theorem Memory.writeN_low (n : Nat) : ∀ (m : Memory) (a v : Nat), m.writeN a n (v % 256 ^ n) = m.writeN a n v := by
  induction n with
  | zero => exact fun _ _ _ => rfl
  | succ n ih =>
    intro m a v
    have hlow : BitVec.ofNat 8 (v % 256 ^ (n + 1)) = BitVec.ofNat 8 v :=
      BitVec.eq_of_toNat_eq (Nat.mod_mod_of_dvd v (Dvd.intro_left (256 ^ n) rfl))
    have hhigh : v % 256 ^ (n + 1) / 256 = v / 256 % 256 ^ n := by rw [Nat.pow_succ', Nat.mod_mul_right_div_self]
    rw [Memory.writeN, Memory.writeN, hlow, hhigh, ih]

theorem writeWide_mem_congr {s t : State} {key : Nat} (hmem : t.mem = s.mem) (hnow : t.now = s.now)
    (hword : ∀ o, t.wordWas key o 1 = s.wordWas key o 1) (off v : Nat) : (t.writeWide key off v).mem = (s.writeWide key off v).mem := by
  simp only [State.writeWide, hmem, hnow, hword]

/-- A wide write writes all its words where it meets no other engine's wide write, or comes after it. -/
theorem writeWide_whole {s : State} {key off : Nat}
    (h : ∀ i < 4, s.wordWas key (off + 4 * i) 1 = none ∨ Config.wordBefore s.now (nodeBase key + off + 4 * i + 1) = false) (v : Nat) :
    (s.writeWide key off v).mem = s.mem.writeN (nodeBase key + off) 16 v := by
  have hkeep : ∀ i < 4, ¬ ((s.wordWas key (off + 4 * i) 1).isSome = true ∧ Config.wordBefore s.now (nodeBase key + off + 4 * i + 1) = true) := by
    rintro i hi ⟨hsome, hbefore⟩
    rcases h i hi with hnone | hlater
    · rw [hnone] at hsome
      cases hsome
    · rw [hlater] at hbefore
      cases hbefore
  have hwords : s.mem.writeN (nodeBase key + off) 16 v = (List.range 4).foldl (fun (m : Memory) i =>
      m.writeN (nodeBase key + off + 4 * i) 4 (v / 2 ^ (32 * i) % 2 ^ 32)) s.mem := by
    have hlow : ∀ (m : Memory) (a x : Nat), m.writeN a 4 (x % 2 ^ 32) = m.writeN a 4 x := Memory.writeN_low 4
    simp only [Memory.writeN_add 4 12, Memory.writeN_add 4 8, Memory.writeN_add 4 4, List.range_succ, List.range_zero, List.nil_append, List.foldl_append,
      List.foldl_cons, List.foldl_nil, hlow, Nat.div_div_eq_div_mul]
    norm_num [Nat.add_assoc]
  rw [hwords]
  exact List.foldl_ext _ _ _ (fun m i hi => if_neg (hkeep i (List.mem_range.mp hi)))

/-! ## NW, NR and NAT (R291, R292) -/

/-- NW of a random-mode node (R291): the memory after it; a 16-byte write is the model's `writeWide`. -/
theorem nodeWrite_random {s : State} {r : Region} {l : Load} {off w : Nat} (hact : s.active s.el.reg = some (r, l))
    (hmode : (s.node (elNode s.el.pos)).mode = 1) (hk : l.k = 0) (hport : r.portOf l s.el.pos 0 = none)
    (hmark : (s.node (elNode s.el.pos)).wport.mark = 0) (hw : w = l.viewWidth (r.elAt l s.el.pos) false)
    (hoff : (s.viewOff r l s.el.pos false).1 = (off : Int)) (halign : off % w = 0) (hfit : off + w ≤ 8192) :
    s.nodeWrite.mem = if w = 16 then (s.writeWide (elNode s.el.pos) off (s.node (elNode s.el.pos)).wport.v0.toNat).mem
      else s.mem.writeN (nodeBase (elNode s.el.pos) + off) w (s.node (elNode s.el.pos)).wport.v0.toNat := by
  subst hw
  unfold State.nodeWrite
  split
  · next h => rw [hact] at h; cases h
  next r' l' h =>
  rw [hact] at h
  cases h
  extract_lets +onlyGivenNames k key nd b w
  rw [if_neg (by rw [Node.ready_random hmode, portHas_of_no_port hport]; decide)]
  extract_lets +onlyGivenNames o v
  have hv : v = (nd.wport, s) := portValue_of_no_port hport _
  split
  · next f hf => rw [hoff, accessFault_primal hk halign hfit] at hf; cases hf
  split
  · next f hf => rw [hv, writeCheck_raw hmark] at hf; cases hf
  next c hc =>
  extract_lets +onlyGivenNames -underBinder -merge off1 s1 total n last s2 s3 t s4
  have hoff1 : off = off1 := (congrArg Int.toNat hoff).symm
  have hs1 : s = s1 := (congrArg Prod.snd hv).symm
  clear_value s1 off1
  subst hs1 hoff1
  have hrecent : (s2.node key).recent = (s.node key).recent := by
    unfold s2
    rw [node_modNode, node_modEl]
    exact Node.recent_advance ..
  have hmem2 : s2.mem = s.mem := by
    unfold s2
    rw [modNode_mem, modEl_mem]
  have hnow2 : s2.now = s.now := by
    unfold s2
    rw [modNode_now, modEl_now]
  have hmem4 : s4.mem = s3.mem := by
    unfold s4 t
    rw [loadFlags_mem, storeBeatTans_primal hk]
  have hmem3 : s3.mem = if w = 16 then (s.writeWide key off nd.wport.v0.toNat).mem else s.mem.writeN (nodeBase key + off) w nd.wport.v0.toNat := by
    unfold s3
    rw [hv]
    split
    · exact writeWide_mem_congr hmem2 hnow2 (wordWas_congr hnow2 hrecent · 1) off _
    · exact congrArg (fun m : Memory => m.writeN (nodeBase key + off) w nd.wport.v0.toNat) hmem2
  rw [if_neg (by rw [hmode]; decide), if_neg (by rw [hmode]; simp)]
  exact hmem4.trans hmem3

theorem nodeRead_streaming {s : State} {r : Region} {l : Load} {v : Beat} {t : List Beat} (hact : s.active s.el.reg = some (r, l))
    (hmode : (s.node (elNode s.el.pos)).mode = 0) (hahead : (s.node (elNode s.el.pos)).ahead = v :: t) :
    s.nodeRead = (s.modNode (elNode s.el.pos) (fun nd => { nd with ahead := t })).portIn s.el.pos 1 v := by
  have hready : (s.node (elNode s.el.pos)).ready true = true := by
    rw [Node.ready, hmode, hahead]
    rfl
  have hsome : (s.node (elNode s.el.pos)).ahead.isEmpty = false := by rw [hahead]; rfl
  unfold State.nodeRead
  rw [hact]
  dsimp only
  rw [if_neg (not_not_intro hready), if_pos hmode, hsome, if_neg Bool.false_ne_true, hahead]

theorem nodeAtomic_random {s : State} {r : Region} {l : Load} {o off : Nat} (hact : s.active s.el.reg = some (r, l))
    (hmode : (s.node (elNode s.el.pos)).mode = 1) (hecc : s.eccBad = []) (hport : r.portOf l s.el.pos 0 = none)
    (hoff : (s.viewOff r l s.el.pos false).1 = (off : Int)) (halign : off % atomicBytes o = 0) (hfit : off + atomicBytes o ≤ 8192) :
    (s.nodeAtomic o).mem = s.mem.writeN (nodeBase (elNode s.el.pos) + off) (atomicBytes o)
      (atomicNew o (s.mem.readN (nodeBase (elNode s.el.pos) + off) (atomicBytes o)) ((s.node (elNode s.el.pos)).wport.v0.toNat % 2 ^ 64)
        ((s.node (elNode s.el.pos)).wport.lane 0 1)).1 := by
  unfold State.nodeAtomic
  rw [hact]
  dsimp only
  rw [if_neg (by rw [Node.ready_random hmode, portHas_of_no_port hport, hmode]; decide), hoff, rangeFault_of_fits halign hfit,
    portValue_of_no_port hport]
  dsimp only [Int.toNat_natCast]
  rw [hmode, if_neg (by decide), if_neg (by rw [wordsBad_of_clean hecc]; exact Bool.false_ne_true), wordsFixed_of_clean]
  · rw [portIn_mem, modNode_mem, loadFlags_mem]
  · rw [loadFlags_eccBad]
    exact hecc

/-! ## GEMIT (R294) -/

theorem genEmit_first {s : State} {r : Region} {l : Load} {p : Nat} (hact : s.active s.el.reg = some (r, l))
    (hbind : bits (r.binding l s.el.pos p) 31 30 = 1) (hj : (s.elem s.el.pos).j = []) (htok : bit (l.at s.el.base 0x043 1) 0 = false) :
    ((s.genEmit p).node (r.bindNode (r.binding l s.el.pos p))).gw = sint 32 (l.at s.el.base 0x044 4) := by
  unfold State.genEmit
  split
  · next h => rw [hact] at h; cases h
  next r' l' h =>
  rw [hact] at h
  cases h
  extract_lets +onlyGivenNames -underBinder -merge k b j st addr bd s1 x s2
  have hs1 : s1 = s.modNode (r.bindNode bd) (fun nd => { nd with gw := addr }) := by
    unfold s1
    rw [hbind]
    rfl
  have haddr : addr = sint 32 (l.at b 0x044 4) := by
    unfold addr
    rw [show j = [] from hj]
    simp
  rw [if_neg (by rw [htok]; exact fun h => Bool.false_ne_true h.2), node_modEl, hs1, node_modNode]
  exact haddr

/-! ## Changes of one element -/

/-- `u` is `s` but for element `k`, which is `e`. -/
def ElOnly (s u : State) (k : Nat) (e : El) : Prop := u.elem k = e ∧ (∀ j, j ≠ k → u.elem j = s.elem j) ∧ ({ u with els := s.els } : State) = s

theorem elOnly_refl (s : State) (k : Nat) : ElOnly s s k (s.elem k) := ⟨rfl, fun _ _ => rfl, rfl⟩

theorem ElOnly.el_eq {s u : State} {k : Nat} {e : El} (h : ElOnly s u k e) : u.el = s.el := by
  obtain ⟨-, -, hrest⟩ := h
  have hel := congrArg State.el hrest
  exact hel

theorem ElOnly.modEl {s u : State} {k : Nat} {e : El} (h : ElOnly s u k e) (f : El → El) : ElOnly s (u.modEl k f) k (f e) := by
  obtain ⟨helem, hothers, hrest⟩ := h
  exact ⟨(Tab.get_mod_same ..).trans (congrArg f helem), fun j hj => (Tab.get_mod_other _ _ _ _ _ hj).trans (hothers j hj), hrest⟩

theorem ElOnly.loadFlags {s u : State} {k : Nat} {e : El} (h : ElOnly s u k e) (n : Nat) (fl : FlagSet) :
    ElOnly (s.loadFlags n fl) (u.loadFlags n fl) k e := by
  obtain ⟨helem, hothers, hrest⟩ := h
  unfold State.loadFlags
  split
  · exact ⟨helem, hothers, hrest⟩
  · exact ⟨helem, hothers, congrArg (fun t : State => t.modActive n (fun l => { l with flags := l.flags ||| fl })) hrest⟩

/-! ## Converter entries (R297, R298) -/

/-- The block gathered is packed: it is full, or closed with something in it (R297, R298). -/
def Load.packsBlock (l : Load) (b : Nat) (close : Bool) (blk : List Beat) : Bool :=
  decide (l.at b 0x048 1 + 1 ≤ convHeld (l.at b 0x044 1 % 32) blk) || (close && decide (convHeld (l.at b 0x044 1 % 32) blk ≠ 0))

theorem packsBlock_iff {l : Load} {b : Nat} {close : Bool} {blk : List Beat} : l.packsBlock b close blk = true ↔
    l.at b 0x048 1 + 1 ≤ convHeld (l.at b 0x044 1 % 32) blk ∨ (close = true ∧ convHeld (l.at b 0x044 1 % 32) blk ≠ 0) := by
  simp only [Load.packsBlock, Bool.or_eq_true, Bool.and_eq_true, decide_eq_true_eq]

theorem packsBlock_eq_false_iff {l : Load} {b : Nat} {close : Bool} {blk : List Beat} : l.packsBlock b close blk = false ↔
    convHeld (l.at b 0x044 1 % 32) blk < l.at b 0x048 1 + 1 ∧ (close = false ∨ convHeld (l.at b 0x044 1 % 32) blk = 0) := by
  rw [← Bool.not_eq_true, packsBlock_iff, not_or, not_and_or, Nat.not_le, Bool.not_eq_true, not_not]

theorem bit_convWord (inn close : Bool) :
    bit (b2n inn * 2 ^ 15 + b2n close * 2 ^ 13) 15 = inn ∧ bit (b2n inn * 2 ^ 15 + b2n close * 2 ^ 13) 13 = close := by
  cases inn <;> cases close <;> decide

theorem convStalls_eq (l : Load) (b : Nat) (inn close : Bool) (e : El) (src : Beat) : l.convStalls b (b2n inn * 2 ^ 15 + b2n close * 2 ^ 13) e src =
    (decide (2 ≤ e.packs.length) && l.packsBlock b close (if inn = true ∧ src.new = true then e.blk ++ [src] else e.blk)) := by
  obtain ⟨hin, hclose⟩ := bit_convWord inn close
  unfold Load.convStalls
  rw [hin, hclose]
  rfl

/-- The OUT part of a converter entry at element `k`, which acts first: the next beat of the oldest ready packet is presented. -/
def State.convShow (s : State) (k : Nat) (out : Bool) : State :=
  if out then match (s.elem k).packs with
    | p :: t => match p.left, p.beats with
      | 0, v :: w => s.modEl k (fun e => { e with res := e.res ++ [⟨1, 0, v⟩], packs := if w.isEmpty then t else { p with beats := w } :: t })
      | _, _ => s
    | [] => s
  else s

/-- The IN part: a new source value joins the block. -/
def State.convTake (s : State) (k : Nat) (inn : Bool) : State :=
  if inn ∧ s.el.a.new = true then s.modEl k (fun e => { e with blk := e.blk ++ [s.el.a] }) else s

/-- The last part, with the record at `b`: a full or closed block becomes a packet. -/
def State.convPack (s : State) (l : Load) (b k : Nat) (close : Bool) : State :=
  if l.packsBlock b close (s.elem k).blk then
    let x := convPacket l b (s.elem k).ctag (s.elem k).blk
    (s.loadFlags s.el.reg x.2).modEl k (fun e => { e with blk := [], packs := e.packs ++ [⟨4, x.1⟩], ctag := (e.ctag + 1) % 4096 })
  else s

/-- A converter entry that does not stall is its three parts, one after the other. -/
theorem convert_parts {s : State} {r : Region} {l : Load} {inn out close : Bool} (hact : s.active s.el.reg = some (r, l))
    (hmode : bit (l.at s.el.base 0x045 1) 3 = false)
    (hroom : (s.elem s.el.pos).packs.length < 2 ∨
      l.packsBlock s.el.base close (if inn = true ∧ s.el.a.new = true then (s.elem s.el.pos).blk ++ [s.el.a] else (s.elem s.el.pos).blk) = false) :
    s.convert inn out close = ((s.convShow s.el.pos out).convTake s.el.pos inn).convPack l s.el.base s.el.pos close := by
  have hstall : l.convStalls s.el.base (b2n inn * 2 ^ 15 + b2n close * 2 ^ 13) (s.elem s.el.pos) s.el.a = false := by
    rw [convStalls_eq]
    rcases hroom with hfew | hnot
    · rw [decide_eq_false (Nat.not_le.mpr hfew), Bool.false_and]
    · rw [hnot, Bool.and_false]
  unfold State.convert
  rw [hact]
  dsimp -zeta only
  refine (if_neg (by rw [hmode, hstall]; decide)).trans ?_
  exact if_congr packsBlock_iff.symm rfl rfl

theorem convShow_ready {s : State} {k : Nat} {p : Packet} {t : List Packet} {v : Beat} {w : List Beat} (hpacks : (s.elem k).packs = p :: t)
    (hleft : p.left = 0) (hbeats : p.beats = v :: w) : ElOnly s (s.convShow k true) k
      { s.elem k with res := (s.elem k).res ++ [⟨1, 0, v⟩], packs := if w = [] then t else { p with beats := w } :: t } := by
  have hshow : s.convShow k true = s.modEl k (fun e => { e with
      res := e.res ++ [⟨1, 0, v⟩], packs := if w.isEmpty then t else { p with beats := w } :: t }) := by
    unfold State.convShow
    rw [if_pos rfl, hpacks]
    dsimp only
    rw [hleft, hbeats]
    rfl
  rw [hshow]
  simp only [← List.isEmpty_iff]
  exact (elOnly_refl s k).modEl _

theorem convShow_waits {s : State} {k : Nat} {out : Bool} (hwait : out = true → ∀ p t, (s.elem k).packs = p :: t → p.left ≠ 0 ∨ p.beats = []) :
    s.convShow k out = s := by
  unfold State.convShow
  split
  · next hout =>
    split
    · next p t hp =>
      split
      · next v w hleft hbeats =>
        rcases hwait hout p t hp with h | h
        · exact absurd hleft h
        · cases h.symm.trans hbeats
      · rfl
    · rfl
  · rfl

theorem ElOnly.convTake {s u : State} {k : Nat} {e : El} (h : ElOnly s u k e) (inn : Bool) :
    ElOnly s (u.convTake k inn) k { e with blk := if inn = true ∧ s.el.a.new = true then e.blk ++ [s.el.a] else e.blk } := by
  unfold State.convTake
  rw [h.el_eq]
  split
  · exact h.modEl _
  · exact h

/-- Element `k` after OUT and IN: `shown` is what OUT presents and `packs` what it leaves, `blk` the block. -/
theorem convShow_convTake {s : State} {k : Nat} {inn out : Bool} {blk : List Beat} {shown : List Res} {packs : List Packet}
    (hblk : blk = if inn = true ∧ s.el.a.new = true then (s.elem k).blk ++ [s.el.a] else (s.elem k).blk)
    (hout : (∃ p t v w, out = true ∧ (s.elem k).packs = p :: t ∧ p.left = 0 ∧ p.beats = v :: w ∧ shown = [⟨1, 0, v⟩] ∧
        packs = (if w = [] then t else { p with beats := w } :: t)) ∨
      ((out = true → ∀ p t, (s.elem k).packs = p :: t → p.left ≠ 0 ∨ p.beats = []) ∧ shown = [] ∧ packs = (s.elem k).packs)) :
    ElOnly s ((s.convShow k out).convTake k inn) k { s.elem k with blk := blk, res := (s.elem k).res ++ shown, packs := packs } := by
  have hshown : ElOnly s (s.convShow k out) k { s.elem k with res := (s.elem k).res ++ shown, packs := packs } := by
    rcases hout with ⟨p, t, v, w, rfl, hpacks, hleft, hbeats, rfl, rfl⟩ | ⟨hwait, rfl, rfl⟩
    · exact convShow_ready hpacks hleft hbeats
    · rw [convShow_waits hwait, List.append_nil]
      exact elOnly_refl ..
  subst hblk
  exact hshown.convTake inn

theorem ElOnly.convPack_keeps {s u : State} {k : Nat} {e : El} (h : ElOnly s u k e) {l : Load} {b : Nat} {close : Bool}
    (hpack : l.packsBlock b close e.blk = false) : ElOnly s (u.convPack l b k close) k e := by
  obtain ⟨helem, -, -⟩ := id h
  unfold State.convPack
  rw [helem, hpack]
  exact h

theorem ElOnly.convPack_packs {s u : State} {k : Nat} {e : El} (h : ElOnly s u k e) {l : Load} {b : Nat} {close : Bool}
    (hpack : l.packsBlock b close e.blk = true) : ElOnly (s.loadFlags s.el.reg (convPacket l b e.ctag e.blk).2) (u.convPack l b k close) k
      { e with blk := [], packs := e.packs ++ [⟨4, (convPacket l b e.ctag e.blk).1⟩], ctag := (e.ctag + 1) % 4096 } := by
  obtain ⟨helem, -, -⟩ := id h
  unfold State.convPack
  rw [helem, hpack, h.el_eq]
  exact (h.loadFlags _ _).modEl _

/-! ## The words of a slot, squashed or not (R290) -/

theorem next_of_squashed {s u : State} (h : s.el.squash = true) :
    (.next (if s.el.squash then s else u) : Host.Outcome State Fault Refusal) = .next s := congrArg Host.Outcome.next (if_pos h)

theorem next_of_not_squashed {s u : State} (h : s.el.squash = false) :
    (.next (if s.el.squash then s else u) : Host.Outcome State Fault Refusal) = .next u :=
  congrArg Host.Outcome.next (if_neg (Bool.eq_false_iff.mp h))

theorem execNwr_of_no_conflict {s : State} (h : s.el.squash = false) (hbank : s.bankFault = none) : execNwr s = .next s.nodeRead.nodeWrite := by
  rw [execNwr, hbank]
  exact next_of_not_squashed h

theorem execNwr_of_conflict {s : State} (h : s.el.squash = false) {f : UFault} (hbank : s.bankFault = some f) : execNwr s = .next (s.elFault f) := by
  rw [execNwr, hbank]
  exact next_of_not_squashed h

/-! ## What the statement asks of the free order -/

/-- Every clause holds where a wide write always comes after the wide write that it meets. -/
theorem ringEntries_of_order (horder : ∀ t a, Config.wordBefore t a = false) : Obligations.RingEntries := by
  refine ⟨fun s => ⟨rfl, rfl, rfl⟩, fun s h => ⟨next_of_squashed h, next_of_squashed h, next_of_squashed h, next_of_squashed h⟩,
    fun s o p h => ?_, fun s r l v t hact hmode hahead => nodeRead_streaming hact hmode hahead,
    fun s r l off w hact hmode hk hport hmark hw hoff halign hfit => ?_,
    fun s r l o off hact hmode hecc hport hoff halign hfit => nodeAtomic_random hact hmode hecc hport hoff halign hfit,
    fun s u r l inn out close e f cap blk shown packs x hact hmode he hf hcap hblk hroom hout hx hu => ?_,
    fun s r l p hact hbind hj htok => genEmit_first hact hbind hj htok⟩
  · have hnext {u : State} : (.next (if s.el.squash then s else u) : Host.Outcome State Fault Refusal) = .next u := next_of_not_squashed h
    exact ⟨hnext, hnext, hnext, hnext, execNwr_of_no_conflict h, fun f => execNwr_of_conflict h, hnext, hnext, hnext, hnext, hnext, hnext, hnext⟩
  · rw [nodeWrite_random hact hmode hk hport hmark hw hoff halign hfit]
    split
    · next h16 => rw [h16, writeWide_whole (fun i _ => .inr (horder ..))]
    · rfl
  · subst he hf hcap hx hu
    have hgathered := convShow_convTake hblk hout
    rw [convert_parts hact hmode (by rw [← hblk]; exact hroom.imp_right packsBlock_eq_false_iff.mpr)]
    refine ⟨fun j hj => ?_, fun hfits hopen => ?_, fun hfull => ?_⟩
    · cases hpack : l.packsBlock s.el.base close blk with
      | false =>
        obtain ⟨-, hothers, -⟩ := hgathered.convPack_keeps hpack
        exact hothers j hj
      | true =>
        obtain ⟨-, hothers, -⟩ := hgathered.convPack_packs hpack
        exact (hothers j hj).trans (elem_loadFlags ..)
    · obtain ⟨helem, -, hrest⟩ := hgathered.convPack_keeps (packsBlock_eq_false_iff.mpr ⟨hfits, hopen⟩)
      exact ⟨helem, hrest⟩
    · obtain ⟨helem, -, hrest⟩ := hgathered.convPack_packs (packsBlock_iff.mpr hfull)
      exact ⟨helem, by rw [loadFlags_els] at hrest; exact hrest⟩

/-- The next access of a random-mode view that no generator feeds is its pattern's (R104). -/
theorem viewOff_pattern {s : State} {r : Region} {l : Load} {k : Nat} {read : Bool} (hmode : (s.node (elNode k)).mode = 1)
    (hfeeder : r.feeder l (elNode k) read = none) : (s.viewOff r l k read).1 =
    l.patOff (r.elAt l k) (patAt read) (if read then (s.node (elNode k)).rcnt else (s.node (elNode k)).wcnt) := by
  unfold State.viewOff
  rw [if_pos hmode, hfeeder]

/-- A word that comes before another engine's wide write of the same instant is overwritten by it (R149, log entry 94). -/
theorem writeWide_keeps_earlier {s : State} {key off i a : Nat} (ha : a = nodeBase key + off + 4 * i)
    (hwas : (s.wordWas key (off + 4 * i) 1).isSome = true) (hbefore : Config.wordBefore s.now (a + 1) = true) (v : Nat) :
    (s.writeWide key off v).mem.read a = s.mem.read a := by
  subst ha
  refine List.foldlRecOn (motive := fun m : Memory => m.read (nodeBase key + off + 4 * i) = s.mem.read (nodeBase key + off + 4 * i)) _ _ rfl ?_
  intro m hm j _
  split
  · exact hm
  · next hnot =>
    have hj : j ≠ i := fun hj => hnot (hj ▸ ⟨hwas, hbefore⟩)
    exact (Memory.read_writeN_outside 4 m _ _ _ (by omega)).trans hm

/-- A permissive load of one tile whose node 0 has a 16-byte write view at the start of the node. -/
def wideLoad : Load :=
  { id := 0, img := [(1, 8), (69, 3)], fl := 0, core := 0, team := 0, func := 0, asid := 0, stamp := 0, k := 0, tp := [], flags := 0, isl := [Isl.idle],
    overlaps := 0, rcd := none, held := false, spread := none, handler := none, discarded := false, edged := false, reported := false, carry := [],
    inner := [], ran := [], finAt := 0 }

/-- Its region. -/
def wideRegion : Region :=
  { die := 0, x := 2, y := 0, w := 1, h := 1, team := 0, phase := .run, active := some wideLoad, shadow := none, cmds := [], fetching := none, frel := false,
    back := .run, refold := none, prev := none }

/-- The node at time `t`: a drain of X tile 0 has just written its first word, and the view is to write 1. -/
def wideNode (t : Nat) : Node := { Node.free with owner := some 0, wport := { Beat.zero with v0 := 1 }, recent := [(t, 0, 0, 2)] }

/-- The write view's turn at time `t`. -/
def wideMeeting (t : Nat) : State :=
  { State.reset with now := t, el := { ElCtx.none with pos := nodeEl 2048 }, regions := [wideRegion], nodes := [(2048, wideNode t)] }

theorem wideMeeting_node (t : Nat) : (wideMeeting t).node (elNode (wideMeeting t).el.pos) = wideNode t := by
  have hkey : elNode (nodeEl 2048) = 2048 := by decide
  change (wideMeeting t).node (elNode (nodeEl 2048)) = wideNode t
  rw [hkey]
  rfl

theorem wideMeeting_wordWas (t : Nat) : ((wideMeeting t).wordWas (elNode (wideMeeting t).el.pos) 0 1).isSome = true := by
  rw [State.wordWas, wideMeeting_node]
  simp [wideNode, wideMeeting]

theorem wideMeeting_viewOff (t : Nat) : ((wideMeeting t).viewOff wideRegion wideLoad (wideMeeting t).el.pos false).1 = ((0 : Nat) : Int) := by
  have hfeeder : wideRegion.feeder wideLoad (elNode (wideMeeting t).el.pos) false = none := by
    change wideRegion.feeder wideLoad (elNode (nodeEl 2048)) false = none
    decide +kernel
  rw [viewOff_pattern (by rw [wideMeeting_node]; rfl) hfeeder, wideMeeting_node]
  change wideLoad.patOff (wideRegion.elAt wideLoad (nodeEl 2048)) (patAt false) 0 = 0
  decide +kernel

/-- The NW clause asks of the free order that the meeting write at node 2048 comes second at every time. -/
theorem wordBefore_of_ringEntries (h : Obligations.RingEntries) (t : Nat) :
    Config.wordBefore t (nodeBase (elNode (nodeEl 2048)) + 1) = false := by
  obtain ⟨-, -, -, -, hwrite, -⟩ := h
  have hmode : ((wideMeeting t).node (elNode (wideMeeting t).el.pos)).mode = 1 := by rw [wideMeeting_node]; rfl
  have hmark : ((wideMeeting t).node (elNode (wideMeeting t).el.pos)).wport.mark = 0 := by rw [wideMeeting_node]; rfl
  have hport : wideRegion.portOf wideLoad (wideMeeting t).el.pos 0 = none := by
    change wideRegion.portOf wideLoad (nodeEl 2048) 0 = none
    decide +kernel
  have hwidth : 16 = wideLoad.viewWidth (wideRegion.elAt wideLoad (wideMeeting t).el.pos) false := by
    change 16 = wideLoad.viewWidth (wideRegion.elAt wideLoad (nodeEl 2048)) false
    decide +kernel
  have hwhole := hwrite (wideMeeting t) wideRegion wideLoad 0 16 rfl hmode rfl hport hmark hwidth (wideMeeting_viewOff t) rfl (by decide)
  rw [nodeWrite_random (r := wideRegion) (l := wideLoad) rfl hmode rfl hport hmark hwidth (wideMeeting_viewOff t) rfl (by decide), if_pos rfl,
    wideMeeting_node] at hwhole
  refine Bool.eq_false_iff.mpr (fun hbefore => ?_)
  have hkept := writeWide_keeps_earlier (a := nodeBase (elNode (wideMeeting t).el.pos)) (off := 0) (i := 0) (by simp) (wideMeeting_wordWas t) hbefore 1
  have hread := Memory.read_writeN_inside 16 (wideMeeting t).mem (nodeBase (elNode (wideMeeting t).el.pos)) 1 0 (by decide)
  have hone : (wideNode t).wport.v0.toNat = 1 := rfl
  have hblank (a : Nat) : (wideMeeting t).mem.read a = 0 := rfl
  rw [hone, Nat.add_zero] at hwhole
  rw [← hwhole, Nat.add_zero, hkept, hblank] at hread
  exact absurd hread (by decide)

end Sys2Proof.Machine
